-- ==== Sys2Proof/Word.lean ====
section
/-! DEFINITION. The word types of the manual and the generic plain-data tables the state is made of.
Every multi-byte field of a structure is little-endian (R6); every register is 32 bits wide (R8). -/

namespace Sys2Proof

/-- One byte. -/
abbrev Byte := BitVec 8
/-- One register (R8). -/
abbrev Word := BitVec 32
/-- One 64-bit value, an LO and an HI register (R10). -/
abbrev Dword := BitVec 64

/-- A sparse table keyed by a number, keys strictly rising: a file of like things, of which only the ones that
differ from the default of their reader are listed. -/
abbrev Tbl (α : Type) := List (Nat × α)

end Sys2Proof
end

