-- ==== Sys2Proof/Syntax.lean ====
section
/-! DEFINITION. The commands of the block: one constructor per row of the opcode table, with the operands the row takes
from outside (an address, a value, data read from the host, a measured quantity). -/

namespace Sys2Proof

/-- The access paths of R15. -/
inductive Path where
  | pf0
  | vf (p : Fin 64)
  | hub
  | mgmt
  | debug
  deriving DecidableEq, Repr

/-- The path code of R15. -/
def Path.code : Path → Nat
  | .pf0 => 0
  | .vf p => p.val + 1
  | .hub => 65
  | .mgmt => 66
  | .debug => 67

/-- What a read of host memory returns: the bytes, or how it failed. -/
inductive HostRead where
  | ok (bytes : List Byte)
  | unsupported
  | abort
  | poisoned
  | timeout
  deriving DecidableEq, Repr

/-- The bytes of a read that succeeded. -/
def HostRead.bytes? : HostRead → Option (List Byte)
  | .ok b => some b
  | _ => none

/-- The memory windows of the module a request may name (R221) and the Lighthouse's (R826). -/
inductive Bar where
  | pf0Bar0
  | pf0Bar2
  | vfBar0 (p : Fin 64)
  | vfBar2 (p : Fin 64)
  | lhBar0
  | lhBar2
  deriving DecidableEq, Repr

/-- The four ring configuration registers of a queue page (R227). -/
inductive QueueCfg where
  | sqBase
  | sqCfg
  | rqBase
  | rqCfg
  deriving DecidableEq, Repr

/-- What resets PF0 (R226). -/
inductive Pf0Reset where
  | flr
  | hotReset
  | linkDown
  | d3hot
  deriving DecidableEq, Repr

/-- What the module's PCIe link trains at and configuration software then sets: generation, lanes, Max Payload Size and Max Read Request
Size in bytes (R218; log entry 98). -/
structure PcieLink where
  gen : Nat := 5
  lanes : Nat := 4
  maxPayload : Nat := 128
  maxRead : Nat := 512
  deriving DecidableEq, Repr

/-- What error correction reported while memory was read: the addresses of bursts or words corrected, and of those found
uncorrectable (R409, R503 to R506). -/
structure Ecc where
  corrected : List Nat := []
  bad : List Nat := []
  /-- controllers whose link ECC corrected an error while it was read -/
  link : List (Fin 12) := []
  /-- scratchpads a DMA read found single-bit errors in, with how many, and the words it found uncorrectable there (R409, R410) -/
  spad : List (Fin 8 × Nat) := []
  spadBad : List (Fin 8 × Nat) := []
  deriving DecidableEq, Repr

/-- The configuration registers of a port that R122 protects. -/
inductive ApCfg where
  | cfg
  | frame
  | floodMask
  | ebbMask
  | role
  deriving DecidableEq, Repr

/-- The tidemarks (R149 to R151, R261, R443). -/
inductive Mark where
  | apFlood (n : Fin 8)
  | apEbb (n : Fin 8)
  | dma (n : Fin 64)
  | pool
  | evq
  | iring (n : Fin 8)
  deriving DecidableEq, Repr

/-- The clock domains the monitor watches (R173, R176). -/
inductive ClockDomain where
  | core (n : Fin 4)
  | hub
  | state
  | mem
  | pcie
  | link (n : Fin 6)
  | aud (n : Fin 4)
  | time
  deriving DecidableEq, Repr

/-- A region creation that waits on a core (R407): the hot set of an entry, or the WORKING region of a partition. -/
inductive RegionWait where
  | hot (entry : Nat)
  | working (part : Nat)
  deriving DecidableEq, Repr

/-- What waits for zeroing (R437): a region on a core, a join, the frames or buffers of a partition. -/
inductive ZeroWait where
  | region (core : Fin 8) (w : RegionWait)
  | join (desc : Fin 4096)
  | part (p : Fin 64)
  deriving DecidableEq, Repr

/-- What has been zeroed: scratchpad units of a core, or pool granules. -/
inductive Zeroed where
  | units (core : Fin 8) (us : List Nat)
  | granules (gs : List Nat)
  deriving DecidableEq, Repr

/-- What a scrubber passes over (R409, R441, R507). -/
inductive ScrubArea where
  | spad (core : Fin 8)
  | pool
  | dram
  deriving DecidableEq, Repr

/-- Background work that reports lag: a scrub pass beyond its period, telemetry samples missed, flash blocks whose wear work is pending
(R262, R436, R507). -/
inductive LagArea where
  | scrub (area : ScrubArea)
  | telemetry
  | flashWear
  deriving DecidableEq, Repr

/-- What the checks of an engine's own stores and of its core's scratchpad reported while a record's operation ran (R300,
R301, R345, R391, R409, R410): single-bit errors corrected in the first and the second store its ECC register counts, the
cause code of an uncorrectable or parity error that faults, the row from which the ACTIVE tile is found in error with the
weights in error as (k, n), words corrected in the scratchpad, and offsets of words found uncorrectable there. -/
structure Upset where
  regCorr : Nat := 0
  storeCorr : Nat := 0
  fatal : Option Nat := none
  tile : Option (Nat × List (Nat × Nat)) := none
  spCorr : Nat := 0
  spBad : List Nat := []
  deriving DecidableEq, Repr
/-- What the swap engine moves: a section of a cohort's members, or a stream's whole allocation (R418, R422). -/
inductive SwapItem where
  | planned (cohort : Nat) (sect : Fin 32)
  | whole (desc : Fin 4096)
  deriving DecidableEq, Repr

/-- What the checkpoint engine reads: a section of a cohort's members, or a whole part (R428, R434). -/
inductive CkptItem where
  | planned (cohort : Nat) (sect : Fin 32)
  | part (desc : Fin 4096) (ebb : Bool)
  deriving DecidableEq, Repr

/-- What the header of a message received says, with the link it came by and the links it has taken (R597, R607). -/
structure MsgHead where
  src : Fin 16
  id : BitVec 32
  hops : Fin 8
  link : Fin 6
  /-- the partition on whose behalf it is sent, none for MODULE -/
  part : Option (Fin 64)
  deriving DecidableEq, Repr

/-- A flit received, as far as the link layer reads it (R597): whether its CRC is right, symbols corrected and codewords uncorrectable
in the codewords that carry it, and its fields. -/
structure Flit where
  crcOk : Bool
  corrected : Nat
  uncorrectable : Nat
  data : Bool
  seq : Fin 4096
  ack : Fin 4096
  credit : Fin 1024
  cvl : Fin 4
  cclass : Fin 8
  deriving DecidableEq, Repr

/-- The HELLO body (R618). -/
structure Hello where
  bay : Nat
  stage : Nat
  scope : Nat
  time : Nat
  uid : Nat
  epoch : Nat
  fw : List Byte
  link : Nat
  deriving DecidableEq, Repr

/-- What LINK_STATE says of one link: far bay, state code and lanes (R608). -/
structure LinkInfo where
  far : Nat
  state : Nat
  width : Nat
  deriving DecidableEq, Repr


/-- A burn of OTP that a loss of 54 V cut short, as the next start finds it (R682, R683, R715): a state bit with some of its three
copies burned, a counter reserve or a floor record without VALID, or a generation of the owner root key or the signing-key digest, either
without VALID, or with it and the previous generation not destroyed. `owner` is false for what belongs to the maker. -/
inductive TornBurn where
  | state (target : Fin 6) (copies : Fin 4)
  | reserve (owner : Bool)
  | floor (owner : Bool)
  | rootKey (valid : Bool) (content : List Byte)
  | signDigest (valid : Bool) (content : List Byte)
  deriving DecidableEq, Repr

/-- What the hardware does while the stages of a start run (R652): OTP integrity and the generator's health test hold, the hub
die is above the start limit or THERMTRIP_N is asserted, flash offsets that read uncorrectable, DRAM trains, the link transmitters
lock and pass their loopback, and the stage that does not end, if one does not; and, where 54 V has just come back, the burn that its
loss cut short, if one was under way. -/
structure StartEnv where
  torn : Option TornBurn
  otpGood : Bool
  hot : Bool
  badFlash : List Nat
  dram : Bool
  links : Bool
  stall : Option (Fin 8)
  deriving DecidableEq, Repr

/-- The faults the hardware itself detects, with the cause code of the unit's FAULT register (R782). -/
inductive HwFault where
  | me (core : Fin 8) (cause : Byte)
  | ve (core : Fin 8) (cause : Byte)
  | ru (core : Fin 8) (cause : Byte)
  | sp (core : Fin 8) (cause : Byte)
  | pool (cause : Byte)
  | dma (cause : Byte)
  | fabric (cause : Byte)
  | security (cause : Byte)
  /-- SLOT_PARITY of the memory controllers, which MC_FAULT lists -/
  | memorySlots
  | hubParity
  deriving DecidableEq, Repr

/-- How the built-in test of FAILSTOP_RELEASE ends (R789, R814). -/
inductive ReleaseTest where
  | pass
  | unitFails (unit : Byte)
  | newFault
  deriving DecidableEq, Repr

/-- What provisioning writes through SEC_OTP_PROG (R687). -/
inductive OtpItem where
  | uid (v : BitVec 64)
  | makerKey (bytes : List Byte)
  | makerDigest (bytes : List Byte)
  | burnMaker
  deriving DecidableEq, Repr

/-- What a module's STATUS_GET answers (R723). -/
structure BayStatus where
  boot : Word
  neap : Word
  fab : Word
  alert : Word
  last : Word
  sessions : Word
  time : Word
  epoch : BitVec 64
  power : BitVec 16
  image : Byte
  deriving DecidableEq, Repr

/-- What a module's HASH_GET answers for one slot (R723). -/
structure SlotHash where
  valid : Bool
  version : BitVec 64
  digest : List Byte
  deriving DecidableEq, Repr

/-- A slot of a bay with what its HASH_GET answers. -/
structure BayHash where
  bay : Fin 16
  slot : Fin 2
  hash : SlotHash
  deriving DecidableEq, Repr

/-- A bay with what its STATUS_GET answers. -/
structure BayReport where
  bay : Fin 16
  status : BayStatus
  deriving DecidableEq, Repr

/-- A Redfish request (R759): a read or a write of a property of a resource, implemented or not; a threshold of a point; network
settings, accounts or certificates. -/
inductive Redfish where
  | read (known : Bool)
  | property (known : Bool)
  | threshold (point : Fin 368) (low high : Option Int)
  | settings
  deriving DecidableEq, Repr
/-- The commands, in the order of the opcode table. -/
inductive Instr where
  /-- A register write on any access path that no row of its own covers is screened in the order of R865 and then applies the register's access code. (R865) -/
  | registerWrite (path : Path) (off : Nat) (be : BitVec 4) (v : Word)
  /-- A read of the LO half of a 64-bit value latches the HI half for that path, replacing any earlier latch. (R11) -/
  | loRead (path : Path) (off : Nat)
  /-- A read of the HI half returns and empties the path's latch, or returns the live HI value when the latch is empty. (R12) -/
  | hiRead (path : Path) (off : Nat)
  /-- A write of the LO half is staged for the path and does not take effect on its own. (R13) -/
  | loWrite (path : Path) (off : Nat) (be : BitVec 4) (v : Word)
  /-- A write of the HI half commits the staged LO (or the current LO) together with the written HI as one update. (R13) -/
  | hiWrite (path : Path) (off : Nat) (be : BitVec 4) (v : Word)
  /-- A read of an RC field returns its value and then clears it. (R9) -/
  | rcRead (path : Path) (off : Nat)
  /-- A multi-word memory request to a BAR is served as ascending 32-bit accesses, or is completed with Completer Abort when it exceeds 16 DW or crosses a 64-byte boundary. (R822) -/
  | barRequest (bar : Bar) (off : Nat) (words : Nat) (data : Option (List Word))
  /-- A write of SQ_TAIL sets the new tail, or is ignored when out of range or while EN = 0, and leads to a fetch read. (R229) -/
  | sqTailDoorbell (path : Path) (q : Fin 65) (v : Word)
  /-- A fetch read returns commands, which are counted as fetched and begin to take effect in ring order. (R230) -/
  | commandFetch (q : Fin 65) (r : HostRead)
  /-- A write of RQ_HEAD takes effect only within the span up to RQ_TAIL, and otherwise is ignored and sets DB_ERR. (R233) -/
  | rqHeadWrite (path : Path) (q : Fin 65) (v : Word)
  /-- Setting Q_CTRL.EN validates the ring configuration and partition, and starts fetching or sets CFG_ERR. (R227) -/
  | queueEnable (path : Path) (q : Fin 65)
  /-- Clearing Q_CTRL.EN stops fetching; fetched commands complete and IDLE then sets. (R236) -/
  | queueDisable (path : Path) (q : Fin 65)
  /-- Writing Q_CTRL.RESET discards unfetched commands, completes fetched ones with CMD_ABORTED and returns the pointers and phase to their start. (R236) -/
  | queueReset (path : Path) (q : Fin 65)
  /-- A write of a ring base or size while EN = 0 returns all four ring pointers to 0. (R227) -/
  | queueCfgWrite (path : Path) (q : Fin 65) (which : QueueCfg) (v : Dword)
  /-- A write of EVQ_CFG enables the event queue with a new pass, or sets CFG_ERR on a bad LOG2. (R253) -/
  | evqCfgWrite (path : Path) (v : Word)
  /-- A write of EVQ_HEAD frees room within the span up to EVQ_TAIL, letting the backlog drain, or sets HEAD_ERR. (R267) -/
  | evqHeadWrite (path : Path) (v : Word)
  /-- A W1C of EVQ_STATUS.LOST after the EVQ_LOST record releases ALERT_N. (R259) -/
  | evqLostClear (path : Path)
  /-- TIME_US elapsing since the earliest unsignalled record fires a moderated vector. (R252) -/
  | msixModerationTimer (fn : Fin 65) (vec : Fin 2)
  /-- Unmasking a vector with its PBA bit set fires it. (R252) -/
  | msixUnmask (fn : Fin 65) (vec : Fin 4)
  /-- A VF function-level reset resets the partition's queues, aborts its host-opened streams and stops its DMA channels. (R225) -/
  | vfFlr (p : Fin 64)
  /-- A PF0 FLR, hot reset, link-down or entry to D3hot acts as a VF FLR on every existing partition and resets the admin and event queues. (R226) -/
  | pf0Reset (kind : Pf0Reset) (link : PcieLink := {})
  /-- The 1,000 ms refusal of a key after 16 CMD_AUTH failures ends and normal checking resumes. (R247) -/
  | keyRefusalEnd (slot : Nat)
  /-- The NOP command does nothing, and with FENCE acts as a barrier. (R239) -/
  | nop (q : Fin 65)
  /-- STREAM_OPEN reads the parameter block, runs the checks of R88 and either takes the stream to ADMIT_WAIT or refuses it. (R242) -/
  | streamOpen (q : Fin 65) (d : HostRead)
  /-- STREAM_CLOSE with DRAIN processes every complete chunk and the padded final chunk and lets ebb play out before the stream leaves. (R96) -/
  | streamCloseDrain (q : Fin 65)
  /-- STREAM_CLOSE with ABORT makes the stream leave at the next step boundary with no further results. (R96) -/
  | streamCloseAbort (q : Fin 65)
  /-- STREAM_CHUNK checks the chunk number and length of a host-fed chunk and writes it into its slot through the command mover. (R463) -/
  | streamChunk (q : Fin 65)
  /-- A command's data block finishes arriving in module memory through the command mover, letting the command complete. (R463) -/
  | commandDataArrived (q : Fin 65) (cmdId : Nat) (d : HostRead)
  /-- EBB_INPUT hands a stream a block of tokens or text for synthesis, starting a new utterance when NEW_UTTERANCE is set. (R240) -/
  | ebbInput (q : Fin 65)
  /-- EBB_CANCEL discards a stream's EBB_INPUT blocks whose synthesis has not begun and ends the synthesis in progress at its current run. (R241) -/
  | ebbCancel (q : Fin 65)
  /-- STREAM_STANDING_RETRY opens a refused or returned standing stream again as STREAM_OPEN would. (R101) -/
  | streamStandingRetry (q : Fin 65)
  /-- SCHED_INSTALL verifies a schedule container and assigns it an identifier, or refuses it with CMD_VERIFY. (R568) -/
  | schedInstall (q : Fin 65) (d : HostRead)
  /-- SCHED_REMOVE removes an installed schedule unless a stream, run, job or standing record names it. (R567) -/
  | schedRemove (q : Fin 65)
  /-- TABLE_INSTALL of kind mapping block verifies every entry and then writes the translation tables and invalidates TLB entries. (R517) -/
  | tableInstallMapping (q : Fin 65) (d : HostRead)
  /-- TABLE_INSTALL of kind activation table verifies a table and copies it into an entry's RETAINED image. (R570) -/
  | tableInstallActivation (q : Fin 65) (d : HostRead)
  /-- MODEL_LOAD takes an entry, copies the host copy into the leaves, verifies every EXC page and sets the entry READY. (R577) -/
  | modelLoad (q : Fin 65) (d copy : HostRead) (ecc : Ecc := {})
  /-- MODEL_PIN pins an entry and makes its hot set resident on the cores of its mask. (R580) -/
  | modelPin (q : Fin 65)
  /-- MODEL_UNPIN clears an entry's pin. (R580) -/
  | modelUnpin (q : Fin 65)
  /-- JOB_SUBMIT checks a job block and queues a SHARED or EXCLUSIVE job, completing when the job ends. (R572) -/
  | jobSubmit (q : Fin 65) (d : HostRead)
  /-- JOB_CANCEL aborts a job's channels, lets its running command end and completes the job with CMD_ABORTED. (R575) -/
  | jobCancel (q : Fin 65)
  /-- PARTITION_SET checks and applies a new quota block to an ACTIVE partition. (R550) -/
  | partitionSet (d : HostRead)
  /-- CORE_MODE_SET stops placing work on a core, waits for its work to end and switches it between SHARED and EXCLUSIVE. (R555) -/
  | coreModeSet
  /-- PARTITION_CREATE checks a quota block, waits for clean frames, assigns channels and makes the partition ACTIVE. (R549) -/
  | partitionCreate (d : HostRead)
  /-- PARTITION_DESTROY aborts, drains and zeroes everything of a partition and returns it to ABSENT. (R551) -/
  | partitionDestroy (d : HostRead)
  /-- KEY_INSTALL opens a wrapped key block after the critical checks and installs an owner root key, signing digest or partition key. (R702) -/
  | keyInstall (q : Fin 65) (d : HostRead)
  /-- LIFECYCLE_STEP burns the next life-cycle state after its checks and preconditions. (R686) -/
  | lifecycleStep (q : Fin 65) (d : HostRead)
  /-- IMAGE_UPDATE reads, checks, erases, programs and verifies an image slot so that a power loss leaves a startable image. (R671) -/
  | imageUpdate (q : Fin 65) (d image again : HostRead) (flashOk : Bool)
  /-- FAULT_POLICY_SET makes a fault-scope change pending for a given effect time. (R791) -/
  | faultPolicySet (q : Fin 65) (d : HostRead)
  /-- FAILSTOP_RELEASE tests, zeroes and rebuilds a fail-stopped module and returns it to service when R788 allows. (R789) -/
  | failstopRelease (q : Fin 65) (d : HostRead) (test : ReleaseTest) (hot : Bool)
  /-- STREAM_TRANSFER checks a stream and target bay and sends XFER_OFFER to start a planned lease transfer. (R626) -/
  | streamTransfer (q : Fin 65) (standbyOk : Bool)
  /-- The sequencer opens a loop that repeats the records up to its SQ_ENDLOOP COUNT times. (R565) -/
  | sqLoop (core : Fin 8)
  /-- The sequencer ends an iteration of the innermost loop, repeating or leaving it. (R565) -/
  | sqEndloop (core : Fin 8)
  /-- The sequencer waits until every earlier operation of the program has completed. (R565) -/
  | sqBarrier (core : Fin 8)
  /-- The sequencer waits until every program of the command reaches an SQ_PEER with the same ID. (R565) -/
  | sqPeer (core : Fin 8)
  /-- The sequencer ends the program. (R565) -/
  | sqEnd (core : Fin 8)
  /-- A command ends when every program has ended and every operation has completed, releasing its core and writing its results. (R565) -/
  | commandEnd (core : Fin 8) (last : List Nat)
  /-- The sequencer places a descriptor on a partition channel's queue, holding while the queue is full. (R467) -/
  | dmaSubmit (core : Fin 8)
  /-- The sequencer waits until the channel has ended COUNT descriptors of this command. (R467) -/
  | dmaWait (core : Fin 8)
  /-- The matrix engine loads a tile image into SHADOW. (R281) -/
  | meLoad (core : Fin 8) (u : Upset)
  /-- An ME_LOAD completes, setting SHADOW_VALID and releasing a waiting swap. (R295) -/
  | meLoadDone (core : Fin 8)
  /-- The matrix engine optionally swaps tiles and streams M rows against ACTIVE into the accumulator and DEST. (R282) -/
  | meStream (core : Fin 8) (u : Upset)
  /-- The matrix engine sends accumulator rows unchanged to DEST. (R281) -/
  | meDrain (core : Fin 8) (u : Upset)
  /-- The matrix engine writes +0 into accumulator rows. (R281) -/
  | meClear (core : Fin 8) (u : Upset)
  /-- The vector engine passes every element of an operation through the eight-stage chain. (R313) -/
  | veChain (core : Fin 8) (u : Upset)
  /-- The vector engine applies an element program to every element of an operation. (R318) -/
  | veEprog (core : Fin 8) (u : Upset)
  /-- The vector engine loads its channel's BROW and BCOL broadcast buffers. (R311) -/
  | veBcast (core : Fin 8) (u : Upset)
  /-- The vector engine copies a verified activation table into a table slot. (R323) -/
  | veTload (core : Fin 8) (u : Upset)
  /-- The vector engine sets the SP channel's VLEN and resets BEAT after earlier operations complete. (R307) -/
  | veSetvl (core : Fin 8) (u : Upset)
  /-- The vector engine waits until every earlier operation on the named channel has completed. (R341) -/
  | veSync (core : Fin 8)
  /-- Register-mode NOP does nothing. (R321) -/
  | veNop (core : Fin 8) (u : Upset)
  /-- Register-mode MOV copies A to D. (R321) -/
  | mov (core : Fin 8) (u : Upset)
  /-- Register-mode ADD writes A + B to D. (R321) -/
  | add (core : Fin 8) (u : Upset)
  /-- Register-mode SUB writes A − B to D. (R321) -/
  | sub (core : Fin 8) (u : Upset)
  /-- Register-mode MUL writes A × B to D. (R321) -/
  | mul (core : Fin 8) (u : Upset)
  /-- Register-mode FMA writes A × B + C, rounded once, to D. (R321) -/
  | fma (core : Fin 8) (u : Upset)
  /-- Register-mode DIV writes A / B, correctly rounded, to D. (R321) -/
  | div (core : Fin 8) (u : Upset)
  /-- Register-mode SQRT writes the square root of A to D. (R321) -/
  | sqrt (core : Fin 8) (u : Upset)
  /-- Register-mode MIN writes min(A, B) to D. (R321) -/
  | min (core : Fin 8) (u : Upset)
  /-- Register-mode MAX writes max(A, B) to D. (R321) -/
  | max (core : Fin 8) (u : Upset)
  /-- Register-mode ABS clears the sign bit of A into D. (R321) -/
  | abs (core : Fin 8) (u : Upset)
  /-- Register-mode NEG flips the sign bit of A into D. (R321) -/
  | neg (core : Fin 8) (u : Upset)
  /-- Register-mode ACT applies an activation table to A into D. (R324) -/
  | act (core : Fin 8) (u : Upset)
  /-- Register-mode CMP writes a condition of A and B into a predicate register. (R322) -/
  | cmp (core : Fin 8) (u : Upset)
  /-- Register-mode SEL selects A or B by a predicate into D. (R321) -/
  | sel (core : Fin 8) (u : Upset)
  /-- Register-mode RINT rounds A to an integer value into D. (R321) -/
  | rint (core : Fin 8) (u : Upset)
  /-- Register-mode CVTI converts A's bits as INT32 to FP32 into D. (R321) -/
  | cvti (core : Fin 8) (u : Upset)
  /-- Register-mode CVTF converts A to a saturated INT32 into D. (R321) -/
  | cvtf (core : Fin 8) (u : Upset)
  /-- Register-mode RND rounds A to a narrower format and holds it as FP32 in D. (R321) -/
  | rnd (core : Fin 8) (u : Upset)
  /-- Register-mode PAND ANDs two predicate registers. (R321) -/
  | pand (core : Fin 8) (u : Upset)
  /-- Register-mode POR ORs two predicate registers. (R321) -/
  | por (core : Fin 8) (u : Upset)
  /-- Register-mode PXOR XORs two predicate registers. (R321) -/
  | pxor (core : Fin 8) (u : Upset)
  /-- Register-mode PNOT inverts a predicate register. (R321) -/
  | pnot (core : Fin 8) (u : Upset)
  /-- Register-mode PSET sets a predicate register to a constant. (R321) -/
  | pset (core : Fin 8) (u : Upset)
  /-- Register-mode VLD loads the current beat of a row into a vector register. (R317) -/
  | vld (core : Fin 8) (u : Upset)
  /-- Register-mode VST stores a vector register to the current beat of a row. (R317) -/
  | vst (core : Fin 8) (u : Upset)
  /-- Register-mode VBROW copies a BROW line into a vector register. (R317) -/
  | vbrow (core : Fin 8) (u : Upset)
  /-- Register-mode VBCOL broadcasts a BCOL value into every lane. (R317) -/
  | vbcol (core : Fin 8) (u : Upset)
  /-- Register-mode VIDX writes each lane's element index. (R321) -/
  | vidx (core : Fin 8) (u : Upset)
  /-- Register-mode RSUM writes the exact sum of A's active lanes to every lane. (R321) -/
  | rsum (core : Fin 8) (u : Upset)
  /-- Register-mode RMAX writes the maximum of A's active lanes to every lane. (R321) -/
  | rmax (core : Fin 8) (u : Upset)
  /-- Register-mode RMIN writes the minimum of A's active lanes to every lane. (R321) -/
  | rmin (core : Fin 8) (u : Upset)
  /-- The recurrence unit loads members' carried state from the tide pool into the state buffer. (R355) -/
  | ruSload (core : Fin 8) (u : Upset)
  /-- The recurrence unit rounds state to PREC and stores it to the tide pool. (R356) -/
  | ruSstore (core : Fin 8) (u : Upset)
  /-- The gate pipeline computes LSTM or GRU cells over rows from the matrix engine. (R360) -/
  | ruGate (core : Fin 8) (u : Upset)
  /-- The scan unit runs a linear recurrence over T positions per member. (R364) -/
  | ruScan (core : Fin 8) (u : Upset)
  /-- The Toeplitz generator builds one tile image from a convolution kernel. (R366) -/
  | ruToep (core : Fin 8) (u : Upset)
  /-- RU_RING GATHER copies the last CAP units of each ring to DST and, with HOLD, sets HELD. (R369) -/
  | ruRingGather (core : Fin 8) (u : Upset)
  /-- RU_RING APPEND writes units into each valid member's ring and advances S. (R370) -/
  | ruRingAppend (core : Fin 8) (u : Upset)
  /-- The recurrence unit copies a verified table into a table slot. (R351) -/
  | ruTload (core : Fin 8) (u : Upset)
  /-- The recurrence unit waits for every earlier operation in every group. (R382) -/
  | ruSync (core : Fin 8)
  /-- A COPY descriptor is checked and moves bytes in its pattern, in descending order for an upward pure translation. (R459) -/
  | copy (c : Fin 64) (fetch ext : HostRead) (bursts : Nat) (ecc : Ecc)
  /-- A FILL descriptor writes its four-byte pattern over the destination. (R454) -/
  | fill (c : Fin 64) (fetch : HostRead) (bursts : Nat) (ecc : Ecc := {})
  /-- A MEMBER_IN descriptor copies each member's chunk slot into scratchpad and frees the slots. (R464) -/
  | memberIn (c : Fin 64) (ecc : Ecc) (fetch : HostRead := .ok [])
  /-- A MEMBER_OUT descriptor writes each valid member's ebb chunk into its port ebb lane. (R465) -/
  | memberOut (c : Fin 64) (ecc : Ecc := {}) (fetch : HostRead := .ok []) (ext : HostRead := .ok [])
  /-- A write of a module channel's TAIL sets the ring tail and starts descriptor fetches while EN = 1. (R466) -/
  | dmaTailDoorbell (path : Path) (c : Fin 64) (v : Word)
  /-- Setting a module channel's EN validates its ring and starts fetching, or sets CFG_ERR. (R466) -/
  | dmaChEnable (path : Path) (c : Fin 64)
  /-- A descriptor ends, writing its completion record when requested and incrementing DONE, and on error stops the channel. (R474) -/
  | dmaDescEnd (c : Fin 64) (ext : HostRead) (ecc : Ecc)
  /-- ABORT on a channel stops further reads at the next burst boundary and ends the descriptor with its residue. (R477) -/
  | dmaAbort (path : Path) (c : Fin 64)
  /-- A channel's issued writes have all arrived and it becomes drained, releasing waiting zeroing or reassignment. (R478) -/
  | dmaDrained (c : Fin 64)
  /-- A TLB miss walk through the four table levels completes and fills the TLB. (R519) -/
  | translationWalk (c : Fin 64) (va : BitVec 48) (write : Bool) (ecc : Ecc)
  /-- At a run's reserved start the dispatcher checks leases and checkpoints, writes the member table and starts the schedule. (R76) -/
  | runDispatch (cohort : Nat)
  /-- The dispatcher starts ELASTIC, catch-up, BULK or SHARED job work in an unreserved gap that holds its window. (R557) -/
  | unreservedDispatch (core : Fin 8)
  /-- The earliest waiting EXCLUSIVE job takes its cores once enough are idle. (R573) -/
  | exclusiveJobStart
  /-- At each plan cycle start every partition's per-core budget refills to BUDGET. (R558) -/
  | budgetRefill
  /-- The swap engine starts a planned section fetch or a prefetch at its placed time. (R418) -/
  | sectionFetchStart (t : SwapItem)
  /-- A section or whole allocation becomes resident, letting members go to RUNNING. (R420) -/
  | swapInDone (t : SwapItem) (ecc : Ecc)
  /-- At a section's USE_UNTIL its write-back and, when due, its checkpoint read begin. (R418) -/
  | sectionRelease (cohort : Nat) (sect : Fin 32)
  /-- A section's write-back to the swap area ends, freeing its granules once any checkpoint read has also ended. (R425) -/
  | sectionWritebackDone (cohort : Nat) (sect : Fin 32)
  /-- A section's checkpoint read ends; the bytes are sent and the header follows the last section. (R428) -/
  | ckptReadDone (t : CkptItem) (ecc : Ecc)
  /-- When the free share falls below SWAP_LOW the swap engine evicts IDLE streams until SWAP_HIGH. (R426) -/
  | swapEvict
  /-- A swap-out ends and its granules are zeroed and returned to the free share. (R416) -/
  | swapOutDone (desc : Fin 4096)
  /-- A planned section transfer not complete by its planned time is an execution fault. (R421) -/
  | planMiss (cohort : Nat) (sect : Fin 32)
  /-- Zeroing of scratchpad units or pool granules completes, letting waiting regions, joins or owners proceed. (R406) -/
  | zeroingDone (z : Zeroed)
  /-- A wait for zeroing passing 1 ms is recorded. (R437) -/
  | zeroLag (w : ZeroWait)
  /-- The scrubber starts a pass over scratchpad, pool or DRAM, correcting errors and handling uncorrectable ones by location. (R409) -/
  | scrubPass (area : ScrubArea) (ecc : Ecc)
  /-- A scrub pass running beyond its period is recorded. (R436) -/
  | scrubLag (area : LagArea) (n : BitVec 32)
  /-- Zero-fill of a DIRTY DRAM frame completes and its bit clears. (R508) -/
  | frameZeroDone (frame : Nat)
  /-- A hot set finishes loading into a RETAINED region and work that needs it may start. (R579) -/
  | hotSetLoaded (core : Fin 8) (entry : Fin 64)
  /-- After an uncorrectable weight error the damaged part of an entry is rewritten and the entry returns to READY or becomes BROKEN. (R583) -/
  | modelReload (e : Fin 64) (copy : HostRead)
  /-- A BROKEN entry retries its reload every 1,000 ms. (R583) -/
  | modelReloadRetry (e : Fin 64) (copy : HostRead)
  /-- Every 16 ms each controller reads device refresh demand and warns or trips. (R502) -/
  | refreshStatusPoll (c : Fin 12) (rate : Fin 3) (temp : Byte)
  /-- Setting a port's EN validates its configuration and starts it, or refuses with CFG_ERR. (R123) -/
  | apEnable (path : Path) (n : Fin 8) (v : Word)
  /-- Clearing a port's EN stops it, unless a stream is bound, and discards any pending commit. (R124) -/
  | apDisable (path : Path) (n : Fin 8) (v : Word)
  /-- A write of a port configuration register takes effect only while EN = 0. (R122) -/
  | apCfgWrite (path : Path) (n : Fin 8) (which : ApCfg) (v : Word)
  /-- After 1 ms of observation a MASTER port drives its clocks or runs as LISTEN if it saw activity. (R121) -/
  | apMasterCheckEnd (n : Fin 8) (active : Bool)
  /-- Before a frame the port fetches ebb record k and zeroes its lanes. (R135) -/
  | apEbbFetch (n : Fin 8) (ecc : Ecc)
  /-- At a frame's FS assertion ebb samples are driven and the reference record is written. (R137) -/
  | apFrameBegin (n : Fin 8)
  /-- At the end of a frame the flood record lands in the flood ring and voice activity is decided. (R134) -/
  | apFloodLand (n : Fin 8) (samples : List Word)
  /-- The detector lowers a flag after its condition has been false for HANG_MS. (R138) -/
  | vadFlagLower (n : Fin 8) (slot : Fin 32)
  /-- The port mover copies a completed chunk from the port rings into the stream's free slot. (R462) -/
  | portChunkCopy (desc : Fin 4096) (ecc : Ecc)
  /-- A committed RING_BASE_NEXT is checked and applied at once or made pending for a commit boundary. (R143) -/
  | apRingBaseNextWrite (path : Path) (n : Fin 8) (v : Dword)
  /-- At its commit boundary a new ring base takes effect and is recorded. (R146) -/
  | apRingCommit (n : Fin 8)
  /-- Once the old block is consumed it is zeroed and OLD_RING_BUSY clears. (R147) -/
  | apOldRingRelease (n : Fin 8)
  /-- A SLAVE or LISTEN port declares frame-sync loss on a missing FS or two wrong-length frames. (R153) -/
  | apSyncLoss (n : Fin 8)
  /-- During loss the port makes a virtual frame at the nominal rate and advances its index. (R154) -/
  | apVirtualFrame (n : Fin 8)
  /-- After 8 correct frames the port regains lock without repeating indices. (R155) -/
  | apSyncRestore (n : Fin 8)
  /-- A LISTEN port holding a lease after 4 periods of loss becomes master and is recorded. (R161) -/
  | apTakeover (n : Fin 8)
  /-- At a commit boundary a port inserts or drops whole frames as decided and records the slip. (R205) -/
  | apSlip (n : Fin 8)
  /-- A W1C of STICKY re-arms a tidemark and clears COUNT. (R151) -/
  | tidemarkRearm (path : Path) (mark : Mark)
  /-- A write of THRESH or DIR may place the level on the alarm side and count as a crossing. (R149) -/
  | tidemarkCfgWrite (path : Path) (mark : Mark) (v : Word)
  /-- At each TRAY_TICK edge the module measures its offset, classes its time, latches port pairs, runs loops and processes the step boundary. (R184) -/
  | trayTick (ref : Bool)
  /-- A time value message is received and checked, supplying the next tick's announced time. (R179) -/
  | timeMsg (line : Option (List Byte))
  /-- After 16 consecutive bad messages the module enters ALARM. (R187) -/
  | timeMsgErrorLimit
  /-- No TRAY_TICK within 1.1 ms is counted and the module makes the tick itself. (R188) -/
  | tickMiss
  /-- After 100 consecutive missing ticks the module enters UNTRUSTED. (R188) -/
  | tickMissLimit
  /-- After 100 consecutive ticks within 1 µs ALARM returns to TRUSTED and is recorded. (R185) -/
  | timeAlarmClear
  /-- After 1,000 consecutive ticks within 1 µs the module regains TRUSTED and records it. (R185) -/
  | timeTrusted
  /-- The clock monitor flags a stopped or off-frequency domain clock, with a consequence by domain. (R176) -/
  | clockMonitorFlag (d : ClockDomain)
  /-- A TIME reference absent for 200 ms puts the module in UNTRUSTED. (R189) -/
  | holdoverExpiry
  /-- A write of ACS_CTRL takes effect only while the synthesizer and its ports are disabled. (R194) -/
  | acsCtrlWrite (path : Path) (n : Fin 4) (v : Word)
  /-- Setting a synthesizer's EN validates it and starts FIXED TRACK or RING ACQUIRE. (R195) -/
  | acsEnable (path : Path) (n : Fin 4) (v : Word)
  /-- After 100 ticks of measurement the synthesizer sets its pull, re-anchors its ports and enters TRACK. (R201) -/
  | acsAcquireEnd (n : Fin 4)
  /-- A failed lock or flagged AUD clock puts the synthesizer in FAILED and its master ports into sync loss. (R209) -/
  | acsFailed (n : Fin 4)
  /-- A FAILED synthesizer tries to relock every 100 ms and resumes on success. (R210) -/
  | acsRelock (n : Fin 4)
  /-- A join still failing at the first boundary after SLACK is refused with ADMIT_NO_GRANULES. (R94) -/
  | admitSlackExpiry (desc : Fin 4096)
  /-- A link begins training, and retrains every 100 ms while its far end is absent. (R595) -/
  | linkTrainStart (link : Fin 6) (signal : Bool)
  /-- Training completes with credits exchanged and the link comes up at the width of R596. (R595) -/
  | linkUp (link : Fin 6) (tx : Byte) (rx : Byte) (credits : List Nat)
  /-- A link with a present far end that has not trained within 50 ms goes DOWN with TRAIN_TIMEOUT. (R595) -/
  | linkTrainTimeout (link : Fin 6)
  /-- A lane losing lock or exceeding its error rate makes the link retrain to four lanes. (R605) -/
  | laneFail (link : Fin 6) (lane : Fin 8)
  /-- A flit is received, acknowledged and credited, or discarded with a NAK on a CRC or sequence error. (R602) -/
  | flitReceive (link : Fin 6) (f : Flit)
  /-- A received NAK makes the transmitter replay every unacknowledged flit. (R603) -/
  | linkNakReceive (link : Fin 6) (ack : Fin 4096)
  /-- After 8 consecutive NAKs without progress the link retrains, keeping its replay buffer. (R604) -/
  | linkRetrainLimit (link : Fin 6)
  /-- A retrain not up within 50 ms leaves the link DOWN with RETRY_LIMIT. (R604) -/
  | linkRetrainTimeout (link : Fin 6)
  /-- Writing LINK_CTRL.RETRAIN retrains a link, allowing it to return to eight lanes. (R606) -/
  | linkRetrain (path : Path) (link : Fin 6) (v : Word)
  /-- Writing LINK_CTRL.DISABLE holds a link DOWN with cause DISABLED. (R606) -/
  | linkDisable (path : Path) (link : Fin 6) (v : Word)
  /-- A HELLO from the far end is compared for bay, epoch, firmware set and scope, and the link may be HELD. (R618) -/
  | hello (link : Fin 6) (h : Hello)
  /-- A LINK_STATE broadcast updates the link-state table and routes, and a regained route triggers LEASE broadcasts. (R609) -/
  | linkState (m : MsgHead) (stage : Fin 5) (links : List LinkInfo)
  /-- Every 100 ms the module broadcasts LINK_STATE. (R609) -/
  | linkStatePeriodic
  /-- A FAILSTOP message from a bay makes the module declare that bay lost. (R620) -/
  | failstop (m : MsgHead) (cause : BitVec 16)
  /-- A bay not LEAVING with no route for 60 ms is declared lost, and under scope TRAY the tray fails. (R620) -/
  | peerRouteTimeout (bay : Fin 16)
  /-- A LEASE message updates the lease table and makes a holder with a lower epoch drop its copy. (R866) -/
  | lease (m : MsgHead) (handle : Word) (epoch : Word) (bay : Fin 16) (released : Bool)
  /-- A received transfer offer is admitted as a join at the next step boundary, answered with accept or refuse. (R627) -/
  | xferOffer (m : MsgHead) (handle : Word) (epoch : Word) (params : List Byte) (digests : List (List Byte)) (last : BitVec 64)
  /-- A transfer join short of granules for 100 ms is refused with ADMIT_NO_GRANULES. (R627) -/
  | xferOfferTimeout (handle : Word)
  /-- A received acceptance takes the source stream to MIGRATING and starts waiting for ebb to go idle. (R628) -/
  | xferAccept (m : MsgHead) (handle : Word) (bf : Word) (be : Word)
  /-- A migrating stream's ebb becomes idle; the source fixes H and sends the ebb record. (R628) -/
  | ebbIdle (desc : Fin 4096)
  /-- Ebb not idle within 10 s makes the source abandon the transfer. (R628) -/
  | xferEbbTimeout (desc : Fin 4096)
  /-- A received refusal returns the source stream to IDLE or completes STREAM_TRANSFER refused. (R630) -/
  | xferRefuse (m : MsgHead) (handle : Word) (reason : Byte)
  /-- A received abort makes an uncommitted target discard the transfer, or a committed one broadcast LEASE again. (R630) -/
  | xferAbort (m : MsgHead) (handle : Word)
  /-- No LEASE 500 ms after the last record makes the source send XFER_ABORT. (R630) -/
  | xferLeaseTimeout (desc : Fin 4096)
  /-- No reply 500 ms after XFER_ABORT returns the stream to IDLE and completes STREAM_TRANSFER with CMD_STATE. (R630) -/
  | xferReplyTimeout (desc : Fin 4096)
  /-- A received checkpoint record is written to the non-standing slot with the header last and acknowledged, and a transfer or remap commits when its records stand. (R430) -/
  | ckptData (m : MsgHead) (transfer : Bool) (remap : Bool) (record : List Byte)
  /-- A received acknowledgement makes the record stand at the target, opening the gate of R431. (R624) -/
  | ckptAck (m : MsgHead) (handle : Word) (ebb : Bool) (seq : BitVec 64)
  /-- A received CKPT_FREE frees and zeroes a stream's checkpoint slots. (R625) -/
  | ckptFree (m : MsgHead) (handle : Word)
  /-- A buddy qualifying for 10 s becomes the checkpoint target again. (R622) -/
  | buddyRequalified
  /-- A received STANDBY_SYNC aligns a LISTEN port's index and carries the home module's time state. (R634) -/
  | standbySync (m : MsgHead) (port : Fin 8) (idx : BitVec 64) (time : BitVec 64) (state : Fin 4)
  /-- No STANDBY_SYNC for 10 ticks clears ALIGNED. (R634) -/
  | standbySyncTimeout (port : Fin 8)
  /-- A received slip decision is applied by the LISTEN port at the same boundary. (R208) -/
  | slip (m : MsgHead) (port : Fin 8) (kb : BitVec 64) (drop : Bool) (frames : Fin 65)
  /-- A received TRAY_FAILED under scope TRAY stops dispatch, aborts every stream and holds outputs high-impedance. (R633) -/
  | trayFailed (m : MsgHead) (bay : Fin 16)
  /-- A received peer WRITE is checked against partition or module ranges, expanded when FRL, written and acknowledged. (R613) -/
  | write (m : MsgHead) (addr : BitVec 64) (fmt : Fin 3) (data : List Byte)
  /-- A received WRITE_ACK marks a peer write arrived or ends the descriptor on DENIED. (R612) -/
  | writeAck (m : MsgHead) (id : Word) (denied : Bool)
  /-- A received peer read request is checked and answered with READ_DATA. (R613) -/
  | readReq (m : MsgHead) (addr : BitVec 64) (len : Nat) (ecc : Ecc)
  /-- Received read data is delivered to the requesting descriptor. (R612) -/
  | readData (m : MsgHead) (id : Word) (denied : Bool) (data : List Byte)
  /-- A message of an unknown type is discarded and counted. (R608) -/
  | messageDiscard (link : Fin 6)
  /-- 20 ms after a loss the holder of standing records remaps each remaining stream to itself or its standby. (R631) -/
  | remapWaitEnd (bay : Fin 16)
  /-- No tray record from the Lighthouse within 10 s makes the module take it from a peer. (R615) -/
  | trayRecordTimeout
  /-- At the effect time a pending fault scope comes into force and HELLO is sent. (R791) -/
  | scopeChange
  /-- A scope difference between READY ends lasting 10 ms holds the link. (R792) -/
  | scopeMismatchHold (link : Fin 6)
  /-- A management REG_READ returns registers as read on the Lighthouse path. (R723) -/
  | regRead (tag : Byte) (off len : Nat)
  /-- A management REG_WRITE is accepted only at HUB_BOOT_CTRL and otherwise refused. (R724) -/
  | regWrite (tag : Byte) (off : Nat) (v : Word)
  /-- A management STATUS_GET returns the module's status summary. (R723) -/
  | statusGet (tag : Byte)
  /-- A management HASH_GET returns a slot's validity, version and digest. (R744) -/
  | hashGet (tag : Byte) (slot : Byte)
  /-- REFLASH_BEGIN starts a Lighthouse re-flash of a slot under the steps of R671, or answers BUSY. (R746) -/
  | reflashBegin (bay : Fin 16) (answer : Fin 6)
  /-- REFLASH_DATA delivers image bytes for a re-flash pass. (R746) -/
  | reflashData (bay : Fin 16) (len : Nat) (flashOk : Bool) (answer : Fin 6)
  /-- No REFLASH_DATA for 5 s makes the hub die abandon the write as a failure. (R746) -/
  | reflashAbandon
  /-- A module's RECORD_GET returns the tray record or NOT_FOUND. (R741) -/
  | recordGet (bay : Fin 16)
  /-- A module's STORE_READ returns a byte range of a stored model body. (R748) -/
  | storeRead (bay : Fin 16) (off : Nat) (digest : List Byte) (len : Nat)
  /-- A management frame unanswered for 100 ms is resent, and after three attempts the far end is unreachable. (R724) -/
  | mgmtRetryTimeout (fromLh : Bool) (bay : Fin 16) (op : Byte)
  /-- 54 V reaching the bay resets the always-on domain and starts the module at stage 1. (R660) -/
  | bayPowerApplied (bay : Fin 16) (env : StartEnv)
  /-- A restart resets all but the always-on state and PCIe, then runs the start stages. (R658) -/
  | moduleRestart (env : StartEnv)
  /-- A start stage exceeding its limit fails the start. (R652) -/
  | startStageTimeout
  /-- A start exceeding 300 s fails with NEAP_WATCHDOG. (R652) -/
  | startLimitTimeout
  /-- When its conditions hold the module locks RWL fields, asserts READY and records MODULE_READY. (R656) -/
  | moduleReady (bodies : List (List Byte))
  /-- SETTLE_MS elapsing after stage 6 forces Ready if models are READY, or fails the start. (R655) -/
  | settleTimeout
  /-- 600 s in Ready without fail-stop clears COUNT and skip flags and may advance the rollback floor. (R661) -/
  | bootStable
  /-- Writing HUB_BOOT_CTRL.RESTART restarts a module in Neap mode, QUARANTINE, TRAY_FAILED or fail-stop. (R659) -/
  | hubBootRestart (path : Path) (clear : Bool)
  /-- Writing HUB_BOOT_CTRL.CLEAR clears COUNT and both skip flags. (R661) -/
  | hubBootClear (path : Path)
  /-- The firmware watchdog expiring fails the start before Ready or fail-stops the module after it. (R786) -/
  | fwWatchdogExpiry
  /-- A written debug response is checked, a new challenge is drawn, and a correct one opens a session. (R695) -/
  | debugResponse (jtag : Bool) (v : Word)
  /-- In RAW the provisioning interface writes UID and maker secrets and burns MAKER. (R687) -/
  | secOtpProg (item : OtpItem)
  /-- A read of SEC_RNG returns 32 fresh DRBG bits. (R706) -/
  | secRngRead (path : Path)
  /-- The DRBG reseeds from the entropy source at least every 2^20 requests. (R706) -/
  | drbgReseed
  /-- A fault halts all work, tri-states outputs, sends FAILSTOP, latches the cause and aborts queues. (R784) -/
  | failStop (f : HwFault)
  /-- A counted fail-stop older than 86,400 s leaves COUNT_24H. (R790) -/
  | failstopAgeOut
  /-- Writing ERR_SVC_CTRL.LEAVE takes an empty Ready module to LEAVING, and RELEASED sets once no records are held. (R798) -/
  | leave (path : Path)
  /-- A sensor passing its warn point is recorded and throttleable work is withheld. (R839) -/
  | thermalWarn (sensor : Byte) (temp : BitVec 16)
  /-- A sensor reaching its trip point asserts THERMTRIP_N and fail-stops the module. (R839) -/
  | thermalTrip (sensor : Byte)
  /-- Every 100 µs the module averages its power and starts or ends withholding throttleable work. (R836) -/
  | powerEvaluation (avg : BitVec 16)
  /-- An input dip longer or deeper than the ride-through removes module power. (R834) -/
  | busbarDip
  /-- The Lighthouse NOP command does nothing. (R751) -/
  | lhNop (d : HostRead)
  /-- LH_VERIFY hashes the named bays' slots and classes them. (R744) -/
  | lhVerify (d : HostRead) (hashes : List BayHash)
  /-- LH_BAY_POWER OFF opens the named bays' switches, refusing Ready bays without FORCE. (R740) -/
  | lhBayPowerOff (d : HostRead) (ready : BitVec 16)
  /-- LH_BAY_POWER ON closes the named bays' switches when R739 allows. (R739) -/
  | lhBayPowerOn (d : HostRead)
  /-- LH_BAY_POWER CYCLE powers the named bays off for 2 s and then on. (R751) -/
  | lhBayPowerCycle (d : HostRead) (ready : BitVec 16)
  /-- LH_MODULE_RESTART writes HUB_BOOT_CTRL on the named bays. (R751) -/
  | lhModuleRestart (d : HostRead) (barred : BitVec 16)
  /-- LH_REFLASH re-flashes a named bay's slot with the golden image. (R751) -/
  | lhReflash (d : HostRead)
  /-- LH_SHUTDOWN opens every bay switch after the grace and clears AUTO_POWER. (R751) -/
  | lhShutdown (d : HostRead)
  /-- LH_RECORD_SET checks and sets the tray record. (R742) -/
  | lhRecordSet (d : HostRead)
  /-- LH_STORE_WRITE of kind GOLDEN checks and stores a golden image, moving CURRENT to PREVIOUS. (R743) -/
  | lhStoreWriteGolden (d content : HostRead)
  /-- LH_STORE_WRITE of kind MODEL checks and indexes a model body. (R748) -/
  | lhStoreWriteModel (d content : HostRead)
  /-- LH_STORE_WRITE of kind LIGHTHOUSE_FW writes the Lighthouse firmware slot not in use. (R752) -/
  | lhStoreWriteFw (d content : HostRead)
  /-- LH_STORE_WRITE of kind MODEL_DELETE deletes a stored body unless the golden image names it. (R752) -/
  | modelDelete (d : HostRead)
  /-- LH_POLICY_SET replaces the Lighthouse policy block. (R753) -/
  | lhPolicySet (d : HostRead)
  /-- LH_KEY_INSTALL installs or rotates the host or rack key of the Lighthouse. (R750) -/
  | lhKeyInstall (d : HostRead)
  /-- A write of LH_HOST_PING shows the host is not silent. (R755) -/
  | lhHostPing (v : Word)
  /-- A Lighthouse function-level reset resets its mailbox and event queue only. (R721) -/
  | lhFlr
  /-- The Lighthouse starts, adopts every latch, records LH_STARTED and rebuilds its bay state. (R737) -/
  | lhStart (reports : List BayReport) (hashes : List BayHash)
  /-- The backplane watchdog unstrobed for 2 s drives pumps and fans to 100 % and sets LH_DOWN. (R736) -/
  | lhWatchdogExpiry
  /-- The Lighthouse samples a monitored point and enters or leaves alarm. (R731) -/
  | pointSample (point : Fin 368) (value : BitVec 16)
  /-- Each whole millisecond the Lighthouse computes P_1ms for each bay and the tray. (R732) -/
  | powerSample1ms (samples : List (List (BitVec 16)))
  /-- Each whole second the Lighthouse computes the 1 s and 60 s averages and peaks. (R732) -/
  | powerReport1s
  /-- Every 100 ms the cooling loops set pump and fan speeds. (R734) -/
  | coolingUpdate (pumpsHeld fansHeld : Bool)
  /-- A pump or fan failing its speed check for 2 s drives its siblings to 100 %. (R734) -/
  | coolingUnitFail (unit : Fin 22)
  /-- FAULT_N asserting makes the Lighthouse read the module's status, record it and re-flash if R745 allows. (R756) -/
  | moduleFault (bay : Fin 16) (status : BayStatus)
  /-- ALERT_N asserting makes the Lighthouse read and record HUB_ALERT. (R756) -/
  | moduleAlert (bay : Fin 16) (status : BayStatus)
  /-- READY high with no HEARTBEAT edge for 100 ms is declared once per episode. (R728) -/
  | heartbeatLost (bay : Fin 16)
  /-- A heartbeat lost for a further 2 s cycles the bay under HB_RESTART. (R756) -/
  | hbRestartTimeout (bay : Fin 16)
  /-- A bay's presence pin changes; on deassertion the switch opens by hardware and DPC contains the port. (R738) -/
  | bayPresenceChange (bay : Fin 16) (present : Bool)
  /-- Presence and seating held for 5 s let the Lighthouse power the bay under AUTO_POWER. (R739) -/
  | bayStable (bay : Fin 16)
  /-- THERMTRIP_N asserting opens the bay switch by hardware and is recorded. (R738) -/
  | thermtripOpen (bay : Fin 16)
  /-- Every VERIFY_PERIOD_H hours the Lighthouse hashes module flash. (R744) -/
  | verifyPeriod (hashes : List BayHash)
  /-- A re-flash answered BUSY is retried every 10 s. (R747) -/
  | reflashRetry (bay : Fin 16) (answer : Fin 6)
  /-- After 600 s of BUSY or three failures the Lighthouse records REFLASH_FAILED and waits. (R747) -/
  | reflashBusyLimit (bay : Fin 16)
  /-- Host and rack manager both becoming silent lets pending SILENT actions proceed. (R757) -/
  | silenceBegin (host rack : Bool)
  /-- A Redfish request is served for the implemented resources, or returns 404. (R759) -/
  | redfishRequest (authentic : Bool) (r : Redfish)
  /-- The Iardo.Command action runs a command with its data and returns the completion record. (R760) -/
  | iardoCommand (raw data : List Byte)
  /-- A POST to the staging buffer holds one image or model upload. (R760) -/
  | stagingUpload (bytes : List Byte)
  /-- The Lighthouse locks to PTP, setting TAI_OFFSET on first lock or on a large discrepancy. (R182) -/
  | ptpLock (tai : BitVec 64) (steer : BitVec 32)
  /-- Loss of PTP holds the oscillator at its last steering value and sets PTP_HOLDOVER. (R183) -/
  | ptpLoss
  /-- A zone's first wet reading starts its 5 ms confirmation timer. (R765) -/
  | bwWet (zone : Fin 20)
  /-- A zone wet for 5 ms latches TRIPPED, stops pumps, clears bay enables, opens isolation and closes valves. (R766) -/
  | bwTrip (us : Word)
  /-- A wet reading ending before confirmation resets the timer and is recorded. (R765) -/
  | bwGlitch (zone : Fin 20)
  /-- A zone reading as a sensor fault is recorded without tripping. (R765) -/
  | bwSensorFault (zone : Fin 20)
  /-- Every 1 s each comparator channel is tested against a reference. (R769) -/
  | bwSelftest (failA failB : List (Fin 20))
  /-- BW_RESET held 3 s with all zones dry 60 s clears TRIPPED and restores isolation and valves. (R768) -/
  | bwReset
  /-- Loss of Breakwater's supply opens the isolation and closes the valves by spring return. (R767) -/
  | bwSupplyLoss
  /-- A sensor falling 3.0 °C below its warn point ends the warn condition, clearing HUB_ALERT.THERMAL and allowing withholding to end. (R839) -/
  | thermalWarnEnd (sensor : Byte)
  /-- A write of 1 to the Lighthouse MB_DOORBELL starts the mailbox command, or is ignored and sets MB_STATUS.DB_ERR while BUSY = 1. (R749) -/
  | mbDoorbell (v : Word)
  /-- The grace period of LH_SHUTDOWN runs out and the Lighthouse opens every bay switch. (R751) -/
  | shutdownGraceEnd
  /-- Two seconds after a CYCLE turned a bay off, the Lighthouse closes its switch again under R739. (R751) -/
  | cyclePowerOn (bay : Fin 16)
  /-- 54 V applied to the tray input starts the timing sequencer, making its first count the tray epoch at tray time 0. (R177) -/
  | trayPowerApplied
  /-- An inserted pump or fan is commanded at once to the speed of its siblings. (R806) -/
  | coolingUnitInsert (unit : Fin 22)
  deriving DecidableEq, Repr

end Sys2Proof
end

