-- ==== Sys2Proof/Decode.lean ====
section
/-! DEFINITION. The opcode table gives no row a bit pattern: a command is an event on a register path, a ring, a link
or a pin, with operands of its own. So no word spells a command. -/

namespace Sys2Proof

/-- The command a table word spells: none, since no row of the table gives bits. -/
def decodeTableWord (_nbits _w : Nat) : Option Instr := none

end Sys2Proof
end

