-- ==== Sys2Proof/Config.lean ====
section
/-! DEFINITION. Every value the spec leaves open.
Each constant here is opaque: nothing in Lean can see a value of it, so a proved claim holds whatever it is. -/

namespace Sys2Proof.Config

/-- A free value: what the manual leaves open after the `n`-th open value of a run (log entry 2). -/
opaque freeNat : Nat → Nat

/-- A free byte (log entry 2). -/
opaque freeByte : Nat → BitVec 8

/-- The maker key a Lighthouse leaves manufacture with (R808; log entry 3). -/
opaque lhMakerKey : List Byte

/-- Energy per sample of 0 dBFS at a WIDTH code, in squared sample units: R138 measures in dBFS and names no reference
(log entry 16). -/
opaque fullScale : Nat → Nat

/-- Cause codes an event word carries and the manual does not list: ACS_HOLD, TIME_UNTRUSTED (R262; log entry 2). -/
opaque causeCode : Nat → Nat

/-- Whether a value shown in whole units is rounded up from an exact quotient: numerator, denominator (log entry 2). -/
opaque roundUp : Int → Nat → Bool

/-- Error of a frequency measurement within its resolution of 0.1 ppm, from the two pairs it rests on (R200). -/
opaque freqError : Nat → Nat → Nat → Nat

/-- What a chain stage reads where its operand source is "none" (R312; log entry 2). -/
opaque noOperand : Nat

/-- What the worst-case duration of a container holds beyond the busiest unit's exact times, in ns: issue, waits between engines and
programs, and slot service, which the spec does not add up (R568; log entry 25). -/
opaque restNs : List Byte → Nat

/-- The offset of the first state section whose USE window disagrees with the cycle-exact times of its accesses (R417; log entry 25). -/
opaque useWindow : List Byte → Option Nat

/-- The full speed in rpm of a pump (0 to 2) or a fan (16 to 21), which a speed command is a percentage of (R730, R734; log entry 2). -/
opaque fullSpeed : Nat → Nat

/-- The nominal voltage in mV of the MGMT standby rail, whose alarm limits R729 gives in percent (log entry 2). -/
opaque standbyNominal : Nat

end Sys2Proof.Config
end

