-- ==== Sys2Proof/Machine/Events.lean ====
section
/-! DEFINITION. The event codes and severities of R262, and those of the Lighthouse and Breakwater (R763). -/

namespace Sys2Proof.Machine

abbrev Ev.regPartialWrite : Nat := 0x0001
abbrev Ev.regLockedWrite : Nat := 0x0002
abbrev Ev.regPoweredOff : Nat := 0x0003
abbrev Ev.regPathDenied : Nat := 0x0004
abbrev Ev.doorbellRange : Nat := 0x0101
abbrev Ev.rqOverflow : Nat := 0x0102
abbrev Ev.evqLost : Nat := 0x0103
abbrev Ev.evqTidemark : Nat := 0x0104
abbrev Ev.queueFault : Nat := 0x0105
abbrev Ev.vfReset : Nat := 0x0106
abbrev Ev.iringTidemark : Nat := 0x0107
abbrev Ev.cmdAuthFail : Nat := 0x0201
abbrev Ev.keyLocked : Nat := 0x0202
abbrev Ev.keyInstalled : Nat := 0x0203
abbrev Ev.lifecycleStep : Nat := 0x0204
abbrev Ev.debugSession : Nat := 0x0205
abbrev Ev.apClockPresent : Nat := 0x0301
abbrev Ev.apCfgBusy : Nat := 0x0302
abbrev Ev.apBargeIn : Nat := 0x0303
abbrev Ev.apRingCommit : Nat := 0x0304
abbrev Ev.apTidemark : Nat := 0x0305
abbrev Ev.apRingOverrun : Nat := 0x0306
abbrev Ev.apSyncLost : Nat := 0x0307
abbrev Ev.apSyncRestored : Nat := 0x0308
abbrev Ev.apTakeover : Nat := 0x0309
abbrev Ev.apSlip : Nat := 0x030A
abbrev Ev.timeAlarm : Nat := 0x0401
abbrev Ev.timeAlarmClear : Nat := 0x0402
abbrev Ev.timeUntrusted : Nat := 0x0403
abbrev Ev.timeTrusted : Nat := 0x0404
abbrev Ev.timeStep : Nat := 0x0405
abbrev Ev.timeRefLost : Nat := 0x0406
abbrev Ev.acsCfgBusy : Nat := 0x0407
abbrev Ev.acsLimit : Nat := 0x0408
abbrev Ev.acsHold : Nat := 0x0409
abbrev Ev.acsFailed : Nat := 0x040A
abbrev Ev.acsRestored : Nat := 0x040B
abbrev Ev.dmaOverlapUnsafe : Nat := 0x0501
abbrev Ev.dmaAborted : Nat := 0x0502
abbrev Ev.dmaTidemark : Nat := 0x0503
abbrev Ev.dmaHostError : Nat := 0x0504
abbrev Ev.mcCorrected : Nat := 0x0601
abbrev Ev.mcUeWeight : Nat := 0x0602
abbrev Ev.mcUeFatal : Nat := 0x0603
abbrev Ev.walkFault : Nat := 0x0701
abbrev Ev.walkDevice : Nat := 0x0702
abbrev Ev.xlateDenied : Nat := 0x0703
abbrev Ev.poolTidemark : Nat := 0x0801
abbrev Ev.swapLate : Nat := 0x0802
abbrev Ev.ckptLate : Nat := 0x0803
abbrev Ev.ckptTargetChanged : Nat := 0x0804
abbrev Ev.swapAreaFull : Nat := 0x0805
abbrev Ev.streamOpened : Nat := 0x0901
abbrev Ev.streamClosed : Nat := 0x0902
abbrev Ev.streamAdmitDeferred : Nat := 0x0903
abbrev Ev.streamRefused : Nat := 0x0904
abbrev Ev.streamDeadlineMiss : Nat := 0x0905
abbrev Ev.streamLeaseLost : Nat := 0x0906
abbrev Ev.streamLeaseConflict : Nat := 0x0907
abbrev Ev.streamLeaseSaturated : Nat := 0x0908
abbrev Ev.streamBoundDegraded : Nat := 0x0909
abbrev Ev.standingRefused : Nat := 0x090A
abbrev Ev.streamRemapped : Nat := 0x090B
abbrev Ev.streamMigrated : Nat := 0x090C
abbrev Ev.streamFailed : Nat := 0x090D
abbrev Ev.partitionCreated : Nat := 0x0A01
abbrev Ev.partitionDestroyed : Nat := 0x0A02
abbrev Ev.schedRefused : Nat := 0x0A03
abbrev Ev.modelEvicted : Nat := 0x0A04
abbrev Ev.linkUp : Nat := 0x0B01
abbrev Ev.linkDown : Nat := 0x0B02
abbrev Ev.linkDegraded : Nat := 0x0B03
abbrev Ev.moduleQuarantine : Nat := 0x0B04
abbrev Ev.peerFailstop : Nat := 0x0B05
abbrev Ev.trayFailed : Nat := 0x0B06
abbrev Ev.moduleReady : Nat := 0x0C01
abbrev Ev.imageFallback : Nat := 0x0C02
abbrev Ev.imageUpdated : Nat := 0x0C03
abbrev Ev.neapEntered : Nat := 0x0C04
abbrev Ev.faultPolicyChanged : Nat := 0x0C05
abbrev Ev.powerLimit : Nat := 0x0D01
abbrev Ev.thermalWarn : Nat := 0x0D02
abbrev Ev.thermalTrip : Nat := 0x0D03
abbrev Ev.failStop : Nat := 0x0E01
abbrev Ev.failstopReleased : Nat := 0x0E02
abbrev Ev.scrubLag : Nat := 0x0F01
abbrev Ev.zeroLag : Nat := 0x0F02
abbrev Ev.telemetryLag : Nat := 0x0F03
abbrev Ev.flashWearLag : Nat := 0x0F04
abbrev Ev.lhStarted : Nat := 0x1001
abbrev Ev.lhBayPresent : Nat := 0x1002
abbrev Ev.lhBayPower : Nat := 0x1003
abbrev Ev.lhModuleFault : Nat := 0x1004
abbrev Ev.lhHeartbeatLost : Nat := 0x1005
abbrev Ev.lhModuleAlert : Nat := 0x1006
abbrev Ev.lhThermtrip : Nat := 0x1007
abbrev Ev.lhHashMismatch : Nat := 0x1008
abbrev Ev.lhReflashStart : Nat := 0x1009
abbrev Ev.lhReflashDone : Nat := 0x100A
abbrev Ev.lhReflashFailed : Nat := 0x100B
abbrev Ev.lhActionPending : Nat := 0x100C
abbrev Ev.lhPointAlarm : Nat := 0x100D
abbrev Ev.lhPowerHigh : Nat := 0x100E
abbrev Ev.lhCoolingDegraded : Nat := 0x100F
abbrev Ev.lhTaiChanged : Nat := 0x1010
abbrev Ev.lhPtpState : Nat := 0x1011
abbrev Ev.lhRecordChanged : Nat := 0x1012
abbrev Ev.lhStoreWritten : Nat := 0x1013
abbrev Ev.lhDebugOpen : Nat := 0x1014
abbrev Ev.lhAuthFail : Nat := 0x1015
abbrev Ev.bwTrip : Nat := 0x1101
abbrev Ev.bwGlitch : Nat := 0x1102
abbrev Ev.bwSensorFault : Nat := 0x1103
abbrev Ev.bwSelftestFail : Nat := 0x1104
abbrev Ev.bwReset : Nat := 0x1105

/-- The severity of each event (R262, R763): 0 INFO, 1 NOTICE, 2 WARN, 3 ERROR, 4 FATAL. EVQ_LOST is given its own by R258. -/
def evSeverityTable : List (Nat × Nat) := [
  (0x0001, 1), (0x0002, 1), (0x0003, 0), (0x0004, 1), (0x0101, 2), (0x0102, 2), (0x0103, 3), (0x0104, 1),
  (0x0105, 3), (0x0106, 1), (0x0107, 1), (0x0201, 2), (0x0202, 3), (0x0203, 1), (0x0204, 1), (0x0205, 1),
  (0x0301, 2), (0x0302, 1), (0x0303, 0), (0x0304, 0), (0x0305, 1), (0x0306, 2), (0x0307, 2), (0x0308, 1),
  (0x0309, 1), (0x030A, 0), (0x0401, 2), (0x0402, 1), (0x0403, 3), (0x0404, 1), (0x0405, 2), (0x0406, 3),
  (0x0407, 1), (0x0408, 2), (0x0409, 1), (0x040A, 3), (0x040B, 1), (0x0501, 2), (0x0502, 1), (0x0503, 1),
  (0x0504, 3), (0x0601, 0), (0x0602, 2), (0x0603, 4), (0x0701, 4), (0x0702, 4), (0x0703, 4), (0x0801, 1),
  (0x0802, 2), (0x0803, 2), (0x0804, 1), (0x0805, 2), (0x0901, 0), (0x0902, 0), (0x0903, 1), (0x0904, 2),
  (0x0905, 3), (0x0906, 1), (0x0907, 3), (0x0908, 2), (0x0909, 2), (0x090A, 2), (0x090B, 1), (0x090C, 0),
  (0x090D, 3), (0x0A01, 1), (0x0A02, 1), (0x0A03, 2), (0x0A04, 0), (0x0B01, 1), (0x0B02, 3), (0x0B03, 2),
  (0x0B04, 3), (0x0B05, 3), (0x0B06, 4), (0x0C01, 1), (0x0C02, 2), (0x0C03, 1), (0x0C04, 3), (0x0C05, 1),
  (0x0D01, 2), (0x0D02, 2), (0x0D03, 4), (0x0E01, 4), (0x0E02, 1), (0x0F01, 2), (0x0F02, 2), (0x0F03, 0),
  (0x0F04, 1), (0x1001, 1), (0x1002, 0), (0x1003, 1), (0x1004, 3), (0x1005, 3), (0x1006, 2), (0x1007, 4),
  (0x1008, 2), (0x1009, 1), (0x100A, 1), (0x100B, 3), (0x100C, 1), (0x100D, 2), (0x100E, 2), (0x100F, 3),
  (0x1010, 2), (0x1011, 1), (0x1012, 1), (0x1013, 1), (0x1014, 1), (0x1015, 2), (0x1101, 4), (0x1102, 0),
  (0x1103, 2), (0x1104, 3), (0x1105, 1)]

/-- The severity of an event code. -/
def evSeverity (code : Nat) : Nat := ((evSeverityTable.find? (fun p => p.1 == code)).map Prod.snd).getD 0

end Sys2Proof.Machine
end

