-- ==== Sys2Proof/Machine/Crypto.lean ====
section
/-! DEFINITION. The algorithms the manual names and takes from their standards (R244, R648, R689, R701): SHA-256 and SHA-384 (FIPS 180-4),
HMAC (FIPS 198-1), AES-256 (FIPS 197) in GCM (SP 800-38D), and ECDSA verification over P-384 (FIPS 186-5). Log entry 3. -/

namespace Sys2Proof.Machine

/-! ## Bytes and numbers, big-endian as the standards have them -/

/-- The number a big-endian byte string spells. -/
def beNat (b : List Byte) : Nat := b.foldl (fun a x => a * 256 + x.toNat) 0

/-- The `n` big-endian bytes of a number. -/
def beBytes : Nat → Nat → List Byte
  | 0, _ => []
  | n + 1, v => BitVec.ofNat 8 (v / 256 ^ n) :: beBytes n v

/-- Cut a byte string into at most `fuel` blocks of `n` bytes. -/
def blocksOf (n : Nat) : Nat → List Byte → List (List Byte)
  | 0, _ => []
  | f + 1, b => if b.isEmpty then [] else b.take n :: blocksOf n f (b.drop n)

/-- Bitwise exclusive or of two byte strings, as long as the shorter. -/
def xorBytes (a b : List Byte) : List Byte := a.zipWith (· ^^^ ·) b

/-! ## SHA-2 -/

/-- One member of SHA-2: the word width in bits, rotation amounts of the sums and of the schedule (the last of the latter a shift), round constants. -/
structure Sha2 where
  w : Nat
  sumA : Nat × Nat × Nat
  sumE : Nat × Nat × Nat
  sched0 : Nat × Nat × Nat
  sched1 : Nat × Nat × Nat
  k : List Nat

/-- The first 64 bits of the fractional parts of the cube roots of the first 80 primes. -/
def shaK : List Nat :=
  [0x428A2F98D728AE22, 0x7137449123EF65CD, 0xB5C0FBCFEC4D3B2F, 0xE9B5DBA58189DBBC,
    0x3956C25BF348B538, 0x59F111F1B605D019, 0x923F82A4AF194F9B, 0xAB1C5ED5DA6D8118,
    0xD807AA98A3030242, 0x12835B0145706FBE, 0x243185BE4EE4B28C, 0x550C7DC3D5FFB4E2,
    0x72BE5D74F27B896F, 0x80DEB1FE3B1696B1, 0x9BDC06A725C71235, 0xC19BF174CF692694] ++
  [0xE49B69C19EF14AD2, 0xEFBE4786384F25E3, 0xFC19DC68B8CD5B5, 0x240CA1CC77AC9C65,
    0x2DE92C6F592B0275, 0x4A7484AA6EA6E483, 0x5CB0A9DCBD41FBD4, 0x76F988DA831153B5,
    0x983E5152EE66DFAB, 0xA831C66D2DB43210, 0xB00327C898FB213F, 0xBF597FC7BEEF0EE4,
    0xC6E00BF33DA88FC2, 0xD5A79147930AA725, 0x6CA6351E003826F, 0x142929670A0E6E70] ++
  [0x27B70A8546D22FFC, 0x2E1B21385C26C926, 0x4D2C6DFC5AC42AED, 0x53380D139D95B3DF,
    0x650A73548BAF63DE, 0x766A0ABB3C77B2A8, 0x81C2C92E47EDAEE6, 0x92722C851482353B,
    0xA2BFE8A14CF10364, 0xA81A664BBC423001, 0xC24B8B70D0F89791, 0xC76C51A30654BE30,
    0xD192E819D6EF5218, 0xD69906245565A910, 0xF40E35855771202A, 0x106AA07032BBD1B8] ++
  [0x19A4C116B8D2D0C8, 0x1E376C085141AB53, 0x2748774CDF8EEB99, 0x34B0BCB5E19B48A8,
    0x391C0CB3C5C95A63, 0x4ED8AA4AE3418ACB, 0x5B9CCA4F7763E373, 0x682E6FF3D6B2B8A3,
    0x748F82EE5DEFB2FC, 0x78A5636F43172F60, 0x84C87814A1F0AB72, 0x8CC702081A6439EC,
    0x90BEFFFA23631E28, 0xA4506CEBDE82BDE9, 0xBEF9A3F7B2C67915, 0xC67178F2E372532B] ++
  [0xCA273ECEEA26619C, 0xD186B8C721C0C207, 0xEADA7DD6CDE0EB1E, 0xF57D4F7FEE6ED178,
    0x6F067AA72176FBA, 0xA637DC5A2C898A6, 0x113F9804BEF90DAE, 0x1B710B35131C471B,
    0x28DB77F523047D84, 0x32CAAB7B40C72493, 0x3C9EBE0A15C9BEBC, 0x431D67C49C100D4C,
    0x4CC5D4BECB3E42B6, 0x597F299CFC657E2A, 0x5FCB6FAB3AD6FAEC, 0x6C44198C4A475817]

/-- The first 32 bits of the fractional parts of the square roots of the first 8 primes. -/
def sha256Init : List Nat :=
  [0x6A09E667, 0xBB67AE85, 0x3C6EF372, 0xA54FF53A, 0x510E527F, 0x9B05688C, 0x1F83D9AB, 0x5BE0CD19]

/-- The first 64 bits of the fractional parts of the square roots of the 9th to 16th primes. -/
def sha384Init : List Nat :=
  [0xCBBB9D5DC1059ED8, 0x629A292A367CD507, 0x9159015A3070DD17, 0x152FECD8F70E5939,
    0x67332667FFC00B31, 0x8EB44A8768581511, 0xDB0C2E0D64F98FA7, 0x47B5481DBEFA4FA4]

/-- SHA-256 takes the upper halves of the first 64 constants. -/
def sha2Short : Sha2 := { w := 32, sumA := (2, 13, 22), sumE := (6, 11, 25), sched0 := (7, 18, 3), sched1 := (17, 19, 10), k := (shaK.take 64).map (· / 2 ^ 32) }

/-- SHA-384 works on 64-bit words. -/
def sha2Long : Sha2 := { w := 64, sumA := (28, 34, 39), sumE := (14, 18, 41), sched0 := (1, 8, 7), sched1 := (19, 61, 6), k := shaK }

/-- Rotate a word of `w` bits right. -/
def rotr (w n x : Nat) : Nat := Nat.lor (x / 2 ^ n) (x % 2 ^ n * 2 ^ (w - n))

/-- Three rotations, exclusive or. -/
def Sha2.sum (h : Sha2) (r : Nat × Nat × Nat) (x : Nat) : Nat := Nat.xor (rotr h.w r.1 x) (Nat.xor (rotr h.w r.2.1 x) (rotr h.w r.2.2 x))

/-- Two rotations and a shift, exclusive or. -/
def Sha2.mix (h : Sha2) (r : Nat × Nat × Nat) (x : Nat) : Nat := Nat.xor (rotr h.w r.1 x) (Nat.xor (rotr h.w r.2.1 x) (x / 2 ^ r.2.2))

/-- One round: the eight working words and the next sixteen words of the schedule. -/
def Sha2.round (h : Sha2) (s : List Nat × List Nat) (k : Nat) : List Nat × List Nat :=
  match s with
  | ([a, b, c, d, e, f, g, z], x :: xs) =>
    let t1 := z + h.sum h.sumE e + Nat.xor g (Nat.land e (Nat.xor f g)) + k + x
    let t2 := h.sum h.sumA a + Nat.lor (Nat.land a b) (Nat.land c (Nat.lor a b))
    let next := (x + h.mix h.sched0 (xs.getD 0 0) + xs.getD 8 0 + h.mix h.sched1 (xs.getD 13 0)) % 2 ^ h.w
    ([(t1 + t2) % 2 ^ h.w, a, b, c, (d + t1) % 2 ^ h.w, e, f, g], xs ++ [next])
  | _ => s

/-- The compression of one block into the chaining value. -/
def Sha2.block (h : Sha2) (cv : List Nat) (b : List Byte) : List Nat :=
  (h.k.foldl h.round (cv, (blocksOf (h.w / 8) 16 b).map beNat)).1.zipWith (fun x y => (x + y) % 2 ^ h.w) cv

/-- The padded message: a one bit, zeros, and the length in bits in the last two words. -/
def Sha2.pad (h : Sha2) (m : List Byte) : List Byte :=
  let n := m.length
  m ++ [0x80#8] ++ List.replicate ((14 * (h.w / 8) + 16 * (h.w / 8) - 1 - n % (16 * (h.w / 8))) % (16 * (h.w / 8))) 0#8 ++ beBytes (2 * (h.w / 8)) (8 * n)

/-- The digest of a message: the chaining value after its last block. -/
def Sha2.digest (h : Sha2) (init : List Nat) (m : List Byte) : List Byte :=
  let p := h.pad m
  ((blocksOf (16 * (h.w / 8)) p.length p).foldl h.block init).flatMap (beBytes (h.w / 8))

/-- SHA-256 of a message: 32 bytes. -/
def sha256 (m : List Byte) : List Byte := sha2Short.digest sha256Init m

/-- SHA-384 of a message: 48 bytes. -/
def sha384 (m : List Byte) : List Byte := (sha2Long.digest sha384Init m).take 48

/-- HMAC-SHA-256 of a message under a key (R244). -/
def hmacSha256 (key m : List Byte) : List Byte :=
  let k := if 64 < key.length then sha256 key else key
  let k := k ++ List.replicate (64 - k.length) 0#8
  sha256 (k.map (· ^^^ 0x5C#8) ++ sha256 (k.map (· ^^^ 0x36#8) ++ m))

/-! ## AES-256 in GCM -/

/-- Twice an element of GF(2^8) under x^8 + x^4 + x^3 + x + 1. -/
def gfDouble (a : Nat) : Nat := if 128 ≤ a then Nat.xor (2 * a % 256) 0x1B else 2 * a

/-- The product of two elements of GF(2^8). -/
def gfMul (a b : Nat) : Nat :=
  ((List.range 8).foldl (fun (s : Nat × Nat) i => (if Nat.testBit b i then Nat.xor s.1 s.2 else s.1, gfDouble s.2)) (0, a)).1

/-- The byte substitution: the inverse in GF(2^8), its 254th power, then the affine map. -/
def subByte (a : Nat) : Nat :=
  let inv := (List.range 7).foldl (fun (s : Nat × Nat) _ => let q := gfMul s.2 s.2; (gfMul s.1 q, q)) (1, a)
  let r := fun n => inv.1 * 2 ^ n % 256 + inv.1 / 2 ^ (8 - n)
  Nat.xor inv.1 (Nat.xor (r 1) (Nat.xor (r 2) (Nat.xor (r 3) (Nat.xor (r 4) 0x63))))

/-- The byte substitution as a table. -/
def subTable : List Nat := (List.range 256).map subByte

/-- Look a byte up in the substitution. -/
def subOf (a : Nat) : Nat := subTable.getD a 0

/-- The sixty words of the AES-256 key schedule from the eight of the key, newest first; each word is four bytes. -/
def aesSchedule (key : List (List Nat)) : List (List Nat) :=
  ((List.range 52).foldl (fun (s : List (List Nat) × Nat) j =>
    let prev := s.1.headD []
    let t := if j % 8 = 0 then ((prev.drop 1 ++ prev.take 1).map subOf).zipWith Nat.xor [s.2, 0, 0, 0]
      else if j % 8 = 4 then prev.map subOf else prev
    (t.zipWith Nat.xor (s.1.getD 7 []) :: s.1, if j % 8 = 0 then gfDouble s.2 else s.2)) (key.reverse, 1)).1

/-- The fifteen round keys of a key, sixteen bytes each. -/
def aesRoundKeys (key : List Byte) : List (List Nat) :=
  let w := (aesSchedule ((blocksOf 4 8 key).map (fun b => b.map BitVec.toNat))).reverse
  (List.range 15).map (fun r => ((w.drop (4 * r)).take 4).flatten)

/-- Row `r` of the state moves left by `r` columns; bytes stand column by column. -/
def aesShiftRows (s : List Nat) : List Nat := (List.range 16).map (fun i => s.getD ((i + 4 * (i % 4)) % 16) 0)

/-- Each column times the fixed polynomial. -/
def aesMixColumns (s : List Nat) : List Nat :=
  (List.range 16).map (fun i =>
    let at_ := fun n => s.getD (i / 4 * 4 + (i + n) % 4) 0
    Nat.xor (gfDouble (at_ 0)) (Nat.xor (Nat.xor (gfDouble (at_ 1)) (at_ 1)) (Nat.xor (at_ 2) (at_ 3))))

/-- The AES-256 encryption of one block under its round keys. -/
def aesBlock (keys : List (List Nat)) (b : List Nat) : List Nat :=
  let start := b.zipWith Nat.xor (keys.headD [])
  let mid := ((keys.drop 1).take 13).foldl (fun s k => (aesMixColumns (aesShiftRows (s.map subOf))).zipWith Nat.xor k) start
  (aesShiftRows (mid.map subOf)).zipWith Nat.xor (keys.getD 14 [])

/-- The product of two blocks in GF(2^128), the first bit of a block being the coefficient of x^0. -/
def ghashMul (a b : Nat) : Nat :=
  ((List.range 128).foldl (fun (s : Nat × Nat) i =>
    (if Nat.testBit a (127 - i) then Nat.xor s.1 s.2 else s.1,
      if Nat.testBit s.2 0 then Nat.xor (s.2 / 2) 0xE1000000000000000000000000000000 else s.2 / 2)) (0, b)).1

/-- The hash of a byte string cut into blocks, the last filled with zeros, from a value already hashed. -/
def ghash (h start : Nat) (b : List Byte) : Nat :=
  (blocksOf 16 b.length b).foldl (fun y x => ghashMul (Nat.xor y (beNat (x ++ List.replicate (16 - x.length) 0#8))) h) start

/-- The AES-256 key stream block of a counter block. -/
def gcmStream (keys : List (List Nat)) (nonce : List Byte) (n : Nat) : List Byte :=
  (aesBlock keys ((nonce ++ beBytes 4 n).map BitVec.toNat)).map (BitVec.ofNat 8)

/-- Open an AES-256-GCM box with a 96-bit nonce: key, nonce, additional data, ciphertext, tag; none where the tag fails (R701). -/
def gcmOpen (key nonce aad ct tag : List Byte) : Option (List Byte) :=
  let keys := aesRoundKeys key
  let h := beNat ((aesBlock keys (List.replicate 16 0)).map (BitVec.ofNat 8))
  let hash := ghash h (ghash h (ghash h 0 aad) ct) (beBytes 8 (8 * aad.length) ++ beBytes 8 (8 * ct.length))
  if xorBytes (beBytes 16 hash) (gcmStream keys nonce 1) == tag then
    some (((blocksOf 16 ct.length ct).zipIdx 2).flatMap (fun x => xorBytes x.1 (gcmStream keys nonce x.2)))
  else none

/-! ## ECDSA over P-384 -/

/-- The field prime of P-384. -/
def p384P : Nat := 2 ^ 384 - 2 ^ 128 - 2 ^ 96 + 2 ^ 32 - 1

/-- The order of its base point. -/
def p384N : Nat := 0xFFFFFFFFFFFFFFFFFFFFFFFFFFFFFFFFFFFFFFFFFFFFFFFFC7634D81F4372DDF581A0DB248B0A77AECEC196ACCC52973

/-- The coefficient b of y^2 = x^3 - 3x + b. -/
def p384B : Nat := 0xB3312FA7E23EE7E4988E056BE3F82D19181D9C6EFE8141120314088F5013875AC656398D8A2ED19D2A85C8EDD3EC2AEF

/-- The base point. -/
def p384Gx : Nat := 0xAA87CA22BE8B05378EB1C71EF320AD746E1D3B628BA79B9859F741E082542A385502F25DBF55296C3A545E3872760AB7
def p384Gy : Nat := 0x3617DE4A96262C6F5D9E98BF9292DC29F8F41DBD289A147CE9DA3113B5F0B8C00A60B1CE1D7E819D7A431D7C90EA0E5F

/-- The power of a number modulo `m`, over the 384 bits of the exponent. -/
def powMod (m b e : Nat) : Nat :=
  (List.range 384).foldl (fun a i => let q := a * a % m; if Nat.testBit e (383 - i) then q * b % m else q) 1

/-- The inverse modulo a prime. -/
def invMod (m b : Nat) : Nat := powMod m b (m - 2)

/-- A point in Jacobian coordinates; the point at infinity has z = 0. -/
structure Pt where
  x : Nat
  y : Nat
  z : Nat
  deriving DecidableEq, Repr

/-- The difference in the field. -/
def subP (a b : Nat) : Nat := (a + (p384P - b % p384P)) % p384P

/-- Twice a point. -/
def Pt.double (a : Pt) : Pt :=
  let yy := a.y * a.y % p384P
  let s := 4 * a.x * yy % p384P
  let zz := a.z * a.z % p384P
  let m := 3 * subP a.x zz * (a.x + zz) % p384P
  let x := subP (m * m) (2 * s)
  { x := x, y := subP (m * subP s x) (8 * yy * yy), z := 2 * a.y * a.z % p384P }

/-- The sum of two points. -/
def Pt.add (a b : Pt) : Pt :=
  if a.z = 0 then b
  else if b.z = 0 then a
  else
    let za := a.z * a.z % p384P
    let zb := b.z * b.z % p384P
    let u := a.x * zb % p384P
    let h := subP (b.x * za) u
    let s := a.y * zb * b.z % p384P
    let r := subP (b.y * za * a.z) s
    if h = 0 then (if r = 0 then a.double else { x := 1, y := 1, z := 0 })
    else
      let hh := h * h % p384P
      let v := u * hh % p384P
      let x := subP (r * r) (hh * h + 2 * v)
      { x := x, y := subP (r * subP v x) (s * hh * h), z := a.z * b.z * h % p384P }

/-- A multiple of a point. -/
def Pt.mul (k : Nat) (a : Pt) : Pt :=
  (List.range 384).foldl (fun s i => let d := s.double; if Nat.testBit k (383 - i) then d.add a else d) { x := 1, y := 1, z := 0 }

/-- A pair of coordinates lies on the curve. -/
def onP384 (x y : Nat) : Bool := decide (x < p384P) && decide (y < p384P) && y * y % p384P == subP (x * x * x + p384B) (3 * x)

/-- Whether an ECDSA signature over P-384 with SHA-384 verifies: public key X then Y, signature r then s, message (R648, R689). -/
def p384Verify (key sig m : List Byte) : Bool :=
  let x := beNat (key.take 48)
  let y := beNat (key.drop 48)
  let r := beNat (sig.take 48)
  let s := beNat (sig.drop 48)
  if key.length ≠ 96 ∨ sig.length ≠ 96 ∨ onP384 x y = false ∨ r = 0 ∨ s = 0 ∨ p384N ≤ r ∨ p384N ≤ s then false
  else
    let w := invMod p384N s
    let pt := (Pt.mul (beNat (sha384 m) * w % p384N) { x := p384Gx, y := p384Gy, z := 1 }).add (Pt.mul (r * w % p384N) { x := x, y := y, z := 1 })
    let zi := invMod p384P pt.z
    decide (pt.z ≠ 0) && pt.x * zi * zi % p384P % p384N == r

end Sys2Proof.Machine
end

