-- ==== Sys2Proof/Machine/Mem.lean ====
section
/-! DEFINITION. Sparse byte memory in one canonical form and sparse tables.
A memory is a list of (address, byte) pairs, addresses strictly rising, no byte zero: an unlisted address reads zero,
as DRAM and every on-chip memory do once start-up has zeroed them (R510, R708). -/

namespace Sys2Proof.Machine

/-- The byte at an address; an unlisted address reads zero. -/
def memGet : List Host.Cell → Nat → Byte
  | [], _ => 0
  | (k, b) :: t, a => if k = a then b else memGet t a

/-- Write one byte, keeping the canonical form. -/
def memSet : List Host.Cell → Nat → Byte → List Host.Cell
  | [], a, b => if b = 0 then [] else [(a, b)]
  | (k, c) :: t, a, b =>
    if a < k then (if b = 0 then (k, c) :: t else (a, b) :: (k, c) :: t)
    else if a = k then (if b = 0 then t else (a, b) :: t)
    else (k, c) :: memSet t a b

/-- The `n` bytes from an address on. -/
def memRead (m : List Host.Cell) (a : Nat) : Nat → List Byte
  | 0 => []
  | n + 1 => memGet m a :: memRead m (a + 1) n

/-- Write bytes from an address on. -/
def memWrite (m : List Host.Cell) (a : Nat) : List Byte → List Host.Cell
  | [] => m
  | b :: bs => memWrite (memSet m a b) (a + 1) bs

/-- Zero the `n` bytes from an address on. -/
def memZero (m : List Host.Cell) (a n : Nat) : List Host.Cell :=
  m.filter (fun c => !(a ≤ c.1 && c.1 < a + n))

/-- Every key of a memory lies above a bound. -/
def keysAbove (lo : Nat) : List Host.Cell → Bool
  | [] => true
  | (k, b) :: t => lo ≤ k && !(b == 0) && keysAbove (k + 1) t

/-- The canonical form: addresses strictly rising and no zero byte. -/
def Memory.wf (m : List Host.Cell) : Bool := keysAbove 0 m

/-- A little-endian number from bytes (R6). -/
def leNat : List Byte → Nat
  | [] => 0
  | b :: bs => b.toNat + 256 * leNat bs

/-- The `n` little-endian bytes of a number (R6). -/
def leBytes : Nat → Nat → List Byte
  | 0, _ => []
  | n + 1, v => BitVec.ofNat 8 v :: leBytes n (v / 256)

/-- The little-endian field of `n` bytes at byte `o` of a structure. -/
def fieldAt (bs : List Byte) (o n : Nat) : Nat := leNat ((bs.drop o).take n)

/-- Bits hi down to lo of a number. -/
def bitsOf (v hi lo : Nat) : Nat := v / 2 ^ lo % 2 ^ (hi - lo + 1)

/-- The entry of a sparse table at a key. -/
def tfind {α : Type} : Tbl α → Nat → Option α
  | [], _ => none
  | (k, v) :: t, a => if k = a then some v else tfind t a

/-- The entry of a sparse table, or the default of an unlisted one. -/
def tget {α : Type} (t : Tbl α) (a : Nat) (d : α) : α := (tfind t a).getD d

/-- Set an entry of a sparse table, keys kept in rising order. -/
def tset {α : Type} : Tbl α → Nat → α → Tbl α
  | [], a, x => [(a, x)]
  | (k, v) :: t, a, x =>
    if a < k then (a, x) :: (k, v) :: t
    else if a = k then (a, x) :: t
    else (k, v) :: tset t a x

/-- Remove an entry of a sparse table. -/
def terase {α : Type} (t : Tbl α) (a : Nat) : Tbl α := t.filter (fun p => !(p.1 == a))

/-- The bits [hi:lo] of a register word. -/
def wfield (w : Word) (hi lo : Nat) : Nat := w.toNat / 2 ^ lo % 2 ^ (hi - lo + 1)

/-- The mask of the bits [hi:lo]. -/
def fieldMask (hi lo : Nat) : Word := BitVec.ofNat 32 ((2 ^ (hi - lo + 1) - 1) * 2 ^ lo)

/-- A register word with the bits [hi:lo] replaced. -/
def wset (w : Word) (hi lo v : Nat) : Word :=
  (w &&& ~~~(fieldMask hi lo)) ||| (BitVec.ofNat 32 (v * 2 ^ lo) &&& fieldMask hi lo)

/-- A count that stops at a largest value. -/
def satAdd (v n mx : Nat) : Nat := if v + n ≤ mx then v + n else mx

/-- A number read as two's complement of `n` bits. -/
def signedOf (n v : Nat) : Int := if v % 2 ^ n < 2 ^ (n - 1) then (v % 2 ^ n : Nat) else (v % 2 ^ n : Nat) - (2 ^ n : Nat)

/-- The two's complement code of a signed number in `n` bits. -/
def codeOf (n : Nat) (i : Int) : Nat := (i % ((2 ^ n : Nat) : Int)).toNat

/-- Division rounded up. -/
def ceilDiv (a b : Nat) : Nat := (a + b - 1) / b

/-- The 64-bit number before another. -/
def prev64 (n : Nat) : Nat := if n = 0 then 0xFFFF_FFFF_FFFF_FFFF else n - 1

/-- The numbers below `n`. -/
def below (n : Nat) : List Nat := List.range n

/-- One bit of CRC-16/CCITT-FALSE. -/
def crcBit (c : Nat) : Nat := if 0x8000 ≤ c then Nat.xor (c * 2 % 65536) 0x1021 else c * 2

/-- CRC-16/CCITT-FALSE over bytes: polynomial 0x1021, initial value 0xFFFF, no reflection (R179). -/
def crc16 (bs : List Byte) : Nat :=
  bs.foldl (fun c b => crcBit (crcBit (crcBit (crcBit (crcBit (crcBit (crcBit (crcBit (Nat.xor c (b.toNat * 256)))))))))) 0xFFFF

/-- The mixing finaliser of R377 on unsigned 64-bit integers. -/
def mix64 (z : Nat) : Nat :=
  let z := Nat.xor z (z / 2 ^ 30) * 0xBF58476D1CE4E5B9 % 2 ^ 64
  let z := Nat.xor z (z / 2 ^ 27) * 0x94D049BB133111EB % 2 ^ 64
  Nat.xor z (z / 2 ^ 31)

end Sys2Proof.Machine
end

