-- ==== Sys2Proof/Machine/Records.lean ====
section
/-! DEFINITION. The operation records a program holds: matrix (R280), vector (R349), recurrence (R350), DMA (R467) and
sequencer control records (R565), their decoder and their encoder. -/

namespace Sys2Proof.Machine

/-- A matrix operation record (R280). -/
structure MeRec where
  op : Nat
  wfmt : Nat
  rfmt : Nat
  accum : Bool
  swap : Bool
  indirect : Bool
  dest : Nat
  src : Nat
  scaleSrc : Nat
  m : Nat
  accBase : Nat
  rowStride : Nat
  dst : Nat
  nActive : Nat
  scaleStride : Nat
  deriving DecidableEq, Repr

/-- A vector operation record (R349). -/
structure VeRec where
  op : Nat
  /-- CH: the SP channel -/
  sp : Bool
  /-- POLICY: ZERO -/
  zero : Bool
  satinf : Bool
  nextbeat : Bool
  usePred : Bool
  pred : Nat
  rows : Nat
  /-- INSTR or CFG -/
  cfg : Nat
  srcA : Nat
  srcB : Nat
  dst : Nat
  dstAux : Nat
  aStride : Nat
  bStride : Nat
  dStride : Nat
  auxStride : Nat
  aFmt : Nat
  bFmt : Nat
  dFmt : Nat
  tslot : Nat
  browBase : Nat
  bcast : Nat
  count : Nat
  deriving DecidableEq, Repr

/-- A recurrence operation record (R350). -/
structure RuRec where
  op : Nat
  prec : Nat
  gru : Bool
  append : Bool
  hold : Bool
  outAll : Bool
  tslot : Nat
  rows : Nat
  members : Nat
  src : Nat
  src2 : Nat
  dst : Nat
  stateOff : Nat
  elems : Nat
  bufOff : Nat
  sStride : Nat
  dStride : Nat
  pStride : Nat
  tPos : Nat
  layer : Nat
  units : Nat
  count : Nat
  unitBytes : Nat
  inFmt : Nat
  outFmt : Nat
  /-- DELTA, as its 32 bits -/
  delta : Nat
  deriving DecidableEq, Repr

/-- One record of a program. -/
inductive Rec where
  | me (r : MeRec)
  | ve (r : VeRec)
  | ru (r : RuRec)
  | loop (count : Nat) (beats : Bool)
  | endloop
  | barrier
  | peer (id : Nat)
  | fin
  | submit (ch off : Nat)
  | wait (ch count : Nat)
  deriving DecidableEq, Repr

/-- The vector instruction word (R320). -/
structure VInstr where
  opc : Nat
  d : Nat
  a : Nat
  b : Nat
  c : Nat
  mod : Nat
  deriving DecidableEq, Repr

/-- Bytes a record takes. -/
def Rec.size : Rec → Nat
  | .me _ => 32
  | .ve _ => 64
  | .ru _ => 64
  | _ => 16

/-- A bit of a flag byte. -/
def flagBit (v i : Nat) : Bool := Nat.testBit v i

/-- Bytes are all zero. -/
def zeros (bs : List Byte) : Bool := bs.all (· == 0)

/-- The matrix record of 32 bytes; its reserved fields are ignored (R7, R280). -/
def decodeMe (b : List Byte) : MeRec :=
  let fl := fieldAt b 2 1
  { op := fieldAt b 0 1, wfmt := fieldAt b 1 1 % 16, rfmt := fieldAt b 1 1 / 16, accum := flagBit fl 0, swap := flagBit fl 1,
      indirect := flagBit fl 2, dest := fl / 8 % 4, src := fieldAt b 4 4, scaleSrc := fieldAt b 8 4, m := fieldAt b 12 2,
      accBase := fieldAt b 14 2, rowStride := fieldAt b 16 4, dst := fieldAt b 20 4, nActive := fieldAt b 24 2,
      scaleStride := fieldAt b 26 2 }

/-- The 32 bytes of a matrix record. -/
def encodeMe (r : MeRec) : List Byte :=
  leBytes 1 r.op ++ leBytes 1 (r.wfmt + 16 * r.rfmt)
    ++ leBytes 1 (r.accum.toNat + 2 * r.swap.toNat + 4 * r.indirect.toNat + 8 * r.dest) ++ [0]
    ++ leBytes 4 r.src ++ leBytes 4 r.scaleSrc ++ leBytes 2 r.m ++ leBytes 2 r.accBase ++ leBytes 4 r.rowStride
    ++ leBytes 4 r.dst ++ leBytes 2 r.nActive ++ leBytes 2 r.scaleStride ++ [0, 0, 0, 0]

/-- The vector record of 64 bytes; its reserved fields are ignored (R7, R349). -/
def decodeVe (b : List Byte) : VeRec :=
  let fl := fieldAt b 1 1
  let dt := fieldAt b 41 1
  { op := fieldAt b 0 1, sp := flagBit fl 0, zero := flagBit fl 1, satinf := flagBit fl 2, nextbeat := flagBit fl 3,
      usePred := flagBit fl 4, pred := fl / 32, rows := fieldAt b 2 2, cfg := fieldAt b 4 4, srcA := fieldAt b 8 4,
      srcB := fieldAt b 12 4, dst := fieldAt b 16 4, dstAux := fieldAt b 20 4, aStride := fieldAt b 24 4,
      bStride := fieldAt b 28 4, dStride := fieldAt b 32 4, auxStride := fieldAt b 36 4, aFmt := fieldAt b 40 1 % 16,
      bFmt := fieldAt b 40 1 / 16, dFmt := dt % 16, tslot := dt / 16 % 8, browBase := fieldAt b 42 1,
      bcast := fieldAt b 43 1 % 4, count := fieldAt b 44 2 }

/-- The 64 bytes of a vector record. -/
def encodeVe (r : VeRec) : List Byte :=
  leBytes 1 r.op
    ++ leBytes 1 (r.sp.toNat + 2 * r.zero.toNat + 4 * r.satinf.toNat + 8 * r.nextbeat.toNat + 16 * r.usePred.toNat + 32 * r.pred)
    ++ leBytes 2 r.rows ++ leBytes 4 r.cfg ++ leBytes 4 r.srcA ++ leBytes 4 r.srcB ++ leBytes 4 r.dst ++ leBytes 4 r.dstAux
    ++ leBytes 4 r.aStride ++ leBytes 4 r.bStride ++ leBytes 4 r.dStride ++ leBytes 4 r.auxStride
    ++ leBytes 1 (r.aFmt + 16 * r.bFmt) ++ leBytes 1 (r.dFmt + 16 * r.tslot) ++ leBytes 1 r.browBase ++ leBytes 1 r.bcast
    ++ leBytes 2 r.count ++ List.replicate 18 0

/-- The recurrence record of 64 bytes; its reserved fields are ignored (R7, R350). -/
def decodeRu (b : List Byte) : RuRec :=
  let fl := fieldAt b 1 1
  { op := fieldAt b 0 1, prec := fl % 4, gru := flagBit fl 2, append := flagBit fl 3, hold := flagBit fl 4,
      outAll := flagBit fl 5, tslot := fl / 64 % 2, rows := fieldAt b 2 2, members := fieldAt b 4 4, src := fieldAt b 8 4,
      src2 := fieldAt b 12 4, dst := fieldAt b 16 4, stateOff := fieldAt b 20 4, elems := fieldAt b 24 4,
      bufOff := fieldAt b 28 4, sStride := fieldAt b 32 4, dStride := fieldAt b 36 4, pStride := fieldAt b 40 4,
      tPos := fieldAt b 44 2, layer := fieldAt b 46 2, units := fieldAt b 48 2, count := fieldAt b 50 2,
      unitBytes := fieldAt b 52 2, inFmt := fieldAt b 54 1 % 16, outFmt := fieldAt b 54 1 / 16, delta := fieldAt b 56 4 }

/-- The 64 bytes of a recurrence record. -/
def encodeRu (r : RuRec) : List Byte :=
  leBytes 1 r.op
    ++ leBytes 1 (r.prec + 4 * r.gru.toNat + 8 * r.append.toNat + 16 * r.hold.toNat + 32 * r.outAll.toNat + 64 * r.tslot)
    ++ leBytes 2 r.rows ++ leBytes 4 r.members ++ leBytes 4 r.src ++ leBytes 4 r.src2 ++ leBytes 4 r.dst
    ++ leBytes 4 r.stateOff ++ leBytes 4 r.elems ++ leBytes 4 r.bufOff ++ leBytes 4 r.sStride ++ leBytes 4 r.dStride
    ++ leBytes 4 r.pStride ++ leBytes 2 r.tPos ++ leBytes 2 r.layer ++ leBytes 2 r.units ++ leBytes 2 r.count
    ++ leBytes 2 r.unitBytes ++ leBytes 1 (r.inFmt + 16 * r.outFmt) ++ [0] ++ leBytes 4 r.delta ++ [0, 0, 0, 0]

/-- The 16-byte control and DMA records (R467, R565); their reserved fields are ignored (R7). -/
def decodeCtl (b : List Byte) : Option Rec :=
  let v := fieldAt b 4 4
  let ch := fieldAt b 1 1 % 64
  if b.length < 16 then none
  else match fieldAt b 0 1 with
    | 0x41 => some (.submit ch v)
    | 0x42 => some (.wait ch v)
    | 0x50 => some (.loop (v % 2 ^ 16) (flagBit v 16))
    | 0x51 => if v = 0 then some .endloop else none
    | 0x52 => if v = 0 then some .barrier else none
    | 0x53 => some (.peer (v % 256))
    | 0x54 => if v = 0 then some .fin else none
    | _ => none

/-- The 16 bytes of a control or DMA record. -/
def ctlBytes (op c1 v : Nat) : List Byte := leBytes 1 op ++ leBytes 1 c1 ++ [0, 0] ++ leBytes 4 v ++ List.replicate 8 0

/-- The record at the front of a byte stream (R565). -/
def decodeRec (b : List Byte) : Option Rec :=
  let op := fieldAt b 0 1
  if 1 ≤ op ∧ op ≤ 4 then (if b.length < 32 then none else some (.me (decodeMe b)))
  else if 0x21 ≤ op ∧ op ≤ 0x27 then (if b.length < 64 then none else some (.ve (decodeVe b)))
  else if 0x31 ≤ op ∧ op ≤ 0x38 then (if b.length < 64 then none else some (.ru (decodeRu b)))
  else decodeCtl b

/-- The bytes of a record. -/
def encodeRec : Rec → List Byte
  | .me r => encodeMe r
  | .ve r => encodeVe r
  | .ru r => encodeRu r
  | .loop n beats => ctlBytes 0x50 0 (n + 2 ^ 16 * beats.toNat)
  | .endloop => ctlBytes 0x51 0 0
  | .barrier => ctlBytes 0x52 0 0
  | .peer i => ctlBytes 0x53 0 i
  | .fin => ctlBytes 0x54 0 0
  | .submit c o => ctlBytes 0x41 c o
  | .wait c n => ctlBytes 0x42 c n

/-- The fields of an instruction word (R320). -/
def decodeV (w : Nat) : VInstr where
  opc := w / 2 ^ 26 % 64
  d := w / 2 ^ 21 % 32
  a := w / 2 ^ 16 % 32
  b := w / 2 ^ 11 % 32
  c := w / 2 ^ 6 % 32
  mod := w % 64

/-- The instruction word of its fields. -/
def encodeV (i : VInstr) : Nat := i.opc * 2 ^ 26 + i.d * 2 ^ 21 + i.a * 2 ^ 16 + i.b * 2 ^ 11 + i.c * 2 ^ 6 + i.mod

end Sys2Proof.Machine
end

