-- ==== Sys2Proof/Machine/Regs.lean ====
section
/-! DEFINITION. The register map: every register of the device region (R819, R820) and of the Lighthouse BAR (R826),
with its offset, fields, access codes (R9) and reset values, as the register tables of the chapters give them.
A reset value the tables give as a dash is loaded from the image or OTP (R20): it stands here at the image default the
spec states, else at zero (log entry 1). Bits of no field are reserved and read zero (R16). -/

namespace Sys2Proof.Machine

/-- The access codes of R9. -/
inductive Acc where
  | rw | ro | wo | w1c | w1s | rc | rwl
  deriving DecidableEq, Repr

/-- One field of a register: bits hi down to lo, its access code and its value at reset. -/
structure FieldDef where
  hi : Nat
  lo : Nat
  acc : Acc
  rst : Nat
  deriving DecidableEq, Repr

/-- Whether a register stands alone or is a half of a 64-bit value (R10). -/
inductive RegKind where
  | one | lo | hi
  deriving DecidableEq, Repr

/-- One register: its offset within its block, its name, its kind and its fields. -/
structure RegDef where
  off : Nat
  name : String
  kind : RegKind
  fields : List FieldDef
  deriving DecidableEq, Repr

/-- A field of one register at an absolute offset: bits hi down to lo. -/
structure Fld where
  off : Nat
  hi : Nat
  lo : Nat
  deriving DecidableEq, Repr

/-- A block of the address map: its base, how many of it there are and how far apart they lie. -/
structure Block where
  base : Nat
  count : Nat
  stride : Nat
  regs : List RegDef
  deriving DecidableEq, Repr

/-- The registers of block `hub` (spec file 00/01/14/16) -/
def regsHub : List RegDef := [
  ⟨0x0, "HUB_ID", .one, [⟨31, 16, .ro, 0x4B56⟩, ⟨15, 0, .ro, 6⟩]⟩,
  ⟨0x4, "HUB_REV", .one, [⟨31, 24, .ro, 0xB0⟩, ⟨23, 16, .ro, 3⟩, ⟨15, 8, .ro, 2⟩]⟩,
  ⟨0x8, "HUB_TOPO", .one, [⟨27, 24, .ro, 3⟩, ⟨23, 20, .ro, 4⟩, ⟨19, 16, .ro, 1⟩, ⟨15, 12, .ro, 0xC⟩, ⟨11, 8, .ro, 8⟩, ⟨7, 4, .ro, 1⟩, ⟨3, 0, .ro, 0⟩]⟩,
  ⟨0xC, "HUB_CAPS", .one, [⟨22, 19, .ro, 0xC⟩, ⟨18, 15, .ro, 6⟩, ⟨14, 11, .ro, 8⟩, ⟨10, 4, .ro, 0x40⟩, ⟨3, 0, .ro, 8⟩]⟩,
  ⟨0x10, "HUB_BOOT_STATUS", .one, [⟨31, 16, .ro, 0⟩, ⟨5, 5, .ro, 0⟩, ⟨4, 4, .ro, 0⟩, ⟨3, 0, .ro, 1⟩]⟩,
  ⟨0x14, "HUB_BOOT_ATTEMPTS", .one, [⟨31, 16, .ro, 0⟩, ⟨13, 13, .ro, 0⟩, ⟨12, 12, .ro, 0⟩, ⟨11, 8, .ro, 3⟩, ⟨3, 0, .ro, 0⟩]⟩,
  ⟨0x18, "HUB_BOOT_LAST", .one, [⟨31, 24, .ro, 0⟩, ⟨23, 20, .ro, 0⟩, ⟨19, 19, .ro, 0⟩, ⟨15, 0, .ro, 0⟩]⟩,
  ⟨0x1C, "HUB_BOOT_CTRL", .one, [⟨1, 1, .w1s, 0⟩, ⟨0, 0, .w1s, 0⟩]⟩,
  ⟨0x20, "HUB_IMAGE_A", .one, [⟨31, 31, .ro, 0⟩, ⟨30, 30, .ro, 0⟩, ⟨15, 8, .ro, 0⟩]⟩,
  ⟨0x24, "HUB_IMAGE_B", .one, [⟨31, 31, .ro, 0⟩, ⟨30, 30, .ro, 0⟩, ⟨15, 8, .ro, 0⟩]⟩,
  ⟨0x28, "HUB_IMAGE_A_VER_LO", .lo, [⟨31, 0, .ro, 0⟩]⟩,
  ⟨0x2C, "HUB_IMAGE_A_VER_HI", .hi, [⟨31, 0, .ro, 0⟩]⟩,
  ⟨0x30, "HUB_IMAGE_B_VER_LO", .lo, [⟨31, 0, .ro, 0⟩]⟩,
  ⟨0x34, "HUB_IMAGE_B_VER_HI", .hi, [⟨31, 0, .ro, 0⟩]⟩,
  ⟨0x38, "HUB_NEAP", .one, [⟨31, 31, .ro, 0⟩, ⟨7, 0, .ro, 0⟩]⟩,
  ⟨0x3C, "HUB_FLASH", .one, [⟨31, 31, .ro, 0⟩, ⟨30, 28, .ro, 0⟩, ⟨7, 0, .ro, 0⟩]⟩,
  ⟨0x40, "HUB_READY_TIME_LO", .lo, [⟨31, 0, .ro, 0⟩]⟩,
  ⟨0x44, "HUB_READY_TIME_HI", .hi, [⟨31, 0, .ro, 0⟩]⟩,
  ⟨0x48, "HUB_ALERT", .one, [⟨4, 4, .ro, 0⟩, ⟨3, 3, .ro, 0⟩, ⟨2, 2, .ro, 0⟩, ⟨1, 1, .ro, 0⟩, ⟨0, 0, .ro, 0⟩]⟩]

/-- The registers of block `q` (spec file 05) -/
def regsQ : List RegDef := [
  ⟨0x0, "SQ_BASE_LO", .lo, [⟨31, 12, .rw, 0⟩]⟩,
  ⟨0x4, "SQ_BASE_HI", .hi, [⟨15, 0, .rw, 0⟩]⟩,
  ⟨0x8, "SQ_CFG", .one, [⟨4, 0, .rw, 0⟩]⟩,
  ⟨0xC, "SQ_TAIL", .one, [⟨15, 0, .rw, 0⟩]⟩,
  ⟨0x10, "SQ_HEAD", .one, [⟨15, 0, .ro, 0⟩]⟩,
  ⟨0x18, "RQ_BASE_LO", .lo, [⟨31, 12, .rw, 0⟩]⟩,
  ⟨0x1C, "RQ_BASE_HI", .hi, [⟨15, 0, .rw, 0⟩]⟩,
  ⟨0x20, "RQ_CFG", .one, [⟨4, 0, .rw, 0⟩]⟩,
  ⟨0x24, "RQ_HEAD", .one, [⟨15, 0, .rw, 0⟩]⟩,
  ⟨0x28, "RQ_TAIL", .one, [⟨15, 0, .ro, 0⟩]⟩,
  ⟨0x30, "Q_CTRL", .one, [⟨1, 1, .wo, 0⟩, ⟨0, 0, .rw, 0⟩]⟩,
  ⟨0x34, "Q_STATUS", .one, [⟨4, 4, .ro, 1⟩, ⟨3, 3, .w1c, 0⟩, ⟨2, 2, .w1c, 0⟩, ⟨1, 1, .w1c, 0⟩, ⟨0, 0, .ro, 0⟩]⟩,
  ⟨0x38, "Q_MOD", .one, [⟨25, 16, .rw, 0⟩, ⟨7, 0, .rw, 1⟩]⟩,
  ⟨0x3C, "Q_COUNT", .one, [⟨31, 16, .rc, 0⟩, ⟨8, 0, .ro, 0⟩]⟩]

/-- The registers of block `evq` (spec file 05) -/
def regsEvq : List RegDef := [
  ⟨0x0, "EVQ_BASE_LO", .lo, [⟨31, 12, .rw, 0⟩]⟩,
  ⟨0x4, "EVQ_BASE_HI", .hi, [⟨15, 0, .rw, 0⟩]⟩,
  ⟨0x8, "EVQ_CFG", .one, [⟨8, 8, .rw, 0⟩, ⟨4, 0, .rw, 0⟩]⟩,
  ⟨0xC, "EVQ_HEAD", .one, [⟨15, 0, .rw, 0⟩]⟩,
  ⟨0x10, "EVQ_TAIL", .one, [⟨15, 0, .ro, 0⟩]⟩,
  ⟨0x14, "EVQ_STATUS", .one, [⟨15, 8, .ro, 0⟩, ⟨4, 4, .w1c, 0⟩, ⟨3, 3, .w1c, 0⟩, ⟨2, 2, .ro, 0⟩, ⟨1, 1, .w1c, 0⟩, ⟨0, 0, .ro, 0⟩]⟩,
  ⟨0x18, "EVQ_DROP", .one, [⟨31, 16, .rc, 0⟩, ⟨15, 0, .rc, 0⟩]⟩,
  ⟨0x1C, "EVQ_LOST", .one, [⟨29, 20, .rc, 0⟩, ⟨19, 10, .rc, 0⟩, ⟨9, 0, .rc, 0⟩]⟩,
  ⟨0x20, "EVQ_MOD", .one, [⟨25, 16, .rw, 0⟩, ⟨7, 0, .rw, 1⟩]⟩,
  ⟨0x24, "EVQ_SEQ", .one, [⟨15, 0, .ro, 0⟩]⟩,
  ⟨0x30, "EVQ_TM_CFG", .one, [⟨31, 31, .rw, 0⟩, ⟨27, 0, .rw, 0xFFFFFFF⟩]⟩,
  ⟨0x34, "EVQ_TM_STAT", .one, [⟨31, 31, .w1c, 0⟩, ⟨15, 0, .ro, 0⟩]⟩,
  ⟨0x38, "EVQ_TM_LEVEL", .one, [⟨27, 0, .ro, 0⟩]⟩]

/-- The registers of block `sec` (spec file 15), part 0. -/
def regsSec0 : List RegDef := [
  ⟨0x0, "SEC_LC", .one, [⟨31, 31, .ro, 0⟩, ⟨2, 0, .ro, 0⟩]⟩,
  ⟨0x8, "SEC_UID_LO", .lo, [⟨31, 0, .ro, 0⟩]⟩,
  ⟨0xC, "SEC_UID_HI", .hi, [⟨31, 0, .ro, 0⟩]⟩,
  ⟨0x10, "SEC_KEYS", .one, [⟨31, 31, .ro, 0⟩, ⟨30, 30, .ro, 0⟩, ⟨29, 29, .ro, 0⟩, ⟨11, 8, .ro, 0⟩, ⟨3, 0, .ro, 0⟩]⟩,
  ⟨0x18, "SEC_PKEY_VALID_LO", .lo, [⟨31, 0, .ro, 0⟩]⟩,
  ⟨0x1C, "SEC_PKEY_VALID_HI", .hi, [⟨31, 0, .ro, 0⟩]⟩,
  ⟨0x20, "SEC_PKEY_LOCKED_LO", .lo, [⟨31, 0, .ro, 0⟩]⟩,
  ⟨0x24, "SEC_PKEY_LOCKED_HI", .hi, [⟨31, 0, .ro, 0⟩]⟩,
  ⟨0x28, "SEC_KEY_SEL", .one, [⟨7, 0, .rw, 1⟩]⟩,
  ⟨0x30, "SEC_KEY_CTR_LO", .lo, [⟨31, 0, .ro, 0⟩]⟩,
  ⟨0x34, "SEC_KEY_CTR_HI", .hi, [⟨31, 0, .ro, 0⟩]⟩,
  ⟨0x38, "SEC_KEY_RESERVE_LO", .lo, [⟨31, 0, .ro, 0⟩]⟩,
  ⟨0x3C, "SEC_KEY_RESERVE_HI", .hi, [⟨31, 0, .ro, 0⟩]⟩,
  ⟨0x40, "SEC_KEY_STAT", .one, [⟨31, 31, .ro, 0⟩, ⟨30, 30, .ro, 0⟩, ⟨20, 16, .ro, 0⟩, ⟨8, 0, .ro, 0⟩]⟩,
  ⟨0x48, "SEC_FLOOR_MAKER_LO", .lo, [⟨31, 0, .ro, 0⟩]⟩,
  ⟨0x4C, "SEC_FLOOR_MAKER_HI", .hi, [⟨31, 0, .ro, 0⟩]⟩,
  ⟨0x50, "SEC_FLOOR_OWNER_LO", .lo, [⟨31, 0, .ro, 0⟩]⟩,
  ⟨0x54, "SEC_FLOOR_OWNER_HI", .hi, [⟨31, 0, .ro, 0⟩]⟩,
  ⟨0x58, "SEC_FLOOR", .one, [⟨14, 8, .ro, 0⟩, ⟨6, 0, .ro, 0⟩]⟩,
  ⟨0x60, "SEC_DEBUG", .one, [⟨4, 4, .ro, 0⟩, ⟨3, 3, .ro, 0⟩, ⟨2, 2, .ro, 0⟩, ⟨1, 1, .ro, 0⟩, ⟨0, 0, .ro, 0⟩]⟩,
  ⟨0x64, "SEC_RNG", .one, [⟨31, 0, .ro, 0⟩]⟩,
  ⟨0x68, "SEC_FAULT", .one, [⟨31, 31, .ro, 0⟩, ⟨7, 0, .ro, 0⟩]⟩,
  ⟨0x80, "SEC_DBG_CHAL0", .one, [⟨31, 0, .ro, 0⟩]⟩,
  ⟨0x84, "SEC_DBG_CHAL1", .one, [⟨31, 0, .ro, 0⟩]⟩]

/-- The registers of block `sec` (spec file 15), part 1. -/
def regsSec1 : List RegDef := [
  ⟨0x88, "SEC_DBG_CHAL2", .one, [⟨31, 0, .ro, 0⟩]⟩,
  ⟨0x8C, "SEC_DBG_CHAL3", .one, [⟨31, 0, .ro, 0⟩]⟩,
  ⟨0x90, "SEC_DBG_CHAL4", .one, [⟨31, 0, .ro, 0⟩]⟩,
  ⟨0x94, "SEC_DBG_CHAL5", .one, [⟨31, 0, .ro, 0⟩]⟩,
  ⟨0x98, "SEC_DBG_CHAL6", .one, [⟨31, 0, .ro, 0⟩]⟩,
  ⟨0x9C, "SEC_DBG_CHAL7", .one, [⟨31, 0, .ro, 0⟩]⟩,
  ⟨0xA0, "SEC_DBG_RESP0", .one, [⟨31, 0, .wo, 0⟩]⟩,
  ⟨0xA4, "SEC_DBG_RESP1", .one, [⟨31, 0, .wo, 0⟩]⟩,
  ⟨0xA8, "SEC_DBG_RESP2", .one, [⟨31, 0, .wo, 0⟩]⟩,
  ⟨0xAC, "SEC_DBG_RESP3", .one, [⟨31, 0, .wo, 0⟩]⟩,
  ⟨0xB0, "SEC_DBG_RESP4", .one, [⟨31, 0, .wo, 0⟩]⟩,
  ⟨0xB4, "SEC_DBG_RESP5", .one, [⟨31, 0, .wo, 0⟩]⟩,
  ⟨0xB8, "SEC_DBG_RESP6", .one, [⟨31, 0, .wo, 0⟩]⟩,
  ⟨0xBC, "SEC_DBG_RESP7", .one, [⟨31, 0, .wo, 0⟩]⟩,
  ⟨0xC0, "SEC_OTP_PROG", .one, [⟨31, 0, .wo, 0⟩]⟩]

/-- The registers of block `sec` (spec file 15). -/
def regsSec : List RegDef := regsSec0 ++ regsSec1

/-- The registers of block `ap` (spec file 03), part 0. -/
def regsAp0 : List RegDef := [
  ⟨0x0, "AP_CTRL", .one, [⟨4, 4, .rw, 0⟩, ⟨3, 2, .rw, 0⟩, ⟨0, 0, .rw, 0⟩]⟩,
  ⟨0x4, "AP_CFG", .one, [⟨29, 28, .rw, 0⟩, ⟨27, 26, .rw, 0⟩, ⟨25, 24, .rw, 0⟩, ⟨23, 19, .rw, 0⟩, ⟨18, 16, .rw, 0⟩, ⟨15, 8, .rw, 0⟩, ⟨7, 5, .rw, 0⟩, ⟨4, 4, .rw, 0⟩, ⟨3, 3, .rw, 0⟩, ⟨2, 2, .rw, 0⟩, ⟨1, 0, .rw, 0⟩]⟩,
  ⟨0x8, "AP_FRAME", .one, [⟨16, 16, .rw, 0⟩, ⟨11, 0, .ro, 0⟩]⟩,
  ⟨0xC, "AP_FLOOD_MASK", .one, [⟨31, 0, .rw, 0⟩]⟩,
  ⟨0x10, "AP_EBB_MASK", .one, [⟨31, 0, .rw, 0⟩]⟩,
  ⟨0x14, "AP_STATUS", .one, [⟨31, 24, .ro, 0⟩, ⟨9, 9, .ro, 0⟩, ⟨8, 8, .ro, 0⟩, ⟨7, 7, .ro, 0⟩, ⟨6, 6, .w1c, 0⟩, ⟨5, 5, .w1c, 0⟩, ⟨4, 4, .ro, 0⟩, ⟨3, 2, .ro, 3⟩, ⟨1, 1, .ro, 0⟩, ⟨0, 0, .ro, 0⟩]⟩,
  ⟨0x18, "AP_RING_BASE_LO", .lo, [⟨31, 12, .ro, 0⟩, ⟨5, 0, .ro, 0⟩]⟩,
  ⟨0x1C, "AP_RING_BASE_HI", .hi, [⟨15, 0, .ro, 0⟩]⟩,
  ⟨0x20, "AP_RING_BASE_NEXT_LO", .lo, [⟨31, 12, .rw, 0⟩, ⟨5, 0, .rw, 0⟩]⟩,
  ⟨0x24, "AP_RING_BASE_NEXT_HI", .hi, [⟨15, 0, .rw, 0⟩]⟩,
  ⟨0x28, "AP_IDX_LO", .lo, [⟨31, 0, .ro, 0⟩]⟩,
  ⟨0x2C, "AP_IDX_HI", .hi, [⟨31, 0, .ro, 0⟩]⟩,
  ⟨0x30, "AP_SYNC_IDX_LO", .lo, [⟨31, 0, .ro, 0⟩]⟩,
  ⟨0x34, "AP_SYNC_IDX_HI", .hi, [⟨31, 0, .ro, 0⟩]⟩,
  ⟨0x38, "AP_SYNC_TIME_LO", .lo, [⟨31, 0, .ro, 0⟩]⟩,
  ⟨0x3C, "AP_SYNC_TIME_HI", .hi, [⟨31, 0, .ro, 0⟩]⟩,
  ⟨0x40, "AP_COMMIT_IDX_LO", .lo, [⟨31, 0, .ro, 0⟩]⟩,
  ⟨0x44, "AP_COMMIT_IDX_HI", .hi, [⟨31, 0, .ro, 0⟩]⟩,
  ⟨0x48, "AP_COMMIT_TIME_LO", .lo, [⟨31, 0, .ro, 0⟩]⟩,
  ⟨0x4C, "AP_COMMIT_TIME_HI", .hi, [⟨31, 0, .ro, 0⟩]⟩,
  ⟨0x50, "AP_COMMIT_EBB", .one, [⟨31, 0, .ro, 0⟩]⟩,
  ⟨0x60, "AP_FLOOD_TM_CFG", .one, [⟨31, 31, .rw, 0⟩, ⟨27, 0, .rw, 0xFFFFFFF⟩]⟩,
  ⟨0x64, "AP_FLOOD_TM_STAT", .one, [⟨31, 31, .w1c, 0⟩, ⟨15, 0, .ro, 0⟩]⟩,
  ⟨0x68, "AP_FLOOD_TM_LEVEL", .one, [⟨27, 0, .ro, 0⟩]⟩]

/-- The registers of block `ap` (spec file 03), part 1. -/
def regsAp1 : List RegDef := [
  ⟨0x70, "AP_EBB_TM_CFG", .one, [⟨31, 31, .rw, 0⟩, ⟨27, 0, .rw, 0xFFFFFFF⟩]⟩,
  ⟨0x74, "AP_EBB_TM_STAT", .one, [⟨31, 31, .w1c, 0⟩, ⟨15, 0, .ro, 0⟩]⟩,
  ⟨0x78, "AP_EBB_TM_LEVEL", .one, [⟨27, 0, .ro, 0⟩]⟩,
  ⟨0x80, "AP_VAD_CFG", .one, [⟨31, 25, .rw, 0x2D⟩, ⟨24, 19, .rw, 6⟩, ⟨15, 8, .rw, 0xC8⟩, ⟨3, 0, .rw, 3⟩]⟩,
  ⟨0x84, "AP_VAD_EN", .one, [⟨31, 0, .rw, 0⟩]⟩,
  ⟨0x88, "AP_VAD_FLAG", .one, [⟨31, 0, .ro, 0⟩]⟩,
  ⟨0x8C, "AP_VAD_SOFT", .one, [⟨31, 0, .rw, 0⟩]⟩,
  ⟨0x90, "AP_CUT", .one, [⟨31, 0, .w1c, 0⟩]⟩,
  ⟨0xA0, "AP_ERRCNT", .one, [⟨31, 16, .rc, 0⟩, ⟨15, 0, .rc, 0⟩]⟩,
  ⟨0xC0, "AP_PAIR0", .one, [⟨31, 31, .ro, 0⟩, ⟨28, 24, .ro, 0⟩, ⟨23, 23, .ro, 0⟩, ⟨20, 16, .ro, 0⟩, ⟨15, 15, .ro, 0⟩, ⟨12, 8, .ro, 0⟩, ⟨7, 7, .ro, 0⟩, ⟨4, 0, .ro, 0⟩]⟩,
  ⟨0xC4, "AP_PAIR1", .one, [⟨31, 31, .ro, 0⟩, ⟨28, 24, .ro, 0⟩, ⟨23, 23, .ro, 0⟩, ⟨20, 16, .ro, 0⟩, ⟨15, 15, .ro, 0⟩, ⟨12, 8, .ro, 0⟩, ⟨7, 7, .ro, 0⟩, ⟨4, 0, .ro, 0⟩]⟩,
  ⟨0xC8, "AP_PAIR2", .one, [⟨31, 31, .ro, 0⟩, ⟨28, 24, .ro, 0⟩, ⟨23, 23, .ro, 0⟩, ⟨20, 16, .ro, 0⟩, ⟨15, 15, .ro, 0⟩, ⟨12, 8, .ro, 0⟩, ⟨7, 7, .ro, 0⟩, ⟨4, 0, .ro, 0⟩]⟩,
  ⟨0xCC, "AP_PAIR3", .one, [⟨31, 31, .ro, 0⟩, ⟨28, 24, .ro, 0⟩, ⟨23, 23, .ro, 0⟩, ⟨20, 16, .ro, 0⟩, ⟨15, 15, .ro, 0⟩, ⟨12, 8, .ro, 0⟩, ⟨7, 7, .ro, 0⟩, ⟨4, 0, .ro, 0⟩]⟩,
  ⟨0xD0, "AP_PAIR4", .one, [⟨31, 31, .ro, 0⟩, ⟨28, 24, .ro, 0⟩, ⟨23, 23, .ro, 0⟩, ⟨20, 16, .ro, 0⟩, ⟨15, 15, .ro, 0⟩, ⟨12, 8, .ro, 0⟩, ⟨7, 7, .ro, 0⟩, ⟨4, 0, .ro, 0⟩]⟩,
  ⟨0xD4, "AP_PAIR5", .one, [⟨31, 31, .ro, 0⟩, ⟨28, 24, .ro, 0⟩, ⟨23, 23, .ro, 0⟩, ⟨20, 16, .ro, 0⟩, ⟨15, 15, .ro, 0⟩, ⟨12, 8, .ro, 0⟩, ⟨7, 7, .ro, 0⟩, ⟨4, 0, .ro, 0⟩]⟩,
  ⟨0xD8, "AP_PAIR6", .one, [⟨31, 31, .ro, 0⟩, ⟨28, 24, .ro, 0⟩, ⟨23, 23, .ro, 0⟩, ⟨20, 16, .ro, 0⟩, ⟨15, 15, .ro, 0⟩, ⟨12, 8, .ro, 0⟩, ⟨7, 7, .ro, 0⟩, ⟨4, 0, .ro, 0⟩]⟩,
  ⟨0xDC, "AP_PAIR7", .one, [⟨31, 31, .ro, 0⟩, ⟨28, 24, .ro, 0⟩, ⟨23, 23, .ro, 0⟩, ⟨20, 16, .ro, 0⟩, ⟨15, 15, .ro, 0⟩, ⟨12, 8, .ro, 0⟩, ⟨7, 7, .ro, 0⟩, ⟨4, 0, .ro, 0⟩]⟩]

/-- The registers of block `ap` (spec file 03). -/
def regsAp : List RegDef := regsAp0 ++ regsAp1

/-- The registers of block `acs` (spec file 04) -/
def regsAcs : List RegDef := [
  ⟨0x0, "ACS_CTRL", .one, [⟨10, 8, .rw, 0⟩, ⟨5, 4, .rw, 0⟩, ⟨3, 3, .rw, 0⟩, ⟨2, 1, .rw, 0⟩, ⟨0, 0, .rw, 0⟩]⟩,
  ⟨0x4, "ACS_BW", .one, [⟨15, 0, .rw, 0xA⟩]⟩,
  ⟨0x8, "ACS_PULL_SET", .one, [⟨31, 0, .rw, 0⟩]⟩,
  ⟨0xC, "ACS_PULL_LIM", .one, [⟨18, 0, .rw, 0x7A120⟩]⟩,
  ⟨0x10, "ACS_PULL_NOW", .one, [⟨31, 0, .ro, 0⟩]⟩,
  ⟨0x14, "ACS_STATUS", .one, [⟨15, 8, .ro, 0⟩, ⟨4, 4, .w1c, 0⟩, ⟨3, 3, .ro, 0⟩, ⟨2, 0, .ro, 0⟩]⟩,
  ⟨0x18, "ACS_FREQ_MEAS", .one, [⟨31, 0, .ro, 0⟩]⟩]

/-- The registers of block `apd` (spec file 04) -/
def regsApd : List RegDef := [
  ⟨0x0, "APD_ANCHOR_IDX_LO", .lo, [⟨31, 0, .ro, 0⟩]⟩,
  ⟨0x4, "APD_ANCHOR_IDX_HI", .hi, [⟨31, 0, .ro, 0⟩]⟩,
  ⟨0x8, "APD_ANCHOR_TIME_LO", .lo, [⟨31, 0, .ro, 0⟩]⟩,
  ⟨0xC, "APD_ANCHOR_TIME_HI", .hi, [⟨31, 0, .ro, 0⟩]⟩,
  ⟨0x10, "APD_PHASE", .one, [⟨31, 0, .ro, 0⟩]⟩,
  ⟨0x14, "APD_STATUS", .one, [⟨1, 1, .ro, 0⟩, ⟨0, 0, .ro, 0⟩]⟩,
  ⟨0x18, "APD_SLIPS", .one, [⟨31, 16, .rc, 0⟩, ⟨15, 0, .rc, 0⟩]⟩,
  ⟨0x1C, "APD_GUARD", .one, [⟨15, 0, .ro, 0⟩]⟩]

/-- The registers of block `dma` (spec file 10) -/
def regsDma : List RegDef := [
  ⟨0x0, "DMA_CH_OWNER", .one, [⟨31, 31, .ro, 1⟩, ⟨5, 0, .ro, 0⟩]⟩,
  ⟨0x4, "DMA_CH_CTRL", .one, [⟨1, 1, .w1s, 0⟩, ⟨0, 0, .rw, 0⟩]⟩,
  ⟨0x8, "DMA_CH_STATUS", .one, [⟨31, 24, .ro, 0⟩, ⟨7, 7, .w1c, 0⟩, ⟨6, 6, .w1c, 0⟩, ⟨5, 5, .ro, 1⟩, ⟨4, 4, .w1c, 0⟩, ⟨3, 3, .w1c, 0⟩, ⟨1, 1, .ro, 1⟩, ⟨0, 0, .ro, 0⟩]⟩,
  ⟨0x10, "DMA_CH_RING_BASE_LO", .lo, [⟨31, 6, .rw, 0⟩]⟩,
  ⟨0x14, "DMA_CH_RING_BASE_HI", .hi, [⟨15, 0, .rw, 0⟩]⟩,
  ⟨0x18, "DMA_CH_RING_CFG", .one, [⟨4, 0, .rw, 0⟩]⟩,
  ⟨0x1C, "DMA_CH_TAIL", .one, [⟨15, 0, .rw, 0⟩]⟩,
  ⟨0x20, "DMA_CH_HEAD", .one, [⟨15, 0, .ro, 0⟩]⟩,
  ⟨0x28, "DMA_CH_DONE_LO", .lo, [⟨31, 0, .ro, 0⟩]⟩,
  ⟨0x2C, "DMA_CH_DONE_HI", .hi, [⟨31, 0, .ro, 0⟩]⟩,
  ⟨0x30, "DMA_CH_RESIDUE_LO", .lo, [⟨31, 0, .ro, 0⟩]⟩,
  ⟨0x34, "DMA_CH_RESIDUE_HI", .hi, [⟨31, 0, .ro, 0⟩]⟩,
  ⟨0x38, "DMA_CH_BYTES_LO", .lo, [⟨31, 0, .ro, 0⟩]⟩,
  ⟨0x3C, "DMA_CH_BYTES_HI", .hi, [⟨31, 0, .ro, 0⟩]⟩,
  ⟨0x40, "DMA_CH_TM_CFG", .one, [⟨31, 31, .rw, 0⟩, ⟨27, 0, .rw, 0xFFFFFFF⟩]⟩,
  ⟨0x44, "DMA_CH_TM_STAT", .one, [⟨31, 31, .w1c, 0⟩, ⟨15, 0, .ro, 0⟩]⟩,
  ⟨0x48, "DMA_CH_TM_LEVEL", .one, [⟨27, 0, .ro, 0⟩]⟩]

/-- The registers of block `dmag` (spec file 10) -/
def regsDmag : List RegDef := [
  ⟨0x0, "DMA_CAPS", .one, [⟨31, 24, .ro, 0x40⟩, ⟨23, 16, .ro, 0x20⟩, ⟨15, 8, .ro, 8⟩]⟩,
  ⟨0x8, "DMA_CHUNK_BASE_LO", .lo, [⟨31, 30, .rwl, 3⟩]⟩,
  ⟨0xC, "DMA_CHUNK_BASE_HI", .hi, [⟨31, 0, .rwl, 0x5F⟩]⟩,
  ⟨0x10, "DMA_PORT_DEFER", .one, [⟨15, 0, .rc, 0⟩]⟩,
  ⟨0x14, "DMA_FAULT", .one, [⟨31, 31, .ro, 0⟩, ⟨7, 0, .ro, 0⟩]⟩,
  ⟨0x18, "DMA_PORT_LAT_MAX", .one, [⟨15, 0, .rc, 0⟩]⟩]

/-- The registers of block `mcg` (spec file 11) -/
def regsMcg : List RegDef := [
  ⟨0x0, "MC_CAPS", .one, [⟨31, 24, .ro, 0xC⟩, ⟨23, 16, .ro, 0x10⟩, ⟨15, 0, .ro, 0x180⟩]⟩,
  ⟨0x4, "MC_DIE_SLOTS", .one, [⟨31, 24, .rwl, 0x28⟩, ⟨23, 16, .rwl, 0x28⟩, ⟨15, 8, .rwl, 0x28⟩, ⟨7, 0, .rwl, 0x28⟩]⟩,
  ⟨0x8, "MC_MOD_BASE_LO", .lo, [⟨31, 30, .rwl, 0⟩]⟩,
  ⟨0xC, "MC_MOD_BASE_HI", .hi, [⟨31, 0, .rwl, 0x5C⟩]⟩,
  ⟨0x10, "MC_SCRUB_CFG", .one, [⟨15, 0, .rwl, 0xE10⟩]⟩,
  ⟨0x14, "MC_SCRUB_STAT", .one, [⟨31, 16, .rc, 0⟩, ⟨15, 0, .ro, 0⟩]⟩,
  ⟨0x18, "MC_ZERO", .one, [⟨22, 0, .ro, 0⟩]⟩,
  ⟨0x1C, "MC_REFRESH", .one, [⟨15, 8, .ro, 0⟩, ⟨1, 0, .ro, 0⟩]⟩,
  ⟨0x20, "MC_FAULT", .one, [⟨31, 31, .ro, 0⟩, ⟨7, 0, .ro, 0⟩]⟩,
  ⟨0x28, "MC_UE_ADDR_LO", .lo, [⟨31, 0, .ro, 0⟩]⟩,
  ⟨0x2C, "MC_UE_ADDR_HI", .hi, [⟨31, 0, .ro, 0⟩]⟩,
  ⟨0x30, "MC_FRL_NAN", .one, [⟨15, 0, .rc, 0⟩]⟩]

/-- The registers of block `mc` (spec file 11) -/
def regsMc : List RegDef := [
  ⟨0x0, "MC_STATUS", .one, [⟨7, 4, .ro, 0⟩, ⟨0, 0, .ro, 0⟩]⟩,
  ⟨0x4, "MC_ECC", .one, [⟨31, 16, .rc, 0⟩, ⟨15, 0, .rc, 0⟩]⟩,
  ⟨0x8, "MC_LINK_ECC", .one, [⟨15, 0, .rc, 0⟩]⟩,
  ⟨0xC, "MC_POISON", .one, [⟨23, 0, .ro, 0⟩]⟩,
  ⟨0x10, "MC_DEC_BLOCKS_LO", .lo, [⟨31, 0, .ro, 0⟩]⟩,
  ⟨0x14, "MC_DEC_BLOCKS_HI", .hi, [⟨31, 0, .ro, 0⟩]⟩,
  ⟨0x18, "MC_DEC_IN_LO", .lo, [⟨31, 0, .ro, 0⟩]⟩,
  ⟨0x1C, "MC_DEC_IN_HI", .hi, [⟨31, 0, .ro, 0⟩]⟩,
  ⟨0x20, "MC_DEC_OUT_LO", .lo, [⟨31, 0, .ro, 0⟩]⟩,
  ⟨0x24, "MC_DEC_OUT_HI", .hi, [⟨31, 0, .ro, 0⟩]⟩]

/-- The registers of block `xl` (spec file 11) -/
def regsXl : List RegDef := [
  ⟨0x0, "XL_TABLE_BASE_LO", .lo, [⟨31, 30, .rwl, 0⟩]⟩,
  ⟨0x4, "XL_TABLE_BASE_HI", .hi, [⟨31, 0, .rwl, 0x5C⟩]⟩,
  ⟨0x8, "XL_TABLE_MIB", .one, [⟨15, 0, .rwl, 0x800⟩]⟩,
  ⟨0x10, "XL_FAULT", .one, [⟨31, 31, .ro, 0⟩, ⟨7, 0, .ro, 0⟩]⟩,
  ⟨0x18, "XL_FAULT_VA_LO", .lo, [⟨31, 0, .ro, 0⟩]⟩,
  ⟨0x1C, "XL_FAULT_VA_HI", .hi, [⟨31, 0, .ro, 0⟩]⟩,
  ⟨0x20, "XL_FAULT_PTR_LO", .lo, [⟨31, 0, .ro, 0⟩]⟩,
  ⟨0x24, "XL_FAULT_PTR_HI", .hi, [⟨31, 0, .ro, 0⟩]⟩,
  ⟨0x28, "XL_POOL_ZERO", .one, [⟨15, 0, .rc, 0⟩]⟩,
  ⟨0x30, "XL_WALKS_LO", .lo, [⟨31, 0, .ro, 0⟩]⟩,
  ⟨0x34, "XL_WALKS_HI", .hi, [⟨31, 0, .ro, 0⟩]⟩]

/-- The registers of block `xlroot` (spec file 11) -/
def regsXlroot : List RegDef := [
  ⟨0x0, "XL_ROOT_LO", .lo, [⟨31, 12, .ro, 0⟩]⟩,
  ⟨0x4, "XL_ROOT_HI", .hi, [⟨31, 0, .ro, 0⟩]⟩]

/-- The registers of block `tp` (spec file 09) -/
def regsTp : List RegDef := [
  ⟨0x0, "TP_CAPS", .one, [⟨31, 16, .ro, 0x4000⟩, ⟨15, 0, .ro, 0x10⟩]⟩,
  ⟨0x4, "TP_FREE", .one, [⟨30, 16, .ro, 0⟩, ⟨14, 0, .ro, 0x4000⟩]⟩,
  ⟨0x8, "TP_FREE_MIN", .one, [⟨14, 0, .rwl, 0x400⟩]⟩,
  ⟨0xC, "TP_SWAP_CFG", .one, [⟨30, 16, .rwl, 0x600⟩, ⟨14, 0, .rwl, 0x300⟩]⟩,
  ⟨0x10, "TP_TM_CFG", .one, [⟨31, 31, .rw, 0⟩, ⟨27, 0, .rw, 0xFFFFFFF⟩]⟩,
  ⟨0x14, "TP_TM_STAT", .one, [⟨31, 31, .w1c, 0⟩, ⟨15, 0, .ro, 0⟩]⟩,
  ⟨0x18, "TP_TM_LEVEL", .one, [⟨27, 0, .ro, 0⟩]⟩,
  ⟨0x1C, "TP_ZERO", .one, [⟨14, 0, .ro, 0⟩]⟩,
  ⟨0x20, "TP_SCRUB_CFG", .one, [⟨15, 0, .rwl, 0x3E8⟩]⟩,
  ⟨0x24, "TP_SCRUB_STAT", .one, [⟨31, 16, .rc, 0⟩, ⟨15, 0, .ro, 0⟩]⟩,
  ⟨0x28, "TP_ECC", .one, [⟨31, 16, .rc, 0⟩, ⟨15, 0, .rc, 0⟩]⟩,
  ⟨0x2C, "TP_FAULT", .one, [⟨31, 31, .ro, 0⟩, ⟨7, 0, .ro, 0⟩]⟩,
  ⟨0x30, "TP_SWAP_STAT", .one, [⟨31, 16, .rc, 0⟩, ⟨15, 0, .rc, 0⟩]⟩,
  ⟨0x40, "TP_SWAP_IN_LO", .lo, [⟨31, 0, .ro, 0⟩]⟩,
  ⟨0x44, "TP_SWAP_IN_HI", .hi, [⟨31, 0, .ro, 0⟩]⟩,
  ⟨0x48, "TP_SWAP_OUT_LO", .lo, [⟨31, 0, .ro, 0⟩]⟩,
  ⟨0x4C, "TP_SWAP_OUT_HI", .hi, [⟨31, 0, .ro, 0⟩]⟩,
  ⟨0x50, "TP_CKPT_SENT_LO", .lo, [⟨31, 0, .ro, 0⟩]⟩,
  ⟨0x54, "TP_CKPT_SENT_HI", .hi, [⟨31, 0, .ro, 0⟩]⟩,
  ⟨0x60, "TP_CKPT_TARGET", .one, [⟨31, 31, .ro, 0⟩, ⟨3, 0, .ro, 0⟩]⟩,
  ⟨0x64, "TP_CKPT_STAT", .one, [⟨31, 16, .ro, 0⟩, ⟨15, 0, .rc, 0⟩]⟩,
  ⟨0x68, "TP_CKPT_AREA", .one, [⟨15, 0, .rwl, 0x2000⟩]⟩]

/-- The registers of block `disp` (spec file 12), part 0. -/
def regsDisp0 : List RegDef := [
  ⟨0x0, "DISP_CAPS", .one, [⟨31, 24, .ro, 0x40⟩, ⟨23, 16, .ro, 0x40⟩, ⟨15, 0, .ro, 0x3FF⟩]⟩,
  ⟨0x10, "DISP_PART_SEL", .one, [⟨5, 0, .rw, 0⟩]⟩,
  ⟨0x14, "DISP_PART_STATE", .one, [⟨31, 24, .ro, 0⟩, ⟨23, 16, .ro, 0⟩, ⟨1, 0, .ro, 0⟩]⟩,
  ⟨0x40, "DISP_PART_QUOTA0", .one, [⟨31, 0, .ro, 0⟩]⟩,
  ⟨0x44, "DISP_PART_QUOTA1", .one, [⟨31, 0, .ro, 0⟩]⟩,
  ⟨0x48, "DISP_PART_QUOTA2", .one, [⟨31, 0, .ro, 0⟩]⟩,
  ⟨0x4C, "DISP_PART_QUOTA3", .one, [⟨31, 0, .ro, 0⟩]⟩,
  ⟨0x50, "DISP_PART_QUOTA4", .one, [⟨31, 0, .ro, 0⟩]⟩,
  ⟨0x54, "DISP_PART_QUOTA5", .one, [⟨31, 0, .ro, 0⟩]⟩,
  ⟨0x58, "DISP_PART_QUOTA6", .one, [⟨31, 0, .ro, 0⟩]⟩,
  ⟨0x5C, "DISP_PART_QUOTA7", .one, [⟨31, 0, .ro, 0⟩]⟩,
  ⟨0x60, "DISP_PART_QUOTA8", .one, [⟨31, 0, .ro, 0⟩]⟩,
  ⟨0x64, "DISP_PART_QUOTA9", .one, [⟨31, 0, .ro, 0⟩]⟩,
  ⟨0x68, "DISP_PART_QUOTA10", .one, [⟨31, 0, .ro, 0⟩]⟩,
  ⟨0x6C, "DISP_PART_QUOTA11", .one, [⟨31, 0, .ro, 0⟩]⟩,
  ⟨0x70, "DISP_PART_QUOTA12", .one, [⟨31, 0, .ro, 0⟩]⟩,
  ⟨0x74, "DISP_PART_QUOTA13", .one, [⟨31, 0, .ro, 0⟩]⟩,
  ⟨0x78, "DISP_PART_QUOTA14", .one, [⟨31, 0, .ro, 0⟩]⟩,
  ⟨0x7C, "DISP_PART_QUOTA15", .one, [⟨31, 0, .ro, 0⟩]⟩,
  ⟨0x80, "DISP_PART_QUOTA16", .one, [⟨31, 0, .ro, 0⟩]⟩,
  ⟨0x84, "DISP_PART_QUOTA17", .one, [⟨31, 0, .ro, 0⟩]⟩,
  ⟨0x88, "DISP_PART_QUOTA18", .one, [⟨31, 0, .ro, 0⟩]⟩,
  ⟨0x8C, "DISP_PART_QUOTA19", .one, [⟨31, 0, .ro, 0⟩]⟩,
  ⟨0x90, "DISP_PART_QUOTA20", .one, [⟨31, 0, .ro, 0⟩]⟩]

/-- The registers of block `disp` (spec file 12), part 1. -/
def regsDisp1 : List RegDef := [
  ⟨0x94, "DISP_PART_QUOTA21", .one, [⟨31, 0, .ro, 0⟩]⟩,
  ⟨0x98, "DISP_PART_QUOTA22", .one, [⟨31, 0, .ro, 0⟩]⟩,
  ⟨0x9C, "DISP_PART_QUOTA23", .one, [⟨31, 0, .ro, 0⟩]⟩,
  ⟨0xA0, "DISP_PART_USE0", .one, [⟨30, 16, .ro, 0⟩, ⟨12, 0, .ro, 0⟩]⟩,
  ⟨0xA4, "DISP_PART_USE1", .one, [⟨31, 24, .ro, 0⟩, ⟨22, 16, .ro, 0⟩, ⟨15, 0, .ro, 0⟩]⟩,
  ⟨0xB0, "DISP_PART_BUDGET0", .one, [⟨11, 0, .ro, 0⟩, ⟨25, 16, .ro, 0⟩]⟩,
  ⟨0xB4, "DISP_PART_BUDGET1", .one, [⟨11, 0, .ro, 0⟩, ⟨25, 16, .ro, 0⟩]⟩,
  ⟨0xB8, "DISP_PART_BUDGET2", .one, [⟨11, 0, .ro, 0⟩, ⟨25, 16, .ro, 0⟩]⟩,
  ⟨0xBC, "DISP_PART_BUDGET3", .one, [⟨11, 0, .ro, 0⟩, ⟨25, 16, .ro, 0⟩]⟩,
  ⟨0xC0, "DISP_PART_BUDGET4", .one, [⟨11, 0, .ro, 0⟩, ⟨25, 16, .ro, 0⟩]⟩,
  ⟨0xC4, "DISP_PART_BUDGET5", .one, [⟨11, 0, .ro, 0⟩, ⟨25, 16, .ro, 0⟩]⟩,
  ⟨0xC8, "DISP_PART_BUDGET6", .one, [⟨11, 0, .ro, 0⟩, ⟨25, 16, .ro, 0⟩]⟩,
  ⟨0xCC, "DISP_PART_BUDGET7", .one, [⟨11, 0, .ro, 0⟩, ⟨25, 16, .ro, 0⟩]⟩,
  ⟨0x100, "DISP_CORE0", .one, [⟨31, 31, .ro, 0⟩, ⟨30, 30, .ro, 0⟩, ⟨29, 29, .ro, 0⟩, ⟨28, 28, .ro, 0⟩, ⟨21, 16, .ro, 0⟩, ⟨15, 0, .ro, 0⟩]⟩,
  ⟨0x104, "DISP_CORE1", .one, [⟨31, 31, .ro, 0⟩, ⟨30, 30, .ro, 0⟩, ⟨29, 29, .ro, 0⟩, ⟨28, 28, .ro, 0⟩, ⟨21, 16, .ro, 0⟩, ⟨15, 0, .ro, 0⟩]⟩,
  ⟨0x108, "DISP_CORE2", .one, [⟨31, 31, .ro, 0⟩, ⟨30, 30, .ro, 0⟩, ⟨29, 29, .ro, 0⟩, ⟨28, 28, .ro, 0⟩, ⟨21, 16, .ro, 0⟩, ⟨15, 0, .ro, 0⟩]⟩,
  ⟨0x10C, "DISP_CORE3", .one, [⟨31, 31, .ro, 0⟩, ⟨30, 30, .ro, 0⟩, ⟨29, 29, .ro, 0⟩, ⟨28, 28, .ro, 0⟩, ⟨21, 16, .ro, 0⟩, ⟨15, 0, .ro, 0⟩]⟩,
  ⟨0x110, "DISP_CORE4", .one, [⟨31, 31, .ro, 0⟩, ⟨30, 30, .ro, 0⟩, ⟨29, 29, .ro, 0⟩, ⟨28, 28, .ro, 0⟩, ⟨21, 16, .ro, 0⟩, ⟨15, 0, .ro, 0⟩]⟩,
  ⟨0x114, "DISP_CORE5", .one, [⟨31, 31, .ro, 0⟩, ⟨30, 30, .ro, 0⟩, ⟨29, 29, .ro, 0⟩, ⟨28, 28, .ro, 0⟩, ⟨21, 16, .ro, 0⟩, ⟨15, 0, .ro, 0⟩]⟩,
  ⟨0x118, "DISP_CORE6", .one, [⟨31, 31, .ro, 0⟩, ⟨30, 30, .ro, 0⟩, ⟨29, 29, .ro, 0⟩, ⟨28, 28, .ro, 0⟩, ⟨21, 16, .ro, 0⟩, ⟨15, 0, .ro, 0⟩]⟩,
  ⟨0x11C, "DISP_CORE7", .one, [⟨31, 31, .ro, 0⟩, ⟨30, 30, .ro, 0⟩, ⟨29, 29, .ro, 0⟩, ⟨28, 28, .ro, 0⟩, ⟨21, 16, .ro, 0⟩, ⟨15, 0, .ro, 0⟩]⟩,
  ⟨0x120, "DISP_CORE0_SPAD", .one, [⟨25, 16, .ro, 0⟩, ⟨9, 0, .ro, 0x200⟩]⟩,
  ⟨0x124, "DISP_CORE1_SPAD", .one, [⟨25, 16, .ro, 0⟩, ⟨9, 0, .ro, 0x200⟩]⟩,
  ⟨0x128, "DISP_CORE2_SPAD", .one, [⟨25, 16, .ro, 0⟩, ⟨9, 0, .ro, 0x200⟩]⟩]

/-- The registers of block `disp` (spec file 12), part 2. -/
def regsDisp2 : List RegDef := [
  ⟨0x12C, "DISP_CORE3_SPAD", .one, [⟨25, 16, .ro, 0⟩, ⟨9, 0, .ro, 0x200⟩]⟩,
  ⟨0x130, "DISP_CORE4_SPAD", .one, [⟨25, 16, .ro, 0⟩, ⟨9, 0, .ro, 0x200⟩]⟩,
  ⟨0x134, "DISP_CORE5_SPAD", .one, [⟨25, 16, .ro, 0⟩, ⟨9, 0, .ro, 0x200⟩]⟩,
  ⟨0x138, "DISP_CORE6_SPAD", .one, [⟨25, 16, .ro, 0⟩, ⟨9, 0, .ro, 0x200⟩]⟩,
  ⟨0x13C, "DISP_CORE7_SPAD", .one, [⟨25, 16, .ro, 0⟩, ⟨9, 0, .ro, 0x200⟩]⟩,
  ⟨0x140, "DISP_CORE0_PROG", .one, [⟨20, 0, .ro, 0x100000⟩]⟩,
  ⟨0x144, "DISP_CORE1_PROG", .one, [⟨20, 0, .ro, 0x100000⟩]⟩,
  ⟨0x148, "DISP_CORE2_PROG", .one, [⟨20, 0, .ro, 0x100000⟩]⟩,
  ⟨0x14C, "DISP_CORE3_PROG", .one, [⟨20, 0, .ro, 0x100000⟩]⟩,
  ⟨0x150, "DISP_CORE4_PROG", .one, [⟨20, 0, .ro, 0x100000⟩]⟩,
  ⟨0x154, "DISP_CORE5_PROG", .one, [⟨20, 0, .ro, 0x100000⟩]⟩,
  ⟨0x158, "DISP_CORE6_PROG", .one, [⟨20, 0, .ro, 0x100000⟩]⟩,
  ⟨0x15C, "DISP_CORE7_PROG", .one, [⟨20, 0, .ro, 0x100000⟩]⟩,
  ⟨0x200, "DISP_CACHE_SEL", .one, [⟨5, 0, .rw, 0⟩]⟩,
  ⟨0x204, "DISP_CACHE_ENTRY", .one, [⟨31, 31, .ro, 0⟩, ⟨30, 28, .ro, 0⟩, ⟨27, 27, .ro, 0⟩, ⟨26, 26, .ro, 0⟩, ⟨25, 25, .ro, 0⟩, ⟨21, 16, .ro, 0⟩, ⟨15, 0, .ro, 0⟩]⟩,
  ⟨0x208, "DISP_CACHE_CORES", .one, [⟨31, 24, .ro, 0⟩, ⟨23, 16, .ro, 0⟩, ⟨9, 0, .ro, 0⟩]⟩,
  ⟨0x20C, "DISP_CACHE_LRU_LO", .lo, [⟨31, 0, .ro, 0⟩]⟩,
  ⟨0x210, "DISP_CACHE_LRU_HI", .hi, [⟨31, 0, .ro, 0⟩]⟩,
  ⟨0x220, "DISP_CACHE_STATS", .one, [⟨31, 16, .rc, 0⟩, ⟨15, 0, .rc, 0⟩]⟩,
  ⟨0x300, "DISP_SCHED_SEL", .one, [⟨15, 0, .rw, 0⟩]⟩,
  ⟨0x304, "DISP_SCHED_INFO", .one, [⟨31, 31, .ro, 0⟩, ⟨30, 30, .ro, 0⟩, ⟨29, 29, .ro, 0⟩, ⟨28, 26, .ro, 0⟩, ⟨21, 16, .ro, 0⟩, ⟨11, 0, .ro, 0⟩]⟩,
  ⟨0x308, "DISP_SCHED_WCET", .one, [⟨31, 0, .ro, 0⟩]⟩,
  ⟨0x310, "DISP_VERIFY_LAST", .one, [⟨31, 24, .ro, 0⟩, ⟨21, 16, .ro, 0⟩]⟩,
  ⟨0x314, "DISP_VERIFY_OFF", .one, [⟨31, 0, .ro, 0⟩]⟩]

/-- The registers of block `disp` (spec file 12), part 3. -/
def regsDisp3 : List RegDef := [
  ⟨0x320, "DISP_JOBS", .one, [⟨31, 16, .ro, 0⟩, ⟨15, 0, .ro, 0⟩]⟩]

/-- The registers of block `disp` (spec file 12). -/
def regsDisp : List RegDef := regsDisp0 ++ regsDisp1 ++ regsDisp2 ++ regsDisp3

/-- The registers of block `str` (spec file 02/08) -/
def regsStr : List RegDef := [
  ⟨0x0, "STREAM_SEL", .one, [⟨31, 0, .rw, 0⟩]⟩,
  ⟨0x4, "STREAM_INFO", .one, [⟨31, 31, .ro, 0⟩, ⟨30, 28, .ro, 0⟩, ⟨27, 26, .ro, 0⟩, ⟨25, 25, .ro, 0⟩, ⟨24, 24, .ro, 0⟩, ⟨23, 18, .ro, 0⟩, ⟨11, 0, .ro, 0⟩]⟩,
  ⟨0x8, "STREAM_LEASE", .one, [⟨31, 0, .ro, 0⟩]⟩,
  ⟨0xC, "STREAM_FBOUND", .one, [⟨31, 0, .ro, 0⟩]⟩,
  ⟨0x10, "STREAM_EBOUND", .one, [⟨31, 0, .ro, 0⟩]⟩,
  ⟨0x14, "STREAM_RUNS", .one, [⟨27, 26, .ro, 0⟩, ⟨25, 14, .ro, 0⟩, ⟨13, 12, .ro, 0⟩, ⟨11, 0, .ro, 0⟩]⟩,
  ⟨0x18, "STREAM_CHUNK_LO", .lo, [⟨31, 0, .ro, 0⟩]⟩,
  ⟨0x1C, "STREAM_CHUNK_HI", .hi, [⟨31, 0, .ro, 0⟩]⟩,
  ⟨0x20, "STREAM_GRAN", .one, [⟨24, 24, .ro, 0⟩, ⟨8, 0, .ro, 0⟩]⟩,
  ⟨0x100, "ADMIT_LAST_HANDLE", .one, [⟨31, 0, .ro, 0⟩]⟩,
  ⟨0x104, "ADMIT_LAST_REASON", .one, [⟨7, 0, .ro, 0⟩]⟩,
  ⟨0x108, "STREAM_COUNT0", .one, [⟨28, 16, .ro, 0⟩, ⟨12, 0, .ro, 0⟩]⟩,
  ⟨0x10C, "STREAM_COUNT1", .one, [⟨28, 16, .ro, 0x1000⟩, ⟨12, 0, .ro, 0⟩]⟩,
  ⟨0x110, "ADMIT_STATS", .one, [⟨31, 16, .rc, 0⟩, ⟨15, 0, .rc, 0⟩]⟩,
  ⟨0x120, "STREAM_CFG", .one, [⟨15, 0, .rwl, 0x708⟩]⟩,
  ⟨0x124, "SEED_CFG", .one, [⟨0, 0, .rwl, 0⟩]⟩,
  ⟨0x128, "STREAM_SEED_LO", .lo, [⟨31, 0, .ro, 0⟩]⟩,
  ⟨0x12C, "STREAM_SEED_HI", .hi, [⟨31, 0, .ro, 0⟩]⟩,
  ⟨0x200, "PLAN_DIE0", .one, [⟨31, 31, .ro, 0⟩, ⟨27, 16, .ro, 0⟩, ⟨11, 0, .ro, 0⟩]⟩,
  ⟨0x204, "PLAN_DIE1", .one, [⟨31, 31, .ro, 0⟩, ⟨27, 16, .ro, 0⟩, ⟨11, 0, .ro, 0⟩]⟩,
  ⟨0x208, "PLAN_DIE2", .one, [⟨31, 31, .ro, 0⟩, ⟨27, 16, .ro, 0⟩, ⟨11, 0, .ro, 0⟩]⟩,
  ⟨0x20C, "PLAN_DIE3", .one, [⟨31, 31, .ro, 0⟩, ⟨27, 16, .ro, 0⟩, ⟨11, 0, .ro, 0⟩]⟩]

/-- The registers of block `iring` (spec file 14) -/
def regsIring : List RegDef := [
  ⟨0x0, "IRING_HEAD", .one, [⟨15, 0, .rw, 0⟩]⟩,
  ⟨0x4, "IRING_TAIL", .one, [⟨15, 0, .ro, 0⟩]⟩,
  ⟨0x8, "IRING_TM_CFG", .one, [⟨31, 31, .rw, 0⟩, ⟨27, 0, .rw, 0xFFFFFFF⟩]⟩,
  ⟨0xC, "IRING_TM_STAT", .one, [⟨31, 31, .w1c, 0⟩, ⟨15, 0, .ro, 0⟩]⟩,
  ⟨0x10, "IRING_TM_LEVEL", .one, [⟨27, 0, .ro, 0⟩]⟩,
  ⟨0x14, "IRING_CFG", .one, [⟨31, 31, .ro, 0⟩, ⟨21, 16, .ro, 0⟩, ⟨4, 0, .ro, 0⟩]⟩]

/-- The registers of block `link` (spec file 13) -/
def regsLink : List RegDef := [
  ⟨0x0, "LINK_CTRL", .one, [⟨1, 1, .w1s, 0⟩, ⟨0, 0, .rw, 0⟩]⟩,
  ⟨0x4, "LINK_STATUS", .one, [⟨31, 24, .ro, 0⟩, ⟨20, 20, .ro, 0⟩, ⟨19, 16, .ro, 0⟩, ⟨15, 8, .ro, 0⟩, ⟨2, 0, .ro, 0⟩]⟩,
  ⟨0x8, "LINK_ERR", .one, [⟨31, 16, .rc, 0⟩, ⟨15, 0, .rc, 0⟩]⟩,
  ⟨0xC, "LINK_DOWNS", .one, [⟨31, 16, .rc, 0⟩, ⟨15, 0, .rc, 0⟩]⟩,
  ⟨0x10, "LINK_FEC_CORR_LO", .lo, [⟨31, 0, .ro, 0⟩]⟩,
  ⟨0x14, "LINK_FEC_CORR_HI", .hi, [⟨31, 0, .ro, 0⟩]⟩,
  ⟨0x18, "LINK_FEC_UNCORR_LO", .lo, [⟨31, 0, .ro, 0⟩]⟩,
  ⟨0x1C, "LINK_FEC_UNCORR_HI", .hi, [⟨31, 0, .ro, 0⟩]⟩,
  ⟨0x20, "LINK_TX_FLITS_LO", .lo, [⟨31, 0, .ro, 0⟩]⟩,
  ⟨0x24, "LINK_TX_FLITS_HI", .hi, [⟨31, 0, .ro, 0⟩]⟩,
  ⟨0x28, "LINK_RX_FLITS_LO", .lo, [⟨31, 0, .ro, 0⟩]⟩,
  ⟨0x2C, "LINK_RX_FLITS_HI", .hi, [⟨31, 0, .ro, 0⟩]⟩]

/-- The registers of block `fab` (spec file 13) -/
def regsFab : List RegDef := [
  ⟨0x0, "FAB_STATUS", .one, [⟨16, 16, .ro, 0⟩, ⟨15, 8, .ro, 0⟩, ⟨2, 0, .ro, 0⟩]⟩,
  ⟨0x8, "FAB_EPOCH_LO", .lo, [⟨31, 0, .ro, 0⟩]⟩,
  ⟨0xC, "FAB_EPOCH_HI", .hi, [⟨31, 0, .ro, 0⟩]⟩,
  ⟨0x10, "FAB_TRAY_EPOCH_LO", .lo, [⟨31, 0, .ro, 0⟩]⟩,
  ⟨0x14, "FAB_TRAY_EPOCH_HI", .hi, [⟨31, 0, .ro, 0⟩]⟩,
  ⟨0x20, "FAB_FW_SET0", .one, [⟨31, 0, .ro, 0⟩]⟩,
  ⟨0x24, "FAB_FW_SET1", .one, [⟨31, 0, .ro, 0⟩]⟩,
  ⟨0x28, "FAB_FW_SET2", .one, [⟨31, 0, .ro, 0⟩]⟩,
  ⟨0x2C, "FAB_FW_SET3", .one, [⟨31, 0, .ro, 0⟩]⟩,
  ⟨0x30, "FAB_FW_SET4", .one, [⟨31, 0, .ro, 0⟩]⟩,
  ⟨0x34, "FAB_FW_SET5", .one, [⟨31, 0, .ro, 0⟩]⟩,
  ⟨0x38, "FAB_FW_SET6", .one, [⟨31, 0, .ro, 0⟩]⟩,
  ⟨0x3C, "FAB_FW_SET7", .one, [⟨31, 0, .ro, 0⟩]⟩,
  ⟨0x40, "FAB_REACH", .one, [⟨31, 16, .ro, 0⟩, ⟨15, 0, .ro, 0⟩]⟩,
  ⟨0x44, "FAB_LOST", .one, [⟨15, 0, .w1c, 0⟩]⟩,
  ⟨0x48, "FAB_ROUTE0", .one, [⟨31, 0, .ro, 0xFFFFFFFF⟩]⟩,
  ⟨0x4C, "FAB_ROUTE1", .one, [⟨31, 0, .ro, 0xFFFFFFFF⟩]⟩,
  ⟨0x50, "FAB_MIG", .one, [⟨31, 16, .rc, 0⟩, ⟨15, 0, .rc, 0⟩]⟩,
  ⟨0x54, "FAB_REMAP", .one, [⟨31, 16, .rc, 0⟩, ⟨15, 0, .rc, 0⟩]⟩,
  ⟨0x58, "FAB_PEER_DENIED", .one, [⟨15, 0, .rc, 0⟩]⟩,
  ⟨0x5C, "FAB_FAULT", .one, [⟨31, 31, .ro, 0⟩, ⟨7, 0, .ro, 0⟩]⟩]

/-- The registers of block `time` (spec file 04) -/
def regsTime : List RegDef := [
  ⟨0x0, "TIME_NOW_LO", .lo, [⟨31, 0, .ro, 0⟩]⟩,
  ⟨0x4, "TIME_NOW_HI", .hi, [⟨31, 0, .ro, 0⟩]⟩,
  ⟨0x8, "TIME_OFFSET", .one, [⟨31, 0, .ro, 0⟩]⟩,
  ⟨0xC, "TIME_STATUS", .one, [⟨9, 9, .w1c, 0⟩, ⟨8, 8, .ro, 0⟩, ⟨7, 7, .ro, 0⟩, ⟨6, 6, .ro, 0⟩, ⟨5, 5, .ro, 0⟩, ⟨4, 4, .ro, 0⟩, ⟨3, 3, .ro, 0⟩, ⟨2, 2, .ro, 0⟩, ⟨1, 0, .ro, 2⟩]⟩,
  ⟨0x10, "TIME_TAI_OFFSET_LO", .lo, [⟨31, 0, .ro, 0⟩]⟩,
  ⟨0x14, "TIME_TAI_OFFSET_HI", .hi, [⟨31, 0, .ro, 0⟩]⟩,
  ⟨0x18, "TIME_ERRCNT", .one, [⟨31, 16, .rc, 0⟩, ⟨15, 0, .rc, 0⟩]⟩,
  ⟨0x1C, "TIME_MAXOFF", .one, [⟨31, 0, .rc, 0⟩]⟩,
  ⟨0x20, "CLK_STATUS", .one, [⟨18, 18, .w1c, 0⟩, ⟨17, 14, .w1c, 0⟩, ⟨13, 8, .w1c, 0⟩, ⟨7, 4, .w1c, 0⟩, ⟨3, 0, .w1c, 0⟩]⟩]

/-- The registers of block `err` (spec file 17) -/
def regsErr : List RegDef := [
  ⟨0x0, "ERR_FS_STATUS", .one, [⟨31, 31, .ro, 0⟩, ⟨30, 30, .ro, 0⟩, ⟨7, 0, .ro, 0⟩]⟩,
  ⟨0x4, "ERR_FS_CAUSE", .one, [⟨31, 16, .ro, 0⟩, ⟨15, 8, .ro, 0⟩, ⟨7, 0, .ro, 0⟩]⟩,
  ⟨0x8, "ERR_FS_TIME_LO", .lo, [⟨31, 0, .ro, 0⟩]⟩,
  ⟨0xC, "ERR_FS_TIME_HI", .hi, [⟨31, 0, .ro, 0⟩]⟩,
  ⟨0x10, "ERR_FS_TOTAL", .one, [⟨31, 16, .ro, 0⟩, ⟨15, 0, .ro, 0⟩]⟩,
  ⟨0x14, "ERR_FS_LAST", .one, [⟨31, 16, .ro, 0⟩, ⟨15, 8, .ro, 0⟩, ⟨7, 0, .ro, 0⟩]⟩,
  ⟨0x18, "ERR_BIST", .one, [⟨31, 31, .ro, 0⟩, ⟨30, 30, .ro, 0⟩, ⟨15, 8, .ro, 0⟩]⟩,
  ⟨0x20, "ERR_SCOPE", .one, [⟨8, 8, .ro, 0⟩, ⟨1, 1, .ro, 0⟩, ⟨0, 0, .ro, 0⟩]⟩,
  ⟨0x28, "ERR_SCOPE_TIME_LO", .lo, [⟨31, 0, .ro, 0⟩]⟩,
  ⟨0x2C, "ERR_SCOPE_TIME_HI", .hi, [⟨31, 0, .ro, 0⟩]⟩,
  ⟨0x30, "ERR_SVC_CTRL", .one, [⟨0, 0, .w1s, 0⟩]⟩,
  ⟨0x34, "ERR_SVC_STATUS", .one, [⟨31, 31, .ro, 0⟩, ⟨30, 30, .ro, 0⟩, ⟨23, 16, .ro, 0⟩, ⟨15, 0, .ro, 0⟩]⟩]

/-- The registers of block `me` (spec file 06) -/
def regsMe : List RegDef := [
  ⟨0x0, "ME_CAPS", .one, [⟨31, 24, .ro, 0x80⟩, ⟨23, 12, .ro, 0x200⟩, ⟨7, 0, .ro, 0xFF⟩]⟩,
  ⟨0x4, "ME_STATUS", .one, [⟨13, 10, .ro, 0⟩, ⟨9, 6, .ro, 0⟩, ⟨5, 5, .ro, 0⟩, ⟨4, 4, .ro, 0⟩, ⟨3, 3, .ro, 0⟩, ⟨2, 2, .ro, 0⟩, ⟨1, 1, .ro, 0⟩, ⟨0, 0, .ro, 0⟩]⟩,
  ⟨0x8, "ME_FLAGS", .one, [⟨5, 5, .ro, 0⟩, ⟨4, 4, .ro, 0⟩, ⟨3, 3, .ro, 0⟩, ⟨2, 2, .ro, 0⟩, ⟨1, 1, .ro, 0⟩, ⟨0, 0, .ro, 0⟩]⟩,
  ⟨0xC, "ME_FLAGS_LAST", .one, [⟨5, 5, .ro, 0⟩, ⟨4, 4, .ro, 0⟩, ⟨3, 3, .ro, 0⟩, ⟨2, 2, .ro, 0⟩, ⟨1, 1, .ro, 0⟩, ⟨0, 0, .ro, 0⟩]⟩,
  ⟨0x10, "ME_FAULT", .one, [⟨31, 31, .ro, 0⟩, ⟨7, 0, .ro, 0⟩]⟩,
  ⟨0x14, "ME_ECC", .one, [⟨31, 16, .rc, 0⟩, ⟨15, 0, .rc, 0⟩]⟩,
  ⟨0x18, "ME_ERASED", .one, [⟨15, 0, .rc, 0⟩]⟩,
  ⟨0x20, "ME_MACS_LO", .lo, [⟨31, 0, .ro, 0⟩]⟩,
  ⟨0x24, "ME_MACS_HI", .hi, [⟨31, 0, .ro, 0⟩]⟩,
  ⟨0x28, "ME_STREAM_CYC_LO", .lo, [⟨31, 0, .ro, 0⟩]⟩,
  ⟨0x2C, "ME_STREAM_CYC_HI", .hi, [⟨31, 0, .ro, 0⟩]⟩,
  ⟨0x30, "ME_LOAD_WAIT_LO", .lo, [⟨31, 0, .ro, 0⟩]⟩,
  ⟨0x34, "ME_LOAD_WAIT_HI", .hi, [⟨31, 0, .ro, 0⟩]⟩]

/-- The registers of block `ve` (spec file 07) -/
def regsVe : List RegDef := [
  ⟨0x0, "VE_CAPS", .one, [⟨31, 22, .ro, 0x200⟩, ⟨21, 16, .ro, 0x20⟩, ⟨15, 9, .ro, 0x40⟩, ⟨8, 5, .ro, 8⟩, ⟨4, 0, .ro, 8⟩]⟩,
  ⟨0x4, "VE_STATUS", .one, [⟨31, 16, .ro, 0⟩, ⟨5, 4, .ro, 0⟩, ⟨3, 3, .ro, 0⟩, ⟨2, 2, .ro, 0⟩, ⟨1, 1, .ro, 0⟩, ⟨0, 0, .ro, 0⟩]⟩,
  ⟨0x8, "VE_FLAGS_MX", .one, [⟨5, 5, .ro, 0⟩, ⟨4, 4, .ro, 0⟩, ⟨3, 3, .ro, 0⟩, ⟨2, 2, .ro, 0⟩, ⟨1, 1, .ro, 0⟩, ⟨0, 0, .ro, 0⟩]⟩,
  ⟨0xC, "VE_FLAGS_SP", .one, [⟨5, 5, .ro, 0⟩, ⟨4, 4, .ro, 0⟩, ⟨3, 3, .ro, 0⟩, ⟨2, 2, .ro, 0⟩, ⟨1, 1, .ro, 0⟩, ⟨0, 0, .ro, 0⟩]⟩,
  ⟨0x10, "VE_FLAGS_MX_LAST", .one, [⟨5, 5, .ro, 0⟩, ⟨4, 4, .ro, 0⟩, ⟨3, 3, .ro, 0⟩, ⟨2, 2, .ro, 0⟩, ⟨1, 1, .ro, 0⟩, ⟨0, 0, .ro, 0⟩]⟩,
  ⟨0x14, "VE_FLAGS_SP_LAST", .one, [⟨5, 5, .ro, 0⟩, ⟨4, 4, .ro, 0⟩, ⟨3, 3, .ro, 0⟩, ⟨2, 2, .ro, 0⟩, ⟨1, 1, .ro, 0⟩, ⟨0, 0, .ro, 0⟩]⟩,
  ⟨0x18, "VE_VLEN", .one, [⟨15, 0, .ro, 1⟩]⟩,
  ⟨0x1C, "VE_FAULT", .one, [⟨31, 31, .ro, 0⟩, ⟨7, 0, .ro, 0⟩]⟩,
  ⟨0x20, "VE_ECC", .one, [⟨31, 16, .rc, 0⟩, ⟨15, 0, .rc, 0⟩]⟩,
  ⟨0x30, "VE_BEATS_MX_LO", .lo, [⟨31, 0, .ro, 0⟩]⟩,
  ⟨0x34, "VE_BEATS_MX_HI", .hi, [⟨31, 0, .ro, 0⟩]⟩,
  ⟨0x38, "VE_BEATS_SP_LO", .lo, [⟨31, 0, .ro, 0⟩]⟩,
  ⟨0x3C, "VE_BEATS_SP_HI", .hi, [⟨31, 0, .ro, 0⟩]⟩,
  ⟨0x40, "VE_STALL_SP_LO", .lo, [⟨31, 0, .ro, 0⟩]⟩,
  ⟨0x44, "VE_STALL_SP_HI", .hi, [⟨31, 0, .ro, 0⟩]⟩]

/-- The registers of block `ru` (spec file 08) -/
def regsRu : List RegDef := [
  ⟨0x0, "RU_CAPS", .one, [⟨31, 24, .ro, 2⟩, ⟨23, 20, .ro, 2⟩, ⟨19, 16, .ro, 0xF⟩, ⟨15, 0, .ro, 0x200⟩]⟩,
  ⟨0x4, "RU_STATUS", .one, [⟨5, 5, .ro, 0⟩, ⟨4, 4, .ro, 0⟩, ⟨3, 3, .ro, 0⟩, ⟨2, 2, .ro, 0⟩, ⟨1, 1, .ro, 0⟩, ⟨0, 0, .ro, 0⟩]⟩,
  ⟨0x8, "RU_FLAGS", .one, [⟨4, 4, .ro, 0⟩, ⟨3, 3, .ro, 0⟩, ⟨2, 2, .ro, 0⟩, ⟨1, 1, .ro, 0⟩, ⟨0, 0, .ro, 0⟩]⟩,
  ⟨0xC, "RU_FLAGS_LAST", .one, [⟨4, 4, .ro, 0⟩, ⟨3, 3, .ro, 0⟩, ⟨2, 2, .ro, 0⟩, ⟨1, 1, .ro, 0⟩, ⟨0, 0, .ro, 0⟩]⟩,
  ⟨0x10, "RU_FAULT", .one, [⟨31, 31, .ro, 0⟩, ⟨7, 0, .ro, 0⟩]⟩,
  ⟨0x14, "RU_ECC", .one, [⟨31, 16, .rc, 0⟩, ⟨15, 0, .rc, 0⟩]⟩,
  ⟨0x20, "RU_ELEMPOS_LO", .lo, [⟨31, 0, .ro, 0⟩]⟩,
  ⟨0x24, "RU_ELEMPOS_HI", .hi, [⟨31, 0, .ro, 0⟩]⟩,
  ⟨0x28, "RU_STORED_LO", .lo, [⟨31, 0, .ro, 0⟩]⟩,
  ⟨0x2C, "RU_STORED_HI", .hi, [⟨31, 0, .ro, 0⟩]⟩,
  ⟨0x30, "RU_SR_DRAWS_LO", .lo, [⟨31, 0, .ro, 0⟩]⟩,
  ⟨0x34, "RU_SR_DRAWS_HI", .hi, [⟨31, 0, .ro, 0⟩]⟩,
  ⟨0x38, "RU_SR_AWAY_LO", .lo, [⟨31, 0, .ro, 0⟩]⟩,
  ⟨0x3C, "RU_SR_AWAY_HI", .hi, [⟨31, 0, .ro, 0⟩]⟩,
  ⟨0x40, "RU_POOL_BYTES_LO", .lo, [⟨31, 0, .ro, 0⟩]⟩,
  ⟨0x44, "RU_POOL_BYTES_HI", .hi, [⟨31, 0, .ro, 0⟩]⟩]

/-- The registers of block `sp` (spec file 09) -/
def regsSp : List RegDef := [
  ⟨0x0, "SP_CAPS", .one, [⟨31, 24, .ro, 0x40⟩, ⟨23, 14, .ro, 0x40⟩, ⟨13, 0, .ro, 0x200⟩]⟩,
  ⟨0x8, "SP_REGION_SEL", .one, [⟨4, 0, .rw, 0⟩]⟩,
  ⟨0xC, "SP_REGION", .one, [⟨31, 31, .ro, 0⟩, ⟨30, 30, .ro, 0⟩, ⟨29, 24, .ro, 0⟩, ⟨23, 15, .ro, 0⟩, ⟨14, 5, .ro, 0⟩]⟩,
  ⟨0x18, "SP_ZERO", .one, [⟨9, 0, .ro, 0⟩]⟩,
  ⟨0x1C, "SP_SCRUB_CFG", .one, [⟨15, 0, .rwl, 0x3E8⟩]⟩,
  ⟨0x20, "SP_SCRUB_STAT", .one, [⟨31, 16, .rc, 0⟩, ⟨15, 0, .ro, 0⟩]⟩,
  ⟨0x24, "SP_ECC", .one, [⟨31, 16, .rc, 0⟩, ⟨15, 0, .rc, 0⟩]⟩,
  ⟨0x28, "SP_PHASE_MISS", .one, [⟨15, 0, .rc, 0⟩]⟩,
  ⟨0x2C, "SP_FAULT", .one, [⟨31, 31, .ro, 0⟩, ⟨7, 0, .ro, 0⟩]⟩,
  ⟨0x30, "SP_UE_ADDR", .one, [⟨24, 0, .ro, 0⟩]⟩]

/-- The registers of block `sq` (spec file 18) -/
def regsSq : List RegDef := [
  ⟨0x0, "SQ_STATUS", .one, [⟨31, 31, .ro, 0⟩, ⟨30, 30, .ro, 0⟩, ⟨29, 29, .ro, 0⟩, ⟨28, 28, .ro, 0⟩, ⟨21, 16, .ro, 0⟩, ⟨15, 0, .ro, 0⟩]⟩,
  ⟨0x4, "SQ_POS", .one, [⟨26, 24, .ro, 0⟩, ⟨22, 20, .ro, 0⟩, ⟨18, 0, .ro, 0⟩]⟩,
  ⟨0x8, "SQ_CMDS_LO", .lo, [⟨31, 0, .ro, 0⟩]⟩,
  ⟨0xC, "SQ_CMDS_HI", .hi, [⟨31, 0, .ro, 0⟩]⟩]

/-- The registers of block `lh` (spec file 16), part 0. -/
def regsLh0 : List RegDef := [
  ⟨0x0, "LH_ID", .one, [⟨31, 16, .ro, 0x4B56⟩, ⟨15, 0, .ro, 0x1620⟩]⟩,
  ⟨0x4, "LH_REV", .one, [⟨31, 24, .ro, 3⟩, ⟨15, 8, .ro, 4⟩, ⟨7, 0, .ro, 0⟩]⟩,
  ⟨0x8, "LH_UID_LO", .lo, [⟨31, 0, .ro, 0⟩]⟩,
  ⟨0xC, "LH_UID_HI", .hi, [⟨31, 0, .ro, 0⟩]⟩,
  ⟨0x10, "LH_STATUS", .one, [⟨3, 3, .ro, 0⟩, ⟨2, 2, .ro, 0⟩, ⟨1, 1, .w1c, 0⟩, ⟨0, 0, .ro, 0⟩]⟩,
  ⟨0x18, "LH_HOST_PING", .one, [⟨31, 0, .wo, 0⟩]⟩,
  ⟨0x20, "LH_POLICY0", .one, [⟨31, 0, .ro, 0x10102⟩]⟩,
  ⟨0x24, "LH_POLICY1", .one, [⟨31, 0, .ro, 0x3C0064⟩]⟩,
  ⟨0x28, "LH_POLICY2", .one, [⟨31, 0, .ro, 0x18003C⟩]⟩,
  ⟨0x2C, "LH_POLICY3", .one, [⟨31, 0, .ro, 0x1F4⟩]⟩,
  ⟨0x30, "LH_POLICY4", .one, [⟨31, 0, .ro, 0⟩]⟩,
  ⟨0x34, "LH_POLICY5", .one, [⟨31, 0, .ro, 0⟩]⟩,
  ⟨0x38, "LH_POLICY6", .one, [⟨31, 0, .ro, 0⟩]⟩,
  ⟨0x3C, "LH_POLICY7", .one, [⟨31, 0, .ro, 0⟩]⟩,
  ⟨0x40, "LH_RECORD_EPOCH_LO", .lo, [⟨31, 0, .ro, 0⟩]⟩,
  ⟨0x44, "LH_RECORD_EPOCH_HI", .hi, [⟨31, 0, .ro, 0⟩]⟩,
  ⟨0x48, "LH_RECORD_SCOPE", .one, [⟨31, 31, .ro, 0⟩, ⟨0, 0, .ro, 0⟩]⟩,
  ⟨0x50, "LH_RECORD_FW0", .one, [⟨31, 0, .ro, 0⟩]⟩,
  ⟨0x54, "LH_RECORD_FW1", .one, [⟨31, 0, .ro, 0⟩]⟩,
  ⟨0x58, "LH_RECORD_FW2", .one, [⟨31, 0, .ro, 0⟩]⟩,
  ⟨0x5C, "LH_RECORD_FW3", .one, [⟨31, 0, .ro, 0⟩]⟩,
  ⟨0x60, "LH_RECORD_FW4", .one, [⟨31, 0, .ro, 0⟩]⟩,
  ⟨0x64, "LH_RECORD_FW5", .one, [⟨31, 0, .ro, 0⟩]⟩,
  ⟨0x68, "LH_RECORD_FW6", .one, [⟨31, 0, .ro, 0⟩]⟩]

/-- The registers of block `lh` (spec file 16), part 1. -/
def regsLh1 : List RegDef := [
  ⟨0x6C, "LH_RECORD_FW7", .one, [⟨31, 0, .ro, 0⟩]⟩,
  ⟨0x70, "LH_BW_STATUS", .one, [⟨31, 31, .ro, 0⟩, ⟨19, 0, .ro, 0⟩]⟩,
  ⟨0x74, "LH_BW_FAULTS", .one, [⟨19, 0, .ro, 0⟩]⟩,
  ⟨0x78, "LH_BW_TEST", .one, [⟨19, 0, .ro, 0⟩]⟩,
  ⟨0x7C, "LH_BW_TEST_B", .one, [⟨19, 0, .ro, 0⟩]⟩,
  ⟨0x80, "LH_PTP", .one, [⟨14, 8, .ro, 0⟩, ⟨1, 0, .ro, 0⟩]⟩,
  ⟨0x88, "LH_TAI_OFFSET_LO", .lo, [⟨31, 0, .ro, 0⟩]⟩,
  ⟨0x8C, "LH_TAI_OFFSET_HI", .hi, [⟨31, 0, .ro, 0⟩]⟩,
  ⟨0x1080, "MB_DOORBELL", .one, [⟨0, 0, .wo, 0⟩]⟩,
  ⟨0x1084, "MB_STATUS", .one, [⟨2, 2, .w1c, 0⟩, ⟨1, 1, .w1c, 0⟩, ⟨0, 0, .ro, 0⟩]⟩,
  ⟨0x1000, "MB_REQ0", .one, [⟨31, 0, .rw, 0⟩]⟩,
  ⟨0x1004, "MB_REQ1", .one, [⟨31, 0, .rw, 0⟩]⟩,
  ⟨0x1008, "MB_REQ2", .one, [⟨31, 0, .rw, 0⟩]⟩,
  ⟨0x100C, "MB_REQ3", .one, [⟨31, 0, .rw, 0⟩]⟩,
  ⟨0x1010, "MB_REQ4", .one, [⟨31, 0, .rw, 0⟩]⟩,
  ⟨0x1014, "MB_REQ5", .one, [⟨31, 0, .rw, 0⟩]⟩,
  ⟨0x1018, "MB_REQ6", .one, [⟨31, 0, .rw, 0⟩]⟩,
  ⟨0x101C, "MB_REQ7", .one, [⟨31, 0, .rw, 0⟩]⟩,
  ⟨0x1020, "MB_REQ8", .one, [⟨31, 0, .rw, 0⟩]⟩,
  ⟨0x1024, "MB_REQ9", .one, [⟨31, 0, .rw, 0⟩]⟩,
  ⟨0x1028, "MB_REQ10", .one, [⟨31, 0, .rw, 0⟩]⟩,
  ⟨0x102C, "MB_REQ11", .one, [⟨31, 0, .rw, 0⟩]⟩,
  ⟨0x1030, "MB_REQ12", .one, [⟨31, 0, .rw, 0⟩]⟩,
  ⟨0x1034, "MB_REQ13", .one, [⟨31, 0, .rw, 0⟩]⟩]

/-- The registers of block `lh` (spec file 16), part 2. -/
def regsLh2 : List RegDef := [
  ⟨0x1038, "MB_REQ14", .one, [⟨31, 0, .rw, 0⟩]⟩,
  ⟨0x103C, "MB_REQ15", .one, [⟨31, 0, .rw, 0⟩]⟩,
  ⟨0x1040, "MB_REQ16", .one, [⟨31, 0, .rw, 0⟩]⟩,
  ⟨0x1044, "MB_REQ17", .one, [⟨31, 0, .rw, 0⟩]⟩,
  ⟨0x1048, "MB_REQ18", .one, [⟨31, 0, .rw, 0⟩]⟩,
  ⟨0x104C, "MB_REQ19", .one, [⟨31, 0, .rw, 0⟩]⟩,
  ⟨0x1050, "MB_REQ20", .one, [⟨31, 0, .rw, 0⟩]⟩,
  ⟨0x1054, "MB_REQ21", .one, [⟨31, 0, .rw, 0⟩]⟩,
  ⟨0x1058, "MB_REQ22", .one, [⟨31, 0, .rw, 0⟩]⟩,
  ⟨0x105C, "MB_REQ23", .one, [⟨31, 0, .rw, 0⟩]⟩,
  ⟨0x1060, "MB_REQ24", .one, [⟨31, 0, .rw, 0⟩]⟩,
  ⟨0x1064, "MB_REQ25", .one, [⟨31, 0, .rw, 0⟩]⟩,
  ⟨0x1068, "MB_REQ26", .one, [⟨31, 0, .rw, 0⟩]⟩,
  ⟨0x106C, "MB_REQ27", .one, [⟨31, 0, .rw, 0⟩]⟩,
  ⟨0x1070, "MB_REQ28", .one, [⟨31, 0, .rw, 0⟩]⟩,
  ⟨0x1074, "MB_REQ29", .one, [⟨31, 0, .rw, 0⟩]⟩,
  ⟨0x1078, "MB_REQ30", .one, [⟨31, 0, .rw, 0⟩]⟩,
  ⟨0x107C, "MB_REQ31", .one, [⟨31, 0, .rw, 0⟩]⟩,
  ⟨0x1100, "MB_RESP0", .one, [⟨31, 0, .ro, 0⟩]⟩,
  ⟨0x1104, "MB_RESP1", .one, [⟨31, 0, .ro, 0⟩]⟩,
  ⟨0x1108, "MB_RESP2", .one, [⟨31, 0, .ro, 0⟩]⟩,
  ⟨0x110C, "MB_RESP3", .one, [⟨31, 0, .ro, 0⟩]⟩,
  ⟨0x1110, "MB_RESP4", .one, [⟨31, 0, .ro, 0⟩]⟩,
  ⟨0x1114, "MB_RESP5", .one, [⟨31, 0, .ro, 0⟩]⟩]

/-- The registers of block `lh` (spec file 16), part 3. -/
def regsLh3 : List RegDef := [
  ⟨0x1118, "MB_RESP6", .one, [⟨31, 0, .ro, 0⟩]⟩,
  ⟨0x111C, "MB_RESP7", .one, [⟨31, 0, .ro, 0⟩]⟩,
  ⟨0x1120, "MB_RESP8", .one, [⟨31, 0, .ro, 0⟩]⟩,
  ⟨0x1124, "MB_RESP9", .one, [⟨31, 0, .ro, 0⟩]⟩,
  ⟨0x1128, "MB_RESP10", .one, [⟨31, 0, .ro, 0⟩]⟩,
  ⟨0x112C, "MB_RESP11", .one, [⟨31, 0, .ro, 0⟩]⟩,
  ⟨0x1130, "MB_RESP12", .one, [⟨31, 0, .ro, 0⟩]⟩,
  ⟨0x1134, "MB_RESP13", .one, [⟨31, 0, .ro, 0⟩]⟩,
  ⟨0x1138, "MB_RESP14", .one, [⟨31, 0, .ro, 0⟩]⟩,
  ⟨0x113C, "MB_RESP15", .one, [⟨31, 0, .ro, 0⟩]⟩]

/-- The registers of block `lh` (spec file 16). -/
def regsLh : List RegDef := regsLh0 ++ regsLh1 ++ regsLh2 ++ regsLh3

/-- The registers of block `lhbay` (spec file 16) -/
def regsLhbay : List RegDef := [
  ⟨0x0, "LH_BAY_STATE", .one, [⟨31, 31, .ro, 0⟩, ⟨30, 30, .ro, 0⟩, ⟨29, 29, .ro, 0⟩, ⟨28, 28, .ro, 0⟩, ⟨27, 27, .ro, 0⟩, ⟨26, 26, .ro, 0⟩, ⟨25, 25, .ro, 0⟩, ⟨24, 24, .ro, 0⟩, ⟨23, 16, .ro, 0⟩, ⟨15, 8, .ro, 0⟩, ⟨1, 0, .ro, 0⟩]⟩,
  ⟨0x4, "LH_BAY_REFLASH", .one, [⟨31, 24, .ro, 0⟩, ⟨7, 0, .ro, 0⟩]⟩]

/-- The registers of block `lhevq` (spec file 16) -/
def regsLhevq : List RegDef := [
  ⟨0x0, "LH_EVQ_BASE_LO", .lo, [⟨31, 12, .rw, 0⟩]⟩,
  ⟨0x4, "LH_EVQ_BASE_HI", .hi, [⟨15, 0, .rw, 0⟩]⟩,
  ⟨0x8, "LH_EVQ_CFG", .one, [⟨8, 8, .rw, 0⟩, ⟨4, 0, .rw, 0⟩]⟩,
  ⟨0xC, "LH_EVQ_HEAD", .one, [⟨15, 0, .rw, 0⟩]⟩,
  ⟨0x10, "LH_EVQ_TAIL", .one, [⟨15, 0, .ro, 0⟩]⟩,
  ⟨0x14, "LH_EVQ_STATUS", .one, [⟨15, 8, .ro, 0⟩, ⟨4, 4, .w1c, 0⟩, ⟨3, 3, .w1c, 0⟩, ⟨2, 2, .ro, 0⟩, ⟨1, 1, .w1c, 0⟩, ⟨0, 0, .ro, 0⟩]⟩,
  ⟨0x18, "LH_EVQ_DROP", .one, [⟨31, 16, .rc, 0⟩, ⟨15, 0, .rc, 0⟩]⟩,
  ⟨0x1C, "LH_EVQ_LOST", .one, [⟨29, 20, .rc, 0⟩, ⟨19, 10, .rc, 0⟩, ⟨9, 0, .rc, 0⟩]⟩,
  ⟨0x20, "LH_EVQ_MOD", .one, [⟨25, 16, .rw, 0⟩, ⟨7, 0, .rw, 1⟩]⟩,
  ⟨0x24, "LH_EVQ_SEQ", .one, [⟨15, 0, .ro, 0⟩]⟩,
  ⟨0x30, "LH_EVQ_TM_CFG", .one, [⟨31, 31, .rw, 0⟩, ⟨27, 0, .rw, 0xFFFFFFF⟩]⟩,
  ⟨0x34, "LH_EVQ_TM_STAT", .one, [⟨31, 31, .w1c, 0⟩, ⟨15, 0, .ro, 0⟩]⟩,
  ⟨0x38, "LH_EVQ_TM_LEVEL", .one, [⟨27, 0, .ro, 0⟩]⟩]

/-- The registers of block `lhpt` (spec file 16) -/
def regsLhpt : List RegDef := [
  ⟨0x0, "LH_PT", .one, [⟨31, 31, .ro, 0⟩, ⟨30, 30, .ro, 0⟩, ⟨15, 0, .ro, 0⟩]⟩]

/-- The registers of block `lhpwr` (spec file 16) -/
def regsLhpwr : List RegDef := [
  ⟨0x0, "LH_PWR_1S", .one, [⟨31, 16, .ro, 0⟩, ⟨15, 0, .ro, 0⟩]⟩,
  ⟨0x4, "LH_PWR_60S", .one, [⟨31, 16, .ro, 0⟩, ⟨15, 0, .ro, 0⟩]⟩]

/-- The blocks of the device region (R819, R820). -/
def deviceBlocks : List Block := [
  ⟨0x0, 1, 0x1000, regsHub⟩,
  ⟨0x100000, 65, 0x1000, regsQ⟩,
  ⟨0x180000, 1, 0x1000, regsEvq⟩,
  ⟨0x200000, 1, 0x1000, regsSec⟩,
  ⟨0x300000, 8, 0x1000, regsAp⟩,
  ⟨0x400000, 4, 0x100, regsAcs⟩,
  ⟨0x401000, 8, 0x40, regsApd⟩,
  ⟨0x500000, 64, 0x400, regsDma⟩,
  ⟨0x510000, 1, 0x1000, regsDmag⟩,
  ⟨0x600000, 1, 0x1000, regsMcg⟩,
  ⟨0x601000, 12, 0x100, regsMc⟩,
  ⟨0x700000, 1, 0x1000, regsXl⟩,
  ⟨0x701000, 64, 0x8, regsXlroot⟩,
  ⟨0x800000, 1, 0x1000, regsTp⟩,
  ⟨0x900000, 1, 0x1000, regsDisp⟩,
  ⟨0x980000, 1, 0x1000, regsStr⟩,
  ⟨0x980400, 8, 0x20, regsIring⟩,
  ⟨0xA00000, 6, 0x100, regsLink⟩,
  ⟨0xA10000, 1, 0x1000, regsFab⟩,
  ⟨0xB00000, 1, 0x1000, regsTime⟩,
  ⟨0xC00000, 1, 0x1000, regsErr⟩,
  ⟨0x1000000, 8, 0x100000, regsMe⟩,
  ⟨0x1010000, 8, 0x100000, regsVe⟩,
  ⟨0x1020000, 8, 0x100000, regsRu⟩,
  ⟨0x1030000, 8, 0x100000, regsSp⟩,
  ⟨0x1040000, 8, 0x100000, regsSq⟩]

/-- The blocks of the Lighthouse BAR (R826). -/
def lighthouseBlocks : List Block := [
  ⟨0x100, 16, 0x10, regsLhbay⟩,
  ⟨0x2000, 1, 0x40, regsLhevq⟩,
  ⟨0x3000, 368, 4, regsLhpt⟩,
  ⟨0x4000, 17, 8, regsLhpwr⟩,
  ⟨0x0, 1, 0x2000, regsLh⟩]

/-- The register of a block table at an offset. -/
def Block.find (b : Block) (off : Nat) : Option RegDef :=
  if b.base ≤ off ∧ off < b.base + b.count * b.stride then
    b.regs.find? (fun r => r.off == (off - b.base) % b.stride)
  else none

/-- The register of a map at an absolute offset; none where the offset is unimplemented (R16, R821). -/
def findReg (bs : List Block) (off : Nat) : Option RegDef := bs.findSome? (fun b => b.find off)

/-- The value a register holds at reset: its fields at their reset values. -/
def RegDef.reset (r : RegDef) : Word :=
  r.fields.foldl (fun w f => w ||| (BitVec.ofNat 32 f.rst <<< f.lo)) 0

/-- What a register that no command has written yet reads as. -/
def regReset (bs : List Block) (off : Nat) : Word :=
  match findReg bs off with
  | some r => r.reset
  | none => 0

/-- Registers a REGS section of an image may name (R649): offset, how many of it there are, how far apart, and the bits the image loads. -/
def imageRegs : List (Nat × Nat × Nat × Nat) := [
  (0x300000, 8, 0x1000, 0x1D), (0x300004, 8, 0x1000, 0x3FFFFFFF), (0x300008, 8, 0x1000, 0x10000), (0x30000C, 8, 0x1000, 0xFFFFFFFF),
  (0x300010, 8, 0x1000, 0xFFFFFFFF), (0x300018, 8, 0x1000, 0xFFFFF03F), (0x30001C, 8, 0x1000, 0xFFFF), (0x300020, 8, 0x1000, 0xFFFFF03F),
  (0x300024, 8, 0x1000, 0xFFFF), (0x400000, 4, 0x100, 0x73F), (0x400004, 4, 0x100, 0xFFFF), (0x400008, 4, 0x100, 0xFFFFFFFF),
  (0x40000C, 4, 0x100, 0x7FFFF), (0x510008, 1, 0x1000, 0xC0000000), (0x51000C, 1, 0x1000, 0xFFFFFFFF), (0x600004, 1, 0x1000, 0xFFFFFFFF),
  (0x600008, 1, 0x1000, 0xC0000000), (0x60000C, 1, 0x1000, 0xFFFFFFFF), (0x600010, 1, 0x1000, 0xFFFF), (0x700000, 1, 0x1000, 0xC0000000),
  (0x700004, 1, 0x1000, 0xFFFFFFFF), (0x700008, 1, 0x1000, 0xFFFF), (0x800008, 1, 0x1000, 0x7FFF), (0x80000C, 1, 0x1000, 0x7FFF7FFF),
  (0x800020, 1, 0x1000, 0xFFFF), (0x800068, 1, 0x1000, 0xFFFF), (0x900100, 1, 0x1000, 0x80000000), (0x900104, 1, 0x1000, 0x80000000),
  (0x900108, 1, 0x1000, 0x80000000), (0x90010C, 1, 0x1000, 0x80000000), (0x900110, 1, 0x1000, 0x80000000), (0x900114, 1, 0x1000, 0x80000000),
  (0x900118, 1, 0x1000, 0x80000000), (0x90011C, 1, 0x1000, 0x80000000), (0x980120, 1, 0x1000, 0xFFFF), (0x980124, 1, 0x1000, 0x1),
  (0x103001C, 8, 0x100000, 0xFFFF)]

/-- The bits an image loads of the register at an offset; none where it may not name it. -/
def imageMask (off : Nat) : Option Nat :=
  (imageRegs.find? (fun r => decide (r.1 ≤ off ∧ off < r.1 + r.2.1 * r.2.2.1) && (off - r.1) % r.2.2.1 == 0)).map (fun r => r.2.2.2)

abbrev R.hubId : Nat := 0x0
abbrev F.hubIdFamily : Fld := ⟨R.hubId, 31, 16⟩
abbrev F.hubIdModule : Fld := ⟨R.hubId, 15, 0⟩
abbrev R.hubRev : Nat := 0x4
abbrev F.hubRevPkgStep : Fld := ⟨R.hubRev, 31, 24⟩
abbrev F.hubRevCarrierRev : Fld := ⟨R.hubRev, 23, 16⟩
abbrev F.hubRevRomLevel : Fld := ⟨R.hubRev, 15, 8⟩
abbrev R.hubTopo : Nat := 0x8
abbrev F.hubTopoWest : Fld := ⟨R.hubTopo, 27, 24⟩
abbrev F.hubTopoSouth : Fld := ⟨R.hubTopo, 23, 20⟩
abbrev F.hubTopoEast : Fld := ⟨R.hubTopo, 19, 16⟩
abbrev F.hubTopoNorth : Fld := ⟨R.hubTopo, 15, 12⟩
abbrev F.hubTopoCross : Fld := ⟨R.hubTopo, 11, 8⟩
abbrev F.hubTopoBuddy : Fld := ⟨R.hubTopo, 7, 4⟩
abbrev F.hubTopoBay : Fld := ⟨R.hubTopo, 3, 0⟩
abbrev R.hubCaps : Nat := 0xC
abbrev F.hubCapsMemCtrl : Fld := ⟨R.hubCaps, 22, 19⟩
abbrev F.hubCapsTrayLinks : Fld := ⟨R.hubCaps, 18, 15⟩
abbrev F.hubCapsAudioPorts : Fld := ⟨R.hubCaps, 14, 11⟩
abbrev F.hubCapsPartitions : Fld := ⟨R.hubCaps, 10, 4⟩
abbrev F.hubCapsCores : Fld := ⟨R.hubCaps, 3, 0⟩
abbrev R.hubBootStatus : Nat := 0x10
abbrev F.hubBootStatusStarts : Fld := ⟨R.hubBootStatus, 31, 16⟩
abbrev F.hubBootStatusNeap : Fld := ⟨R.hubBootStatus, 5, 5⟩
abbrev F.hubBootStatusImage : Fld := ⟨R.hubBootStatus, 4, 4⟩
abbrev F.hubBootStatusStage : Fld := ⟨R.hubBootStatus, 3, 0⟩
abbrev R.hubBootAttempts : Nat := 0x14
abbrev F.hubBootAttemptsStableS : Fld := ⟨R.hubBootAttempts, 31, 16⟩
abbrev F.hubBootAttemptsSkipB : Fld := ⟨R.hubBootAttempts, 13, 13⟩
abbrev F.hubBootAttemptsSkipA : Fld := ⟨R.hubBootAttempts, 12, 12⟩
abbrev F.hubBootAttemptsLimit : Fld := ⟨R.hubBootAttempts, 11, 8⟩
abbrev F.hubBootAttemptsCount : Fld := ⟨R.hubBootAttempts, 3, 0⟩
abbrev R.hubBootLast : Nat := 0x18
abbrev F.hubBootLastReason : Fld := ⟨R.hubBootLast, 31, 24⟩
abbrev F.hubBootLastStage : Fld := ⟨R.hubBootLast, 23, 20⟩
abbrev F.hubBootLastImage : Fld := ⟨R.hubBootLast, 19, 19⟩
abbrev F.hubBootLastDetail : Fld := ⟨R.hubBootLast, 15, 0⟩
abbrev R.hubBootCtrl : Nat := 0x1C
abbrev F.hubBootCtrlClear : Fld := ⟨R.hubBootCtrl, 1, 1⟩
abbrev F.hubBootCtrlRestart : Fld := ⟨R.hubBootCtrl, 0, 0⟩
abbrev R.hubImageA : Nat := 0x20
abbrev F.hubImageAValid : Fld := ⟨R.hubImageA, 31, 31⟩
abbrev F.hubImageATried : Fld := ⟨R.hubImageA, 30, 30⟩
abbrev F.hubImageACause : Fld := ⟨R.hubImageA, 15, 8⟩
abbrev R.hubImageB : Nat := 0x24
abbrev F.hubImageBValid : Fld := ⟨R.hubImageB, 31, 31⟩
abbrev F.hubImageBTried : Fld := ⟨R.hubImageB, 30, 30⟩
abbrev F.hubImageBCause : Fld := ⟨R.hubImageB, 15, 8⟩
abbrev R.hubImageAVer : Nat := 0x28
abbrev R.hubImageBVer : Nat := 0x30
abbrev R.hubNeap : Nat := 0x38
abbrev F.hubNeapActive : Fld := ⟨R.hubNeap, 31, 31⟩
abbrev F.hubNeapReason : Fld := ⟨R.hubNeap, 7, 0⟩
abbrev R.hubFlash : Nat := 0x3C
abbrev F.hubFlashBusy : Fld := ⟨R.hubFlash, 31, 31⟩
abbrev F.hubFlashWriter : Fld := ⟨R.hubFlash, 30, 28⟩
abbrev F.hubFlashPercent : Fld := ⟨R.hubFlash, 7, 0⟩
abbrev R.hubReadyTime : Nat := 0x40
abbrev R.hubAlert : Nat := 0x48
abbrev F.hubAlertDebug : Fld := ⟨R.hubAlert, 4, 4⟩
abbrev F.hubAlertTime : Fld := ⟨R.hubAlert, 3, 3⟩
abbrev F.hubAlertPower : Fld := ⟨R.hubAlert, 2, 2⟩
abbrev F.hubAlertThermal : Fld := ⟨R.hubAlert, 1, 1⟩
abbrev F.hubAlertEvqLoss : Fld := ⟨R.hubAlert, 0, 0⟩
abbrev R.sqBase (n : Nat) : Nat := 0x100000 + n * 0x1000
abbrev R.sqCfg (n : Nat) : Nat := 0x100008 + n * 0x1000
abbrev F.sqCfgLog2 (n : Nat) : Fld := ⟨R.sqCfg n, 4, 0⟩
abbrev R.sqTail (n : Nat) : Nat := 0x10000C + n * 0x1000
abbrev F.sqTailTail (n : Nat) : Fld := ⟨R.sqTail n, 15, 0⟩
abbrev R.sqHead (n : Nat) : Nat := 0x100010 + n * 0x1000
abbrev F.sqHeadHead (n : Nat) : Fld := ⟨R.sqHead n, 15, 0⟩
abbrev R.rqBase (n : Nat) : Nat := 0x100018 + n * 0x1000
abbrev R.rqCfg (n : Nat) : Nat := 0x100020 + n * 0x1000
abbrev F.rqCfgLog2 (n : Nat) : Fld := ⟨R.rqCfg n, 4, 0⟩
abbrev R.rqHead (n : Nat) : Nat := 0x100024 + n * 0x1000
abbrev F.rqHeadHead (n : Nat) : Fld := ⟨R.rqHead n, 15, 0⟩
abbrev R.rqTail (n : Nat) : Nat := 0x100028 + n * 0x1000
abbrev F.rqTailTail (n : Nat) : Fld := ⟨R.rqTail n, 15, 0⟩
abbrev R.qCtrl (n : Nat) : Nat := 0x100030 + n * 0x1000
abbrev F.qCtrlReset (n : Nat) : Fld := ⟨R.qCtrl n, 1, 1⟩
abbrev F.qCtrlEn (n : Nat) : Fld := ⟨R.qCtrl n, 0, 0⟩
abbrev R.qStatus (n : Nat) : Nat := 0x100034 + n * 0x1000
abbrev F.qStatusIdle (n : Nat) : Fld := ⟨R.qStatus n, 4, 4⟩
abbrev F.qStatusHostErr (n : Nat) : Fld := ⟨R.qStatus n, 3, 3⟩
abbrev F.qStatusDbErr (n : Nat) : Fld := ⟨R.qStatus n, 2, 2⟩
abbrev F.qStatusCfgErr (n : Nat) : Fld := ⟨R.qStatus n, 1, 1⟩
abbrev F.qStatusRunning (n : Nat) : Fld := ⟨R.qStatus n, 0, 0⟩
abbrev R.qMod (n : Nat) : Nat := 0x100038 + n * 0x1000
abbrev F.qModTimeUs (n : Nat) : Fld := ⟨R.qMod n, 25, 16⟩
abbrev F.qModCount (n : Nat) : Fld := ⟨R.qMod n, 7, 0⟩
abbrev R.qCount (n : Nat) : Nat := 0x10003C + n * 0x1000
abbrev F.qCountDropped (n : Nat) : Fld := ⟨R.qCount n, 31, 16⟩
abbrev F.qCountInflight (n : Nat) : Fld := ⟨R.qCount n, 8, 0⟩
abbrev R.evqBase : Nat := 0x180000
abbrev R.evqCfg : Nat := 0x180008
abbrev F.evqCfgEn : Fld := ⟨R.evqCfg, 8, 8⟩
abbrev F.evqCfgLog2 : Fld := ⟨R.evqCfg, 4, 0⟩
abbrev R.evqHead : Nat := 0x18000C
abbrev F.evqHeadHead : Fld := ⟨R.evqHead, 15, 0⟩
abbrev R.evqTail : Nat := 0x180010
abbrev F.evqTailTail : Fld := ⟨R.evqTail, 15, 0⟩
abbrev R.evqStatus : Nat := 0x180014
abbrev F.evqStatusBacklog : Fld := ⟨R.evqStatus, 15, 8⟩
abbrev F.evqStatusCfgErr : Fld := ⟨R.evqStatus, 4, 4⟩
abbrev F.evqStatusHeadErr : Fld := ⟨R.evqStatus, 3, 3⟩
abbrev F.evqStatusAlert : Fld := ⟨R.evqStatus, 2, 2⟩
abbrev F.evqStatusLost : Fld := ⟨R.evqStatus, 1, 1⟩
abbrev F.evqStatusFull : Fld := ⟨R.evqStatus, 0, 0⟩
abbrev R.evqDrop : Nat := 0x180018
abbrev F.evqDropNotice : Fld := ⟨R.evqDrop, 31, 16⟩
abbrev F.evqDropInfo : Fld := ⟨R.evqDrop, 15, 0⟩
abbrev R.evqLost : Nat := 0x18001C
abbrev F.evqLostFatal : Fld := ⟨R.evqLost, 29, 20⟩
abbrev F.evqLostError : Fld := ⟨R.evqLost, 19, 10⟩
abbrev F.evqLostWarn : Fld := ⟨R.evqLost, 9, 0⟩
abbrev R.evqMod : Nat := 0x180020
abbrev F.evqModTimeUs : Fld := ⟨R.evqMod, 25, 16⟩
abbrev F.evqModCount : Fld := ⟨R.evqMod, 7, 0⟩
abbrev R.evqSeq : Nat := 0x180024
abbrev F.evqSeqSeq : Fld := ⟨R.evqSeq, 15, 0⟩
abbrev R.evqTmCfg : Nat := 0x180030
abbrev F.evqTmCfgDir : Fld := ⟨R.evqTmCfg, 31, 31⟩
abbrev F.evqTmCfgThresh : Fld := ⟨R.evqTmCfg, 27, 0⟩
abbrev R.evqTmStat : Nat := 0x180034
abbrev F.evqTmStatSticky : Fld := ⟨R.evqTmStat, 31, 31⟩
abbrev F.evqTmStatCount : Fld := ⟨R.evqTmStat, 15, 0⟩
abbrev R.evqTmLevel : Nat := 0x180038
abbrev F.evqTmLevelLevel : Fld := ⟨R.evqTmLevel, 27, 0⟩
abbrev R.secLc : Nat := 0x200000
abbrev F.secLcReturnDone : Fld := ⟨R.secLc, 31, 31⟩
abbrev F.secLcState : Fld := ⟨R.secLc, 2, 0⟩
abbrev R.secUid : Nat := 0x200008
abbrev R.secKeys : Nat := 0x200010
abbrev F.secKeysMakerPresent : Fld := ⟨R.secKeys, 31, 31⟩
abbrev F.secKeysMakerLocked : Fld := ⟨R.secKeys, 30, 30⟩
abbrev F.secKeysOwnerLocked : Fld := ⟨R.secKeys, 29, 29⟩
abbrev F.secKeysSignGen : Fld := ⟨R.secKeys, 11, 8⟩
abbrev F.secKeysOwnerGen : Fld := ⟨R.secKeys, 3, 0⟩
abbrev R.secPkeyValid : Nat := 0x200018
abbrev R.secPkeyLocked : Nat := 0x200020
abbrev R.secKeySel : Nat := 0x200028
abbrev F.secKeySelKeySlot : Fld := ⟨R.secKeySel, 7, 0⟩
abbrev R.secKeyCtr : Nat := 0x200030
abbrev R.secKeyReserve : Nat := 0x200038
abbrev R.secKeyStat : Nat := 0x200040
abbrev F.secKeyStatLocked : Fld := ⟨R.secKeyStat, 31, 31⟩
abbrev F.secKeyStatRefusing : Fld := ⟨R.secKeyStat, 30, 30⟩
abbrev F.secKeyStatAuthFails : Fld := ⟨R.secKeyStat, 20, 16⟩
abbrev F.secKeyStatReservesLeft : Fld := ⟨R.secKeyStat, 8, 0⟩
abbrev R.secFloorMaker : Nat := 0x200048
abbrev R.secFloorOwner : Nat := 0x200050
abbrev R.secFloor : Nat := 0x200058
abbrev F.secFloorOwnerLeft : Fld := ⟨R.secFloor, 14, 8⟩
abbrev F.secFloorMakerLeft : Fld := ⟨R.secFloor, 6, 0⟩
abbrev R.secDebug : Nat := 0x200060
abbrev F.secDebugPortLockout : Fld := ⟨R.secDebug, 4, 4⟩
abbrev F.secDebugSession : Fld := ⟨R.secDebug, 3, 3⟩
abbrev F.secDebugAuthRequired : Fld := ⟨R.secDebug, 2, 2⟩
abbrev F.secDebugPortOpen : Fld := ⟨R.secDebug, 1, 1⟩
abbrev F.secDebugJtagOpen : Fld := ⟨R.secDebug, 0, 0⟩
abbrev R.secRng : Nat := 0x200064
abbrev F.secRngWord : Fld := ⟨R.secRng, 31, 0⟩
abbrev R.secFault : Nat := 0x200068
abbrev F.secFaultValid : Fld := ⟨R.secFault, 31, 31⟩
abbrev F.secFaultCause : Fld := ⟨R.secFault, 7, 0⟩
abbrev R.secDbgChal0 : Nat := 0x200080
abbrev F.secDbgChal0Bytes : Fld := ⟨R.secDbgChal0, 31, 0⟩
abbrev R.secDbgChal1 : Nat := 0x200084
abbrev F.secDbgChal1Bytes : Fld := ⟨R.secDbgChal1, 31, 0⟩
abbrev R.secDbgChal2 : Nat := 0x200088
abbrev F.secDbgChal2Bytes : Fld := ⟨R.secDbgChal2, 31, 0⟩
abbrev R.secDbgChal3 : Nat := 0x20008C
abbrev F.secDbgChal3Bytes : Fld := ⟨R.secDbgChal3, 31, 0⟩
abbrev R.secDbgChal4 : Nat := 0x200090
abbrev F.secDbgChal4Bytes : Fld := ⟨R.secDbgChal4, 31, 0⟩
abbrev R.secDbgChal5 : Nat := 0x200094
abbrev F.secDbgChal5Bytes : Fld := ⟨R.secDbgChal5, 31, 0⟩
abbrev R.secDbgChal6 : Nat := 0x200098
abbrev F.secDbgChal6Bytes : Fld := ⟨R.secDbgChal6, 31, 0⟩
abbrev R.secDbgChal7 : Nat := 0x20009C
abbrev F.secDbgChal7Bytes : Fld := ⟨R.secDbgChal7, 31, 0⟩
abbrev R.secDbgResp0 : Nat := 0x2000A0
abbrev F.secDbgResp0Bytes : Fld := ⟨R.secDbgResp0, 31, 0⟩
abbrev R.secDbgResp1 : Nat := 0x2000A4
abbrev F.secDbgResp1Bytes : Fld := ⟨R.secDbgResp1, 31, 0⟩
abbrev R.secDbgResp2 : Nat := 0x2000A8
abbrev F.secDbgResp2Bytes : Fld := ⟨R.secDbgResp2, 31, 0⟩
abbrev R.secDbgResp3 : Nat := 0x2000AC
abbrev F.secDbgResp3Bytes : Fld := ⟨R.secDbgResp3, 31, 0⟩
abbrev R.secDbgResp4 : Nat := 0x2000B0
abbrev F.secDbgResp4Bytes : Fld := ⟨R.secDbgResp4, 31, 0⟩
abbrev R.secDbgResp5 : Nat := 0x2000B4
abbrev F.secDbgResp5Bytes : Fld := ⟨R.secDbgResp5, 31, 0⟩
abbrev R.secDbgResp6 : Nat := 0x2000B8
abbrev F.secDbgResp6Bytes : Fld := ⟨R.secDbgResp6, 31, 0⟩
abbrev R.secDbgResp7 : Nat := 0x2000BC
abbrev F.secDbgResp7Bytes : Fld := ⟨R.secDbgResp7, 31, 0⟩
abbrev R.secOtpProg : Nat := 0x2000C0
abbrev F.secOtpProgProg : Fld := ⟨R.secOtpProg, 31, 0⟩
abbrev R.apCtrl (n : Nat) : Nat := 0x300000 + n * 0x1000
abbrev F.apCtrlTakeoverMaster (n : Nat) : Fld := ⟨R.apCtrl n, 4, 4⟩
abbrev F.apCtrlRole (n : Nat) : Fld := ⟨R.apCtrl n, 3, 2⟩
abbrev F.apCtrlEn (n : Nat) : Fld := ⟨R.apCtrl n, 0, 0⟩
abbrev R.apCfg (n : Nat) : Nat := 0x300004 + n * 0x1000
abbrev F.apCfgAcs (n : Nat) : Fld := ⟨R.apCfg n, 29, 28⟩
abbrev F.apCfgFormat (n : Nat) : Fld := ⟨R.apCfg n, 27, 26⟩
abbrev F.apCfgWidth (n : Nat) : Fld := ⟨R.apCfg n, 25, 24⟩
abbrev F.apCfgSlotsM1 (n : Nat) : Fld := ⟨R.apCfg n, 23, 19⟩
abbrev F.apCfgRate (n : Nat) : Fld := ⟨R.apCfg n, 18, 16⟩
abbrev F.apCfgBclkDiv (n : Nat) : Fld := ⟨R.apCfg n, 15, 8⟩
abbrev F.apCfgGrid (n : Nat) : Fld := ⟨R.apCfg n, 7, 5⟩
abbrev F.apCfgTxMode (n : Nat) : Fld := ⟨R.apCfg n, 4, 4⟩
abbrev F.apCfgBclkInv (n : Nat) : Fld := ⟨R.apCfg n, 3, 3⟩
abbrev F.apCfgFsInv (n : Nat) : Fld := ⟨R.apCfg n, 2, 2⟩
abbrev F.apCfgFsWidth (n : Nat) : Fld := ⟨R.apCfg n, 1, 0⟩
abbrev R.apFrame (n : Nat) : Nat := 0x300008 + n * 0x1000
abbrev F.apFrameDelay (n : Nat) : Fld := ⟨R.apFrame n, 16, 16⟩
abbrev F.apFrameFrameLen (n : Nat) : Fld := ⟨R.apFrame n, 11, 0⟩
abbrev R.apFloodMask (n : Nat) : Nat := 0x30000C + n * 0x1000
abbrev F.apFloodMaskMask (n : Nat) : Fld := ⟨R.apFloodMask n, 31, 0⟩
abbrev R.apEbbMask (n : Nat) : Nat := 0x300010 + n * 0x1000
abbrev F.apEbbMaskMask (n : Nat) : Fld := ⟨R.apEbbMask n, 31, 0⟩
abbrev R.apStatus (n : Nat) : Nat := 0x300014 + n * 0x1000
abbrev F.apStatusErrCode (n : Nat) : Fld := ⟨R.apStatus n, 31, 24⟩
abbrev F.apStatusAligned (n : Nat) : Fld := ⟨R.apStatus n, 9, 9⟩
abbrev F.apStatusOldRingBusy (n : Nat) : Fld := ⟨R.apStatus n, 8, 8⟩
abbrev F.apStatusCommitPending (n : Nat) : Fld := ⟨R.apStatus n, 7, 7⟩
abbrev F.apStatusNextErr (n : Nat) : Fld := ⟨R.apStatus n, 6, 6⟩
abbrev F.apStatusCfgErr (n : Nat) : Fld := ⟨R.apStatus n, 5, 5⟩
abbrev F.apStatusSyncLost (n : Nat) : Fld := ⟨R.apStatus n, 4, 4⟩
abbrev F.apStatusRoleNow (n : Nat) : Fld := ⟨R.apStatus n, 3, 2⟩
abbrev F.apStatusTakenOver (n : Nat) : Fld := ⟨R.apStatus n, 1, 1⟩
abbrev F.apStatusRunning (n : Nat) : Fld := ⟨R.apStatus n, 0, 0⟩
abbrev R.apRingBase (n : Nat) : Nat := 0x300018 + n * 0x1000
abbrev R.apRingBaseNext (n : Nat) : Nat := 0x300020 + n * 0x1000
abbrev R.apIdx (n : Nat) : Nat := 0x300028 + n * 0x1000
abbrev R.apSyncIdx (n : Nat) : Nat := 0x300030 + n * 0x1000
abbrev R.apSyncTime (n : Nat) : Nat := 0x300038 + n * 0x1000
abbrev R.apCommitIdx (n : Nat) : Nat := 0x300040 + n * 0x1000
abbrev R.apCommitTime (n : Nat) : Nat := 0x300048 + n * 0x1000
abbrev R.apCommitEbb (n : Nat) : Nat := 0x300050 + n * 0x1000
abbrev F.apCommitEbbTail (n : Nat) : Fld := ⟨R.apCommitEbb n, 31, 0⟩
abbrev R.apFloodTmCfg (n : Nat) : Nat := 0x300060 + n * 0x1000
abbrev F.apFloodTmCfgDir (n : Nat) : Fld := ⟨R.apFloodTmCfg n, 31, 31⟩
abbrev F.apFloodTmCfgThresh (n : Nat) : Fld := ⟨R.apFloodTmCfg n, 27, 0⟩
abbrev R.apFloodTmStat (n : Nat) : Nat := 0x300064 + n * 0x1000
abbrev F.apFloodTmStatSticky (n : Nat) : Fld := ⟨R.apFloodTmStat n, 31, 31⟩
abbrev F.apFloodTmStatCount (n : Nat) : Fld := ⟨R.apFloodTmStat n, 15, 0⟩
abbrev R.apFloodTmLevel (n : Nat) : Nat := 0x300068 + n * 0x1000
abbrev F.apFloodTmLevelLevel (n : Nat) : Fld := ⟨R.apFloodTmLevel n, 27, 0⟩
abbrev R.apEbbTmCfg (n : Nat) : Nat := 0x300070 + n * 0x1000
abbrev F.apEbbTmCfgDir (n : Nat) : Fld := ⟨R.apEbbTmCfg n, 31, 31⟩
abbrev F.apEbbTmCfgThresh (n : Nat) : Fld := ⟨R.apEbbTmCfg n, 27, 0⟩
abbrev R.apEbbTmStat (n : Nat) : Nat := 0x300074 + n * 0x1000
abbrev F.apEbbTmStatSticky (n : Nat) : Fld := ⟨R.apEbbTmStat n, 31, 31⟩
abbrev F.apEbbTmStatCount (n : Nat) : Fld := ⟨R.apEbbTmStat n, 15, 0⟩
abbrev R.apEbbTmLevel (n : Nat) : Nat := 0x300078 + n * 0x1000
abbrev F.apEbbTmLevelLevel (n : Nat) : Fld := ⟨R.apEbbTmLevel n, 27, 0⟩
abbrev R.apVadCfg (n : Nat) : Nat := 0x300080 + n * 0x1000
abbrev F.apVadCfgThresh (n : Nat) : Fld := ⟨R.apVadCfg n, 31, 25⟩
abbrev F.apVadCfgMarginDb (n : Nat) : Fld := ⟨R.apVadCfg n, 24, 19⟩
abbrev F.apVadCfgHangMs (n : Nat) : Fld := ⟨R.apVadCfg n, 15, 8⟩
abbrev F.apVadCfgWinMs (n : Nat) : Fld := ⟨R.apVadCfg n, 3, 0⟩
abbrev R.apVadEn (n : Nat) : Nat := 0x300084 + n * 0x1000
abbrev F.apVadEnMask (n : Nat) : Fld := ⟨R.apVadEn n, 31, 0⟩
abbrev R.apVadFlag (n : Nat) : Nat := 0x300088 + n * 0x1000
abbrev F.apVadFlagMask (n : Nat) : Fld := ⟨R.apVadFlag n, 31, 0⟩
abbrev R.apVadSoft (n : Nat) : Nat := 0x30008C + n * 0x1000
abbrev F.apVadSoftMask (n : Nat) : Fld := ⟨R.apVadSoft n, 31, 0⟩
abbrev R.apCut (n : Nat) : Nat := 0x300090 + n * 0x1000
abbrev F.apCutMask (n : Nat) : Fld := ⟨R.apCut n, 31, 0⟩
abbrev R.apErrcnt (n : Nat) : Nat := 0x3000A0 + n * 0x1000
abbrev F.apErrcntSyncLoss (n : Nat) : Fld := ⟨R.apErrcnt n, 31, 16⟩
abbrev F.apErrcntOverrun (n : Nat) : Fld := ⟨R.apErrcnt n, 15, 0⟩
abbrev R.apPair0 (n : Nat) : Nat := 0x3000C0 + n * 0x1000
abbrev F.apPair0Valid3 (n : Nat) : Fld := ⟨R.apPair0 n, 31, 31⟩
abbrev F.apPair0Slot3 (n : Nat) : Fld := ⟨R.apPair0 n, 28, 24⟩
abbrev F.apPair0Valid2 (n : Nat) : Fld := ⟨R.apPair0 n, 23, 23⟩
abbrev F.apPair0Slot2 (n : Nat) : Fld := ⟨R.apPair0 n, 20, 16⟩
abbrev F.apPair0Valid1 (n : Nat) : Fld := ⟨R.apPair0 n, 15, 15⟩
abbrev F.apPair0Slot1 (n : Nat) : Fld := ⟨R.apPair0 n, 12, 8⟩
abbrev F.apPair0Valid0 (n : Nat) : Fld := ⟨R.apPair0 n, 7, 7⟩
abbrev F.apPair0Slot0 (n : Nat) : Fld := ⟨R.apPair0 n, 4, 0⟩
abbrev R.apPair1 (n : Nat) : Nat := 0x3000C4 + n * 0x1000
abbrev F.apPair1Valid3 (n : Nat) : Fld := ⟨R.apPair1 n, 31, 31⟩
abbrev F.apPair1Slot3 (n : Nat) : Fld := ⟨R.apPair1 n, 28, 24⟩
abbrev F.apPair1Valid2 (n : Nat) : Fld := ⟨R.apPair1 n, 23, 23⟩
abbrev F.apPair1Slot2 (n : Nat) : Fld := ⟨R.apPair1 n, 20, 16⟩
abbrev F.apPair1Valid1 (n : Nat) : Fld := ⟨R.apPair1 n, 15, 15⟩
abbrev F.apPair1Slot1 (n : Nat) : Fld := ⟨R.apPair1 n, 12, 8⟩
abbrev F.apPair1Valid0 (n : Nat) : Fld := ⟨R.apPair1 n, 7, 7⟩
abbrev F.apPair1Slot0 (n : Nat) : Fld := ⟨R.apPair1 n, 4, 0⟩
abbrev R.apPair2 (n : Nat) : Nat := 0x3000C8 + n * 0x1000
abbrev F.apPair2Valid3 (n : Nat) : Fld := ⟨R.apPair2 n, 31, 31⟩
abbrev F.apPair2Slot3 (n : Nat) : Fld := ⟨R.apPair2 n, 28, 24⟩
abbrev F.apPair2Valid2 (n : Nat) : Fld := ⟨R.apPair2 n, 23, 23⟩
abbrev F.apPair2Slot2 (n : Nat) : Fld := ⟨R.apPair2 n, 20, 16⟩
abbrev F.apPair2Valid1 (n : Nat) : Fld := ⟨R.apPair2 n, 15, 15⟩
abbrev F.apPair2Slot1 (n : Nat) : Fld := ⟨R.apPair2 n, 12, 8⟩
abbrev F.apPair2Valid0 (n : Nat) : Fld := ⟨R.apPair2 n, 7, 7⟩
abbrev F.apPair2Slot0 (n : Nat) : Fld := ⟨R.apPair2 n, 4, 0⟩
abbrev R.apPair3 (n : Nat) : Nat := 0x3000CC + n * 0x1000
abbrev F.apPair3Valid3 (n : Nat) : Fld := ⟨R.apPair3 n, 31, 31⟩
abbrev F.apPair3Slot3 (n : Nat) : Fld := ⟨R.apPair3 n, 28, 24⟩
abbrev F.apPair3Valid2 (n : Nat) : Fld := ⟨R.apPair3 n, 23, 23⟩
abbrev F.apPair3Slot2 (n : Nat) : Fld := ⟨R.apPair3 n, 20, 16⟩
abbrev F.apPair3Valid1 (n : Nat) : Fld := ⟨R.apPair3 n, 15, 15⟩
abbrev F.apPair3Slot1 (n : Nat) : Fld := ⟨R.apPair3 n, 12, 8⟩
abbrev F.apPair3Valid0 (n : Nat) : Fld := ⟨R.apPair3 n, 7, 7⟩
abbrev F.apPair3Slot0 (n : Nat) : Fld := ⟨R.apPair3 n, 4, 0⟩
abbrev R.apPair4 (n : Nat) : Nat := 0x3000D0 + n * 0x1000
abbrev F.apPair4Valid3 (n : Nat) : Fld := ⟨R.apPair4 n, 31, 31⟩
abbrev F.apPair4Slot3 (n : Nat) : Fld := ⟨R.apPair4 n, 28, 24⟩
abbrev F.apPair4Valid2 (n : Nat) : Fld := ⟨R.apPair4 n, 23, 23⟩
abbrev F.apPair4Slot2 (n : Nat) : Fld := ⟨R.apPair4 n, 20, 16⟩
abbrev F.apPair4Valid1 (n : Nat) : Fld := ⟨R.apPair4 n, 15, 15⟩
abbrev F.apPair4Slot1 (n : Nat) : Fld := ⟨R.apPair4 n, 12, 8⟩
abbrev F.apPair4Valid0 (n : Nat) : Fld := ⟨R.apPair4 n, 7, 7⟩
abbrev F.apPair4Slot0 (n : Nat) : Fld := ⟨R.apPair4 n, 4, 0⟩
abbrev R.apPair5 (n : Nat) : Nat := 0x3000D4 + n * 0x1000
abbrev F.apPair5Valid3 (n : Nat) : Fld := ⟨R.apPair5 n, 31, 31⟩
abbrev F.apPair5Slot3 (n : Nat) : Fld := ⟨R.apPair5 n, 28, 24⟩
abbrev F.apPair5Valid2 (n : Nat) : Fld := ⟨R.apPair5 n, 23, 23⟩
abbrev F.apPair5Slot2 (n : Nat) : Fld := ⟨R.apPair5 n, 20, 16⟩
abbrev F.apPair5Valid1 (n : Nat) : Fld := ⟨R.apPair5 n, 15, 15⟩
abbrev F.apPair5Slot1 (n : Nat) : Fld := ⟨R.apPair5 n, 12, 8⟩
abbrev F.apPair5Valid0 (n : Nat) : Fld := ⟨R.apPair5 n, 7, 7⟩
abbrev F.apPair5Slot0 (n : Nat) : Fld := ⟨R.apPair5 n, 4, 0⟩
abbrev R.apPair6 (n : Nat) : Nat := 0x3000D8 + n * 0x1000
abbrev F.apPair6Valid3 (n : Nat) : Fld := ⟨R.apPair6 n, 31, 31⟩
abbrev F.apPair6Slot3 (n : Nat) : Fld := ⟨R.apPair6 n, 28, 24⟩
abbrev F.apPair6Valid2 (n : Nat) : Fld := ⟨R.apPair6 n, 23, 23⟩
abbrev F.apPair6Slot2 (n : Nat) : Fld := ⟨R.apPair6 n, 20, 16⟩
abbrev F.apPair6Valid1 (n : Nat) : Fld := ⟨R.apPair6 n, 15, 15⟩
abbrev F.apPair6Slot1 (n : Nat) : Fld := ⟨R.apPair6 n, 12, 8⟩
abbrev F.apPair6Valid0 (n : Nat) : Fld := ⟨R.apPair6 n, 7, 7⟩
abbrev F.apPair6Slot0 (n : Nat) : Fld := ⟨R.apPair6 n, 4, 0⟩
abbrev R.apPair7 (n : Nat) : Nat := 0x3000DC + n * 0x1000
abbrev F.apPair7Valid3 (n : Nat) : Fld := ⟨R.apPair7 n, 31, 31⟩
abbrev F.apPair7Slot3 (n : Nat) : Fld := ⟨R.apPair7 n, 28, 24⟩
abbrev F.apPair7Valid2 (n : Nat) : Fld := ⟨R.apPair7 n, 23, 23⟩
abbrev F.apPair7Slot2 (n : Nat) : Fld := ⟨R.apPair7 n, 20, 16⟩
abbrev F.apPair7Valid1 (n : Nat) : Fld := ⟨R.apPair7 n, 15, 15⟩
abbrev F.apPair7Slot1 (n : Nat) : Fld := ⟨R.apPair7 n, 12, 8⟩
abbrev F.apPair7Valid0 (n : Nat) : Fld := ⟨R.apPair7 n, 7, 7⟩
abbrev F.apPair7Slot0 (n : Nat) : Fld := ⟨R.apPair7 n, 4, 0⟩
abbrev R.acsCtrl (n : Nat) : Nat := 0x400000 + n * 0x100
abbrev F.acsCtrlRefPort (n : Nat) : Fld := ⟨R.acsCtrl n, 10, 8⟩
abbrev F.acsCtrlMclkDiv (n : Nat) : Fld := ⟨R.acsCtrl n, 5, 4⟩
abbrev F.acsCtrlFreq (n : Nat) : Fld := ⟨R.acsCtrl n, 3, 3⟩
abbrev F.acsCtrlMode (n : Nat) : Fld := ⟨R.acsCtrl n, 2, 1⟩
abbrev F.acsCtrlEn (n : Nat) : Fld := ⟨R.acsCtrl n, 0, 0⟩
abbrev R.acsBw (n : Nat) : Nat := 0x400004 + n * 0x100
abbrev F.acsBwBwChz (n : Nat) : Fld := ⟨R.acsBw n, 15, 0⟩
abbrev R.acsPullSet (n : Nat) : Nat := 0x400008 + n * 0x100
abbrev F.acsPullSetPpb (n : Nat) : Fld := ⟨R.acsPullSet n, 31, 0⟩
abbrev R.acsPullLim (n : Nat) : Nat := 0x40000C + n * 0x100
abbrev F.acsPullLimPpb (n : Nat) : Fld := ⟨R.acsPullLim n, 18, 0⟩
abbrev R.acsPullNow (n : Nat) : Nat := 0x400010 + n * 0x100
abbrev F.acsPullNowPpb (n : Nat) : Fld := ⟨R.acsPullNow n, 31, 0⟩
abbrev R.acsStatus (n : Nat) : Nat := 0x400014 + n * 0x100
abbrev F.acsStatusErrCode (n : Nat) : Fld := ⟨R.acsStatus n, 15, 8⟩
abbrev F.acsStatusCfgErr (n : Nat) : Fld := ⟨R.acsStatus n, 4, 4⟩
abbrev F.acsStatusAtLimit (n : Nat) : Fld := ⟨R.acsStatus n, 3, 3⟩
abbrev F.acsStatusState (n : Nat) : Fld := ⟨R.acsStatus n, 2, 0⟩
abbrev R.acsFreqMeas (n : Nat) : Nat := 0x400018 + n * 0x100
abbrev F.acsFreqMeasPpb (n : Nat) : Fld := ⟨R.acsFreqMeas n, 31, 0⟩
abbrev R.apdAnchorIdx (n : Nat) : Nat := 0x401000 + n * 0x40
abbrev R.apdAnchorTime (n : Nat) : Nat := 0x401008 + n * 0x40
abbrev R.apdPhase (n : Nat) : Nat := 0x401010 + n * 0x40
abbrev F.apdPhaseD (n : Nat) : Fld := ⟨R.apdPhase n, 31, 0⟩
abbrev R.apdStatus (n : Nat) : Nat := 0x401014 + n * 0x40
abbrev F.apdStatusSteady (n : Nat) : Fld := ⟨R.apdStatus n, 1, 1⟩
abbrev F.apdStatusAnchored (n : Nat) : Fld := ⟨R.apdStatus n, 0, 0⟩
abbrev R.apdSlips (n : Nat) : Nat := 0x401018 + n * 0x40
abbrev F.apdSlipsDropped (n : Nat) : Fld := ⟨R.apdSlips n, 31, 16⟩
abbrev F.apdSlipsInserted (n : Nat) : Fld := ⟨R.apdSlips n, 15, 0⟩
abbrev R.apdGuard (n : Nat) : Nat := 0x40101C + n * 0x40
abbrev F.apdGuardGuardUs (n : Nat) : Fld := ⟨R.apdGuard n, 15, 0⟩
abbrev R.dmaChOwner (n : Nat) : Nat := 0x500000 + n * 0x400
abbrev F.dmaChOwnerModule (n : Nat) : Fld := ⟨R.dmaChOwner n, 31, 31⟩
abbrev F.dmaChOwnerPartition (n : Nat) : Fld := ⟨R.dmaChOwner n, 5, 0⟩
abbrev R.dmaChCtrl (n : Nat) : Nat := 0x500004 + n * 0x400
abbrev F.dmaChCtrlAbort (n : Nat) : Fld := ⟨R.dmaChCtrl n, 1, 1⟩
abbrev F.dmaChCtrlEn (n : Nat) : Fld := ⟨R.dmaChCtrl n, 0, 0⟩
abbrev R.dmaChStatus (n : Nat) : Nat := 0x500008 + n * 0x400
abbrev F.dmaChStatusLastStatus (n : Nat) : Fld := ⟨R.dmaChStatus n, 31, 24⟩
abbrev F.dmaChStatusDbErr (n : Nat) : Fld := ⟨R.dmaChStatus n, 7, 7⟩
abbrev F.dmaChStatusCfgErr (n : Nat) : Fld := ⟨R.dmaChStatus n, 6, 6⟩
abbrev F.dmaChStatusDrained (n : Nat) : Fld := ⟨R.dmaChStatus n, 5, 5⟩
abbrev F.dmaChStatusFetchErr (n : Nat) : Fld := ⟨R.dmaChStatus n, 4, 4⟩
abbrev F.dmaChStatusErr (n : Nat) : Fld := ⟨R.dmaChStatus n, 3, 3⟩
abbrev F.dmaChStatusIdle (n : Nat) : Fld := ⟨R.dmaChStatus n, 1, 1⟩
abbrev F.dmaChStatusActive (n : Nat) : Fld := ⟨R.dmaChStatus n, 0, 0⟩
abbrev R.dmaChRingBase (n : Nat) : Nat := 0x500010 + n * 0x400
abbrev R.dmaChRingCfg (n : Nat) : Nat := 0x500018 + n * 0x400
abbrev F.dmaChRingCfgLog2 (n : Nat) : Fld := ⟨R.dmaChRingCfg n, 4, 0⟩
abbrev R.dmaChTail (n : Nat) : Nat := 0x50001C + n * 0x400
abbrev F.dmaChTailTail (n : Nat) : Fld := ⟨R.dmaChTail n, 15, 0⟩
abbrev R.dmaChHead (n : Nat) : Nat := 0x500020 + n * 0x400
abbrev F.dmaChHeadHead (n : Nat) : Fld := ⟨R.dmaChHead n, 15, 0⟩
abbrev R.dmaChDone (n : Nat) : Nat := 0x500028 + n * 0x400
abbrev R.dmaChResidue (n : Nat) : Nat := 0x500030 + n * 0x400
abbrev R.dmaChBytes (n : Nat) : Nat := 0x500038 + n * 0x400
abbrev R.dmaChTmCfg (n : Nat) : Nat := 0x500040 + n * 0x400
abbrev F.dmaChTmCfgDir (n : Nat) : Fld := ⟨R.dmaChTmCfg n, 31, 31⟩
abbrev F.dmaChTmCfgThresh (n : Nat) : Fld := ⟨R.dmaChTmCfg n, 27, 0⟩
abbrev R.dmaChTmStat (n : Nat) : Nat := 0x500044 + n * 0x400
abbrev F.dmaChTmStatSticky (n : Nat) : Fld := ⟨R.dmaChTmStat n, 31, 31⟩
abbrev F.dmaChTmStatCount (n : Nat) : Fld := ⟨R.dmaChTmStat n, 15, 0⟩
abbrev R.dmaChTmLevel (n : Nat) : Nat := 0x500048 + n * 0x400
abbrev F.dmaChTmLevelLevel (n : Nat) : Fld := ⟨R.dmaChTmLevel n, 27, 0⟩
abbrev R.dmaCaps : Nat := 0x510000
abbrev F.dmaCapsChannels : Fld := ⟨R.dmaCaps, 31, 24⟩
abbrev F.dmaCapsQueue : Fld := ⟨R.dmaCaps, 23, 16⟩
abbrev F.dmaCapsBurst : Fld := ⟨R.dmaCaps, 15, 8⟩
abbrev R.dmaChunkBase : Nat := 0x510008
abbrev R.dmaPortDefer : Nat := 0x510010
abbrev F.dmaPortDeferCount : Fld := ⟨R.dmaPortDefer, 15, 0⟩
abbrev R.dmaFault : Nat := 0x510014
abbrev F.dmaFaultValid : Fld := ⟨R.dmaFault, 31, 31⟩
abbrev F.dmaFaultCause : Fld := ⟨R.dmaFault, 7, 0⟩
abbrev R.dmaPortLatMax : Nat := 0x510018
abbrev F.dmaPortLatMaxNs : Fld := ⟨R.dmaPortLatMax, 15, 0⟩
abbrev R.mcCaps : Nat := 0x600000
abbrev F.mcCapsCtrls : Fld := ⟨R.mcCaps, 31, 24⟩
abbrev F.mcCapsDecoders : Fld := ⟨R.mcCaps, 23, 16⟩
abbrev F.mcCapsGib : Fld := ⟨R.mcCaps, 15, 0⟩
abbrev R.mcDieSlots : Nat := 0x600004
abbrev F.mcDieSlotsDie3 : Fld := ⟨R.mcDieSlots, 31, 24⟩
abbrev F.mcDieSlotsDie2 : Fld := ⟨R.mcDieSlots, 23, 16⟩
abbrev F.mcDieSlotsDie1 : Fld := ⟨R.mcDieSlots, 15, 8⟩
abbrev F.mcDieSlotsDie0 : Fld := ⟨R.mcDieSlots, 7, 0⟩
abbrev R.mcModBase : Nat := 0x600008
abbrev R.mcScrubCfg : Nat := 0x600010
abbrev F.mcScrubCfgScrubPeriodS : Fld := ⟨R.mcScrubCfg, 15, 0⟩
abbrev R.mcScrubStat : Nat := 0x600014
abbrev F.mcScrubStatPasses : Fld := ⟨R.mcScrubStat, 31, 16⟩
abbrev F.mcScrubStatLagS : Fld := ⟨R.mcScrubStat, 15, 0⟩
abbrev R.mcZero : Nat := 0x600018
abbrev F.mcZeroPending : Fld := ⟨R.mcZero, 22, 0⟩
abbrev R.mcRefresh : Nat := 0x60001C
abbrev F.mcRefreshTempMax : Fld := ⟨R.mcRefresh, 15, 8⟩
abbrev F.mcRefreshRate : Fld := ⟨R.mcRefresh, 1, 0⟩
abbrev R.mcFault : Nat := 0x600020
abbrev F.mcFaultValid : Fld := ⟨R.mcFault, 31, 31⟩
abbrev F.mcFaultCause : Fld := ⟨R.mcFault, 7, 0⟩
abbrev R.mcUeAddr : Nat := 0x600028
abbrev R.mcFrlNan : Nat := 0x600030
abbrev F.mcFrlNanCount : Fld := ⟨R.mcFrlNan, 15, 0⟩
abbrev R.mcStatus (n : Nat) : Nat := 0x601000 + n * 0x100
abbrev F.mcStatusChOk (n : Nat) : Fld := ⟨R.mcStatus n, 7, 4⟩
abbrev F.mcStatusTrained (n : Nat) : Fld := ⟨R.mcStatus n, 0, 0⟩
abbrev R.mcEcc (n : Nat) : Nat := 0x601004 + n * 0x100
abbrev F.mcEccCorr (n : Nat) : Fld := ⟨R.mcEcc n, 31, 16⟩
abbrev F.mcEccUe (n : Nat) : Fld := ⟨R.mcEcc n, 15, 0⟩
abbrev R.mcLinkEcc (n : Nat) : Nat := 0x601008 + n * 0x100
abbrev F.mcLinkEccCount (n : Nat) : Fld := ⟨R.mcLinkEcc n, 15, 0⟩
abbrev R.mcPoison (n : Nat) : Nat := 0x60100C + n * 0x100
abbrev F.mcPoisonBursts (n : Nat) : Fld := ⟨R.mcPoison n, 23, 0⟩
abbrev R.mcDecBlocks (n : Nat) : Nat := 0x601010 + n * 0x100
abbrev R.mcDecIn (n : Nat) : Nat := 0x601018 + n * 0x100
abbrev R.mcDecOut (n : Nat) : Nat := 0x601020 + n * 0x100
abbrev R.xlTableBase : Nat := 0x700000
abbrev R.xlTableMib : Nat := 0x700008
abbrev F.xlTableMibMib : Fld := ⟨R.xlTableMib, 15, 0⟩
abbrev R.xlFault : Nat := 0x700010
abbrev F.xlFaultValid : Fld := ⟨R.xlFault, 31, 31⟩
abbrev F.xlFaultCause : Fld := ⟨R.xlFault, 7, 0⟩
abbrev R.xlFaultVa : Nat := 0x700018
abbrev R.xlFaultPtr : Nat := 0x700020
abbrev R.xlPoolZero : Nat := 0x700028
abbrev F.xlPoolZeroCount : Fld := ⟨R.xlPoolZero, 15, 0⟩
abbrev R.xlWalks : Nat := 0x700030
abbrev R.xlRoot (n : Nat) : Nat := 0x701000 + n * 0x8
abbrev R.tpCaps : Nat := 0x800000
abbrev F.tpCapsGranules : Fld := ⟨R.tpCaps, 31, 16⟩
abbrev F.tpCapsGranKib : Fld := ⟨R.tpCaps, 15, 0⟩
abbrev R.tpFree : Nat := 0x800004
abbrev F.tpFreePlannedPeak : Fld := ⟨R.tpFree, 30, 16⟩
abbrev F.tpFreeFree : Fld := ⟨R.tpFree, 14, 0⟩
abbrev R.tpFreeMin : Nat := 0x800008
abbrev F.tpFreeMinPoolFreeMin : Fld := ⟨R.tpFreeMin, 14, 0⟩
abbrev R.tpSwapCfg : Nat := 0x80000C
abbrev F.tpSwapCfgSwapHigh : Fld := ⟨R.tpSwapCfg, 30, 16⟩
abbrev F.tpSwapCfgSwapLow : Fld := ⟨R.tpSwapCfg, 14, 0⟩
abbrev R.tpTmCfg : Nat := 0x800010
abbrev F.tpTmCfgDir : Fld := ⟨R.tpTmCfg, 31, 31⟩
abbrev F.tpTmCfgThresh : Fld := ⟨R.tpTmCfg, 27, 0⟩
abbrev R.tpTmStat : Nat := 0x800014
abbrev F.tpTmStatSticky : Fld := ⟨R.tpTmStat, 31, 31⟩
abbrev F.tpTmStatCount : Fld := ⟨R.tpTmStat, 15, 0⟩
abbrev R.tpTmLevel : Nat := 0x800018
abbrev F.tpTmLevelLevel : Fld := ⟨R.tpTmLevel, 27, 0⟩
abbrev R.tpZero : Nat := 0x80001C
abbrev F.tpZeroPending : Fld := ⟨R.tpZero, 14, 0⟩
abbrev R.tpScrubCfg : Nat := 0x800020
abbrev F.tpScrubCfgScrubPeriodMs : Fld := ⟨R.tpScrubCfg, 15, 0⟩
abbrev R.tpScrubStat : Nat := 0x800024
abbrev F.tpScrubStatPasses : Fld := ⟨R.tpScrubStat, 31, 16⟩
abbrev F.tpScrubStatLagMs : Fld := ⟨R.tpScrubStat, 15, 0⟩
abbrev R.tpEcc : Nat := 0x800028
abbrev F.tpEccCorr : Fld := ⟨R.tpEcc, 31, 16⟩
abbrev F.tpEccUe : Fld := ⟨R.tpEcc, 15, 0⟩
abbrev R.tpFault : Nat := 0x80002C
abbrev F.tpFaultValid : Fld := ⟨R.tpFault, 31, 31⟩
abbrev F.tpFaultCause : Fld := ⟨R.tpFault, 7, 0⟩
abbrev R.tpSwapStat : Nat := 0x800030
abbrev F.tpSwapStatLate : Fld := ⟨R.tpSwapStat, 31, 16⟩
abbrev F.tpSwapStatAreaFull : Fld := ⟨R.tpSwapStat, 15, 0⟩
abbrev R.tpSwapIn : Nat := 0x800040
abbrev R.tpSwapOut : Nat := 0x800048
abbrev R.tpCkptSent : Nat := 0x800050
abbrev R.tpCkptTarget : Nat := 0x800060
abbrev F.tpCkptTargetValid : Fld := ⟨R.tpCkptTarget, 31, 31⟩
abbrev F.tpCkptTargetBay : Fld := ⟨R.tpCkptTarget, 3, 0⟩
abbrev R.tpCkptStat : Nat := 0x800064
abbrev F.tpCkptStatInFlight : Fld := ⟨R.tpCkptStat, 31, 16⟩
abbrev F.tpCkptStatHeld : Fld := ⟨R.tpCkptStat, 15, 0⟩
abbrev R.tpCkptArea : Nat := 0x800068
abbrev F.tpCkptAreaCkptAreaMib : Fld := ⟨R.tpCkptArea, 15, 0⟩
abbrev R.dispCaps : Nat := 0x900000
abbrev F.dispCapsPartitions : Fld := ⟨R.dispCaps, 31, 24⟩
abbrev F.dispCapsEntries : Fld := ⟨R.dispCaps, 23, 16⟩
abbrev F.dispCapsSchedMax : Fld := ⟨R.dispCaps, 15, 0⟩
abbrev R.dispPartSel : Nat := 0x900010
abbrev F.dispPartSelPartition : Fld := ⟨R.dispPartSel, 5, 0⟩
abbrev R.dispPartState : Nat := 0x900014
abbrev F.dispPartStateChFirst : Fld := ⟨R.dispPartState, 31, 24⟩
abbrev F.dispPartStateChannels : Fld := ⟨R.dispPartState, 23, 16⟩
abbrev F.dispPartStateState : Fld := ⟨R.dispPartState, 1, 0⟩
abbrev R.dispPartQuota0 : Nat := 0x900040
abbrev F.dispPartQuota0Bytes : Fld := ⟨R.dispPartQuota0, 31, 0⟩
abbrev R.dispPartQuota1 : Nat := 0x900044
abbrev F.dispPartQuota1Bytes : Fld := ⟨R.dispPartQuota1, 31, 0⟩
abbrev R.dispPartQuota2 : Nat := 0x900048
abbrev F.dispPartQuota2Bytes : Fld := ⟨R.dispPartQuota2, 31, 0⟩
abbrev R.dispPartQuota3 : Nat := 0x90004C
abbrev F.dispPartQuota3Bytes : Fld := ⟨R.dispPartQuota3, 31, 0⟩
abbrev R.dispPartQuota4 : Nat := 0x900050
abbrev F.dispPartQuota4Bytes : Fld := ⟨R.dispPartQuota4, 31, 0⟩
abbrev R.dispPartQuota5 : Nat := 0x900054
abbrev F.dispPartQuota5Bytes : Fld := ⟨R.dispPartQuota5, 31, 0⟩
abbrev R.dispPartQuota6 : Nat := 0x900058
abbrev F.dispPartQuota6Bytes : Fld := ⟨R.dispPartQuota6, 31, 0⟩
abbrev R.dispPartQuota7 : Nat := 0x90005C
abbrev F.dispPartQuota7Bytes : Fld := ⟨R.dispPartQuota7, 31, 0⟩
abbrev R.dispPartQuota8 : Nat := 0x900060
abbrev F.dispPartQuota8Bytes : Fld := ⟨R.dispPartQuota8, 31, 0⟩
abbrev R.dispPartQuota9 : Nat := 0x900064
abbrev F.dispPartQuota9Bytes : Fld := ⟨R.dispPartQuota9, 31, 0⟩
abbrev R.dispPartQuota10 : Nat := 0x900068
abbrev F.dispPartQuota10Bytes : Fld := ⟨R.dispPartQuota10, 31, 0⟩
abbrev R.dispPartQuota11 : Nat := 0x90006C
abbrev F.dispPartQuota11Bytes : Fld := ⟨R.dispPartQuota11, 31, 0⟩
abbrev R.dispPartQuota12 : Nat := 0x900070
abbrev F.dispPartQuota12Bytes : Fld := ⟨R.dispPartQuota12, 31, 0⟩
abbrev R.dispPartQuota13 : Nat := 0x900074
abbrev F.dispPartQuota13Bytes : Fld := ⟨R.dispPartQuota13, 31, 0⟩
abbrev R.dispPartQuota14 : Nat := 0x900078
abbrev F.dispPartQuota14Bytes : Fld := ⟨R.dispPartQuota14, 31, 0⟩
abbrev R.dispPartQuota15 : Nat := 0x90007C
abbrev F.dispPartQuota15Bytes : Fld := ⟨R.dispPartQuota15, 31, 0⟩
abbrev R.dispPartQuota16 : Nat := 0x900080
abbrev F.dispPartQuota16Bytes : Fld := ⟨R.dispPartQuota16, 31, 0⟩
abbrev R.dispPartQuota17 : Nat := 0x900084
abbrev F.dispPartQuota17Bytes : Fld := ⟨R.dispPartQuota17, 31, 0⟩
abbrev R.dispPartQuota18 : Nat := 0x900088
abbrev F.dispPartQuota18Bytes : Fld := ⟨R.dispPartQuota18, 31, 0⟩
abbrev R.dispPartQuota19 : Nat := 0x90008C
abbrev F.dispPartQuota19Bytes : Fld := ⟨R.dispPartQuota19, 31, 0⟩
abbrev R.dispPartQuota20 : Nat := 0x900090
abbrev F.dispPartQuota20Bytes : Fld := ⟨R.dispPartQuota20, 31, 0⟩
abbrev R.dispPartQuota21 : Nat := 0x900094
abbrev F.dispPartQuota21Bytes : Fld := ⟨R.dispPartQuota21, 31, 0⟩
abbrev R.dispPartQuota22 : Nat := 0x900098
abbrev F.dispPartQuota22Bytes : Fld := ⟨R.dispPartQuota22, 31, 0⟩
abbrev R.dispPartQuota23 : Nat := 0x90009C
abbrev F.dispPartQuota23Bytes : Fld := ⟨R.dispPartQuota23, 31, 0⟩
abbrev R.dispPartUse0 : Nat := 0x9000A0
abbrev F.dispPartUse0Granules : Fld := ⟨R.dispPartUse0, 30, 16⟩
abbrev F.dispPartUse0Descriptors : Fld := ⟨R.dispPartUse0, 12, 0⟩
abbrev R.dispPartUse1 : Nat := 0x9000A4
abbrev F.dispPartUse1Jobs : Fld := ⟨R.dispPartUse1, 31, 24⟩
abbrev F.dispPartUse1Entries : Fld := ⟨R.dispPartUse1, 22, 16⟩
abbrev F.dispPartUse1SwapPages : Fld := ⟨R.dispPartUse1, 15, 0⟩
abbrev R.dispPartBudget0 : Nat := 0x9000B0
abbrev F.dispPartBudget0Remain : Fld := ⟨R.dispPartBudget0, 11, 0⟩
abbrev F.dispPartBudget0Units : Fld := ⟨R.dispPartBudget0, 25, 16⟩
abbrev R.dispPartBudget1 : Nat := 0x9000B4
abbrev F.dispPartBudget1Remain : Fld := ⟨R.dispPartBudget1, 11, 0⟩
abbrev F.dispPartBudget1Units : Fld := ⟨R.dispPartBudget1, 25, 16⟩
abbrev R.dispPartBudget2 : Nat := 0x9000B8
abbrev F.dispPartBudget2Remain : Fld := ⟨R.dispPartBudget2, 11, 0⟩
abbrev F.dispPartBudget2Units : Fld := ⟨R.dispPartBudget2, 25, 16⟩
abbrev R.dispPartBudget3 : Nat := 0x9000BC
abbrev F.dispPartBudget3Remain : Fld := ⟨R.dispPartBudget3, 11, 0⟩
abbrev F.dispPartBudget3Units : Fld := ⟨R.dispPartBudget3, 25, 16⟩
abbrev R.dispPartBudget4 : Nat := 0x9000C0
abbrev F.dispPartBudget4Remain : Fld := ⟨R.dispPartBudget4, 11, 0⟩
abbrev F.dispPartBudget4Units : Fld := ⟨R.dispPartBudget4, 25, 16⟩
abbrev R.dispPartBudget5 : Nat := 0x9000C4
abbrev F.dispPartBudget5Remain : Fld := ⟨R.dispPartBudget5, 11, 0⟩
abbrev F.dispPartBudget5Units : Fld := ⟨R.dispPartBudget5, 25, 16⟩
abbrev R.dispPartBudget6 : Nat := 0x9000C8
abbrev F.dispPartBudget6Remain : Fld := ⟨R.dispPartBudget6, 11, 0⟩
abbrev F.dispPartBudget6Units : Fld := ⟨R.dispPartBudget6, 25, 16⟩
abbrev R.dispPartBudget7 : Nat := 0x9000CC
abbrev F.dispPartBudget7Remain : Fld := ⟨R.dispPartBudget7, 11, 0⟩
abbrev F.dispPartBudget7Units : Fld := ⟨R.dispPartBudget7, 25, 16⟩
abbrev R.dispCore0 : Nat := 0x900100
abbrev F.dispCore0Mode : Fld := ⟨R.dispCore0, 31, 31⟩
abbrev F.dispCore0Busy : Fld := ⟨R.dispCore0, 30, 30⟩
abbrev F.dispCore0Changing : Fld := ⟨R.dispCore0, 29, 29⟩
abbrev F.dispCore0JobHeld : Fld := ⟨R.dispCore0, 28, 28⟩
abbrev F.dispCore0Partition : Fld := ⟨R.dispCore0, 21, 16⟩
abbrev F.dispCore0Sched : Fld := ⟨R.dispCore0, 15, 0⟩
abbrev R.dispCore1 : Nat := 0x900104
abbrev F.dispCore1Mode : Fld := ⟨R.dispCore1, 31, 31⟩
abbrev F.dispCore1Busy : Fld := ⟨R.dispCore1, 30, 30⟩
abbrev F.dispCore1Changing : Fld := ⟨R.dispCore1, 29, 29⟩
abbrev F.dispCore1JobHeld : Fld := ⟨R.dispCore1, 28, 28⟩
abbrev F.dispCore1Partition : Fld := ⟨R.dispCore1, 21, 16⟩
abbrev F.dispCore1Sched : Fld := ⟨R.dispCore1, 15, 0⟩
abbrev R.dispCore2 : Nat := 0x900108
abbrev F.dispCore2Mode : Fld := ⟨R.dispCore2, 31, 31⟩
abbrev F.dispCore2Busy : Fld := ⟨R.dispCore2, 30, 30⟩
abbrev F.dispCore2Changing : Fld := ⟨R.dispCore2, 29, 29⟩
abbrev F.dispCore2JobHeld : Fld := ⟨R.dispCore2, 28, 28⟩
abbrev F.dispCore2Partition : Fld := ⟨R.dispCore2, 21, 16⟩
abbrev F.dispCore2Sched : Fld := ⟨R.dispCore2, 15, 0⟩
abbrev R.dispCore3 : Nat := 0x90010C
abbrev F.dispCore3Mode : Fld := ⟨R.dispCore3, 31, 31⟩
abbrev F.dispCore3Busy : Fld := ⟨R.dispCore3, 30, 30⟩
abbrev F.dispCore3Changing : Fld := ⟨R.dispCore3, 29, 29⟩
abbrev F.dispCore3JobHeld : Fld := ⟨R.dispCore3, 28, 28⟩
abbrev F.dispCore3Partition : Fld := ⟨R.dispCore3, 21, 16⟩
abbrev F.dispCore3Sched : Fld := ⟨R.dispCore3, 15, 0⟩
abbrev R.dispCore4 : Nat := 0x900110
abbrev F.dispCore4Mode : Fld := ⟨R.dispCore4, 31, 31⟩
abbrev F.dispCore4Busy : Fld := ⟨R.dispCore4, 30, 30⟩
abbrev F.dispCore4Changing : Fld := ⟨R.dispCore4, 29, 29⟩
abbrev F.dispCore4JobHeld : Fld := ⟨R.dispCore4, 28, 28⟩
abbrev F.dispCore4Partition : Fld := ⟨R.dispCore4, 21, 16⟩
abbrev F.dispCore4Sched : Fld := ⟨R.dispCore4, 15, 0⟩
abbrev R.dispCore5 : Nat := 0x900114
abbrev F.dispCore5Mode : Fld := ⟨R.dispCore5, 31, 31⟩
abbrev F.dispCore5Busy : Fld := ⟨R.dispCore5, 30, 30⟩
abbrev F.dispCore5Changing : Fld := ⟨R.dispCore5, 29, 29⟩
abbrev F.dispCore5JobHeld : Fld := ⟨R.dispCore5, 28, 28⟩
abbrev F.dispCore5Partition : Fld := ⟨R.dispCore5, 21, 16⟩
abbrev F.dispCore5Sched : Fld := ⟨R.dispCore5, 15, 0⟩
abbrev R.dispCore6 : Nat := 0x900118
abbrev F.dispCore6Mode : Fld := ⟨R.dispCore6, 31, 31⟩
abbrev F.dispCore6Busy : Fld := ⟨R.dispCore6, 30, 30⟩
abbrev F.dispCore6Changing : Fld := ⟨R.dispCore6, 29, 29⟩
abbrev F.dispCore6JobHeld : Fld := ⟨R.dispCore6, 28, 28⟩
abbrev F.dispCore6Partition : Fld := ⟨R.dispCore6, 21, 16⟩
abbrev F.dispCore6Sched : Fld := ⟨R.dispCore6, 15, 0⟩
abbrev R.dispCore7 : Nat := 0x90011C
abbrev F.dispCore7Mode : Fld := ⟨R.dispCore7, 31, 31⟩
abbrev F.dispCore7Busy : Fld := ⟨R.dispCore7, 30, 30⟩
abbrev F.dispCore7Changing : Fld := ⟨R.dispCore7, 29, 29⟩
abbrev F.dispCore7JobHeld : Fld := ⟨R.dispCore7, 28, 28⟩
abbrev F.dispCore7Partition : Fld := ⟨R.dispCore7, 21, 16⟩
abbrev F.dispCore7Sched : Fld := ⟨R.dispCore7, 15, 0⟩
abbrev R.dispCore0Spad : Nat := 0x900120
abbrev F.dispCore0SpadRetUnits : Fld := ⟨R.dispCore0Spad, 25, 16⟩
abbrev F.dispCore0SpadFreeUnits : Fld := ⟨R.dispCore0Spad, 9, 0⟩
abbrev R.dispCore1Spad : Nat := 0x900124
abbrev F.dispCore1SpadRetUnits : Fld := ⟨R.dispCore1Spad, 25, 16⟩
abbrev F.dispCore1SpadFreeUnits : Fld := ⟨R.dispCore1Spad, 9, 0⟩
abbrev R.dispCore2Spad : Nat := 0x900128
abbrev F.dispCore2SpadRetUnits : Fld := ⟨R.dispCore2Spad, 25, 16⟩
abbrev F.dispCore2SpadFreeUnits : Fld := ⟨R.dispCore2Spad, 9, 0⟩
abbrev R.dispCore3Spad : Nat := 0x90012C
abbrev F.dispCore3SpadRetUnits : Fld := ⟨R.dispCore3Spad, 25, 16⟩
abbrev F.dispCore3SpadFreeUnits : Fld := ⟨R.dispCore3Spad, 9, 0⟩
abbrev R.dispCore4Spad : Nat := 0x900130
abbrev F.dispCore4SpadRetUnits : Fld := ⟨R.dispCore4Spad, 25, 16⟩
abbrev F.dispCore4SpadFreeUnits : Fld := ⟨R.dispCore4Spad, 9, 0⟩
abbrev R.dispCore5Spad : Nat := 0x900134
abbrev F.dispCore5SpadRetUnits : Fld := ⟨R.dispCore5Spad, 25, 16⟩
abbrev F.dispCore5SpadFreeUnits : Fld := ⟨R.dispCore5Spad, 9, 0⟩
abbrev R.dispCore6Spad : Nat := 0x900138
abbrev F.dispCore6SpadRetUnits : Fld := ⟨R.dispCore6Spad, 25, 16⟩
abbrev F.dispCore6SpadFreeUnits : Fld := ⟨R.dispCore6Spad, 9, 0⟩
abbrev R.dispCore7Spad : Nat := 0x90013C
abbrev F.dispCore7SpadRetUnits : Fld := ⟨R.dispCore7Spad, 25, 16⟩
abbrev F.dispCore7SpadFreeUnits : Fld := ⟨R.dispCore7Spad, 9, 0⟩
abbrev R.dispCore0Prog : Nat := 0x900140
abbrev F.dispCore0ProgFree : Fld := ⟨R.dispCore0Prog, 20, 0⟩
abbrev R.dispCore1Prog : Nat := 0x900144
abbrev F.dispCore1ProgFree : Fld := ⟨R.dispCore1Prog, 20, 0⟩
abbrev R.dispCore2Prog : Nat := 0x900148
abbrev F.dispCore2ProgFree : Fld := ⟨R.dispCore2Prog, 20, 0⟩
abbrev R.dispCore3Prog : Nat := 0x90014C
abbrev F.dispCore3ProgFree : Fld := ⟨R.dispCore3Prog, 20, 0⟩
abbrev R.dispCore4Prog : Nat := 0x900150
abbrev F.dispCore4ProgFree : Fld := ⟨R.dispCore4Prog, 20, 0⟩
abbrev R.dispCore5Prog : Nat := 0x900154
abbrev F.dispCore5ProgFree : Fld := ⟨R.dispCore5Prog, 20, 0⟩
abbrev R.dispCore6Prog : Nat := 0x900158
abbrev F.dispCore6ProgFree : Fld := ⟨R.dispCore6Prog, 20, 0⟩
abbrev R.dispCore7Prog : Nat := 0x90015C
abbrev F.dispCore7ProgFree : Fld := ⟨R.dispCore7Prog, 20, 0⟩
abbrev R.dispCacheSel : Nat := 0x900200
abbrev F.dispCacheSelEntry : Fld := ⟨R.dispCacheSel, 5, 0⟩
abbrev R.dispCacheEntry : Nat := 0x900204
abbrev F.dispCacheEntryValid : Fld := ⟨R.dispCacheEntry, 31, 31⟩
abbrev F.dispCacheEntryState : Fld := ⟨R.dispCacheEntry, 30, 28⟩
abbrev F.dispCacheEntryPinned : Fld := ⟨R.dispCacheEntry, 27, 27⟩
abbrev F.dispCacheEntryHeld : Fld := ⟨R.dispCacheEntry, 26, 26⟩
abbrev F.dispCacheEntryInUse : Fld := ⟨R.dispCacheEntry, 25, 25⟩
abbrev F.dispCacheEntryPartition : Fld := ⟨R.dispCacheEntry, 21, 16⟩
abbrev F.dispCacheEntryTag : Fld := ⟨R.dispCacheEntry, 15, 0⟩
abbrev R.dispCacheCores : Nat := 0x900208
abbrev F.dispCacheCoresResident : Fld := ⟨R.dispCacheCores, 31, 24⟩
abbrev F.dispCacheCoresPinMask : Fld := ⟨R.dispCacheCores, 23, 16⟩
abbrev F.dispCacheCoresHotUnits : Fld := ⟨R.dispCacheCores, 9, 0⟩
abbrev R.dispCacheLru : Nat := 0x90020C
abbrev R.dispCacheStats : Nat := 0x900220
abbrev F.dispCacheStatsEvictions : Fld := ⟨R.dispCacheStats, 31, 16⟩
abbrev F.dispCacheStatsReloads : Fld := ⟨R.dispCacheStats, 15, 0⟩
abbrev R.dispSchedSel : Nat := 0x900300
abbrev F.dispSchedSelSched : Fld := ⟨R.dispSchedSel, 15, 0⟩
abbrev R.dispSchedInfo : Nat := 0x900304
abbrev F.dispSchedInfoValid : Fld := ⟨R.dispSchedInfo, 31, 31⟩
abbrev F.dispSchedInfoKind : Fld := ⟨R.dispSchedInfo, 30, 30⟩
abbrev F.dispSchedInfoDir : Fld := ⟨R.dispSchedInfo, 29, 29⟩
abbrev F.dispSchedInfoProgramsM1 : Fld := ⟨R.dispSchedInfo, 28, 26⟩
abbrev F.dispSchedInfoPartition : Fld := ⟨R.dispSchedInfo, 21, 16⟩
abbrev F.dispSchedInfoK : Fld := ⟨R.dispSchedInfo, 11, 0⟩
abbrev R.dispSchedWcet : Nat := 0x900308
abbrev F.dispSchedWcetNs : Fld := ⟨R.dispSchedWcet, 31, 0⟩
abbrev R.dispVerifyLast : Nat := 0x900310
abbrev F.dispVerifyLastCheck : Fld := ⟨R.dispVerifyLast, 31, 24⟩
abbrev F.dispVerifyLastPartition : Fld := ⟨R.dispVerifyLast, 21, 16⟩
abbrev R.dispVerifyOff : Nat := 0x900314
abbrev F.dispVerifyOffOff : Fld := ⟨R.dispVerifyOff, 31, 0⟩
abbrev R.dispJobs : Nat := 0x900320
abbrev F.dispJobsWaiting : Fld := ⟨R.dispJobs, 31, 16⟩
abbrev F.dispJobsRunning : Fld := ⟨R.dispJobs, 15, 0⟩
abbrev R.streamSel : Nat := 0x980000
abbrev F.streamSelHandle : Fld := ⟨R.streamSel, 31, 0⟩
abbrev R.streamInfo : Nat := 0x980004
abbrev F.streamInfoFound : Fld := ⟨R.streamInfo, 31, 31⟩
abbrev F.streamInfoState : Fld := ⟨R.streamInfo, 30, 28⟩
abbrev F.streamInfoClass : Fld := ⟨R.streamInfo, 27, 26⟩
abbrev F.streamInfoFloodEn : Fld := ⟨R.streamInfo, 25, 25⟩
abbrev F.streamInfoEbbEn : Fld := ⟨R.streamInfo, 24, 24⟩
abbrev F.streamInfoPartition : Fld := ⟨R.streamInfo, 23, 18⟩
abbrev F.streamInfoDesc : Fld := ⟨R.streamInfo, 11, 0⟩
abbrev R.streamLease : Nat := 0x980008
abbrev F.streamLeaseEpoch : Fld := ⟨R.streamLease, 31, 0⟩
abbrev R.streamFbound : Nat := 0x98000C
abbrev F.streamFboundBoundUs : Fld := ⟨R.streamFbound, 31, 0⟩
abbrev R.streamEbound : Nat := 0x980010
abbrev F.streamEboundBoundUs : Fld := ⟨R.streamEbound, 31, 0⟩
abbrev R.streamRuns : Nat := 0x980014
abbrev F.streamRunsFloodDie : Fld := ⟨R.streamRuns, 27, 26⟩
abbrev F.streamRunsFloodSlice : Fld := ⟨R.streamRuns, 25, 14⟩
abbrev F.streamRunsEbbDie : Fld := ⟨R.streamRuns, 13, 12⟩
abbrev F.streamRunsEbbSlice : Fld := ⟨R.streamRuns, 11, 0⟩
abbrev R.streamChunk : Nat := 0x980018
abbrev R.streamGran : Nat := 0x980020
abbrev F.streamGranResident : Fld := ⟨R.streamGran, 24, 24⟩
abbrev F.streamGranGranules : Fld := ⟨R.streamGran, 8, 0⟩
abbrev R.admitLastHandle : Nat := 0x980100
abbrev F.admitLastHandleHandle : Fld := ⟨R.admitLastHandle, 31, 0⟩
abbrev R.admitLastReason : Nat := 0x980104
abbrev F.admitLastReasonReason : Fld := ⟨R.admitLastReason, 7, 0⟩
abbrev R.streamCount0 : Nat := 0x980108
abbrev F.streamCount0Idle : Fld := ⟨R.streamCount0, 28, 16⟩
abbrev F.streamCount0Running : Fld := ⟨R.streamCount0, 12, 0⟩
abbrev R.streamCount1 : Nat := 0x98010C
abbrev F.streamCount1FreeDesc : Fld := ⟨R.streamCount1, 28, 16⟩
abbrev F.streamCount1Waiting : Fld := ⟨R.streamCount1, 12, 0⟩
abbrev R.admitStats : Nat := 0x980110
abbrev F.admitStatsRefused : Fld := ⟨R.admitStats, 31, 16⟩
abbrev F.admitStatsLate : Fld := ⟨R.admitStats, 15, 0⟩
abbrev R.streamCfg : Nat := 0x980120
abbrev F.streamCfgPrefetchLead : Fld := ⟨R.streamCfg, 15, 0⟩
abbrev R.seedCfg : Nat := 0x980124
abbrev F.seedCfgSeedFixed : Fld := ⟨R.seedCfg, 0, 0⟩
abbrev R.streamSeed : Nat := 0x980128
abbrev R.planDie0 : Nat := 0x980200
abbrev F.planDie0Eligible : Fld := ⟨R.planDie0, 31, 31⟩
abbrev F.planDie0LargestFree : Fld := ⟨R.planDie0, 27, 16⟩
abbrev F.planDie0Free : Fld := ⟨R.planDie0, 11, 0⟩
abbrev R.planDie1 : Nat := 0x980204
abbrev F.planDie1Eligible : Fld := ⟨R.planDie1, 31, 31⟩
abbrev F.planDie1LargestFree : Fld := ⟨R.planDie1, 27, 16⟩
abbrev F.planDie1Free : Fld := ⟨R.planDie1, 11, 0⟩
abbrev R.planDie2 : Nat := 0x980208
abbrev F.planDie2Eligible : Fld := ⟨R.planDie2, 31, 31⟩
abbrev F.planDie2LargestFree : Fld := ⟨R.planDie2, 27, 16⟩
abbrev F.planDie2Free : Fld := ⟨R.planDie2, 11, 0⟩
abbrev R.planDie3 : Nat := 0x98020C
abbrev F.planDie3Eligible : Fld := ⟨R.planDie3, 31, 31⟩
abbrev F.planDie3LargestFree : Fld := ⟨R.planDie3, 27, 16⟩
abbrev F.planDie3Free : Fld := ⟨R.planDie3, 11, 0⟩
abbrev R.iringHead (n : Nat) : Nat := 0x980400 + n * 0x20
abbrev F.iringHeadHead (n : Nat) : Fld := ⟨R.iringHead n, 15, 0⟩
abbrev R.iringTail (n : Nat) : Nat := 0x980404 + n * 0x20
abbrev F.iringTailTail (n : Nat) : Fld := ⟨R.iringTail n, 15, 0⟩
abbrev R.iringTmCfg (n : Nat) : Nat := 0x980408 + n * 0x20
abbrev F.iringTmCfgDir (n : Nat) : Fld := ⟨R.iringTmCfg n, 31, 31⟩
abbrev F.iringTmCfgThresh (n : Nat) : Fld := ⟨R.iringTmCfg n, 27, 0⟩
abbrev R.iringTmStat (n : Nat) : Nat := 0x98040C + n * 0x20
abbrev F.iringTmStatSticky (n : Nat) : Fld := ⟨R.iringTmStat n, 31, 31⟩
abbrev F.iringTmStatCount (n : Nat) : Fld := ⟨R.iringTmStat n, 15, 0⟩
abbrev R.iringTmLevel (n : Nat) : Nat := 0x980410 + n * 0x20
abbrev F.iringTmLevelLevel (n : Nat) : Fld := ⟨R.iringTmLevel n, 27, 0⟩
abbrev R.iringCfg (n : Nat) : Nat := 0x980414 + n * 0x20
abbrev F.iringCfgValid (n : Nat) : Fld := ⟨R.iringCfg n, 31, 31⟩
abbrev F.iringCfgPartition (n : Nat) : Fld := ⟨R.iringCfg n, 21, 16⟩
abbrev F.iringCfgLog2 (n : Nat) : Fld := ⟨R.iringCfg n, 4, 0⟩
abbrev R.linkCtrl (n : Nat) : Nat := 0xA00000 + n * 0x100
abbrev F.linkCtrlRetrain (n : Nat) : Fld := ⟨R.linkCtrl n, 1, 1⟩
abbrev F.linkCtrlDisable (n : Nat) : Fld := ⟨R.linkCtrl n, 0, 0⟩
abbrev R.linkStatus (n : Nat) : Nat := 0xA00004 + n * 0x100
abbrev F.linkStatusCause (n : Nat) : Fld := ⟨R.linkStatus n, 31, 24⟩
abbrev F.linkStatusFarValid (n : Nat) : Fld := ⟨R.linkStatus n, 20, 20⟩
abbrev F.linkStatusFarBay (n : Nat) : Fld := ⟨R.linkStatus n, 19, 16⟩
abbrev F.linkStatusLanes (n : Nat) : Fld := ⟨R.linkStatus n, 15, 8⟩
abbrev F.linkStatusState (n : Nat) : Fld := ⟨R.linkStatus n, 2, 0⟩
abbrev R.linkErr (n : Nat) : Nat := 0xA00008 + n * 0x100
abbrev F.linkErrRetries (n : Nat) : Fld := ⟨R.linkErr n, 31, 16⟩
abbrev F.linkErrCrcErr (n : Nat) : Fld := ⟨R.linkErr n, 15, 0⟩
abbrev R.linkDowns (n : Nat) : Nat := 0xA0000C + n * 0x100
abbrev F.linkDownsDegrades (n : Nat) : Fld := ⟨R.linkDowns n, 31, 16⟩
abbrev F.linkDownsDowns (n : Nat) : Fld := ⟨R.linkDowns n, 15, 0⟩
abbrev R.linkFecCorr (n : Nat) : Nat := 0xA00010 + n * 0x100
abbrev R.linkFecUncorr (n : Nat) : Nat := 0xA00018 + n * 0x100
abbrev R.linkTxFlits (n : Nat) : Nat := 0xA00020 + n * 0x100
abbrev R.linkRxFlits (n : Nat) : Nat := 0xA00028 + n * 0x100
abbrev R.fabStatus : Nat := 0xA10000
abbrev F.fabStatusRecordSrc : Fld := ⟨R.fabStatus, 16, 16⟩
abbrev F.fabStatusQcause : Fld := ⟨R.fabStatus, 15, 8⟩
abbrev F.fabStatusStage : Fld := ⟨R.fabStatus, 2, 0⟩
abbrev R.fabEpoch : Nat := 0xA10008
abbrev R.fabTrayEpoch : Nat := 0xA10010
abbrev R.fabFwSet0 : Nat := 0xA10020
abbrev F.fabFwSet0Bytes : Fld := ⟨R.fabFwSet0, 31, 0⟩
abbrev R.fabFwSet1 : Nat := 0xA10024
abbrev F.fabFwSet1Bytes : Fld := ⟨R.fabFwSet1, 31, 0⟩
abbrev R.fabFwSet2 : Nat := 0xA10028
abbrev F.fabFwSet2Bytes : Fld := ⟨R.fabFwSet2, 31, 0⟩
abbrev R.fabFwSet3 : Nat := 0xA1002C
abbrev F.fabFwSet3Bytes : Fld := ⟨R.fabFwSet3, 31, 0⟩
abbrev R.fabFwSet4 : Nat := 0xA10030
abbrev F.fabFwSet4Bytes : Fld := ⟨R.fabFwSet4, 31, 0⟩
abbrev R.fabFwSet5 : Nat := 0xA10034
abbrev F.fabFwSet5Bytes : Fld := ⟨R.fabFwSet5, 31, 0⟩
abbrev R.fabFwSet6 : Nat := 0xA10038
abbrev F.fabFwSet6Bytes : Fld := ⟨R.fabFwSet6, 31, 0⟩
abbrev R.fabFwSet7 : Nat := 0xA1003C
abbrev F.fabFwSet7Bytes : Fld := ⟨R.fabFwSet7, 31, 0⟩
abbrev R.fabReach : Nat := 0xA10040
abbrev F.fabReachAgreed : Fld := ⟨R.fabReach, 31, 16⟩
abbrev F.fabReachReachable : Fld := ⟨R.fabReach, 15, 0⟩
abbrev R.fabLost : Nat := 0xA10044
abbrev F.fabLostBays : Fld := ⟨R.fabLost, 15, 0⟩
abbrev R.fabRoute0 : Nat := 0xA10048
abbrev F.fabRoute0Routes : Fld := ⟨R.fabRoute0, 31, 0⟩
abbrev R.fabRoute1 : Nat := 0xA1004C
abbrev F.fabRoute1Routes : Fld := ⟨R.fabRoute1, 31, 0⟩
abbrev R.fabMig : Nat := 0xA10050
abbrev F.fabMigOut : Fld := ⟨R.fabMig, 31, 16⟩
abbrev F.fabMigIn : Fld := ⟨R.fabMig, 15, 0⟩
abbrev R.fabRemap : Nat := 0xA10054
abbrev F.fabRemapFailed : Fld := ⟨R.fabRemap, 31, 16⟩
abbrev F.fabRemapRemapped : Fld := ⟨R.fabRemap, 15, 0⟩
abbrev R.fabPeerDenied : Nat := 0xA10058
abbrev F.fabPeerDeniedCount : Fld := ⟨R.fabPeerDenied, 15, 0⟩
abbrev R.fabFault : Nat := 0xA1005C
abbrev F.fabFaultValid : Fld := ⟨R.fabFault, 31, 31⟩
abbrev F.fabFaultCause : Fld := ⟨R.fabFault, 7, 0⟩
abbrev R.timeNow : Nat := 0xB00000
abbrev R.timeOffset : Nat := 0xB00008
abbrev F.timeOffsetNs : Fld := ⟨R.timeOffset, 31, 0⟩
abbrev R.timeStatus : Nat := 0xB0000C
abbrev F.timeStatusStepped : Fld := ⟨R.timeStatus, 9, 9⟩
abbrev F.timeStatusLhDown : Fld := ⟨R.timeStatus, 8, 8⟩
abbrev F.timeStatusPtpHoldover : Fld := ⟨R.timeStatus, 7, 7⟩
abbrev F.timeStatusPtpLocked : Fld := ⟨R.timeStatus, 6, 6⟩
abbrev F.timeStatusHoldover : Fld := ⟨R.timeStatus, 5, 5⟩
abbrev F.timeStatusMsgOk : Fld := ⟨R.timeStatus, 4, 4⟩
abbrev F.timeStatusTickOk : Fld := ⟨R.timeStatus, 3, 3⟩
abbrev F.timeStatusRefOk : Fld := ⟨R.timeStatus, 2, 2⟩
abbrev F.timeStatusState : Fld := ⟨R.timeStatus, 1, 0⟩
abbrev R.timeTaiOffset : Nat := 0xB00010
abbrev R.timeErrcnt : Nat := 0xB00018
abbrev F.timeErrcntTickMiss : Fld := ⟨R.timeErrcnt, 31, 16⟩
abbrev F.timeErrcntMsgErr : Fld := ⟨R.timeErrcnt, 15, 0⟩
abbrev R.timeMaxoff : Nat := 0xB0001C
abbrev F.timeMaxoffNs : Fld := ⟨R.timeMaxoff, 31, 0⟩
abbrev R.clkStatus : Nat := 0xB00020
abbrev F.clkStatusTime : Fld := ⟨R.clkStatus, 18, 18⟩
abbrev F.clkStatusAud : Fld := ⟨R.clkStatus, 17, 14⟩
abbrev F.clkStatusLink : Fld := ⟨R.clkStatus, 13, 8⟩
abbrev F.clkStatusPcieMemStateHub : Fld := ⟨R.clkStatus, 7, 4⟩
abbrev F.clkStatusCore : Fld := ⟨R.clkStatus, 3, 0⟩
abbrev R.errFsStatus : Nat := 0xC00000
abbrev F.errFsStatusActive : Fld := ⟨R.errFsStatus, 31, 31⟩
abbrev F.errFsStatusReleasable : Fld := ⟨R.errFsStatus, 30, 30⟩
abbrev F.errFsStatusCount24h : Fld := ⟨R.errFsStatus, 7, 0⟩
abbrev R.errFsCause : Nat := 0xC00004
abbrev F.errFsCauseEvent : Fld := ⟨R.errFsCause, 31, 16⟩
abbrev F.errFsCauseUnit : Fld := ⟨R.errFsCause, 15, 8⟩
abbrev F.errFsCauseUnitCause : Fld := ⟨R.errFsCause, 7, 0⟩
abbrev R.errFsTime : Nat := 0xC00008
abbrev R.errFsTotal : Nat := 0xC00010
abbrev F.errFsTotalFurther : Fld := ⟨R.errFsTotal, 31, 16⟩
abbrev F.errFsTotalTotal : Fld := ⟨R.errFsTotal, 15, 0⟩
abbrev R.errFsLast : Nat := 0xC00014
abbrev F.errFsLastEvent : Fld := ⟨R.errFsLast, 31, 16⟩
abbrev F.errFsLastUnit : Fld := ⟨R.errFsLast, 15, 8⟩
abbrev F.errFsLastUnitCause : Fld := ⟨R.errFsLast, 7, 0⟩
abbrev R.errBist : Nat := 0xC00018
abbrev F.errBistRan : Fld := ⟨R.errBist, 31, 31⟩
abbrev F.errBistPass : Fld := ⟨R.errBist, 30, 30⟩
abbrev F.errBistUnit : Fld := ⟨R.errBist, 15, 8⟩
abbrev R.errScope : Nat := 0xC00020
abbrev F.errScopePendingScope : Fld := ⟨R.errScope, 8, 8⟩
abbrev F.errScopePending : Fld := ⟨R.errScope, 1, 1⟩
abbrev F.errScopeScope : Fld := ⟨R.errScope, 0, 0⟩
abbrev R.errScopeTime : Nat := 0xC00028
abbrev R.errSvcCtrl : Nat := 0xC00030
abbrev F.errSvcCtrlLeave : Fld := ⟨R.errSvcCtrl, 0, 0⟩
abbrev R.errSvcStatus : Nat := 0xC00034
abbrev F.errSvcStatusLeaving : Fld := ⟨R.errSvcStatus, 31, 31⟩
abbrev F.errSvcStatusReleased : Fld := ⟨R.errSvcStatus, 30, 30⟩
abbrev F.errSvcStatusErr : Fld := ⟨R.errSvcStatus, 23, 16⟩
abbrev F.errSvcStatusRecords : Fld := ⟨R.errSvcStatus, 15, 0⟩
abbrev R.meCaps (n : Nat) : Nat := 0x1000000 + n * 0x100000
abbrev F.meCapsRowsK (n : Nat) : Fld := ⟨R.meCaps n, 31, 24⟩
abbrev F.meCapsColsN (n : Nat) : Fld := ⟨R.meCaps n, 23, 12⟩
abbrev F.meCapsFormats (n : Nat) : Fld := ⟨R.meCaps n, 7, 0⟩
abbrev R.meStatus (n : Nat) : Nat := 0x1000004 + n * 0x100000
abbrev F.meStatusShadowWfmt (n : Nat) : Fld := ⟨R.meStatus n, 13, 10⟩
abbrev F.meStatusActiveWfmt (n : Nat) : Fld := ⟨R.meStatus n, 9, 6⟩
abbrev F.meStatusLoading (n : Nat) : Fld := ⟨R.meStatus n, 5, 5⟩
abbrev F.meStatusShadowValid (n : Nat) : Fld := ⟨R.meStatus n, 4, 4⟩
abbrev F.meStatusActiveValid (n : Nat) : Fld := ⟨R.meStatus n, 3, 3⟩
abbrev F.meStatusStreaming (n : Nat) : Fld := ⟨R.meStatus n, 2, 2⟩
abbrev F.meStatusTileSel (n : Nat) : Fld := ⟨R.meStatus n, 1, 1⟩
abbrev F.meStatusBusy (n : Nat) : Fld := ⟨R.meStatus n, 0, 0⟩
abbrev R.meFlags (n : Nat) : Nat := 0x1000008 + n * 0x100000
abbrev F.meFlagsErased (n : Nat) : Fld := ⟨R.meFlags n, 5, 5⟩
abbrev F.meFlagsSat (n : Nat) : Fld := ⟨R.meFlags n, 4, 4⟩
abbrev F.meFlagsNx (n : Nat) : Fld := ⟨R.meFlags n, 3, 3⟩
abbrev F.meFlagsUf (n : Nat) : Fld := ⟨R.meFlags n, 2, 2⟩
abbrev F.meFlagsOf (n : Nat) : Fld := ⟨R.meFlags n, 1, 1⟩
abbrev F.meFlagsNv (n : Nat) : Fld := ⟨R.meFlags n, 0, 0⟩
abbrev R.meFlagsLast (n : Nat) : Nat := 0x100000C + n * 0x100000
abbrev F.meFlagsLastErased (n : Nat) : Fld := ⟨R.meFlagsLast n, 5, 5⟩
abbrev F.meFlagsLastSat (n : Nat) : Fld := ⟨R.meFlagsLast n, 4, 4⟩
abbrev F.meFlagsLastNx (n : Nat) : Fld := ⟨R.meFlagsLast n, 3, 3⟩
abbrev F.meFlagsLastUf (n : Nat) : Fld := ⟨R.meFlagsLast n, 2, 2⟩
abbrev F.meFlagsLastOf (n : Nat) : Fld := ⟨R.meFlagsLast n, 1, 1⟩
abbrev F.meFlagsLastNv (n : Nat) : Fld := ⟨R.meFlagsLast n, 0, 0⟩
abbrev R.meFault (n : Nat) : Nat := 0x1000010 + n * 0x100000
abbrev F.meFaultValid (n : Nat) : Fld := ⟨R.meFault n, 31, 31⟩
abbrev F.meFaultCause (n : Nat) : Fld := ⟨R.meFault n, 7, 0⟩
abbrev R.meEcc (n : Nat) : Nat := 0x1000014 + n * 0x100000
abbrev F.meEccTileCorr (n : Nat) : Fld := ⟨R.meEcc n, 31, 16⟩
abbrev F.meEccAccCorr (n : Nat) : Fld := ⟨R.meEcc n, 15, 0⟩
abbrev R.meErased (n : Nat) : Nat := 0x1000018 + n * 0x100000
abbrev F.meErasedTiles (n : Nat) : Fld := ⟨R.meErased n, 15, 0⟩
abbrev R.meMacs (n : Nat) : Nat := 0x1000020 + n * 0x100000
abbrev R.meStreamCyc (n : Nat) : Nat := 0x1000028 + n * 0x100000
abbrev R.meLoadWait (n : Nat) : Nat := 0x1000030 + n * 0x100000
abbrev R.veCaps (n : Nat) : Nat := 0x1010000 + n * 0x100000
abbrev F.veCapsLanes (n : Nat) : Fld := ⟨R.veCaps n, 31, 22⟩
abbrev F.veCapsVregs (n : Nat) : Fld := ⟨R.veCaps n, 21, 16⟩
abbrev F.veCapsEprogMax (n : Nat) : Fld := ⟨R.veCaps n, 15, 9⟩
abbrev F.veCapsTables (n : Nat) : Fld := ⟨R.veCaps n, 8, 5⟩
abbrev F.veCapsStages (n : Nat) : Fld := ⟨R.veCaps n, 4, 0⟩
abbrev R.veStatus (n : Nat) : Nat := 0x1010004 + n * 0x100000
abbrev F.veStatusBeat (n : Nat) : Fld := ⟨R.veStatus n, 31, 16⟩
abbrev F.veStatusSpForm (n : Nat) : Fld := ⟨R.veStatus n, 5, 4⟩
abbrev F.veStatusMxWaiting (n : Nat) : Fld := ⟨R.veStatus n, 3, 3⟩
abbrev F.veStatusSpStalled (n : Nat) : Fld := ⟨R.veStatus n, 2, 2⟩
abbrev F.veStatusSpBusy (n : Nat) : Fld := ⟨R.veStatus n, 1, 1⟩
abbrev F.veStatusMxBusy (n : Nat) : Fld := ⟨R.veStatus n, 0, 0⟩
abbrev R.veFlagsMx (n : Nat) : Nat := 0x1010008 + n * 0x100000
abbrev F.veFlagsMxSat (n : Nat) : Fld := ⟨R.veFlagsMx n, 5, 5⟩
abbrev F.veFlagsMxNx (n : Nat) : Fld := ⟨R.veFlagsMx n, 4, 4⟩
abbrev F.veFlagsMxUf (n : Nat) : Fld := ⟨R.veFlagsMx n, 3, 3⟩
abbrev F.veFlagsMxOf (n : Nat) : Fld := ⟨R.veFlagsMx n, 2, 2⟩
abbrev F.veFlagsMxDz (n : Nat) : Fld := ⟨R.veFlagsMx n, 1, 1⟩
abbrev F.veFlagsMxNv (n : Nat) : Fld := ⟨R.veFlagsMx n, 0, 0⟩
abbrev R.veFlagsSp (n : Nat) : Nat := 0x101000C + n * 0x100000
abbrev F.veFlagsSpSat (n : Nat) : Fld := ⟨R.veFlagsSp n, 5, 5⟩
abbrev F.veFlagsSpNx (n : Nat) : Fld := ⟨R.veFlagsSp n, 4, 4⟩
abbrev F.veFlagsSpUf (n : Nat) : Fld := ⟨R.veFlagsSp n, 3, 3⟩
abbrev F.veFlagsSpOf (n : Nat) : Fld := ⟨R.veFlagsSp n, 2, 2⟩
abbrev F.veFlagsSpDz (n : Nat) : Fld := ⟨R.veFlagsSp n, 1, 1⟩
abbrev F.veFlagsSpNv (n : Nat) : Fld := ⟨R.veFlagsSp n, 0, 0⟩
abbrev R.veFlagsMxLast (n : Nat) : Nat := 0x1010010 + n * 0x100000
abbrev F.veFlagsMxLastSat (n : Nat) : Fld := ⟨R.veFlagsMxLast n, 5, 5⟩
abbrev F.veFlagsMxLastNx (n : Nat) : Fld := ⟨R.veFlagsMxLast n, 4, 4⟩
abbrev F.veFlagsMxLastUf (n : Nat) : Fld := ⟨R.veFlagsMxLast n, 3, 3⟩
abbrev F.veFlagsMxLastOf (n : Nat) : Fld := ⟨R.veFlagsMxLast n, 2, 2⟩
abbrev F.veFlagsMxLastDz (n : Nat) : Fld := ⟨R.veFlagsMxLast n, 1, 1⟩
abbrev F.veFlagsMxLastNv (n : Nat) : Fld := ⟨R.veFlagsMxLast n, 0, 0⟩
abbrev R.veFlagsSpLast (n : Nat) : Nat := 0x1010014 + n * 0x100000
abbrev F.veFlagsSpLastSat (n : Nat) : Fld := ⟨R.veFlagsSpLast n, 5, 5⟩
abbrev F.veFlagsSpLastNx (n : Nat) : Fld := ⟨R.veFlagsSpLast n, 4, 4⟩
abbrev F.veFlagsSpLastUf (n : Nat) : Fld := ⟨R.veFlagsSpLast n, 3, 3⟩
abbrev F.veFlagsSpLastOf (n : Nat) : Fld := ⟨R.veFlagsSpLast n, 2, 2⟩
abbrev F.veFlagsSpLastDz (n : Nat) : Fld := ⟨R.veFlagsSpLast n, 1, 1⟩
abbrev F.veFlagsSpLastNv (n : Nat) : Fld := ⟨R.veFlagsSpLast n, 0, 0⟩
abbrev R.veVlen (n : Nat) : Nat := 0x1010018 + n * 0x100000
abbrev F.veVlenVlen (n : Nat) : Fld := ⟨R.veVlen n, 15, 0⟩
abbrev R.veFault (n : Nat) : Nat := 0x101001C + n * 0x100000
abbrev F.veFaultValid (n : Nat) : Fld := ⟨R.veFault n, 31, 31⟩
abbrev F.veFaultCause (n : Nat) : Fld := ⟨R.veFault n, 7, 0⟩
abbrev R.veEcc (n : Nat) : Nat := 0x1010020 + n * 0x100000
abbrev F.veEccStoreCorr (n : Nat) : Fld := ⟨R.veEcc n, 31, 16⟩
abbrev F.veEccRegCorr (n : Nat) : Fld := ⟨R.veEcc n, 15, 0⟩
abbrev R.veBeatsMx (n : Nat) : Nat := 0x1010030 + n * 0x100000
abbrev R.veBeatsSp (n : Nat) : Nat := 0x1010038 + n * 0x100000
abbrev R.veStallSp (n : Nat) : Nat := 0x1010040 + n * 0x100000
abbrev R.ruCaps (n : Nat) : Nat := 0x1020000 + n * 0x100000
abbrev F.ruCapsBufMib (n : Nat) : Fld := ⟨R.ruCaps n, 31, 24⟩
abbrev F.ruCapsTables (n : Nat) : Fld := ⟨R.ruCaps n, 23, 20⟩
abbrev F.ruCapsPrecs (n : Nat) : Fld := ⟨R.ruCaps n, 19, 16⟩
abbrev F.ruCapsLanes (n : Nat) : Fld := ⟨R.ruCaps n, 15, 0⟩
abbrev R.ruStatus (n : Nat) : Nat := 0x1020004 + n * 0x100000
abbrev F.ruStatusGateWaiting (n : Nat) : Fld := ⟨R.ruStatus n, 5, 5⟩
abbrev F.ruStatusGateBusy (n : Nat) : Fld := ⟨R.ruStatus n, 4, 4⟩
abbrev F.ruStatusScanBusy (n : Nat) : Fld := ⟨R.ruStatus n, 3, 3⟩
abbrev F.ruStatusToepBusy (n : Nat) : Fld := ⟨R.ruStatus n, 2, 2⟩
abbrev F.ruStatusPoolBusy (n : Nat) : Fld := ⟨R.ruStatus n, 1, 1⟩
abbrev F.ruStatusBusy (n : Nat) : Fld := ⟨R.ruStatus n, 0, 0⟩
abbrev R.ruFlags (n : Nat) : Nat := 0x1020008 + n * 0x100000
abbrev F.ruFlagsSat (n : Nat) : Fld := ⟨R.ruFlags n, 4, 4⟩
abbrev F.ruFlagsNx (n : Nat) : Fld := ⟨R.ruFlags n, 3, 3⟩
abbrev F.ruFlagsUf (n : Nat) : Fld := ⟨R.ruFlags n, 2, 2⟩
abbrev F.ruFlagsOf (n : Nat) : Fld := ⟨R.ruFlags n, 1, 1⟩
abbrev F.ruFlagsNv (n : Nat) : Fld := ⟨R.ruFlags n, 0, 0⟩
abbrev R.ruFlagsLast (n : Nat) : Nat := 0x102000C + n * 0x100000
abbrev F.ruFlagsLastSat (n : Nat) : Fld := ⟨R.ruFlagsLast n, 4, 4⟩
abbrev F.ruFlagsLastNx (n : Nat) : Fld := ⟨R.ruFlagsLast n, 3, 3⟩
abbrev F.ruFlagsLastUf (n : Nat) : Fld := ⟨R.ruFlagsLast n, 2, 2⟩
abbrev F.ruFlagsLastOf (n : Nat) : Fld := ⟨R.ruFlagsLast n, 1, 1⟩
abbrev F.ruFlagsLastNv (n : Nat) : Fld := ⟨R.ruFlagsLast n, 0, 0⟩
abbrev R.ruFault (n : Nat) : Nat := 0x1020010 + n * 0x100000
abbrev F.ruFaultValid (n : Nat) : Fld := ⟨R.ruFault n, 31, 31⟩
abbrev F.ruFaultCause (n : Nat) : Fld := ⟨R.ruFault n, 7, 0⟩
abbrev R.ruEcc (n : Nat) : Nat := 0x1020014 + n * 0x100000
abbrev F.ruEccTableCorr (n : Nat) : Fld := ⟨R.ruEcc n, 31, 16⟩
abbrev F.ruEccBufCorr (n : Nat) : Fld := ⟨R.ruEcc n, 15, 0⟩
abbrev R.ruElempos (n : Nat) : Nat := 0x1020020 + n * 0x100000
abbrev R.ruStored (n : Nat) : Nat := 0x1020028 + n * 0x100000
abbrev R.ruSrDraws (n : Nat) : Nat := 0x1020030 + n * 0x100000
abbrev R.ruSrAway (n : Nat) : Nat := 0x1020038 + n * 0x100000
abbrev R.ruPoolBytes (n : Nat) : Nat := 0x1020040 + n * 0x100000
abbrev R.spCaps (n : Nat) : Nat := 0x1030000 + n * 0x100000
abbrev F.spCapsBanks (n : Nat) : Fld := ⟨R.spCaps n, 31, 24⟩
abbrev F.spCapsUnitKib (n : Nat) : Fld := ⟨R.spCaps n, 23, 14⟩
abbrev F.spCapsUnits (n : Nat) : Fld := ⟨R.spCaps n, 13, 0⟩
abbrev R.spRegionSel (n : Nat) : Nat := 0x1030008 + n * 0x100000
abbrev F.spRegionSelRegion (n : Nat) : Fld := ⟨R.spRegionSel n, 4, 0⟩
abbrev R.spRegion (n : Nat) : Nat := 0x103000C + n * 0x100000
abbrev F.spRegionValid (n : Nat) : Fld := ⟨R.spRegion n, 31, 31⟩
abbrev F.spRegionKind (n : Nat) : Fld := ⟨R.spRegion n, 30, 30⟩
abbrev F.spRegionPartition (n : Nat) : Fld := ⟨R.spRegion n, 29, 24⟩
abbrev F.spRegionBase (n : Nat) : Fld := ⟨R.spRegion n, 23, 15⟩
abbrev F.spRegionUnits (n : Nat) : Fld := ⟨R.spRegion n, 14, 5⟩
abbrev R.spZero (n : Nat) : Nat := 0x1030018 + n * 0x100000
abbrev F.spZeroPending (n : Nat) : Fld := ⟨R.spZero n, 9, 0⟩
abbrev R.spScrubCfg (n : Nat) : Nat := 0x103001C + n * 0x100000
abbrev F.spScrubCfgScrubPeriodMs (n : Nat) : Fld := ⟨R.spScrubCfg n, 15, 0⟩
abbrev R.spScrubStat (n : Nat) : Nat := 0x1030020 + n * 0x100000
abbrev F.spScrubStatPasses (n : Nat) : Fld := ⟨R.spScrubStat n, 31, 16⟩
abbrev F.spScrubStatLagMs (n : Nat) : Fld := ⟨R.spScrubStat n, 15, 0⟩
abbrev R.spEcc (n : Nat) : Nat := 0x1030024 + n * 0x100000
abbrev F.spEccCorr (n : Nat) : Fld := ⟨R.spEcc n, 31, 16⟩
abbrev F.spEccUe (n : Nat) : Fld := ⟨R.spEcc n, 15, 0⟩
abbrev R.spPhaseMiss (n : Nat) : Nat := 0x1030028 + n * 0x100000
abbrev F.spPhaseMissCount (n : Nat) : Fld := ⟨R.spPhaseMiss n, 15, 0⟩
abbrev R.spFault (n : Nat) : Nat := 0x103002C + n * 0x100000
abbrev F.spFaultValid (n : Nat) : Fld := ⟨R.spFault n, 31, 31⟩
abbrev F.spFaultCause (n : Nat) : Fld := ⟨R.spFault n, 7, 0⟩
abbrev R.spUeAddr (n : Nat) : Nat := 0x1030030 + n * 0x100000
abbrev F.spUeAddrOffset (n : Nat) : Fld := ⟨R.spUeAddr n, 24, 0⟩
abbrev R.sqsStatus (n : Nat) : Nat := 0x1040000 + n * 0x100000
abbrev F.sqsStatusBusy (n : Nat) : Fld := ⟨R.sqsStatus n, 31, 31⟩
abbrev F.sqsStatusWaitDma (n : Nat) : Fld := ⟨R.sqsStatus n, 30, 30⟩
abbrev F.sqsStatusWaitPeer (n : Nat) : Fld := ⟨R.sqsStatus n, 29, 29⟩
abbrev F.sqsStatusWaitSync (n : Nat) : Fld := ⟨R.sqsStatus n, 28, 28⟩
abbrev F.sqsStatusPartition (n : Nat) : Fld := ⟨R.sqsStatus n, 21, 16⟩
abbrev F.sqsStatusSched (n : Nat) : Fld := ⟨R.sqsStatus n, 15, 0⟩
abbrev R.sqsPos (n : Nat) : Nat := 0x1040004 + n * 0x100000
abbrev F.sqsPosProgram (n : Nat) : Fld := ⟨R.sqsPos n, 26, 24⟩
abbrev F.sqsPosDepth (n : Nat) : Fld := ⟨R.sqsPos n, 22, 20⟩
abbrev F.sqsPosOffset (n : Nat) : Fld := ⟨R.sqsPos n, 18, 0⟩
abbrev R.sqsCmds (n : Nat) : Nat := 0x1040008 + n * 0x100000
abbrev R.lhId : Nat := 0x0
abbrev F.lhIdVendor : Fld := ⟨R.lhId, 31, 16⟩
abbrev F.lhIdTray : Fld := ⟨R.lhId, 15, 0⟩
abbrev R.lhRev : Nat := 0x4
abbrev F.lhRevTrayBuild : Fld := ⟨R.lhRev, 31, 24⟩
abbrev F.lhRevFwMajor : Fld := ⟨R.lhRev, 15, 8⟩
abbrev F.lhRevFwMinor : Fld := ⟨R.lhRev, 7, 0⟩
abbrev R.lhUid : Nat := 0x8
abbrev R.lhStatus : Nat := 0x10
abbrev F.lhStatusRackSilent : Fld := ⟨R.lhStatus, 3, 3⟩
abbrev F.lhStatusHostSilent : Fld := ⟨R.lhStatus, 2, 2⟩
abbrev F.lhStatusWdExpired : Fld := ⟨R.lhStatus, 1, 1⟩
abbrev F.lhStatusRunning : Fld := ⟨R.lhStatus, 0, 0⟩
abbrev R.lhHostPing : Nat := 0x18
abbrev F.lhHostPingAny : Fld := ⟨R.lhHostPing, 31, 0⟩
abbrev R.lhPolicy0 : Nat := 0x20
abbrev F.lhPolicy0Bytes : Fld := ⟨R.lhPolicy0, 31, 0⟩
abbrev R.lhPolicy1 : Nat := 0x24
abbrev F.lhPolicy1Bytes : Fld := ⟨R.lhPolicy1, 31, 0⟩
abbrev R.lhPolicy2 : Nat := 0x28
abbrev F.lhPolicy2Bytes : Fld := ⟨R.lhPolicy2, 31, 0⟩
abbrev R.lhPolicy3 : Nat := 0x2C
abbrev F.lhPolicy3Bytes : Fld := ⟨R.lhPolicy3, 31, 0⟩
abbrev R.lhPolicy4 : Nat := 0x30
abbrev F.lhPolicy4Bytes : Fld := ⟨R.lhPolicy4, 31, 0⟩
abbrev R.lhPolicy5 : Nat := 0x34
abbrev F.lhPolicy5Bytes : Fld := ⟨R.lhPolicy5, 31, 0⟩
abbrev R.lhPolicy6 : Nat := 0x38
abbrev F.lhPolicy6Bytes : Fld := ⟨R.lhPolicy6, 31, 0⟩
abbrev R.lhPolicy7 : Nat := 0x3C
abbrev F.lhPolicy7Bytes : Fld := ⟨R.lhPolicy7, 31, 0⟩
abbrev R.lhRecordEpoch : Nat := 0x40
abbrev R.lhRecordScope : Nat := 0x48
abbrev F.lhRecordScopeSet : Fld := ⟨R.lhRecordScope, 31, 31⟩
abbrev F.lhRecordScopeScope : Fld := ⟨R.lhRecordScope, 0, 0⟩
abbrev R.lhRecordFw0 : Nat := 0x50
abbrev F.lhRecordFw0Bytes : Fld := ⟨R.lhRecordFw0, 31, 0⟩
abbrev R.lhRecordFw1 : Nat := 0x54
abbrev F.lhRecordFw1Bytes : Fld := ⟨R.lhRecordFw1, 31, 0⟩
abbrev R.lhRecordFw2 : Nat := 0x58
abbrev F.lhRecordFw2Bytes : Fld := ⟨R.lhRecordFw2, 31, 0⟩
abbrev R.lhRecordFw3 : Nat := 0x5C
abbrev F.lhRecordFw3Bytes : Fld := ⟨R.lhRecordFw3, 31, 0⟩
abbrev R.lhRecordFw4 : Nat := 0x60
abbrev F.lhRecordFw4Bytes : Fld := ⟨R.lhRecordFw4, 31, 0⟩
abbrev R.lhRecordFw5 : Nat := 0x64
abbrev F.lhRecordFw5Bytes : Fld := ⟨R.lhRecordFw5, 31, 0⟩
abbrev R.lhRecordFw6 : Nat := 0x68
abbrev F.lhRecordFw6Bytes : Fld := ⟨R.lhRecordFw6, 31, 0⟩
abbrev R.lhRecordFw7 : Nat := 0x6C
abbrev F.lhRecordFw7Bytes : Fld := ⟨R.lhRecordFw7, 31, 0⟩
abbrev R.lhBwStatus : Nat := 0x70
abbrev F.lhBwStatusTripped : Fld := ⟨R.lhBwStatus, 31, 31⟩
abbrev F.lhBwStatusWet : Fld := ⟨R.lhBwStatus, 19, 0⟩
abbrev R.lhBwFaults : Nat := 0x74
abbrev F.lhBwFaultsZones : Fld := ⟨R.lhBwFaults, 19, 0⟩
abbrev R.lhBwTest : Nat := 0x78
abbrev F.lhBwTestZones : Fld := ⟨R.lhBwTest, 19, 0⟩
abbrev R.lhBwTestB : Nat := 0x7C
abbrev F.lhBwTestBZones : Fld := ⟨R.lhBwTestB, 19, 0⟩
abbrev R.lhPtp : Nat := 0x80
abbrev F.lhPtpDomain : Fld := ⟨R.lhPtp, 14, 8⟩
abbrev F.lhPtpState : Fld := ⟨R.lhPtp, 1, 0⟩
abbrev R.lhTaiOffset : Nat := 0x88
abbrev R.mbDoorbell : Nat := 0x1080
abbrev F.mbDoorbellGo : Fld := ⟨R.mbDoorbell, 0, 0⟩
abbrev R.mbStatus : Nat := 0x1084
abbrev F.mbStatusDbErr : Fld := ⟨R.mbStatus, 2, 2⟩
abbrev F.mbStatusDone : Fld := ⟨R.mbStatus, 1, 1⟩
abbrev F.mbStatusBusy : Fld := ⟨R.mbStatus, 0, 0⟩
abbrev R.mbReq0 : Nat := 0x1000
abbrev F.mbReq0Bytes : Fld := ⟨R.mbReq0, 31, 0⟩
abbrev R.mbReq1 : Nat := 0x1004
abbrev F.mbReq1Bytes : Fld := ⟨R.mbReq1, 31, 0⟩
abbrev R.mbReq2 : Nat := 0x1008
abbrev F.mbReq2Bytes : Fld := ⟨R.mbReq2, 31, 0⟩
abbrev R.mbReq3 : Nat := 0x100C
abbrev F.mbReq3Bytes : Fld := ⟨R.mbReq3, 31, 0⟩
abbrev R.mbReq4 : Nat := 0x1010
abbrev F.mbReq4Bytes : Fld := ⟨R.mbReq4, 31, 0⟩
abbrev R.mbReq5 : Nat := 0x1014
abbrev F.mbReq5Bytes : Fld := ⟨R.mbReq5, 31, 0⟩
abbrev R.mbReq6 : Nat := 0x1018
abbrev F.mbReq6Bytes : Fld := ⟨R.mbReq6, 31, 0⟩
abbrev R.mbReq7 : Nat := 0x101C
abbrev F.mbReq7Bytes : Fld := ⟨R.mbReq7, 31, 0⟩
abbrev R.mbReq8 : Nat := 0x1020
abbrev F.mbReq8Bytes : Fld := ⟨R.mbReq8, 31, 0⟩
abbrev R.mbReq9 : Nat := 0x1024
abbrev F.mbReq9Bytes : Fld := ⟨R.mbReq9, 31, 0⟩
abbrev R.mbReq10 : Nat := 0x1028
abbrev F.mbReq10Bytes : Fld := ⟨R.mbReq10, 31, 0⟩
abbrev R.mbReq11 : Nat := 0x102C
abbrev F.mbReq11Bytes : Fld := ⟨R.mbReq11, 31, 0⟩
abbrev R.mbReq12 : Nat := 0x1030
abbrev F.mbReq12Bytes : Fld := ⟨R.mbReq12, 31, 0⟩
abbrev R.mbReq13 : Nat := 0x1034
abbrev F.mbReq13Bytes : Fld := ⟨R.mbReq13, 31, 0⟩
abbrev R.mbReq14 : Nat := 0x1038
abbrev F.mbReq14Bytes : Fld := ⟨R.mbReq14, 31, 0⟩
abbrev R.mbReq15 : Nat := 0x103C
abbrev F.mbReq15Bytes : Fld := ⟨R.mbReq15, 31, 0⟩
abbrev R.mbReq16 : Nat := 0x1040
abbrev F.mbReq16Bytes : Fld := ⟨R.mbReq16, 31, 0⟩
abbrev R.mbReq17 : Nat := 0x1044
abbrev F.mbReq17Bytes : Fld := ⟨R.mbReq17, 31, 0⟩
abbrev R.mbReq18 : Nat := 0x1048
abbrev F.mbReq18Bytes : Fld := ⟨R.mbReq18, 31, 0⟩
abbrev R.mbReq19 : Nat := 0x104C
abbrev F.mbReq19Bytes : Fld := ⟨R.mbReq19, 31, 0⟩
abbrev R.mbReq20 : Nat := 0x1050
abbrev F.mbReq20Bytes : Fld := ⟨R.mbReq20, 31, 0⟩
abbrev R.mbReq21 : Nat := 0x1054
abbrev F.mbReq21Bytes : Fld := ⟨R.mbReq21, 31, 0⟩
abbrev R.mbReq22 : Nat := 0x1058
abbrev F.mbReq22Bytes : Fld := ⟨R.mbReq22, 31, 0⟩
abbrev R.mbReq23 : Nat := 0x105C
abbrev F.mbReq23Bytes : Fld := ⟨R.mbReq23, 31, 0⟩
abbrev R.mbReq24 : Nat := 0x1060
abbrev F.mbReq24Bytes : Fld := ⟨R.mbReq24, 31, 0⟩
abbrev R.mbReq25 : Nat := 0x1064
abbrev F.mbReq25Bytes : Fld := ⟨R.mbReq25, 31, 0⟩
abbrev R.mbReq26 : Nat := 0x1068
abbrev F.mbReq26Bytes : Fld := ⟨R.mbReq26, 31, 0⟩
abbrev R.mbReq27 : Nat := 0x106C
abbrev F.mbReq27Bytes : Fld := ⟨R.mbReq27, 31, 0⟩
abbrev R.mbReq28 : Nat := 0x1070
abbrev F.mbReq28Bytes : Fld := ⟨R.mbReq28, 31, 0⟩
abbrev R.mbReq29 : Nat := 0x1074
abbrev F.mbReq29Bytes : Fld := ⟨R.mbReq29, 31, 0⟩
abbrev R.mbReq30 : Nat := 0x1078
abbrev F.mbReq30Bytes : Fld := ⟨R.mbReq30, 31, 0⟩
abbrev R.mbReq31 : Nat := 0x107C
abbrev F.mbReq31Bytes : Fld := ⟨R.mbReq31, 31, 0⟩
abbrev R.mbResp0 : Nat := 0x1100
abbrev F.mbResp0Bytes : Fld := ⟨R.mbResp0, 31, 0⟩
abbrev R.mbResp1 : Nat := 0x1104
abbrev F.mbResp1Bytes : Fld := ⟨R.mbResp1, 31, 0⟩
abbrev R.mbResp2 : Nat := 0x1108
abbrev F.mbResp2Bytes : Fld := ⟨R.mbResp2, 31, 0⟩
abbrev R.mbResp3 : Nat := 0x110C
abbrev F.mbResp3Bytes : Fld := ⟨R.mbResp3, 31, 0⟩
abbrev R.mbResp4 : Nat := 0x1110
abbrev F.mbResp4Bytes : Fld := ⟨R.mbResp4, 31, 0⟩
abbrev R.mbResp5 : Nat := 0x1114
abbrev F.mbResp5Bytes : Fld := ⟨R.mbResp5, 31, 0⟩
abbrev R.mbResp6 : Nat := 0x1118
abbrev F.mbResp6Bytes : Fld := ⟨R.mbResp6, 31, 0⟩
abbrev R.mbResp7 : Nat := 0x111C
abbrev F.mbResp7Bytes : Fld := ⟨R.mbResp7, 31, 0⟩
abbrev R.mbResp8 : Nat := 0x1120
abbrev F.mbResp8Bytes : Fld := ⟨R.mbResp8, 31, 0⟩
abbrev R.mbResp9 : Nat := 0x1124
abbrev F.mbResp9Bytes : Fld := ⟨R.mbResp9, 31, 0⟩
abbrev R.mbResp10 : Nat := 0x1128
abbrev F.mbResp10Bytes : Fld := ⟨R.mbResp10, 31, 0⟩
abbrev R.mbResp11 : Nat := 0x112C
abbrev F.mbResp11Bytes : Fld := ⟨R.mbResp11, 31, 0⟩
abbrev R.mbResp12 : Nat := 0x1130
abbrev F.mbResp12Bytes : Fld := ⟨R.mbResp12, 31, 0⟩
abbrev R.mbResp13 : Nat := 0x1134
abbrev F.mbResp13Bytes : Fld := ⟨R.mbResp13, 31, 0⟩
abbrev R.mbResp14 : Nat := 0x1138
abbrev F.mbResp14Bytes : Fld := ⟨R.mbResp14, 31, 0⟩
abbrev R.mbResp15 : Nat := 0x113C
abbrev F.mbResp15Bytes : Fld := ⟨R.mbResp15, 31, 0⟩
abbrev R.lhBayState (n : Nat) : Nat := 0x100 + n * 0x10
abbrev F.lhBayStatePresent (n : Nat) : Fld := ⟨R.lhBayState n, 31, 31⟩
abbrev F.lhBayStateSeated (n : Nat) : Fld := ⟨R.lhBayState n, 30, 30⟩
abbrev F.lhBayStatePowered (n : Nat) : Fld := ⟨R.lhBayState n, 29, 29⟩
abbrev F.lhBayStateFault (n : Nat) : Fld := ⟨R.lhBayState n, 28, 28⟩
abbrev F.lhBayStateThermtrip (n : Nat) : Fld := ⟨R.lhBayState n, 27, 27⟩
abbrev F.lhBayStateAlert (n : Nat) : Fld := ⟨R.lhBayState n, 26, 26⟩
abbrev F.lhBayStateReady (n : Nat) : Fld := ⟨R.lhBayState n, 25, 25⟩
abbrev F.lhBayStateHbOk (n : Nat) : Fld := ⟨R.lhBayState n, 24, 24⟩
abbrev F.lhBayStateStage (n : Nat) : Fld := ⟨R.lhBayState n, 23, 16⟩
abbrev F.lhBayStateReflash (n : Nat) : Fld := ⟨R.lhBayState n, 15, 8⟩
abbrev F.lhBayStateMatch (n : Nat) : Fld := ⟨R.lhBayState n, 1, 0⟩
abbrev R.lhBayReflash (n : Nat) : Nat := 0x104 + n * 0x10
abbrev F.lhBayReflashAttempts (n : Nat) : Fld := ⟨R.lhBayReflash n, 31, 24⟩
abbrev F.lhBayReflashPercent (n : Nat) : Fld := ⟨R.lhBayReflash n, 7, 0⟩
abbrev R.lhEvqBase : Nat := 0x2000
abbrev R.lhEvqCfg : Nat := 0x2008
abbrev F.lhEvqCfgEn : Fld := ⟨R.lhEvqCfg, 8, 8⟩
abbrev F.lhEvqCfgLog2 : Fld := ⟨R.lhEvqCfg, 4, 0⟩
abbrev R.lhEvqHead : Nat := 0x200C
abbrev F.lhEvqHeadHead : Fld := ⟨R.lhEvqHead, 15, 0⟩
abbrev R.lhEvqTail : Nat := 0x2010
abbrev F.lhEvqTailTail : Fld := ⟨R.lhEvqTail, 15, 0⟩
abbrev R.lhEvqStatus : Nat := 0x2014
abbrev F.lhEvqStatusBacklog : Fld := ⟨R.lhEvqStatus, 15, 8⟩
abbrev F.lhEvqStatusCfgErr : Fld := ⟨R.lhEvqStatus, 4, 4⟩
abbrev F.lhEvqStatusHeadErr : Fld := ⟨R.lhEvqStatus, 3, 3⟩
abbrev F.lhEvqStatusAlert : Fld := ⟨R.lhEvqStatus, 2, 2⟩
abbrev F.lhEvqStatusLost : Fld := ⟨R.lhEvqStatus, 1, 1⟩
abbrev F.lhEvqStatusFull : Fld := ⟨R.lhEvqStatus, 0, 0⟩
abbrev R.lhEvqDrop : Nat := 0x2018
abbrev F.lhEvqDropNotice : Fld := ⟨R.lhEvqDrop, 31, 16⟩
abbrev F.lhEvqDropInfo : Fld := ⟨R.lhEvqDrop, 15, 0⟩
abbrev R.lhEvqLost : Nat := 0x201C
abbrev F.lhEvqLostFatal : Fld := ⟨R.lhEvqLost, 29, 20⟩
abbrev F.lhEvqLostError : Fld := ⟨R.lhEvqLost, 19, 10⟩
abbrev F.lhEvqLostWarn : Fld := ⟨R.lhEvqLost, 9, 0⟩
abbrev R.lhEvqMod : Nat := 0x2020
abbrev F.lhEvqModTimeUs : Fld := ⟨R.lhEvqMod, 25, 16⟩
abbrev F.lhEvqModCount : Fld := ⟨R.lhEvqMod, 7, 0⟩
abbrev R.lhEvqSeq : Nat := 0x2024
abbrev F.lhEvqSeqSeq : Fld := ⟨R.lhEvqSeq, 15, 0⟩
abbrev R.lhEvqTmCfg : Nat := 0x2030
abbrev F.lhEvqTmCfgDir : Fld := ⟨R.lhEvqTmCfg, 31, 31⟩
abbrev F.lhEvqTmCfgThresh : Fld := ⟨R.lhEvqTmCfg, 27, 0⟩
abbrev R.lhEvqTmStat : Nat := 0x2034
abbrev F.lhEvqTmStatSticky : Fld := ⟨R.lhEvqTmStat, 31, 31⟩
abbrev F.lhEvqTmStatCount : Fld := ⟨R.lhEvqTmStat, 15, 0⟩
abbrev R.lhEvqTmLevel : Nat := 0x2038
abbrev F.lhEvqTmLevelLevel : Fld := ⟨R.lhEvqTmLevel, 27, 0⟩
abbrev R.lhPt (n : Nat) : Nat := 0x3000 + n * 0x4
abbrev F.lhPtValid (n : Nat) : Fld := ⟨R.lhPt n, 31, 31⟩
abbrev F.lhPtAlarm (n : Nat) : Fld := ⟨R.lhPt n, 30, 30⟩
abbrev F.lhPtValue (n : Nat) : Fld := ⟨R.lhPt n, 15, 0⟩
abbrev R.lhPwr1s (n : Nat) : Nat := 0x4000 + n * 0x8
abbrev F.lhPwr1sPeak (n : Nat) : Fld := ⟨R.lhPwr1s n, 31, 16⟩
abbrev F.lhPwr1sAvg (n : Nat) : Fld := ⟨R.lhPwr1s n, 15, 0⟩
abbrev R.lhPwr60s (n : Nat) : Nat := 0x4004 + n * 0x8
abbrev F.lhPwr60sPeak (n : Nat) : Fld := ⟨R.lhPwr60s n, 31, 16⟩
abbrev F.lhPwr60sAvg (n : Nat) : Fld := ⟨R.lhPwr60s n, 15, 0⟩

end Sys2Proof.Machine
end

