-- ==== Sys2Proof/Machine/State.lean ====
section
/-! DEFINITION. The state of one module, with the Lighthouse, the Breakwater and the backplane of its tray.
Registers live in two sparse register files (device region, Lighthouse BAR); everything the chapters give the machine
beyond its registers is plain data in a record per unit. Unlisted table entries stand at the default of their record. -/

namespace Sys2Proof.Machine

/-- No behaviour of the manual stops the machine: an execution fault is an effect on the state, the fail-stop of R784.
So no meaning raises a fault; the type has no constructor. Safe. -/
inductive Fault
  deriving DecidableEq, Repr

/-- Why the model gives no next state. -/
inductive Refusal where
  /-- Raised by an arm of `exec` whose command has no meaning yet. Safe: the model claims nothing. -/
  | notModelled (mnemonic : String)
  deriving DecidableEq, Repr

/-! ## Registers, paths and the host interface -/

/-- What one access path holds apart from the others (R15, R824): 64-bit latches and staged halves by LO offset, and
the selector registers by offset. -/
structure PathState where
  latch : Tbl Word := []
  staged : Tbl Word := []
  sel : Tbl Word := []
  deriving DecidableEq, Repr

/-- An event record (R254) before it is given its place in the queue. `part` is none for a module event. -/
structure Event where
  code : Nat
  sev : Nat
  part : Option Nat
  unit : Nat
  inst : Nat
  time : Nat
  w0 : Nat
  w1 : Nat
  w2 : Nat
  seq : Nat
  deriving DecidableEq, Repr

/-- A command fetched from a submission ring and not completed: its ticket, first slot, bytes (64, or 128 for a
critical one), doorbell tray time (R228), and whether it has begun to take effect (R230). -/
structure QCmd where
  id : Nat
  slot : Nat
  raw : List Byte
  doorbell : Nat
  begun : Bool
  /-- for a command whose data follows: the status its checks found when it began, given once its data has been read (R249) -/
  verdict : Option Nat := none
  /-- the stream that took its chunk, by order of acceptance (R490) -/
  taker : Option Nat := none
  deriving DecidableEq, Repr

/-- One submission and result ring pair beside its registers. -/
structure Queue where
  /-- fetched and not completed, in ring order (R231) -/
  cmds : List QCmd := []
  /-- PHASE of the next result record (R250) -/
  phase : Bool := true
  /-- an RQ_OVERFLOW episode is open (R232) -/
  episode : Bool := false
  /-- a fetch read is issued and has not returned (R236) -/
  reading : Bool := false
  /-- doorbells landed and not wholly fetched: tail written and tray time -/
  bells : List (Nat × Nat) := []
  /-- ticket of the next fetched command -/
  nextId : Nat := 0
  deriving DecidableEq, Repr

/-- One MSI-X vector: table entry (mask bit, set at reset as PCIe has it: log entry 5; address; data), pending bit, records written since its last message, time of the first (R252). -/
structure Vector where
  masked : Bool := true
  addr : Nat := 0
  data : Nat := 0
  pending : Bool := false
  unsignalled : Nat := 0
  since : Nat := 0
  deriving DecidableEq, Repr

/-- The event queue and the host side: backlog, episode, interrupt vectors and the messages sent. -/
structure HostIf where
  /-- queues by number: 0 to 63 partition, 64 admin -/
  queues : Tbl Queue := []
  /-- events waiting on chip, oldest first (R257) -/
  backlog : List Event := []
  /-- PHASE of the next event record -/
  evPhase : Bool := true
  /-- a drop or loss episode is open (R258): SEQ of its first record not delivered -/
  episode : Option Nat := none
  /-- records lost and dropped in the open episode: NOTICE, INFO dropped; FATAL, ERROR, WARN lost -/
  epNotice : Nat := 0
  epInfo : Nat := 0
  epFatal : Nat := 0
  epError : Nat := 0
  epWarn : Nat := 0
  /-- vector 2 has fired for a backlog entry of the open episode (R251) -/
  urgent : Bool := false
  /-- the model's own: events of the cycle in progress, waiting to take SEQ in unit order (R266); none between cycles that collect them -/
  hold : Option (List Event) := none
  /-- the partition served at the last partition turn, and the last turn served the admin queue (R234) -/
  turn : Nat := 63
  adminTurn : Bool := false
  /-- the EVQ_LOST record of the loss that asserted ALERT_N has been written -/
  lostWritten : Bool := false
  /-- vectors by function (0 PF0, n VF n) times 4 plus vector -/
  vectors : Tbl Vector := []
  /-- MSI-X messages sent, oldest first: function and vector -/
  msi : List (Nat × Nat) := []
  /-- SR-IOV VF Enable, cleared by a PF0 FLR (R226); set in State.reset (DESIGN CHOICE: the spec gives no reset value; log entry 136) -/
  vfEnable : Bool := true
  /-- data returned by the last register read or BAR read request, and whether the last request ended in Completer
  Abort (R822) -/
  readData : List Word := []
  completerAbort : Bool := false
  /-- the function whose Requester ID the last host-memory access carried: 0 PF0, n VF n (R220, R448) -/
  requester : Nat := 0
  /-- UNIT and INSTANCE of the queue's own records (R254, R762) -/
  ownUnit : Nat := 1
  ownInst : Nat := 65
  deriving DecidableEq, Repr

/-- The PCIe side of the module and of the tray switch that configuration space shows and nothing in BAR0 does (R218). -/
structure Pcie where
  /-- what the module link trained at, and the limits configured for it (log entry 98) -/
  link : PcieLink := {}
  /-- PF0 stands in D3hot; the VFs follow it -/
  d3hot : Bool := false
  /-- functions that logged an error in AER: 0 PF0, n VF n -/
  aer : List Nat := []
  /-- bays whose switch port Downstream Port Containment holds (R801) -/
  contained : List Nat := []
  deriving DecidableEq, Repr

/-! ## Streams -/

/-- The states of R65; a CLOSED stream has no descriptor and so no record. -/
inductive SState where
  | admitWait | running | idle | draining | migrating | failed
  deriving DecidableEq, Repr

/-- The state code of R65. -/
def SState.code : SState → Nat
  | .admitWait => 1 | .running => 2 | .idle => 3 | .draining => 4 | .migrating => 5 | .failed => 6

/-- The stream parameter block of R57. -/
structure StreamPar where
  handle : Nat
  cls : Nat
  floodEn : Bool
  ebbEn : Bool
  hostFed : Bool
  part : Nat
  period : Nat
  rate : Nat
  lookahead : Nat
  cadence : Nat
  port : Nat
  stbyValid : Bool
  stbyBay : Nat
  floodSlot : Nat
  ebbSlot : Nat
  floodSched : Nat
  ebbSched : Nat
  granules : Nat
  slack : Nat
  fLimit : Nat
  eLimit : Nat
  hostPhase : Nat
  userTag : Nat
  deriving DecidableEq, Repr

/-- One direction of a stream: its cohort seat, bound and step progress. -/
structure Dirn where
  /-- cohort number of the seat held, for GUARANTEED streams -/
  seat : Option Nat := none
  /-- B_f or B_e in µs (R84, R85) -/
  bound : Nat := 0
  /-- the next chunk whose step is to be dispatched -/
  next : Nat := 0
  /-- the first chunk it processes on this module -/
  first : Nat := 0
  /-- the last chunk whose step completed -/
  last : Option Nat := none
  /-- a step is in progress -/
  stepping : Bool := false
  /-- CKPT_SEQ of the last checkpoint sent (R429) -/
  ckptSeq : Nat := 0
  /-- and of the last one sent to the checkpoint target -/
  ckptLast : Nat := 0
  /-- chunk of the last checkpoint sent and of the last acknowledged (R431) -/
  ckptSent : Option Nat := none
  ckptStands : Option Nat := none
  /-- chunk of the last checkpoint that fell due (R428) -/
  ckptDue : Option Nat := none
  /-- a checkpoint read of the part is pending -/
  ckptBusy : Bool := false
  /-- sections read for the checkpoint in progress, and the bytes of each as read (R428) -/
  ckptRead : Tbl (List Byte) := []
  /-- CKPT_LATE is recorded for the step that is held (R431) -/
  ckptHeld : Bool := false
  /-- the part is owed to a new target whole, and read once the step in progress has ended (R434) -/
  ckptWhole : Bool := false
  deriving DecidableEq, Repr

/-- An EBB_INPUT block held for a stream (R240). -/
structure EbbBlock where
  data : List Byte
  newUtt : Bool
  doorbell : Nat
  begun : Bool
  deriving DecidableEq, Repr

/-- A transfer or remap in progress on a MIGRATING stream (R626 to R632). -/
structure Xfer where
  source : Bool
  bay : Nat
  offered : Bool
  /-- 0 offer sent or received, 1 accepted, 2 state sent, 3 lease passed -/
  stage : Nat
  gotFlood : Bool
  gotEbb : Bool
  epoch : Nat
  /-- queue and ticket of the STREAM_TRANSFER command -/
  cmd : Option (Nat × Nat)
  /-- DRAIN held until the transfer ends (R96) -/
  remap : Bool
  /-- at the source: chunks that end from this time on are left to the target (R628) -/
  cut : Option Nat := none
  /-- at the source: H, once it is known -/
  h : Option Nat := none
  deriving DecidableEq, Repr

/-- An ebb chunk on its way out of a port: first frame index, chunk number, whether it is marked as the start of a new
utterance (R141) and the last of one (R248), and the RFLAGS bits its step gave it. -/
structure Play where
  at_ : Nat
  chunk : Nat
  first : Bool
  last : Bool
  flags : Nat
  deriving DecidableEq, Repr

/-- A stream descriptor (R56). -/
structure Stream where
  par : StreamPar
  /-- the parameter block as accepted, 64 bytes (R429 PARAMS) -/
  raw : List Byte
  state : SState
  epoch : Nat
  /-- order of acceptance, for R92 and R93 -/
  order : Nat
  accepted : Nat
  /-- RECORD_INDEX of a standing stream -/
  standing : Option Nat
  sink : Nat
  flood : Dirn
  ebb : Dirn
  deferred : Bool
  /-- granule list (R415): allocation index to granule, for the granules now in the pool -/
  grans : Tbl Nat
  /-- every granule of the allocation is in the pool (R420) -/
  resident : Bool
  /-- swap page numbers (R423) -/
  pages : List Nat
  /-- order of the last step, none before the first (R92) -/
  stepped : Option Nat
  prefetch : Bool
  swapping : Bool
  /-- chunks whose input is complete and not processed: number and end time -/
  ready : List (Nat × Nat)
  /-- frames of the chunk being collected, for a host-fed stream the next chunk expected -/
  nextIn : Nat
  lastEnd : Nat
  ebbIn : List EbbBlock
  /-- close requested: 0 DRAIN, 1 ABORT -/
  closing : Option Nat
  /-- queue and ticket of each STREAM_CLOSE command that waits for the stream to be CLOSED -/
  closeCmd : List (Nat × Nat)
  /-- queue and ticket of each EBB_CANCEL that waits for the end of the current ebb run (R241) -/
  cancelCmd : List (Nat × Nat)
  seed : Nat
  xfer : Option Xfer
  /-- the audio of a chunk not yet delivered lost frames (R152) -/
  gap : Bool
  lateSwap : Bool
  /-- index of the frame after the last ebb frame written -/
  playTo : Nat
  plays : List Play
  /-- chunk slots in use, by chunk number (R461) -/
  full : List Nat
  /-- chunks of a port-fed stream that have ended and are not copied: number and end time (R462) -/
  ended : List (Nat × Nat)
  /-- flags of each chunk's result so far, in the bits of RFLAGS (R248) -/
  flags : Tbl Nat
  /-- the next ebb chunk is the first of a new utterance; the RFLAGS bits of the utterance so far -/
  uttNew : Bool
  uttFlags : Nat
  /-- frames landed when the close with DRAIN cut the last chunk short (R96) -/
  tailAt : Option Nat
  /-- end time of each flood chunk whose result is not yet due or not yet written, by chunk (R74) -/
  ends : Tbl Nat := []
  /-- the first of the chunks of silence that follow a DRAIN under look-ahead (R373) -/
  silent : Option Nat := none
  /-- doorbell time of the STREAM_CHUNK of each chunk not yet processed (R557) -/
  bells : Tbl Nat := []
  /-- its ebb slot is driven from the first frame that begins at or after this time (R629) -/
  driveAt : Nat := 0
  /-- when its state last came to stand whole in its swap pages: planned fetches that start later include it (R423) -/
  homed : Nat := 0
  /-- the last chunk that left the port, of an utterance whose EBB_PLAYED is still to come (R248) -/
  played : Option Nat := none
  deriving DecidableEq, Repr

/-- A pattern of the plan: it begins at `start` in every `period`, lasts `len`, and takes `weight` granules. Times are in
half microseconds, since a slice is 62.5 µs. -/
structure Pat where
  start : Nat
  len : Nat
  period : Nat
  weight : Nat
  deriving DecidableEq, Repr

/-- A cohort: the streams that share one schedule, period and run (R80 to R89). `offset` is in slices. -/
structure Cohort where
  sched : Nat
  ebb : Bool
  period : Nat
  k : Nat
  bmax : Nat
  die : Nat
  offset : Nat
  members : List Nat
  /-- planned swap-engine transfers and residency windows (R418) -/
  xfers : List Pat
  windows : List Pat
  /-- reserved start of the last occurrence dispatched or passed -/
  ran : Option Nat := none
  deriving DecidableEq, Repr

/-- A standing record of the image (R97). -/
structure Standing where
  index : Nat
  par : StreamPar
  sink : Nat
  /-- the raw record, 32 bytes -/
  raw : List Byte
  deriving DecidableEq, Repr

/-- The stream table and the slot plan. -/
structure Streams where
  /-- by descriptor number -/
  table : Tbl Stream := []
  cohorts : Tbl Cohort := []
  nextCohort : Nat := 0
  nextOrder : Nat := 0
  standing : List Standing := []
  standingOpened : Bool := false
  lastGen : Tbl Nat := []
  deriving DecidableEq, Repr

/-! ## Partitions, schedules, jobs and the model cache -/

/-- The states of R546; an ABSENT partition has no record. -/
inductive PState where
  | active | destroying
  deriving DecidableEq, Repr

/-- The quota block of R547, its bytes and its fields. -/
structure Quota where
  raw : List Byte := []
  dramBase : Nat := 0
  dramSize : Nat := 0
  swapBase : Nat := 0
  swapSize : Nat := 0
  granules : Nat := 0
  descriptors : Nat := 0
  spadUnits : Nat := 0
  retQuota : Nat := 0
  pinUnits : Nat := 0
  channels : Nat := 0
  entries : Nat := 0
  exclMax : Nat := 0
  budget : Nat := 0
  audio : List Nat := []
  deriving DecidableEq, Repr

/-- One partition that exists. -/
structure Partition where
  state : PState
  quota : Quota
  /-- remaining unreserved-time budget per core (R558) -/
  remain : List Nat
  /-- a SWAP_AREA_FULL episode is open (R427) -/
  swapFull : Bool := false
  /-- queue ticket of the create, set or destroy command in progress -/
  cmd : Option Nat := none
  /-- quota of a PARTITION_SET that waits for clean frames -/
  next : Option Quota := none
  deriving DecidableEq, Repr

/-- One state section of a schedule (R417). -/
structure Section where
  first : Nat
  grans : Nat
  useFrom : Nat
  useUntil : Nat
  deriving DecidableEq, Repr

/-- An installed, verified schedule: the header of R562 as admission and dispatch read it. -/
structure Schedule where
  part : Nat
  kernel : Bool
  ebb : Bool
  exclOnly : Bool
  period : Nat
  window : Nat
  bmax : Nat
  k : Nat
  statePart : Nat
  programs : Nat
  working : Nat
  wcet : Nat
  anchor : Nat
  deps : List Nat
  progs : List (Nat × Nat)
  sections : List Section
  /-- virtual ranges its descriptors touch: first address and bytes (R517) -/
  refs : List (Nat × Nat)
  /-- the container as verified -/
  body : List Byte
  deriving DecidableEq, Repr

/-- One step of a job (R571). -/
structure JobStep where
  sched : Nat
  reps : Nat
  report : Bool
  param : Nat
  deriving DecidableEq, Repr

/-- A job queued or running: what R560 keeps between its commands, with its cores when EXCLUSIVE. -/
structure Job where
  part : Nat
  cmd : Nat
  cmdId : Nat
  excl : Bool
  cores : Nat
  steps : List JobStep
  step : Nat
  rep : Nat
  done : Nat
  held : List Nat
  running : Bool
  order : Nat
  doorbell : Nat
  /-- tickets of the JOB_CANCELs that named it, in order -/
  cancel : List Nat
  deriving DecidableEq, Repr

/-- The work a core or a pair of cores executes: one command of R560. -/
inductive Work where
  | run (cohort : Nat) (chunkIndex : Nat)
  | streamStep (desc : Nat) (ebb : Bool) (chunk : Nat)
  | jobStep (job : Nat)
  deriving DecidableEq, Repr

/-- A member of a command in progress, as the member table names it (R352): descriptor, valid, chunk. -/
structure Member where
  desc : Nat
  valid : Bool
  chunk : Nat
  deriving DecidableEq, Repr

/-- A command in progress: its work, schedule, cores, members and start time. -/
structure Cmd where
  work : Work
  sched : Nat
  part : Nat
  cores : List Nat
  ebb : Bool
  start : Nat
  members : List Member
  catchup : Bool
  /-- results carry ERASED (R292, R471, R506) -/
  erased : Bool
  /-- a descriptor ended with a host, peer or DRAM error: the command ends at its next DMA_WAIT (R471) -/
  hostErr : Bool
  /-- the partition's space that descriptors of the command wrote: first address and bytes of each (R248) -/
  wrote : List (Nat × Nat) := []
  deriving DecidableEq, Repr

/-- Work outside a run that the dispatcher places: a stream's step, or a job's next command. -/
inductive Placeable where
  | step (desc : Nat) (ebb : Bool)
  | job (j : Nat)
  deriving DecidableEq, Repr

/-- Work placed on SHARED cores, waiting to start there (R584). -/
structure Placed where
  work : Placeable
  sched : Nat
  cores : List Nat
  deriving DecidableEq, Repr

/-- The states of a model-cache entry (DISP_CACHE_ENTRY). -/
inductive EState where
  | loading | ready | reloading | broken
  deriving DecidableEq, Repr

/-- A model-cache entry (R576); an EMPTY entry has no record. -/
structure Entry where
  state : EState
  part : Nat
  tag : Nat
  hostAddr : Nat
  va : Nat
  bytes : Nat
  hotVa : Nat
  hotUnits : Nat
  fmt : Nat
  pinned : Bool
  pinMask : Nat
  /-- cores on which the hot set is resident, and where: core and region number -/
  resident : List (Nat × Nat)
  /-- cores on which the hot set is being loaded -/
  loading : List (Nat × Nat)
  lru : Nat
  /-- ticket of the MODEL_LOAD or MODEL_PIN command waiting -/
  cmd : Option Nat
  /-- activation tables installed in the RETAINED image, by byte offset (R570) -/
  tables : Tbl (List Byte) := []
  /-- module addresses of damaged weights not yet rewritten (R583) -/
  damage : List Nat := []
  deriving DecidableEq, Repr

/-- A scratchpad region (R401). -/
structure Region where
  retained : Bool
  part : Nat
  base : Nat
  units : Nat
  deriving DecidableEq, Repr

/-- The dispatcher's view of one core beside its registers. -/
structure CoreState where
  excl : Bool := false
  changing : Option Bool := none
  /-- tickets of the CORE_MODE_SETs waiting on the admin queue -/
  modeCmd : List Nat := []
  /-- number of the command running -/
  cmd : Option Nat := none
  lastPart : Nat := 0
  /-- EXCLUSIVE job holding the core -/
  job : Option Nat := none
  regions : Tbl Region := []
  /-- units waiting to be zeroed (R406), each with the partition that left it -/
  zeroing : List (Nat × Nat) := []
  /-- region creations that wait for units to be zeroed (R407, R437) -/
  awaiting : List RegionWait := []
  /-- programs the store holds (R566): schedule and program -/
  store : List (Nat × Nat) := []
  /-- offsets of poisoned 8-byte words of the scratchpad (R410) -/
  poison : List Nat := []
  deriving DecidableEq, Repr

/-- Dispatcher, partitions and model cache. -/
structure Disp where
  parts : Tbl Partition := []
  /-- partitions being created: quota, and ticket of the command on the admin queue (R549) -/
  creating : Tbl (Quota × Nat) := []
  /-- waits for zeroing already recorded by ZERO_LAG (R437) -/
  lagged : List ZeroWait := []
  cores : Tbl CoreState := []
  scheds : Tbl Schedule := []
  jobs : Tbl Job := []
  nextJob : Nat := 0
  entries : Tbl Entry := []
  cmds : Tbl Cmd := []
  nextCmd : Nat := 0
  /-- work placed on cores and not started (R580, R584) -/
  placed : List Placed := []
  /-- TAGs on which an installed schedule depends, with their image: partition, tag, va, bytes, hot units (R577) -/
  tags : List (Nat × Nat × Nat × Nat × Nat) := []
  deriving DecidableEq, Repr

/-! ## Tide pool, swap and checkpoints -/

/-- What a standing checkpoint slot holds (R429, R430). -/
structure CkptRecord where
  handle : Nat
  ebb : Bool
  slot : Nat
  seq : Nat
  epoch : Nat
  chunk : Nat
  seed : Nat
  time : Nat
  srcBay : Nat
  params : List Byte
  body : List Byte
  valid : Bool
  /-- it came with a transfer (R628) -/
  transfer : Bool := false
  /-- where its slot lies in the checkpoint area -/
  at_ : Nat := 0
  deriving DecidableEq, Repr

/-- A transfer the swap or checkpoint engine has under way: descriptor, direction, section and kind. -/
structure Move where
  desc : Nat
  ebb : Bool
  sect : Nat
  /-- 0 fetch, 1 write-back, 2 checkpoint read, 3 swap-out of a whole allocation by eviction, 4 prefetch of one, 5 the first write-back of
  a GUARANTEED join, 6 a fetch that waits for its partition's quota -/
  kind : Nat
  deriving DecidableEq, Repr

/-- A stream that left while commands that include it were in progress: its descriptor, its record, and those commands. Its granules stay
until the last of them ends (R386). -/
structure Leaver where
  desc : Nat
  str : Stream
  cmds : List Nat
  deriving DecidableEq, Repr

/-- A checkpoint record the area has no slot for: the bay and partition it came from and for, what it is for, its bytes (R432). -/
structure RefusedRec where
  src : Nat
  part : Nat
  transfer : Bool
  remap : Bool
  bytes : List Byte
  deriving DecidableEq, Repr

/-- The tide pool and its engines. -/
structure Tide where
  /-- granules held by streams -/
  held : List Nat := []
  /-- granules waiting to be zeroed, each with the partition whose channels may still write it (R109) -/
  zeroing : List (Nat × Nat) := []
  moves : List Move := []
  /-- checkpoint records held for other bays -/
  area : List CkptRecord := []
  /-- records the area had no slot for, each until one frees (R432; log entry 114) -/
  refused : List RefusedRec := []
  /-- a checkpoint target is in force: R433 gate open when none -/
  target : Option Nat := none
  /-- the target, or that there is none, has been determined and recorded since start or release (R433) -/
  chosen : Bool := false
  /-- former targets to be sent CKPT_FREE once the new one's records stand: descriptor and bay (R625) -/
  old : List (Nat × Nat) := []
  /-- streams that have left and whose granules wait for a command to end -/
  leavers : List Leaver := []
  nextStep : Nat := 0
  deriving DecidableEq, Repr

/-! ## Serial audio ports -/

/-- One audio port beside its registers. -/
structure Port where
  /-- MASTER observation of R121 still running -/
  observing : Bool := false
  /-- foreign clock seen: a MASTER port runs as LISTEN (R121) -/
  foreign : Bool := false
  /-- index of the next frame (R131) -/
  idx : Nat := 0
  /-- index and tray time of the last FS assertion (R132) -/
  fsIdx : Nat := 0
  fsTime : Nat := 0
  /-- ebb record fetched for a coming frame: its index and its lanes (R135) -/
  fetched : Option (Nat × List Nat) := none
  /-- highest ebb index written plus one -/
  ebbHigh : Nat := 0
  /-- pending ring commit: base pair value and boundary index (R143) -/
  commit : Option (Nat × Nat) := none
  /-- old block: base pair value, first new index, H + 1 (R146, R147) -/
  old : Option (Nat × Nat × Nat) := none
  /-- flood frames landed below this index -/
  landed : Nat := 0
  /-- time since which the detector's condition has been false, by slot (R138) -/
  quiet : Tbl Nat := []
  /-- flags of the hardware detectors -/
  hwFlag : Nat := 0
  /-- cuts waiting for their first frame: ebb slot, edge time (R140) -/
  cutPend : List (Nat × Nat) := []
  /-- ebb slots that are cut now -/
  cutOn : Nat := 0
  /-- virtual frames of the loss in progress (R154), and the recent ones by index -/
  virt : Nat := 0
  virtuals : List Nat := []
  /-- samples driven in the last frame, by slot; an unlisted slot is not driven -/
  driven : List (Nat × Nat) := []
  /-- the padding bits of the frame are driven, with zero (R118) -/
  padding : Bool := false
  /-- squared samples of the last frames landed, newest first: flood lanes and reference lanes, for the detectors' window (R138) -/
  heard : List (List Nat × List Nat) := []
  /-- SYNC_IDX and SYNC_TIME hold a pair latched since EN was set (R132, R159) -/
  latched : Bool := false
  /-- the last owner of each lane: slot times 2, plus 1 for ebb, to partition (R130) -/
  owners : Tbl Nat := []
  /-- phase d in 10^-9 frame, at the last tick (R197) -/
  d : Int := 0
  /-- slip decided for a boundary: DROP, m, k_b (R205, R208) -/
  slip : Option (Bool × Nat × Nat) := none
  /-- commit boundaries at which frames slipped, with the frames inserted (R206) -/
  slipped : List (Nat × Nat) := []
  /-- physical frames still to be dropped at the current boundary (R205) -/
  dropping : Nat := 0
  /-- time state of the home module in the last STANDBY_SYNC, its bay, and ticks without one (R190, R634) -/
  homeTime : Nat := 2
  homeBay : Option Nat := none
  homeMiss : Nat := 0
  /-- the home bay the port was aligned to when its STANDBY_SYNCs stopped, until the port is aligned again or disabled (R160; log entry 123) -/
  lostHome : Option Nat := none
  deriving DecidableEq, Repr

/-! ## Security -/

/-- One HMAC key with its replay counter (R704): a persistent key has a reserve and reserve records left. -/
structure Key where
  present : Bool := false
  bytes : List Byte := []
  /-- stored counter S -/
  ctr : Nat := 0
  /-- reserve R -/
  reserve : Nat := 0
  /-- reserve records left -/
  left : Nat := 256
  locked : Bool := false
  fails : Nat := 0
  /-- refused for 1,000 ms after 16 failures (R247) -/
  refusing : Bool := false
  deriving DecidableEq, Repr

/-- A rollback floor (R704a). -/
structure Floor where
  value : Nat := 0
  left : Nat := 64
  deriving DecidableEq, Repr

/-- How many of the three copies of each state bit are burned (R681, R683). -/
structure LifeBits where
  maker : Fin 4 := 0
  owner : Fin 4 := 0
  field : Fin 4 := 0
  ret : Fin 4 := 0
  scrap : Fin 4 := 0
  deriving DecidableEq, Repr

/-- The security block: OTP and volatile store. -/
structure Sec where
  /-- carrier revision in the carrier's OTP (R20, R27; log entry 96) -/
  carrierRev : Nat := 3
  bits : LifeBits := {}
  returnDone : Bool := false
  uid : Nat := 0
  maker : Key := {}
  owner : Key := {}
  ownerGen : Nat := 0
  signGen : Nat := 0
  /-- generations burned without VALID, which count as used (R682) -/
  ownerVoid : Nat := 0
  signVoid : Nat := 0
  /-- a previous generation that has not been destroyed (R703, R715) -/
  ownerPrev : Option Key := none
  digestPrev : List Byte := []
  makerDigest : List Byte := []
  ownerDigest : List Byte := []
  pkeys : Tbl Key := []
  floorMaker : Floor := {}
  floorOwner : Floor := {}
  /-- the challenge in force (R695), free bytes -/
  challenge : List Byte := []
  /-- a debug session is open, and on which path: 0 IEEE 1149.1, 1 the debug port (R695) -/
  session : Bool := false
  sessionPort : Nat := 0
  wrong : Nat := 0
  lockout : Bool := false
  /-- requests since the DRBG was last seeded (R706) -/
  drbg : Nat := 0
  deriving DecidableEq, Repr

/-- The life-cycle state: 0 RAW, 1 MAKER, 2 OWNER, 3 FIELD, 4 RETURN, 5 SCRAP. It is the highest state whose bit is burned, and one copy
of three counts (R683, R685). -/
def Sec.lc (x : Sec) : Nat :=
  if x.bits.scrap ≠ 0 then 5 else if x.bits.ret ≠ 0 then 4 else if x.bits.field ≠ 0 then 3 else if x.bits.owner ≠ 0 then 2
  else if x.bits.maker ≠ 0 then 1 else 0

/-! ## Tray fabric -/

/-- A message body (R608), as far as its protocol reads it. -/
inductive MsgBody where
  | hello (h : Hello)
  | linkState (stage : Nat) (links : List LinkInfo)
  | failstop (cause : Nat)
  | lease (handle epoch bay : Nat) (released : Bool)
  | xferOffer (handle epoch : Nat) (params : List Byte) (digests : List (List Byte)) (last : Nat)
  | xferAccept (handle bf be : Nat)
  | xferRefuse (handle reason : Nat)
  | xferAbort (handle : Nat)
  | ckptAck (handle : Nat) (ebb : Bool) (seq : Nat)
  | ckptFree (handle : Nat)
  | standbySync (port idx time state : Nat)
  | slip (port kb : Nat) (drop : Bool) (m : Nat)
  | trayFailed (bay : Nat)
  | ckptData (transfer remap : Bool) (record : List Byte)
  | write (addr flags : Nat) (data : List Byte)
  | writeAck (msgId : Nat) (denied : Bool)
  | readReq (addr len : Nat)
  | readData (denied : Bool) (data : List Byte)
  deriving DecidableEq, Repr

/-- A message this module has sent or forwarded: its source and MSG_ID, destination bay, none for a broadcast; partition, none for
MODULE; the links taken with it, HOPS, the links it left on (none: no route, the message is lost). -/
structure FabMsg where
  src : Nat
  dst : Option Nat
  part : Option Nat
  id : Nat
  hops : Nat := 1
  via : List Nat := []
  body : MsgBody
  deriving DecidableEq, Repr

/-- What the link-state table holds of a bay: its stage and the far bays of its up links (R609). -/
structure BayView where
  stage : Nat := 0
  up : List Nat := []
  deriving DecidableEq, Repr

/-- A message on its way out of a link: VL, HOPS, flits left, and whether its first flit has been sent (R601). -/
structure TxMsg where
  /-- MSG_ID -/
  id : Nat
  vl : Nat
  hops : Nat
  left : Nat
  begun : Bool := false
  deriving DecidableEq, Repr

/-- One tray link beside its registers: transmit queue, replay buffer, credits and sequence numbers (R595 to R606). -/
structure LinkState where
  /-- SEQ of the next DATA flit sent, and of the oldest one not acknowledged -/
  txSeq : Nat := 0
  ackSeq : Nat := 0
  /-- SEQ expected next -/
  rxSeq : Nat := 0
  /-- messages whose flits wait for a turn, oldest first -/
  wait : List TxMsg := []
  /-- turn of the frame of R601 -/
  turn : Nat := 0
  /-- flits sent and not acknowledged, oldest first: VL and class -/
  replay : List (Nat × Nat) := []
  /-- NAKs received without ACK advancing (R604) -/
  naks : Nat := 0
  /-- a retry episode is open at the receiver: its NAK has been sent (R602) -/
  episode : Bool := false
  /-- credits by VL times 6 plus class -/
  credits : Tbl Nat := []
  /-- the next training may choose eight lanes (R606) -/
  wide : Bool := true
  retraining : Bool := false
  /-- the lowest lane in use (R596) -/
  lane0 : Nat := 0
  /-- the last HELLO of the far end -/
  far : Option Hello := none
  /-- SCOPE differs between two READY ends and has not held the link yet (R792) -/
  scopeDiffer : Bool := false
  deriving DecidableEq, Repr

/-- A stream this module is to take, by transfer or remap, and has not admitted (R627, R632). -/
structure Offer where
  remap : Bool
  src : Nat
  part : Nat
  handle : Nat
  epoch : Nat
  params : List Byte
  digests : List (List Byte)
  last : Nat
  /-- when it was first looked at for granules -/
  since : Option Nat := none
  deriving DecidableEq, Repr

/-- The fabric side of the module. -/
structure Fab where
  /-- messages sent, oldest first -/
  out : List FabMsg := []
  nextMsg : Nat := 0
  table : Tbl BayView := []
  /-- lease table: handle to highest epoch seen and its bay (R866) -/
  leases : Tbl (Nat × Nat) := []
  /-- broadcast keys seen, newest first per source, at most 256 (R610) -/
  seen : Tbl (List Nat) := []
  /-- bays declared lost and not rejoined -/
  lost : List Nat := []
  links : Tbl LinkState := []
  /-- bays whose loss is waiting 20 ms for remap (R631) -/
  remap : List Nat := []
  /-- TRAY_FAILED has been broadcast (R633) -/
  failedSent : Bool := false
  /-- the buddy qualified at the last look; it has been given up since it last was the target; its 10 s run (R622) -/
  buddyOk : Bool := false
  buddyLost : Bool := false
  buddyTimer : Bool := false
  offers : List Offer := []
  deriving DecidableEq, Repr

/-! ## Time and synthesizers -/

/-- The time base beside its registers (R184 to R189). -/
structure TimeB where
  /-- tray time announced for the next tick -/
  next : Option Nat := none
  /-- a message has been heard since the last tick -/
  heard : Bool := false
  /-- consecutive ticks within 1 µs, bad messages, and missing ticks -/
  good : Nat := 0
  bad : Nat := 0
  missed : Nat := 0
  /-- slew still to be applied, in ns, and cycles since the last slewed one (R184) -/
  slew : Int := 0
  cycle : Nat := 0
  /-- step due at the next tick (R186) -/
  stepDue : Bool := false
  /-- the counter has taken its first announced value -/
  loaded : Bool := false
  deriving DecidableEq, Repr

/-- One synthesizer beside its registers: the pull set at acquisition (ppb), the loop integrator in 10^-9 frame ticks, ticks
measured, and the pair at which the measurement began (R200 to R202). -/
structure Acs where
  pMeas : Int := 0
  /-- sum of d over the ticks integrated, in 10^-9 frame -/
  integ : Int := 0
  ticks : Nat := 0
  idx0 : Nat := 0
  time0 : Nat := 0
  /-- REF_PORT was disabled during HOLD: the return goes through ACQUIRE (R204) -/
  refOff : Bool := false
  deriving DecidableEq, Repr

/-! ## Memory controllers, translation and DMA -/

/-- The memory controllers beside their registers. -/
structure Mc where
  /-- poisoned 64-byte bursts, by burst number (R505) -/
  poison : List Nat := []
  /-- time of the last MC_CORRECTED of each controller (R504) -/
  corrected : Tbl Nat := []
  /-- DIRTY 64 KiB frames (R508) -/
  dirty : List Nat := []
  /-- 64 KiB frames that hold translation tables: address, partition, bytes used -/
  tables : List (Nat × Nat × Nat) := []
  /-- EXTENT of each EXC leaf: partition, virtual address, bytes of its coded area (R516) -/
  extents : List (Nat × Nat × Nat) := []
  /-- refresh rate asked for and temperature of the devices of each controller, at the last poll (R502) -/
  demand : Tbl (Nat × Nat) := []
  deriving DecidableEq, Repr

/-- One leaf held by a TLB (R519): first virtual address, whether 2 MiB, the entry, and its place. -/
structure TlbEntry where
  va : Nat
  large : Bool
  entry : Nat
  /-- where the entry stands -/
  at_ : Nat := 0
  deriving DecidableEq, Repr

/-- A descriptor a partition channel holds: command that submitted it, core, submission number, and its bytes as DMA_SUBMIT read them. -/
structure QDesc where
  cmd : Nat
  core : Nat
  index : Nat
  raw : List Byte
  deriving DecidableEq, Repr

/-- A descriptor running (R473): its bytes, index, submitting command and core, bytes moved and in all, the status found
so far and the PCIe cause of a HOST_ERROR (R470). -/
structure DmaRun where
  raw : List Byte
  index : Nat
  cmd : Option Nat
  core : Nat
  moved : Nat
  total : Nat
  status : Nat
  why : Nat
  /-- what the bytes it has overwritten held when it started, of a partition channel (R460) -/
  prior : List Host.Cell := []
  /-- of a MEMBER_OUT, the frame at which each member whose data a peer is still to give plays (R465) -/
  plays : Tbl Nat := []
  /-- its last write has been issued and the read that fences it is on its way (R472) -/
  fence : Bool := false
  deriving DecidableEq, Repr

/-- A piece of data on its way to or from a peer (R612): message, channel, first byte of the pattern, length, whether it is a read, the
link it left by, and whether it is the running descriptor's. -/
structure PeerWait where
  id : Nat
  bay : Nat
  ch : Nat
  at_ : Nat
  len : Nat
  read : Bool
  link : Nat := 15
  own : Bool := true
  deriving DecidableEq, Repr

/-- One DMA channel beside its registers. -/
structure Chan where
  queue : List QDesc := []
  run : Option DmaRun := none
  /-- descriptors submitted and ended, by command (R467) -/
  submitted : Tbl Nat := []
  ended : Tbl Nat := []
  /-- commands of which a descriptor ended with an error (R471) -/
  failed : List Nat := []
  tlb : List TlbEntry := []
  waits : List PeerWait := []
  /-- an ABORT has taken effect since the channel was last drained (R478, R479) -/
  aborting : Bool := false
  /-- the running descriptor has written to the host (R472) -/
  toHost : Bool := false
  /-- the EXC block it decoded last, by virtual address over 4,096 (R531) -/
  block : Option Nat := none
  deriving DecidableEq, Repr

/-! ## Start-up, faults and pins -/

/-- A model the image declares whose body is to be fetched (R650, R654): partition, digest of the body, load block. -/
structure StoreModel where
  part : Nat
  digest : List Byte
  load : List Byte
  deriving DecidableEq, Repr

/-- A STORE body being read from a bay (R654, R680): its model, the address and length of every piece in order and of those not read
yet, the bay and the link it is read by (none: no bay serves it, and the Lighthouse does), the bays that did not serve it, the bytes so
far, and the MSG_ID of the request under way. -/
structure StoreFetch where
  model : StoreModel
  pieces : List (Nat × Nat)
  rest : List (Nat × Nat) := []
  bay : Option Nat := none
  link : Nat := 15
  tried : List Nat := []
  got : List Byte := []
  wait : Option Nat := none
  deriving DecidableEq, Repr

/-- A re-flash the hub die carries out for the Lighthouse (R746): slot, image bytes in all, their digest, the pass, and the bytes taken in it. -/
structure Reflash where
  slot : Nat
  len : Nat
  digest : List Byte
  second : Bool := false
  data : List Byte := []
  deriving DecidableEq, Repr

/-- What start-up and the always-on domain keep beside the registers. -/
structure Boot where
  /-- 54 V stands at the module -/
  powered : Bool := true
  /-- a restart is due (R659) -/
  restartDue : Bool := false
  /-- the module has reached Ready since it started: RWL fields are locked (R9, R19) -/
  locked : Bool := false
  /-- times of the fail-stops counted in COUNT_24H, oldest first (R790) -/
  stops : List Nat := []
  /-- start of the 600 s of R661, and whether they have run out -/
  readySince : Nat := 0
  stable : Bool := false
  /-- what the image enables (R652): ports by number, synthesizers from 16 on -/
  imagePorts : List Nat := []
  /-- FW_SET, SETTLE_MS and POWER_LIMIT_W of the image in use (R647) -/
  fwSet : List Byte := []
  settleMs : Nat := 5000
  powerLimit : Nat := 1050
  /-- models whose body is not obtained yet -/
  stores : List StoreModel := []
  /-- the bodies of them that are read from bays -/
  fetches : List StoreFetch := []
  /-- image-declared bodies: partition, tag and body (R650) -/
  bodies : List (Nat × Nat × List Byte) := []
  /-- image-declared result rings: ring, partition and base address -/
  rings : Tbl (Nat × Nat) := []
  /-- PHASE of the next record of each image-declared ring -/
  ringPhase : Tbl Bool := []
  reflash : Option Reflash := none
  /-- sensors in a warn condition (R839) -/
  warm : List Nat := []
  deriving DecidableEq, Repr

/-- The pins the module drives and sees that no register shows. -/
structure Pins where
  faultN : Bool := false
  ready : Bool := false
  heartbeat : Bool := false
  thermtripN : Bool := false
  deriving DecidableEq, Repr

/-! ## The engines of a core -/

/-- A tile image as a tile store holds it (R277): its format, its bytes by offset, and the weights in error, which count as +0
(R300). -/
structure Tile where
  fmt : Nat := 0
  cells : List Host.Cell := []
  bad : List (Nat × Nat) := []
  deriving DecidableEq, Repr

/-- The matrix engine beside its registers: ACTIVE and SHADOW, the tile being loaded, operations issued and waiting, oldest
first (R295, R298, R299), and the accumulator rows written, each lane marked INT32 or FP32 (R271). -/
structure MeUnit where
  active : Tile := {}
  shadow : Tile := {}
  loading : Option Tile := none
  waiting : List (MeRec × Upset) := []
  acc : Tbl (List (Bool × Nat)) := []
  deriving DecidableEq, Repr

/-- The vector engine beside its registers: vector and predicate registers, BROW lines by channel times 128 plus line, BCOL by
channel, table slots, and the operations issued on each channel and not complete, each with its ticket. Offsets in them are
already absolute. -/
structure VeUnit where
  regs : Tbl (List Nat) := []
  preds : Tbl (List Bool) := []
  brow : Tbl (List Nat) := []
  bcol : Tbl (List Nat) := []
  tables : Tbl (List Byte) := []
  mx : List (Nat × (VeRec × Upset)) := []
  sp : List (Nat × (VeRec × Upset)) := []
  ticket : Nat := 0
  deriving DecidableEq, Repr

/-- The recurrence unit beside its registers: state buffer, table slots, RU_GATEs that wait for rows, and the unit's copy of the member
table (R392). -/
structure RuUnit where
  buf : List Host.Cell := []
  tables : Tbl (List Byte) := []
  gates : List (RuRec × Upset) := []
  members : List Byte := []
  deriving DecidableEq, Repr

/-- The sequencer of a core while a command runs there (R565): program index, byte offset of the next record in the program,
open loops as first record and iterations left, the program has ended, and the SQ_PEER it waits at. -/
structure Seq where
  prog : Nat
  pos : Nat := 0
  loops : List (Nat × Nat) := []
  ended : Bool := false
  peer : Option Nat := none
  deriving DecidableEq, Repr

/-- The engines and the sequencer of one core. -/
structure Engines where
  me : MeUnit := {}
  ve : VeUnit := {}
  ru : RuUnit := {}
  seq : Option Seq := none
  deriving DecidableEq, Repr

/-! ## The Lighthouse, Breakwater and the backplane -/

/-- A management frame sent (R723): from the Lighthouse or from a bay's module, the bay, OP, TAG, ARG, STATUS, body. -/
structure Frame where
  fromLh : Bool
  bay : Nat
  op : Nat
  tag : Nat := 0
  arg : Nat := 0
  status : Nat := 0
  body : List Byte := []
  deriving DecidableEq, Repr

/-- A command the Lighthouse has taken and not completed (R749, R754, R760): its bytes, whether it came through Redfish, and
the data that came with it then. -/
structure LhCmd where
  raw : List Byte
  rack : Bool
  data : List Byte
  deriving DecidableEq, Repr

/-- A re-flash the Lighthouse has started (R745 to R747): slot, golden image it began with, whether REFLASH_BEGIN has been
accepted, the pass and the bytes sent in it, whether a restart with CLEAR follows, and whether LH_REFLASH waits for it. -/
structure FlashJob where
  slot : Nat
  image : List Byte
  begun : Bool := false
  second : Bool := false
  sent : Nat := 0
  restart : Bool := false
  cmd : Bool := false
  /-- REFLASH_BEGIN was answered BUSY -/
  busy : Bool := false
  deriving DecidableEq, Repr

/-- What the Lighthouse keeps of one bay beside LH_BAY registers. -/
structure LhBay where
  /-- presence and seating have stood for 5 s (R739) -/
  steady : Bool := false
  /-- power was lost through THERMTRIP_N or Breakwater: only LH_BAY_POWER closes the switch -/
  manual : Bool := false
  /-- off for the 2 s of a CYCLE, with the cause BAY_POWER shows -/
  cycling : Option Nat := none
  /-- a HEARTBEAT_LOST episode is open (R728) -/
  hbLost : Bool := false
  /-- FAULT_N was asserted at the last report -/
  faulted : Bool := false
  job : Option FlashJob := none
  /-- failed re-flash attempts since the last success, and when re-flashes began (R747) -/
  fails : Nat := 0
  tries : List Nat := []
  /-- the last STATUS_GET answer, and the HASH_GET answer of each slot -/
  status : Option BayStatus := none
  hashes : Tbl SlotHash := []
  /-- ACTION_PENDING rows of R756 recorded and not yet taken (R757) -/
  waiting : List Nat := []
  /-- a POWER_HIGH episode is open (R733) -/
  high : Bool := false
  deriving DecidableEq, Repr

/-- What a Redfish request is answered with (R759). -/
inductive HttpAnswer where
  | served | refused | notFound | denied
  deriving DecidableEq, Repr

/-- The Lighthouse beside its registers, with the outputs the backplane latches hold (R735). -/
structure Lh where
  /-- keys by slot: maker, host, rack (R750) -/
  keys : Tbl Key := []
  /-- its event queue and vectors; UNIT and INSTANCE of its own records -/
  host : HostIf := { ownUnit := 0xF0, ownInst := 0xFF }
  queue : List LhCmd := []
  /-- completion records returned through Redfish, oldest first (R760) -/
  returned : List (List Byte) := []
  answers : List HttpAnswer := []
  current : List Byte := []
  previous : List Byte := []
  fwA : List Byte := []
  fwB : List Byte := []
  /-- the firmware slot it started from, and the one it starts from next -/
  fwUsed : Nat := 0
  fwNext : Nat := 0
  /-- model bodies by digest (R748) -/
  models : List (List Byte × List Byte) := []
  /-- the Redfish staging buffer (R760) -/
  staging : Option (List Byte) := none
  /-- the event log (R725) -/
  log : List Event := []
  bays : Tbl LhBay := []
  /-- alarm limits set by the rack manager, in units of the point: low, high (R731) -/
  limits : Tbl (Option Int × Option Int) := []
  /-- P_1ms of the second in progress, and sum and peak of each of the last 60 whole seconds, newest first, by row (R732) -/
  ms : Tbl (List Nat) := []
  secs : Tbl (List (Nat × Nat)) := []
  trayHigh : Bool := false
  /-- pump and fan commands in percent, units failed (0 to 2 pumps, 16 to 21 fans), units inserted since that have not held their
  speed yet (R806), override of R736 -/
  pumps : Nat := 100
  fans : Nat := 100
  failed : List Nat := []
  settling : List Nat := []
  override : Bool := false
  /-- the grace period of LH_SHUTDOWN runs (R751) -/
  grace : Bool := false
  /-- the command at the head has begun and completes later, with this VALUE (R749, R754) -/
  held : Option Nat := none
  /-- the valve open command (R735), and what the timing sequencer sends: LH_DOWN, PTP_LOCKED, PTP_HOLDOVER, TAI_OFFSET -/
  valveCmd : Bool := true
  lhDown : Bool := true
  /-- tray time of the timing sequencer (R177); SEQ of the next time value message, 0 in State.reset and not set again by TRAY_POWER_APPLIED
  (R179; DESIGN CHOICE: the spec gives it no first value; log entry 133) -/
  time : Nat := 0
  msgSeq : Nat := 0
  /-- TAI_OFFSET has been set (R182); steering in ppb at `steerAt`, and the steering it moves to (R181) -/
  taiSet : Bool := false
  steer : Int := 0
  steerAt : Nat := 0
  steerTo : Int := 0
  /-- management frames sent, oldest first -/
  frames : List Frame := []
  /-- management requests sent and not answered, with the attempts made (R724) -/
  asked : List (Frame × Nat) := []
  deriving DecidableEq, Repr

/-- Breakwater (R764 to R769) beside what the Lighthouse shows of it: TRIPPED, zones whose confirmation runs, readings, channels that
failed their test, isolation open, valves open, its supply stands, pumps stopped. -/
structure Breakwater where
  tripped : Bool := false
  wet : List Nat := []
  faults : List Nat := []
  testA : List Nat := []
  testB : List Nat := []
  isolated : Bool := false
  valves : Bool := true
  supply : Bool := true
  stopped : Bool := false
  /-- zones wet at the confirmation of the trip, for the record the Lighthouse makes later (R775) -/
  atTrip : Nat := 0
  seen : Bool := true
  deriving DecidableEq, Repr

/-! ## The whole state -/

/-- The machine: one module, the tray services around it, and the commands that wait. -/
structure State where
  /-- the device-region register file: registers written since reset; others stand at their reset value -/
  regs : Tbl Word := []
  /-- the Lighthouse BAR register file -/
  lhRegs : Tbl Word := []
  /-- per access path, by path code (R15) -/
  paths : Tbl PathState := []
  /-- every byte memory the module writes, by place: the module physical map below 2^48 (DRAM, tide pool, host window),
  scratchpad of core n from 2^48 + n * 2^25, flash complemented from 2^49 -/
  mem : List Host.Cell := []
  /-- module tray time in ns (R5) -/
  time : Nat := 0
  host : HostIf := {}
  pcie : Pcie := {}
  strm : Streams := {}
  disp : Disp := {}
  /-- engines by core -/
  eng : Tbl Engines := []
  tide : Tide := {}
  ports : Tbl Port := []
  sec : Sec := {}
  fab : Fab := {}
  timeB : TimeB := {}
  /-- synthesizers by number -/
  acs : Tbl Acs := []
  mc : Mc := {}
  /-- DMA channels by number -/
  dma : Tbl Chan := []
  boot : Boot := {}
  pins : Pins := {}
  lh : Lh := {}
  bw : Breakwater := {}
  /-- the model's own counter of free values taken (log entry 2) -/
  free : Nat := 0
  /-- commands waiting, first in first out -/
  pending : List Instr := []
  deriving DecidableEq, Repr

/-- The machine right after reset: every register at its reset value, nothing held, no command waiting. -/
def State.reset : State := {}

end Sys2Proof.Machine
end

