-- ==== Sys2Proof/Machine/Ops.lean ====
section
/-! DEFINITION. The named operations every meaning is built from: registers and fields, free values, events and the event
queue, interrupt vectors, tidemarks, result records and command completion. -/

namespace Sys2Proof.Machine

/-! ## Registers -/

/-- The register at an absolute offset of the device region. -/
def State.reg (s : State) (off : Nat) : Word := (tfind s.regs off).getD (regReset deviceBlocks off)

/-- The state with one register set. -/
def State.setReg (s : State) (off : Nat) (w : Word) : State := { s with regs := tset s.regs off w }

/-- A register field. -/
def State.fld (s : State) (f : Fld) : Nat := wfield (s.reg f.off) f.hi f.lo

/-- The state with one register field set. -/
def State.setFld (s : State) (f : Fld) (v : Nat) : State := s.setReg f.off (wset (s.reg f.off) f.hi f.lo v)

/-- A one-bit field as a truth value. -/
def State.bit (s : State) (f : Fld) : Bool := s.fld f == 1

/-- Set a one-bit field. -/
def State.setBit (s : State) (f : Fld) (b : Bool) : State := s.setFld f (if b then 1 else 0)

/-- The 64-bit value of an LO and HI pair, by the offset of its LO (R10). -/
def State.pair (s : State) (off : Nat) : Nat := (s.reg off).toNat + 2 ^ 32 * (s.reg (off + 4)).toNat

/-- Set a 64-bit pair. -/
def State.setPair (s : State) (off v : Nat) : State :=
  (s.setReg off (BitVec.ofNat 32 v)).setReg (off + 4) (BitVec.ofNat 32 (v / 2 ^ 32))

/-- Add to a counter field that saturates at its width. -/
def State.count (s : State) (f : Fld) (n : Nat) : State := s.setFld f (satAdd (s.fld f) n (2 ^ (f.hi - f.lo + 1) - 1))

/-- Add to a 64-bit counter pair. -/
def State.addPair (s : State) (off n : Nat) : State := s.setPair off ((s.pair off + n) % 2 ^ 64)

/-- A register of the Lighthouse BAR. -/
def State.lhReg (s : State) (off : Nat) : Word := (tfind s.lhRegs off).getD (regReset lighthouseBlocks off)

/-- Set a register of the Lighthouse BAR. -/
def State.setLhReg (s : State) (off : Nat) (w : Word) : State := { s with lhRegs := tset s.lhRegs off w }

/-- A field of a Lighthouse BAR register. -/
def State.lhFld (s : State) (f : Fld) : Nat := wfield (s.lhReg f.off) f.hi f.lo

/-- Set a field of a Lighthouse BAR register. -/
def State.setLhFld (s : State) (f : Fld) (v : Nat) : State := s.setLhReg f.off (wset (s.lhReg f.off) f.hi f.lo v)

/-- A one-bit field of a Lighthouse BAR register. -/
def State.lhBit (s : State) (f : Fld) : Bool := s.lhFld f == 1

/-- Set a one-bit field of a Lighthouse BAR register. -/
def State.setLhBit (s : State) (f : Fld) (b : Bool) : State := s.setLhFld f (if b then 1 else 0)

/-- Add to a Lighthouse counter field that saturates. -/
def State.lhCount (s : State) (f : Fld) (n : Nat) : State :=
  s.setLhFld f (satAdd (s.lhFld f) n (2 ^ (f.hi - f.lo + 1) - 1))

/-- A 64-bit pair of the Lighthouse BAR. -/
def State.lhPair (s : State) (off : Nat) : Nat := (s.lhReg off).toNat + 2 ^ 32 * (s.lhReg (off + 4)).toNat

/-- Set a 64-bit pair of the Lighthouse BAR. -/
def State.setLhPair (s : State) (off v : Nat) : State :=
  (s.setLhReg off (BitVec.ofNat 32 v)).setLhReg (off + 4) (BitVec.ofNat 32 (v / 2 ^ 32))

/-! ## Free values (log entry 2) -/

/-- The next free value. -/
def State.freeNow (s : State) : Nat := Config.freeNat s.free

/-- The state after one free value is taken. -/
def State.freeNext (s : State) : State := { s with free := s.free + 1 }

/-! ## Places in memory -/

/-- Where the host window lies in the module physical map (R511). -/
def hostWindow : Nat := 0x4000_0000_0000
/-- Where the tide pool lies (R411). -/
def poolBase : Nat := 0x0100_0000_0000
/-- The model's place for the scratchpad of a core. -/
def spadPlace (core : Nat) : Nat := 2 ^ 48 + core * 2 ^ 25

/-- Write bytes to memory. -/
def State.poke (s : State) (a : Nat) (bs : List Byte) : State := { s with mem := memWrite s.mem a bs }

/-- Read bytes of memory. -/
def State.peek (s : State) (a n : Nat) : List Byte := memRead s.mem a n

/-- Zero a range of memory. -/
def State.zeroMem (s : State) (a n : Nat) : State := { s with mem := memZero s.mem a n }

/-! ## Poison (R505) -/

/-- The controller that holds an address (R493). -/
def mcOf (a : Nat) : Nat := a / 256 % 12

/-- MCn_POISON follows the poisoned bursts. -/
def poisonSync (s : State) : State :=
  (List.range 12).foldl (fun s c =>
    let n := (s.mc.poison.filter (fun b => mcOf (b * 64) == c)).length
    if s.fld (F.mcPoisonBursts c) = n then s else s.setFld (F.mcPoisonBursts c) n) s

/-- A write of a range clears the poison of the bursts it covers whole (R505). -/
def dramWrote (a n : Nat) (s : State) : State :=
  if s.mc.poison.any (fun b => decide (a ≤ b * 64 ∧ b * 64 + 64 ≤ a + n)) then
    poisonSync { s with mc := { s.mc with poison := s.mc.poison.filter (fun b => !decide (a ≤ b * 64 ∧ b * 64 + 64 ≤ a + n)) } }
  else s

/-- Write bytes to DRAM. -/
def State.pokeDram (s : State) (a : Nat) (bs : List Byte) : State := dramWrote a bs.length (s.poke a bs)

/-- Zero a range of DRAM, which clears its poison as any write does (R505). -/
def State.zeroDram (s : State) (a n : Nat) : State := dramWrote a n (s.zeroMem a n)

/-! ## Module condition -/

/-- The boot stage: 1 to 7 starting, 8 READY, 9 QUARANTINE, 10 NEAP. -/
def State.stage (s : State) : Nat := s.fld F.hubBootStatusStage

/-- The module has reached Ready (R656). -/
def State.ready (s : State) : Bool := s.stage == 8

/-- The module is in fail-stop (R785). -/
def State.failStopped (s : State) : Bool := s.bit F.errFsStatusActive

/-- What happens in the module happens only while it has power. -/
def powered (k : State → State) (s : State) : State := if s.boot.powered then k s else s

/-! ## Interrupt vectors (R251, R252) -/

/-- The key of a vector: function (0 PF0, n VF n) and vector number. -/
def vectorKey (fn v : Nat) : Nat := fn * 4 + v

/-- Send the message of a vector, or set its PBA bit while it is masked. -/
def fireVector (fn v : Nat) (s : State) : State :=
  let k := vectorKey fn v
  let x := tget s.host.vectors k {}
  if x.masked then
    { s with host := { s.host with vectors := tset s.host.vectors k { x with pending := true, unsignalled := 0 } } }
  else
    { s with host := { s.host with vectors := tset s.host.vectors k { x with unsignalled := 0 },
                                   msi := s.host.msi ++ [(fn, v)] } }

/-- Count a record toward a moderated vector: COUNT records or TIME_US fire it; COUNT 0 acts as 1, TIME_US 0 fires at once. -/
def moderate (fn v count timeUs : Nat) (s : State) : State :=
  let k := vectorKey fn v
  let x := tget s.host.vectors k {}
  let n := x.unsignalled + 1
  let since := if x.unsignalled = 0 then s.time else x.since
  let s := { s with host := { s.host with vectors := tset s.host.vectors k { x with unsignalled := n, since := since } } }
  if timeUs = 0 ∨ n ≥ (if count = 0 then 1 else count) then fireVector fn v s else s

/-- A host-memory access carries the Requester ID of a function: 0 PF0, n VF n (R220). -/
def asFunction (fn : Nat) (s : State) : State := { s with host := { s.host with requester := fn } }

/-- The channel record of a channel. -/
def State.chan (s : State) (c : Nat) : Chan := tget s.dma c {}

/-- Set the record of a channel. -/
def State.setChan (s : State) (c : Nat) (x : Chan) : State := { s with dma := tset s.dma c x }

/-! ## Tidemarks (R149 to R151) -/

/-- Whether a level lies on the alarm side of a CFG word. -/
def tmAlarm (cfg : Word) (level : Nat) : Bool :=
  if wfield cfg 31 31 = 0 then decide (wfield cfg 27 0 < level) else decide (level < wfield cfg 27 0)

/-- One crossing: COUNT advances, and the first since arming sets STICKY. The answer says whether the event is due. -/
def tmCross (off : Nat) (s : State) : Bool × State :=
  let stat := s.reg (off + 4)
  let first := wfield stat 31 31 == 0
  (first, s.setReg (off + 4) (wset (wset stat 15 0 (satAdd (wfield stat 15 0) 1 0xFFFF)) 31 31 1))

/-- The level of the tidemark at an offset changes. -/
def tmLevel (off level : Nat) (s : State) : Bool × State :=
  let cfg := s.reg off
  let was := wfield (s.reg (off + 8)) 27 0
  let s := s.setReg (off + 8) (wset (s.reg (off + 8)) 27 0 level)
  if !tmAlarm cfg was && tmAlarm cfg level then tmCross off s else (false, s)

/-- A write of THRESH or DIR: a crossing when it puts the unchanged level on the alarm side (R149). -/
def tmConfig (off : Nat) (v : Word) (s : State) : Bool × State :=
  let old := s.reg off
  let new := wset (wset old 31 31 (wfield v 31 31)) 27 0 (wfield v 27 0)
  let level := wfield (s.reg (off + 8)) 27 0
  let s := s.setReg off new
  if !tmAlarm old level && tmAlarm new level then tmCross off s else (false, s)

/-- A W1C of STICKY re-arms: COUNT clears, and a level on the alarm side crosses at once (R151). -/
def tmRearm (off : Nat) (s : State) : Bool × State :=
  let s := s.setReg (off + 4) (wset (wset (s.reg (off + 4)) 31 31 0) 15 0 0)
  if tmAlarm (s.reg off) (wfield (s.reg (off + 8)) 27 0) then tmCross off s else (false, s)

/-! ## The event queue (R253 to R261) -/

/-- The 32 bytes of an event record (R254). -/
def Event.bytes (e : Event) (delayed phase : Bool) : List Byte :=
  let pf := (match e.part with | some p => p % 64 | none => 64) + (if delayed then 128 else 0)
  leBytes 2 e.code ++ leBytes 1 (e.sev * 32 + e.code / 256 % 32) ++ leBytes 1 pf ++ leBytes 2 e.unit ++ leBytes 2 e.inst
    ++ leBytes 8 e.time ++ leBytes 4 e.w0 ++ leBytes 4 e.w1 ++ leBytes 4 e.w2 ++ leBytes 2 e.seq
    ++ [0, if phase then 0x80 else 0]

/-- Records the queue holds: 2^LOG2. -/
def State.evSize (s : State) : Nat := 2 ^ s.fld F.evqCfgLog2

/-- The queue is full (R253). -/
def State.evFull (s : State) : Bool :=
  (s.fld F.evqTailTail + 1) % s.evSize == s.fld F.evqHeadHead

/-- The level of the event-queue tidemark (R261), for pointers that a new LOG2 may have left outside the queue too. -/
def State.evLevel (s : State) : Nat :=
  (s.fld F.evqTailTail % s.evSize + s.evSize - s.fld F.evqHeadHead % s.evSize) % s.evSize

/-- FULL and BACKLOG follow the queue and the backlog. -/
def evStatus (s : State) : State :=
  (s.setBit F.evqStatusFull (s.bit F.evqCfgEn && s.evFull)).setFld F.evqStatusBacklog s.host.backlog.length

/-- Write one record to the queue as one posted write, and signal it (R250, R251, R237): the module on vector 0, the Lighthouse on its
vector 1 (R721). -/
def evWrite (e : Event) (delayed : Bool) (s : State) : State :=
  let tail := s.fld F.evqTailTail
  let s := asFunction 0 (s.poke (hostWindow + s.pair R.evqBase + 32 * tail) (e.bytes delayed s.host.evPhase))
  let next := (tail + 1) % s.evSize
  let s := s.setFld F.evqTailTail next
  let s := if next = 0 then { s with host := { s.host with evPhase := !s.host.evPhase } } else s
  let s := moderate 0 (if s.host.ownUnit = 1 then 0 else 1) (s.fld F.evqModCount) (s.fld F.evqModTimeUs) s
  if e.sev ≥ 3 then fireVector 0 2 s else s

/-- Open a loss episode at a SEQ when none is open (R258). -/
def openEpisode (seq : Nat) (h : HostIf) : HostIf :=
  match h.episode with
  | some _ => h
  | none => { h with episode := some seq, urgent := false, epNotice := 0, epInfo := 0, epFatal := 0, epError := 0, epWarn := 0 }

/-- An event that finds the queue full or the backlog in use (R256, R259, R260). Vector 2 fires on the first entry into the backlog of each
episode of R258 (R251, log entry 41). -/
def evHold (e : Event) (s : State) : State :=
  let en := s.bit F.evqCfgEn
  let push := fun (s : State) =>
    let fires := en && s.host.episode.isSome && !s.host.urgent
    let s := { s with host := { s.host with backlog := s.host.backlog ++ [e], urgent := s.host.urgent || (s.host.episode.isSome && en) } }
    if fires then fireVector 0 2 s else s
  if e.sev = 0 then
    let h := openEpisode e.seq s.host
    { s.count F.evqDropInfo 1 with host := { h with epInfo := satAdd h.epInfo 1 0xFFFF } }
  else if e.sev = 1 then
    if s.host.backlog.length < 48 then push s
    else
      let h := openEpisode e.seq s.host
      { s.count F.evqDropNotice 1 with host := { h with epNotice := satAdd h.epNotice 1 0xFFFF } }
  else if s.host.backlog.length < 64 then push s
  else
    let h := openEpisode e.seq s.host
    let h := { h with lostWritten := false }
    let s := s.setBit F.evqStatusLost true
    let s := if en then (s.setBit F.evqStatusAlert true).setBit F.hubAlertEvqLoss true else s
    if e.sev = 2 then { s.count F.evqLostWarn 1 with host := { h with epWarn := satAdd h.epWarn 1 0x3FF } }
    else if e.sev = 3 then { s.count F.evqLostError 1 with host := { h with epError := satAdd h.epError 1 0x3FF } }
    else { s.count F.evqLostFatal 1 with host := { h with epFatal := satAdd h.epFatal 1 0x3FF } }

/-- Give an event the next SEQ (R255). -/
def takeSeq (e : Event) (s : State) : Event × State :=
  let n := s.fld F.evqSeqSeq
  ({ e with seq := n }, s.setFld F.evqSeqSeq ((n + 1) % 65536))

/-- Release ALERT_N's event-loss cause once the EVQ_LOST record is written and LOST is clear (R259). -/
def alertRelease (s : State) : State :=
  if s.host.lostWritten && !s.bit F.evqStatusLost then
    (s.setBit F.evqStatusAlert false).setBit F.hubAlertEvqLoss false
  else s

/-- The EVQ_LOST record that ends an episode (R258). -/
def writeLost (seq : Nat) (s : State) : State :=
  let h := s.host
  let lost := h.epFatal + h.epError + h.epWarn
  let e : Event := {
    code := Ev.evqLost, sev := if lost > 0 then 3 else 2, part := none, unit := h.ownUnit, inst := h.ownInst,
    time := s.time, w0 := h.epNotice * 65536 + h.epInfo, w1 := h.epFatal * 2 ^ 20 + h.epError * 2 ^ 10 + h.epWarn, w2 := seq, seq := 0 }
  let (e, s) := takeSeq e s
  let s := { s with host := { s.host with episode := none, lostWritten := true } }
  alertRelease (evWrite e false s)

/-- An event is generated, before the tidemark is looked at: it is written, held, dropped or lost. -/
def emitCore (e : Event) (s : State) : State :=
  let (e, s) := takeSeq e s
  if s.bit F.evqCfgEn && !s.evFull && s.host.backlog.isEmpty then evWrite e false s else evHold e s

/-- The EVQ_LOST record of an open episode is written where the backlog is empty and the queue has room (R258). -/
def evLostNow (s : State) : State :=
  match s.host.episode with
  | some q => if s.bit F.evqCfgEn && !s.evFull && s.host.backlog.isEmpty then writeLost q s else s
  | none => s

/-- The event queue's own tidemark follows the level; its first crossing sends one event (R261), behind the EVQ_LOST record for which there
may be room (R258). -/
def evTide (s : State) : State :=
  let level := s.evLevel
  let (due, s) := tmLevel R.evqTmCfg level s
  if due && s.host.ownUnit == 1 then
    let s := emitCore { code := Ev.evqTidemark, sev := 1, part := none, unit := 1, inst := 65, time := s.time, w0 := level, w1 := 0, w2 := 0, seq := 0 } (evLostNow s)
    (tmLevel R.evqTmCfg s.evLevel s).2
  else s

/-- As space appears, backlog records are written first, DELAYED, and then the EVQ_LOST record (R257, R258); the tidemark follows each
(R261). The first number is fuel: a backlog holds at most 64 records, and its own crossing adds one. -/
def evDrain : Nat → State → State
  | 0, s => s
  | n + 1, s =>
    if !s.bit F.evqCfgEn || s.evFull then s
    else match s.host.backlog with
      | e :: rest => evDrain n (evTide (evWrite e true { s with host := { s.host with backlog := rest } }))
      | [] => evTide (evLostNow s)

/-- The tidemark follows a level that has changed, the queue is drained, and its status is brought up to date (R149, R261). -/
def evSettle (s : State) : State := evStatus (evDrain 68 (evTide s))

/-- An event takes its place: it is written, held, dropped or lost, and the queue's status and tidemark follow. -/
def emitNow (e : Event) (s : State) : State := evStatus (evTide (emitCore e s))

/-- Generate an event (R254, R262): at once, or, in a cycle that collects its events, when the cycle ends (R266). -/
def emit (code : Nat) (part : Option Nat) (unit inst w0 w1 w2 : Nat) (s : State) : State :=
  let e : Event := { code := code, sev := evSeverity code, part := part, unit := unit, inst := inst, time := s.time, w0 := w0 % 2 ^ 32, w1 := w1 % 2 ^ 32, w2 := w2 % 2 ^ 32, seq := 0 }
  match s.host.hold with
  | some l => { s with host := { s.host with hold := some (l ++ [e]) } }
  | none => emitNow e s

/-- Events in unit order, lowest first; those of one unit as they arose (R266). -/
def unitOrder (l : List Event) : List Event := l.mergeSort (fun a b => decide (a.unit ≤ b.unit))

/-- The events a cycle has collected are generated in unit order (R266). -/
def releaseEvents (s : State) : State :=
  (unitOrder (s.host.hold.getD [])).foldl (fun s e => emitNow e s) { s with host := { s.host with hold := none } }

/-- What happens in one HUB cycle: its events take SEQ in unit order (R266). What is part of a longer collection stays in it. -/
def oneCycle (k : State → State) (s : State) : State :=
  match s.host.hold with
  | some _ => k s
  | none => releaseEvents (k { s with host := { s.host with hold := some [] } })

/-- A module event without payload use beyond three words. -/
def emitM (code unit inst w0 w1 w2 : Nat) (s : State) : State := emit code none unit inst w0 w1 w2 s

/-- Send the tidemark event of a unit when it is due. -/
def tmNotify (r : Bool × State) (code unit inst w0 w1 : Nat) : State :=
  if r.1 then emitM code unit inst w0 w1 0 r.2 else r.2

end Sys2Proof.Machine
end

