-- ==== Sys2Proof/Machine/Queues.lean ====
section
/-! DEFINITION. Submission and result rings: result records, completion, fetch conditions, the checks on a command before
it takes effect (R227 to R249) and the keyed check of a critical command (R243 to R247, R698 to R704). -/

namespace Sys2Proof.Machine

/-! ## Command records (R238, R243) -/

def QCmd.opcode (c : QCmd) : Nat := fieldAt c.raw 0 1
def QCmd.flags (c : QCmd) : Nat := fieldAt c.raw 1 1
def QCmd.critical (c : QCmd) : Bool := c.flags % 2 == 1
def QCmd.fence (c : QCmd) : Bool := bitsOf c.flags 1 1 == 1
def QCmd.quiet (c : QCmd) : Bool := bitsOf c.flags 2 2 == 1
def QCmd.cmdId (c : QCmd) : Nat := fieldAt c.raw 2 2
def QCmd.handle (c : QCmd) : Nat := fieldAt c.raw 4 4
def QCmd.addr (c : QCmd) : Nat := fieldAt c.raw 8 8
def QCmd.len (c : QCmd) : Nat := fieldAt c.raw 16 4
def QCmd.arg0 (c : QCmd) : Nat := fieldAt c.raw 20 4
def QCmd.arg1 (c : QCmd) : Nat := fieldAt c.raw 24 8
def QCmd.counter (c : QCmd) : Nat := fieldAt c.raw 64 8
def QCmd.keySlot (c : QCmd) : Nat := fieldAt c.raw 72 1
def QCmd.checkBytes (c : QCmd) : List Byte := (c.raw.drop 80).take 16

/-- The completion statuses of R249. -/
abbrev St.ok : Nat := 0x00
abbrev St.refused : Nat := 0x01
abbrev St.opcode : Nat := 0x02
abbrev St.queue : Nat := 0x03
abbrev St.format : Nat := 0x04
abbrev St.critical : Nat := 0x05
abbrev St.keySlot : Nat := 0x06
abbrev St.keyLocked : Nat := 0x07
abbrev St.counter : Nat := 0x08
abbrev St.auth : Nat := 0x09
abbrev St.hostRead : Nat := 0x0A
abbrev St.state : Nat := 0x0B
abbrev St.aborted : Nat := 0x0C
abbrev St.handle : Nat := 0x0D
abbrev St.verify : Nat := 0x0E
abbrev St.resource : Nat := 0x0F

/-- The opcode table of R239: opcode, permitted on the admin queue, permitted on a partition queue. -/
def opTable : List (Nat × Bool × Bool) := [
  (0x00, true, true), (0x10, false, true), (0x11, false, true), (0x12, false, true), (0x13, false, true),
  (0x14, false, true), (0x15, true, false), (0x20, false, true), (0x21, false, true), (0x22, false, true),
  (0x23, false, true), (0x24, false, true), (0x25, false, true), (0x28, false, true), (0x29, false, true),
  (0x40, true, false), (0x41, true, false)] ++ [
  (0x80, true, false), (0x81, true, false), (0x82, true, false), (0x83, true, false), (0x84, true, false),
  (0x85, true, false), (0x86, true, false), (0x87, true, true)]

/-- The admin queue's number. -/
abbrev adminQ : Nat := 64

/-- The page index of a queue: the admin page is the first (R819). -/
def page (q : Nat) : Nat := if q = adminQ then 0 else q + 1

/-- The function a queue's host-memory accesses carry: VF p + 1 for partition p, PF0 for the admin queue (R220). -/
def queueFn (q : Nat) : Nat := if q = adminQ then 0 else q + 1

/-- The partition a queue's event concerns. -/
def qPart (q : Nat) : Option Nat := if q = adminQ then none else some q

/-- The queue record of a queue. -/
def State.queue (s : State) (q : Nat) : Queue := tget s.host.queues q {}

/-- Set a queue record. -/
def State.setQueue (s : State) (q : Nat) (x : Queue) : State :=
  { s with host := { s.host with queues := tset s.host.queues q x } }

/-- Records a result ring holds. -/
def State.rqSize (s : State) (q : Nat) : Nat := 2 ^ s.fld (F.rqCfgLog2 (page q))

/-- Slots a submission ring holds. -/
def State.sqSize (s : State) (q : Nat) : Nat := 2 ^ s.fld (F.sqCfgLog2 (page q))

/-- Free records of a result ring: one is always left empty (R233). -/
def State.rqFree (s : State) (q : Nat) : Nat :=
  let n := s.rqSize q
  n - 1 - (s.fld (F.rqTailTail (page q)) + n - s.fld (F.rqHeadHead (page q))) % n

/-- Slots waiting in a submission ring. -/
def State.sqAvail (s : State) (q : Nat) : Nat :=
  let n := s.sqSize q
  (s.fld (F.sqTailTail (page q)) + n - s.fld (F.sqHeadHead (page q))) % n

/-- INFLIGHT, RUNNING and IDLE follow the queue (Q_COUNT, Q_STATUS). -/
def syncQ (q : Nat) (s : State) : State :=
  let n := (s.queue q).cmds.length
  let en := s.bit (F.qCtrlEn (page q))
  ((s.setFld (F.qCountInflight (page q)) n).setBit (F.qStatusRunning (page q)) en).setBit (F.qStatusIdle (page q)) (!en && n == 0)

/-- A queue asks for a fetch read, made at its turn (R234), when commands wait, EN is set, and the limits of R231 allow a further command. -/
def issueFetch (q : Nat) (s : State) : State :=
  let x := s.queue q
  if s.bit (F.qCtrlEn (page q)) && !x.reading && decide (0 < s.sqAvail q) && decide (x.cmds.length < 256)
      && decide (x.cmds.length < s.rqFree q) && !(s.failStopped && q != adminQ) then
    s.setQueue q { x with reading := true }
  else s

/-! ## Result records (R248, R250) -/

/-- A result record before it is given its place. -/
structure Result where
  kind : Nat
  status : Nat := 0
  reason : Nat := 0
  rflags : Nat := 0
  handle : Nat := 0
  cmdId : Nat := 0
  value : Nat := 0
  tag : Nat := 0
  done : Nat := 0
  due : Nat := 0
  outAddr : Nat := 0
  outLen : Nat := 0
  deriving DecidableEq, Repr

/-- The 64 bytes of a result record. -/
def Result.bytes (r : Result) (phase : Bool) : List Byte :=
  leBytes 1 r.kind ++ leBytes 1 r.status ++ leBytes 1 r.reason ++ [0] ++ leBytes 4 r.rflags ++ leBytes 4 r.handle
    ++ leBytes 2 r.cmdId ++ [0, 0] ++ leBytes 8 r.value ++ leBytes 8 r.tag ++ leBytes 8 r.done ++ leBytes 8 r.due
    ++ leBytes 8 r.outAddr ++ leBytes 4 r.outLen ++ [0, 0, 0, if phase then 0x80 else 0]

/-- Write a record at RQ_TAIL as one posted write, and signal the ring's vector (R250, R251). -/
def writeResult (q : Nat) (r : Result) (s : State) : State :=
  let p := page q
  let x := s.queue q
  let tail := s.fld (F.rqTailTail p)
  let s := asFunction (queueFn q) (s.poke (hostWindow + s.pair (R.rqBase p) + 64 * tail) (r.bytes x.phase))
  let next := (tail + 1) % s.rqSize q
  let s := s.setFld (F.rqTailTail p) next
  let s := s.setQueue q { x with phase := if next = 0 then !x.phase else x.phase, episode := false }
  moderate (queueFn q) (if q = adminQ then 1 else 0) (s.fld (F.qModCount p)) (s.fld (F.qModTimeUs p)) s

/-- Write a stream result record, or drop it when the ring has no room beyond the fetched commands (R232), or when the
queue is disabled (R225). -/
def streamResult (q : Nat) (r : Result) (s : State) : State :=
  let p := page q
  let x := s.queue q
  if !s.bit (F.qCtrlEn p) then s.count (F.qCountDropped p) 1
  else if x.cmds.length < s.rqFree q then writeResult q r s
  else
    let s := s.count (F.qCountDropped p) 1
    if x.episode then s
    else emit Ev.rqOverflow (qPart q) 1 q q 0 0 (s.setQueue q { x with episode := true })

/-! ## Completion (R230, R249) -/

/-- The command with a ticket. -/
def State.findCmd (s : State) (q id : Nat) : Option QCmd := (s.queue q).cmds.find? (fun c => c.id == id)

/-- A command ends with a time of its own: it leaves the fetched commands and its record is written, unless QUIET and OK. -/
def endCmd (q id status reason handle value time : Nat) (s : State) : State :=
  match s.findCmd q id with
  | none => s
  | some c =>
    let x := s.queue q
    let s := s.setQueue q { x with cmds := x.cmds.filter (fun d => !(d.id == id)) }
    let s := if c.quiet && status == St.ok then s
      else writeResult q { kind := 1, status := status, reason := reason, handle := handle, cmdId := c.cmdId, value := value, done := time } s
    issueFetch q (syncQ q s)

/-- The next command to begin: the first not begun, held by FENCE until every earlier one has completed (R230). -/
def State.nextCmd (s : State) (q : Nat) : Option QCmd :=
  match (s.queue q).cmds.find? (fun c => !c.begun) with
  | some c => if c.fence && !((s.queue q).cmds.head?.map QCmd.id == some c.id) then none else some c
  | none => none

/-- Mark a command begun. -/
def markBegun (q id : Nat) (s : State) : State :=
  let x := s.queue q
  s.setQueue q { x with cmds := x.cmds.map (fun c => if c.id = id then { c with begun := true } else c) }

/-- The status a command's checks found when it began, kept until its data has been read (R249). -/
def holdVerdict (q id st : Nat) (s : State) : State :=
  let x := s.queue q
  s.setQueue q { x with cmds := x.cmds.map (fun c => if c.id = id then { c with verdict := some st } else c) }

/-- The stream that took a command's chunk is kept with it (R490). -/
def noteTaker (q id order : Nat) (s : State) : State :=
  let x := s.queue q
  s.setQueue q { x with cmds := x.cmds.map (fun c => if c.id = id then { c with taker := some order } else c) }

/-! ## Checks (R245, R249) -/

/-- Commands the module's state allows: all when Ready; otherwise only NOP, KEY_INSTALL, LIFECYCLE_STEP and IMAGE_UPDATE on
the admin queue (R666, R633), and FAILSTOP_RELEASE in fail-stop (R785); no STREAM_OPEN while LEAVING (R799). -/
def stateAllows (q op : Nat) (s : State) : Bool :=
  let always := q == adminQ && (op == 0x00 || op == 0x82 || op == 0x83 || op == 0x84)
  if s.fld F.fabStatusStage = 3 then always
  else if s.failStopped then always || (q == adminQ && op == 0x86)
  else if s.ready then !(op == 0x10 && s.fld F.fabStatusStage == 4)
  else always

/-- The status that refuses a plain command before it takes effect, up to CMD_STATE (R249). -/
def plainCheck (q : Nat) (c : QCmd) (s : State) : Option Nat :=
  if bitsOf c.flags 7 3 ≠ 0 then some St.format
  else match opTable.find? (fun r => r.1 == c.opcode) with
    | none => some St.opcode
    | some (_, a, p) =>
      if !(if q = adminQ then a else p) then some St.queue
      else if !stateAllows q c.opcode s then some St.state
      else none

/-- The command is checked as critical (R245). -/
def QCmd.isCritical (c : QCmd) : Bool := c.critical || decide (0x80 ≤ c.opcode ∧ c.opcode ≤ 0xBF)

/-- The stream handle in the completion of a command that ends before its own effect: that of its HANDLE field for the opcodes
whose HANDLE names a stream, 0 for the others (R239, R248). -/
def QCmd.streamHandle (c : QCmd) : Nat := if [0x11, 0x12, 0x13, 0x14, 0x87].contains c.opcode then c.handle else 0

/-- Checks 1 to 3 of R245. -/
def criticalForm (q : Nat) (c : QCmd) : Option Nat :=
  if bitsOf c.flags 7 3 ≠ 0 ∨ (c.critical ∧ fieldAt c.raw 73 7 ≠ 0) ∨ c.len > 4096 then some St.format
  else if c.critical ≠ decide (0x80 ≤ c.opcode ∧ c.opcode ≤ 0xBF) ∨ c.slot % 2 = 1 then some St.critical
  else match opTable.find? (fun r => r.1 == c.opcode) with
    | none => some St.opcode
    | some (_, a, p) => if !(if q = adminQ then a else p) then some St.queue else none

/-- The partition an event about a key slot concerns: 0x10 to 0x4F are the partition keys, the other slots are the module's (R244, R254). -/
def keyPart (slot : Nat) : Option Nat := if 0x10 ≤ slot ∧ slot ≤ 0x4F then some (slot - 0x10) else none

/-- The key a KEY_SLOT names; the Lighthouse's three slots follow from 0x100 (R750). -/
def State.key (s : State) (slot : Nat) : Key :=
  if 0x100 ≤ slot then tget s.lh.keys (slot - 0x100) (if slot = 0x100 then { present := true, bytes := Config.lhMakerKey } else {})
  else if slot = 0 then s.sec.maker else if slot = 1 then s.sec.owner else tget s.sec.pkeys (slot - 0x10) {}

/-- Set the key a KEY_SLOT names. -/
def State.setKey (s : State) (slot : Nat) (k : Key) : State :=
  if 0x100 ≤ slot then { s with lh := { s.lh with keys := tset s.lh.keys (slot - 0x100) k } }
  else if slot = 0 then { s with sec := { s.sec with maker := k } }
  else if slot = 1 then { s with sec := { s.sec with owner := k } }
  else { s with sec := { s.sec with pkeys := tset s.sec.pkeys (slot - 0x10) k } }

/-- The principal key slot of the current life-cycle state (R685): none in RAW and SCRAP. -/
def State.principal (s : State) : Option Nat :=
  match s.sec.lc with
  | 1 => some 0
  | 2 => some 1
  | 3 => some 1
  | 4 => some 0
  | _ => none

/-- The key slots that authorise a life-cycle step (R686): that of the named step, or any authorising some step from here. -/
def stepKeys (lc target : Nat) : List Nat :=
  match lc with
  | 1 => [0]
  | 2 => if target = 3 ∨ target = 5 then [1] else if target = 4 then [0] else [0, 1]
  | 3 => if target = 5 then [1] else if target = 4 then [0] else [0, 1]
  | 4 => [0]
  | _ => []

/-- Check 4 of R245: the KEY_SLOT is filled and permitted for the opcode (R698). -/
def keyPermitted (q : Nat) (c : QCmd) (s : State) : Bool :=
  let slot := c.keySlot
  (slot == 0 || slot == 1 || decide (0x10 ≤ slot ∧ slot < 0x50)) && (s.key slot).present &&
  (if q ≠ adminQ then slot == 0x10 + q
   else if c.opcode = 0x83 then (stepKeys s.sec.lc (c.arg0 % 256)).contains slot
   else s.principal == some slot)

/-- The HMAC message of a critical command (R244). -/
def criticalMessage (c : QCmd) (data : List Byte) (s : State) : List Byte :=
  c.raw.take 80 ++ (c.raw.drop 96).take 32 ++ leBytes 8 s.sec.uid ++ (if c.len = 0 then [] else data.take c.len)

/-- CHECK is right (check 7 of R245). -/
def checkRight (c : QCmd) (data : List Byte) (s : State) : Bool :=
  (hmacSha256 (s.key c.keySlot).bytes (criticalMessage c data s)).take 16 == c.checkBytes

/-- The largest counter value. -/
def counterMax : Nat := 0xFFFF_FFFF_FFFF_FFFF

/-- A CMD_AUTH failure is counted; the 16th in a row refuses the key for 1,000 ms (R247). -/
def authFail (c : QCmd) (s : State) : State :=
  let k := s.key c.keySlot
  s.setKey c.keySlot { k with fails := satAdd k.fails 1 31, refusing := decide (k.fails + 1 ≥ 16) }

/-- Store the counter of a command that passed check 7 (R246, R704): a persistent key burns a reserve first when the
counter passes it, and with no record left the key locks and the command is refused. -/
def storeCounter (c : QCmd) (s : State) : Option Nat × State :=
  let slot := c.keySlot
  let k : Key := { s.key slot with fails := 0 }
  if slot ≤ 1 ∧ c.counter > k.reserve then
    if k.left = 0 then
      (some St.keyLocked, emit Ev.keyLocked (keyPart slot) 2 0 slot 0 0 (s.setKey slot { k with locked := true }))
    else
      let r := if c.counter + 2 ^ 20 > counterMax then counterMax else c.counter + 2 ^ 20
      let s := s.setKey slot { k with ctr := c.counter, reserve := r, left := k.left - 1, locked := k.locked || c.counter == counterMax }
      (none, if c.counter = counterMax then emit Ev.keyLocked (keyPart slot) 2 0 slot 0 0 s else s)
  else
    let s := s.setKey slot { k with ctr := c.counter, locked := k.locked || c.counter == counterMax }
    (none, if c.counter = counterMax then emit Ev.keyLocked (keyPart slot) 2 0 slot 0 0 s else s)

/-- Checks 4 to 7 of R245 and the storing of the counter, for one command at a time (R699). -/
def criticalKey (q : Nat) (c : QCmd) (d : HostRead) (s : State) : Option Nat × State :=
  let k := s.key c.keySlot
  let failEv := fun (s : State) => emit Ev.cmdAuthFail (qPart q) 2 0 c.keySlot c.opcode 0 s
  if !keyPermitted q c s then (some St.keySlot, s)
  else if k.locked || k.refusing then (some St.keyLocked, s)
  else if c.counter ≤ k.ctr then (some St.counter, failEv s)
  else if c.len ≠ 0 && d.bytes?.isNone then (some St.hostRead, s)
  else if !checkRight c (d.bytes?.getD []) s then (some St.auth, failEv (authFail c s))
  else storeCounter c s

/-- Every check before a command's own: the status that refuses it, if any (R245, R249). `reads` says that the opcode
reads ADDR at this point. -/
def checkCmd (q : Nat) (c : QCmd) (reads : Bool) (d : HostRead) (s : State) : Option Nat × State :=
  if c.isCritical then
    match criticalForm q c with
    | some st => (some st, s)
    | none =>
      match criticalKey q c d s with
      | (some st, s) => (some st, s)
      | (none, s) => (if stateAllows q c.opcode s then none else some St.state, s)
  else match plainCheck q c s with
    | some st => (some st, s)
    | none => (if reads && d.bytes?.isNone then some St.hostRead else none, s)

/-- The status that ends a command for which the table of R239 has no row of its own: unknown or mismatched ones, and the two admin
commands of R239 whose rows name no queue when a partition queue holds them. -/
def rowless (q : Nat) (c : QCmd) (s : State) : Option Nat :=
  if c.isCritical then criticalForm q c
  else if (opTable.find? (fun r => r.1 == c.opcode)).isNone || (decide (q ≠ adminQ) && (c.opcode == 0x40 || c.opcode == 0x41)) then plainCheck q c s
  else none

/-- Commands next in order that no row takes are refused, in ring order. -/
def refuseRowless (q : Nat) : Nat → State → State
  | 0, s => s
  | n + 1, s =>
    match s.nextCmd q with
    | none => s
    | some c =>
      match rowless q c s with
      | some st => refuseRowless q n (endCmd q c.id st 0 c.streamHandle 0 s.time (markBegun q c.id s))
      | none => s

/-- After a command begins or completes, later ones may be refused at once. -/
def advanceQ (q : Nat) (s : State) : State := refuseRowless q (s.queue q).cmds.length s

/-- A command completes with a time of its own, and a FENCE that waited for it may let later ones be refused (R230, R239). -/
def completeAt (q id status reason handle value time : Nat) (s : State) : State := advanceQ q (endCmd q id status reason handle value time s)

/-- A command completes now. -/
def completeCmd (q id status reason handle value : Nat) (s : State) : State := completeAt q id status reason handle value s.time s

/-- The next command of a queue begins to take effect when it is the one a row names: it is checked, and refused with
the first failing status, or its effect `k` runs with the data its ADDR read returned. -/
def beginCmd (q op : Nat) (reads : Bool) (d : HostRead) (k : QCmd → List Byte → State → State) (s : State) : State :=
  match s.nextCmd q with
  | none => s
  | some c =>
    if c.opcode ≠ op then s
    else
      let s := markBegun q c.id (if reads then asFunction (queueFn q) s else s)
      match checkCmd q c reads d s with
      | (some st, s) => advanceQ q (completeCmd q c.id st 0 c.streamHandle 0 s)
      | (none, s) => advanceQ q (k c (d.bytes?.getD []) s)

end Sys2Proof.Machine
end

