-- ==== Sys2Proof/Machine/Plan.lean ====
section
/-! DEFINITION. The slot plan: periodic patterns, free slices, planned transfers and pool demand, and the search for a
candidate run (R80 to R89, R418, R419, R585). -/

namespace Sys2Proof.Machine

/-- Slices in a period of a PERIOD code (10 ms is 160 slices of 62.5 µs). -/
def periodSlices (code : Nat) : Nat := 160 * 2 ^ code

/-- A period in ms. -/
def periodMs (code : Nat) : Nat := 10 * 2 ^ code

/-- A period in ns. -/
def periodNs (code : Nat) : Nat := periodMs code * 1000000

/-- `a - b` modulo n, for a and b of any size. -/
def modSub (n a b : Nat) : Nat := (a % n + n - b % n) % n

/-- Two periodic patterns overlap at some time. Every period divides every longer one, so the shorter decides. -/
def patClash (a b : Pat) : Bool :=
  let g := min a.period b.period
  decide (0 < a.len) && decide (0 < b.len) && (decide (modSub g b.start a.start < a.len) || decide (modSub g a.start b.start < b.len))

/-- A pattern clashes with itself: it lasts longer than its period. -/
def patFits (a : Pat) (busy : List Pat) : Bool := decide (a.len ≤ a.period) && busy.all (fun b => !patClash a b)

/-- The slices a cohort reserves, as a pattern. -/
def Cohort.slices (c : Cohort) : Pat := { start := c.offset, len := c.k, period := periodSlices c.period, weight := 0 }

/-- A die takes part in the plan: both its cores SHARED and neither changing (R81, R589). -/
def State.eligible (s : State) (d : Nat) : Bool :=
  [2 * d, 2 * d + 1].all (fun c => let x := tget s.disp.cores c {}; !x.excl && x.changing.isNone)

/-- The runs on a die. -/
def State.runsOn (s : State) (d : Nat) : List Cohort := (s.strm.cohorts.map Prod.snd).filter (fun c => c.die == d)

/-- Whether slice `i` of the plan cycle is reserved on a die. -/
def State.sliceTaken (s : State) (d i : Nat) : Bool :=
  (s.runsOn d).any (fun c => decide (modSub (periodSlices c.period) i c.offset < c.k))

/-- Unreserved slices of a die in the plan cycle (PLAN_DIE FREE). -/
def State.freeSlices (s : State) (d : Nat) : Nat := if s.eligible d then 2560 - ((s.runsOn d).map (fun c => c.k * (2560 / periodSlices c.period))).sum else 0

/-- The longest contiguous run of unreserved slices, counting across the cycle wrap (PLAN_DIE LARGEST_FREE). -/
def State.largestFree (s : State) (d : Nat) : Nat :=
  if !s.eligible d then 0
  else if (s.runsOn d).isEmpty then 2560
  else
    let f := fun (acc : Nat × Nat) (i : Nat) => if s.sliceTaken d (i % 2560) then (0, acc.2) else (acc.1 + 1, max acc.2 (acc.1 + 1))
    min 2560 ((List.range 5120).foldl f (0, 0)).2

/-! ## Planned transfers (R418) -/

/-- µs a move of `b` bytes takes at `r` bytes per µs, in half microseconds. -/
def moveLen (b r : Nat) : Nat := 2 * ceilDiv b r

/-- The plan cycle in half microseconds. -/
abbrev planCycle : Nat := 320000

/-- The latest start at or before `x`, and no earlier than `least`, at which a pattern clashes with nothing busy. The first number is
fuel. -/
def placeLatest (len period least : Nat) (busy : List Pat) : Nat → Nat → Option Nat
  | 0, _ => none
  | n + 1, x =>
    if x < least then none
    else match busy.find? (fun b => patClash { start := x % period, len := len, period := period, weight := 0 } b) with
      | none => some x
      | some b => placeLatest len period least busy n (x - max 1 (modSub (min period b.period) (x + len) b.start))

/-- The swap-engine patterns and residency windows of a run of `n` members at slice offset `o`, placed around what is busy;
none when no placement exists within the plan cycle. `lead` is the prefetch lead in µs; times count half microseconds from three plan
cycles before the reserved start, so that a window keeps its whole length. -/
def placeRun (sch : Schedule) (o n lead : Nat) (busy : List Pat) : Option (List Pat × List Pat) :=
  let per := periodMs sch.period * 2000
  let base := o * 125 + 3 * planCycle
  let bytes := fun (x : Section) => n * x.grans * 16384
  let wbs := sch.sections.map (fun x => ({ start := (base + 2 * x.useUntil) % per, len := moveLen (bytes x) 200000, period := per, weight := 0 } : Pat))
  let okWb := wbs.foldl (fun (acc : Bool × List Pat) w => (acc.1 && patFits w acc.2, w :: acc.2)) (true, busy)
  if !okWb.1 then none
  else
    let step := fun (acc : Option (List Pat × List Pat × Bool)) (x : Section) =>
      match acc with
      | none => none
      | some (busy, win, first) =>
        let len := moveLen (bytes x) 200000
        let latest := base + 2 * x.useFrom - len
        let from0 := if first then min latest (base - 2 * lead) else latest
        match (if per < len then none else placeLatest len per (from0 - planCycle) busy planCycle from0) with
        | none => none
        | some st =>
          let f : Pat := { start := st % per, len := len, period := per, weight := 0 }
          let endAt := base + 2 * x.useUntil + moveLen (bytes x) 104000
          let w : Pat := { start := st % per, len := max (endAt - st) len, period := per, weight := n * x.grans }
          some (f :: busy, w :: win, false)
    match sch.sections.foldl step (some (okWb.2, [], true)) with
    | none => none
    | some (all, win, _) => some (all.take (all.length - busy.length), win)

/-- Granules a residency pattern demands at a time. -/
def demandAt (t : Nat) (p : Pat) : Nat :=
  let d := modSub p.period t p.start
  if d < p.len then p.weight * (1 + (p.len - 1 - d) / p.period) else 0

/-- The peak planned demand of residency windows over the plan cycle (R419): it is reached where a window begins. -/
def peakDemand (ws : List Pat) : Nat :=
  (ws.flatMap (fun w => (List.range (320000 / max 1 w.period)).map (fun i => ((ws.map (demandAt (w.start + i * w.period))).sum)))).foldl max 0

/-- Every planned transfer but those of one cohort. -/
def State.busyBut (s : State) (c : Option Nat) : List Pat :=
  (s.strm.cohorts.filter (fun x => some x.1 != c)).flatMap (fun x => x.2.xfers)

/-- Every residency window but those of one cohort. -/
def State.windowsBut (s : State) (c : Option Nat) : List Pat :=
  (s.strm.cohorts.filter (fun x => some x.1 != c)).flatMap (fun x => x.2.windows)

/-- The prefetch lead in µs (STREAM_CFG). -/
def State.lead (s : State) : Nat := s.fld F.streamCfgPrefetchLead

/-- The placement of a run of n members, if the pool and the swap engine can carry it (R419). -/
def State.planRun (s : State) (sch : Schedule) (o n : Nat) (c : Option Nat) : Option (List Pat × List Pat) :=
  match placeRun sch o n s.lead (s.busyBut c) with
  | none => none
  | some (x, w) =>
    if peakDemand (w ++ s.windowsBut c) ≤ 16384 - s.fld F.tpFreeMinPoolFreeMin then some (x, w) else none

/-! ## Model-cache room on a core (R581, R585) -/

/-- Units of a core in no region and not waiting to be zeroed. -/
def CoreState.freeUnits (c : CoreState) : Nat :=
  512 - (c.regions.map (fun r => r.2.units)).sum - c.zeroing.length

/-- The lowest run of `n` free units on a core. -/
def CoreState.place (c : CoreState) (n : Nat) : Option Nat :=
  let taken := fun (u : Nat) => c.zeroing.any (fun z => z.1 == u) || c.regions.any (fun r => decide (r.2.base ≤ u ∧ u < r.2.base + r.2.units))
  (List.range (513 - n)).find? (fun b => (List.range n).all (fun i => !taken (b + i)))

/-- A schedule depends on an entry. -/
def State.dependsOn (s : State) (e : Entry) (id : Nat) : Bool :=
  match tfind s.disp.scheds id with
  | some sc => sc.part == e.part && sc.deps.contains e.tag
  | none => false

/-- An entry is held: a cohort run or a stream names a schedule that depends on it (R580). -/
def State.entryHeld (s : State) (e : Entry) : Bool :=
  s.strm.table.any (fun x => (x.2.par.floodEn && s.dependsOn e x.2.par.floodSched) || (x.2.par.ebbEn && s.dependsOn e x.2.par.ebbSched))
    || s.strm.cohorts.any (fun x => s.dependsOn e x.2.sched)

/-- The hot set of an entry is held on a core: a run there depends on it (R580). -/
def State.hotHeld (s : State) (e : Entry) (core : Nat) : Bool :=
  s.strm.cohorts.any (fun x => x.2.die == core / 2 && s.dependsOn e x.2.sched)

/-- Placed work still waits to start. -/
def State.placedLive (s : State) (p : Placed) : Bool :=
  match p.work with
  | .job j => (tfind s.disp.jobs j).any (fun x => !x.running && x.cancel.isEmpty && (x.steps[x.step]?).any (fun t => t.sched == p.sched))
  | .step d ebb => (tfind s.strm.table d).any (fun x => x.state != .failed && !(if ebb then x.ebb else x.flood).stepping &&
      (if ebb then x.par.ebbSched else x.par.floodSched) == p.sched)

/-- The schedules of work placed on a core and not started: of work outside a run, and of the steps an EXCLUSIVE job that holds the core has
still to run. -/
def State.placedOn (s : State) (core : Nat) : List Nat :=
  (s.disp.placed.filter (fun p => p.cores.contains core && s.placedLive p)).map Placed.sched ++
  (s.disp.jobs.filter (fun j => j.2.held.contains core)).flatMap (fun j => (j.2.steps.drop j.2.step).map JobStep.sched)

/-- An entry is in use: placed or running work depends on it (R580). -/
def State.entryInUse (s : State) (e : Entry) : Bool :=
  s.disp.cmds.any (fun x => s.dependsOn e x.2.sched) || (List.range 8).any (fun c => (s.placedOn c).any (s.dependsOn e))

/-- An entry may be freed (R580). -/
def State.evictable (s : State) (e : Entry) : Bool := !e.pinned && !s.entryHeld e && !s.entryInUse e

/-- The hot set of an entry may be evicted from a core (R580). -/
def State.hotEvictable (s : State) (e : Entry) (core : Nat) : Bool := !e.pinned && !s.hotHeld e core && !s.entryInUse e

/-- The entry of a partition with a TAG. -/
def State.entryByTag (s : State) (p tag : Nat) : Option (Nat × Entry) :=
  s.disp.entries.find? (fun x => x.2.part == p && x.2.tag == tag)

/-- RETAINED units a partition holds on a core. -/
def State.retUnits (s : State) (p c : Nat) : Nat :=
  (((tget s.disp.cores c {}).regions.filter (fun r => r.2.retained && r.2.part == p)).map (fun r => r.2.units)).sum

/-- The RET_QUOTA of a partition. -/
def State.retQuota (s : State) (p : Nat) : Nat := ((tfind s.disp.parts p).map (fun q => q.quota.retQuota)).getD 0

/-- The candidates for eviction by a partition on a core, in the order of R581. -/
def State.evictionOrder (s : State) (p c : Nat) : List (Nat × Entry) :=
  let onCore := s.disp.entries.filter (fun x => x.2.resident.any (fun r => r.1 == c) && s.hotEvictable x.2 c)
  let byAge := fun (l : List (Nat × Entry)) => l.mergeSort (fun a b => a.2.lru ≤ b.2.lru)
  byAge (onCore.filter (fun x => x.2.part == p)) ++
  byAge (onCore.filter (fun x => x.2.part != p && decide (s.retUnits x.2.part c > s.retQuota x.2.part)))

/-- Units on a core that a partition could have for hot sets: those in no region, and those it may evict (R584). -/
def State.unitsFor (s : State) (p c : Nat) : Nat :=
  512 - ((tget s.disp.cores c {}).regions.map (fun r => r.2.units)).sum + ((s.evictionOrder p c).map (fun x => x.2.hotUnits)).sum

/-- The lowest run of `n` units in none of a list of regions. -/
def runFree (rs : List Region) (n : Nat) : Option Nat :=
  (List.range (513 - n)).find? (fun b => rs.all (fun r => decide (r.base + r.units ≤ b ∨ b + n ≤ r.base)))

/-- The regions of a core after a region of `n` units has joined for a partition whose units there may not exceed `cap`, evicting from
`cands` in turn (R401, R547, R581); none when the candidates run out. The first number is fuel. -/
def joinRegion (ret : Nat → Nat) (p cap n : Nat) : Nat → List Region → List Region → Option (List Region × List Region)
  | 0, _, _ => none
  | f + 1, cands, rs =>
    let held := ((rs.filter (fun r => r.part == p)).map Region.units).sum
    match (if rs.length < 32 ∧ held + n ≤ cap then runFree rs n else none) with
    | some b => some (cands, { retained := true, part := p, base := b, units := n } :: rs)
    | none =>
      let excess := fun (r : Region) => decide (ret r.part < ((rs.filter (fun x => x.retained && x.part == r.part)).map Region.units).sum)
      match cands.find? (fun r => r.part == p || (decide (held + n ≤ cap) && excess r)) with
      | some r => joinRegion ret p cap n f (cands.filter (· ≠ r)) (rs.filter (· ≠ r))
      | none => none

/-- The dependencies of a schedule can be made resident on a core together (R581, R585): none of them is evicted for another. -/
def State.depsFit (s : State) (sch : Schedule) (c : Nat) : Bool :=
  let rs := (tget s.disp.cores c {}).regions
  let cands := ((s.evictionOrder sch.part c).filter (fun x => !(x.2.part == sch.part && sch.deps.contains x.2.tag))).flatMap (fun x =>
    (x.2.resident.filter (fun r => r.1 == c)).filterMap (fun r => tfind rs r.2))
  let cap := ((tfind s.disp.parts sch.part).map (fun q => q.quota.spadUnits)).getD 0
  ((sch.deps.filter (· ≠ 0)).foldl (fun (a : Option (List Region × List Region)) t => a.bind (fun (cands, rs) => match s.entryByTag sch.part t with
    | some (_, e) => if (e.resident ++ e.loading).any (fun r => r.1 == c) then some (cands, rs) else joinRegion s.retQuota sch.part cap e.hotUnits 33 cands rs
    | none => none)) (some (cands, rs.map Prod.snd))).isSome

/-! ## Program stores (R566) -/

/-- The programs of a schedule on cores (R560, R564): by the core of its die for a STREAM, in the order of the cores for a KERNEL. -/
def Schedule.progsOn (h : Schedule) (cores : List Nat) : List (Nat × Nat) :=
  if h.kernel then cores.zip (List.range cores.length) else cores.map (fun c => (c, c % 2))

/-- Bytes of a program of a schedule. -/
def Schedule.storeBytes (h : Schedule) (prog : Nat) : Nat := (h.progs.getD prog (0, 0)).2

/-- Bytes of some programs of a store. -/
def State.progBytes (s : State) (ps : List (Nat × Nat)) : Nat :=
  (ps.map (fun x => ((tfind s.disp.scheds x.1).map (fun h => h.storeBytes x.2)).getD 0)).sum

/-- Running or queued work on a core uses a schedule's program there (R566). -/
def State.storeBusy (s : State) (core i : Nat) : Bool :=
  s.disp.cmds.any (fun c => c.2.sched == i && c.2.cores.contains core) ||
  s.strm.cohorts.any (fun c => c.2.sched == i && c.2.die == core / 2) || (s.placedOn core).contains i

/-- The store of a core can take a schedule's program: with it, what cannot be displaced fits (R566). -/
def State.storeTakes (s : State) (id : Nat) (h : Schedule) (x : Nat × Nat) : Bool :=
  let kept := (tget s.disp.cores x.1 {}).store.filter (fun y => s.storeBusy x.1 y.1)
  decide (s.progBytes kept + (if kept.contains (id, x.2) then 0 else h.storeBytes x.2) ≤ 2 ^ 20)

/-! ## The search (R84 to R86) -/

/-- A candidate: its bound in ns, whether it is a new run, die, offset in slices, cohort if existing, placement. -/
structure Cand where
  bound : Nat
  fresh : Bool
  die : Nat
  offset : Nat
  cohort : Option Nat
  xfers : List Pat
  windows : List Pat
  deriving DecidableEq, Repr

/-- The order of R86: bound, then an existing cohort, then the lower die, then the smaller offset. -/
def Cand.better (a b : Cand) : Bool :=
  decide (a.bound < b.bound) || (a.bound == b.bound && ((!a.fresh && b.fresh) || (a.fresh == b.fresh &&
    (decide (a.die < b.die) || (a.die == b.die && decide (a.offset < b.offset))))))

/-- Keep the better of two candidates. -/
def Cand.keep (best : Option Cand) (c : Cand) : Option Cand :=
  match best with
  | none => some c
  | some b => if c.better b then some c else some b

/-- The bound in ns of a run at a slice offset for a stream whose grid has phase `phi` ns (R84, R85). -/
def boundNs (sch : Schedule) (o phi : Nat) : Nat :=
  let p := periodNs sch.period
  let run := sch.k * 62500 + 75000
  if sch.ebb then
    let t := o * 62500 + run
    run + modSub p phi t
  else modSub p (o * 62500) phi + run

/-- The best candidate for one direction (R86). Ranked by the bound rounded up to whole µs, as the device reports it. -/
def State.search (s : State) (schedId : Nat) (sch : Schedule) (phi : Nat) : Option Cand :=
  let us := fun o => ceilDiv (boundNs sch o phi) 1000
  let existing := s.strm.cohorts.foldl (fun best x =>
    let c := x.2
    if c.sched = schedId ∧ c.members.length < c.bmax ∧ s.eligible c.die then
      match s.planRun sch c.offset (c.members.length + 1) (some x.1) with
      | some (xf, w) => Cand.keep best { bound := us c.offset, fresh := false, die := c.die, offset := c.offset, cohort := some x.1, xfers := xf, windows := w }
      | none => best
    else best) none
  [0, 1, 2, 3].foldl (fun best d =>
    if s.eligible d && s.depsFit sch (2 * d) && s.depsFit sch (2 * d + 1) && (sch.progsOn [2 * d, 2 * d + 1]).all (s.storeTakes schedId sch) then
      (List.range (periodSlices sch.period)).foldl (fun best o =>
        let run : Pat := { start := o, len := sch.k, period := periodSlices sch.period, weight := 0 }
        let c : Cand := { bound := us o, fresh := true, die := d, offset := o, cohort := none, xfers := [], windows := [] }
        let wins := match best with | none => true | some b => c.better b
        if wins && patFits run ((s.runsOn d).map Cohort.slices) then
          match s.planRun sch o 1 none with
          | some (xf, w) => some { c with xfers := xf, windows := w }
          | none => best
        else best) best
    else best) existing

/-- Refresh TP_FREE.PLANNED_PEAK after the plan changed (R419). -/
def planPeak (s : State) : State := s.setFld F.tpFreePlannedPeak (peakDemand (s.windowsBut none))

/-- Take a seat: join the cohort of a candidate or create its run (R87). The answer is the cohort number. -/
def takeSeat (schedId : Nat) (sch : Schedule) (desc : Nat) (c : Cand) (s : State) : Nat × State :=
  match c.cohort with
  | some i =>
    let x := tget s.strm.cohorts i { sched := schedId, ebb := sch.ebb, period := sch.period, k := sch.k, bmax := sch.bmax, die := c.die, offset := c.offset, members := [], xfers := [], windows := [] }
    (i, planPeak { s with strm := { s.strm with cohorts := tset s.strm.cohorts i { x with members := x.members ++ [desc], xfers := c.xfers, windows := c.windows } } })
  | none =>
    let i := s.strm.nextCohort
    let x : Cohort := { sched := schedId, ebb := sch.ebb, period := sch.period, k := sch.k, bmax := sch.bmax, die := c.die, offset := c.offset, members := [desc], xfers := c.xfers, windows := c.windows }
    (i, planPeak { s with strm := { s.strm with cohorts := tset s.strm.cohorts i x, nextCohort := i + 1 } })

/-- Leave a seat. A run without members keeps its reservation until the next step boundary (R89). -/
def leaveSeat (i desc : Nat) (s : State) : State :=
  match tfind s.strm.cohorts i with
  | none => s
  | some c =>
    let ms := c.members.filter (· ≠ desc)
    let plan := match tfind s.disp.scheds c.sched with
      | some sch => if ms.isEmpty then some ([], []) else s.planRun sch c.offset ms.length (some i)
      | none => none
    let (xf, w) := plan.getD (c.xfers, c.windows)
    planPeak { s with strm := { s.strm with cohorts := tset s.strm.cohorts i { c with members := ms, xfers := xf, windows := w } } }

/-- Release the reservations of runs that have no member left (R89). -/
def releaseRuns (s : State) : State :=
  planPeak { s with strm := { s.strm with cohorts := s.strm.cohorts.filter (fun x => !x.2.members.isEmpty) } }

end Sys2Proof.Machine
end

