-- ==== Sys2Proof/Machine/Streams.lean ====
section
/-! DEFINITION. The stream table: the parameter block, the checks of R88, opening, closing, granules and swap pages, and the
step boundary (R52 to R110, R415 to R427, R438). -/

namespace Sys2Proof.Machine

/-- The fields of a 64-byte stream parameter block (R57). -/
def parOf (b : List Byte) : StreamPar where
  handle := fieldAt b 0 4
  cls := bitsOf (fieldAt b 4 1) 1 0
  floodEn := bitsOf (fieldAt b 4 1) 2 2 == 1
  ebbEn := bitsOf (fieldAt b 4 1) 3 3 == 1
  hostFed := bitsOf (fieldAt b 4 1) 4 4 == 1
  part := bitsOf (fieldAt b 5 1) 5 0
  period := bitsOf (fieldAt b 6 1) 2 0
  rate := bitsOf (fieldAt b 6 1) 6 3
  lookahead := fieldAt b 7 1
  cadence := fieldAt b 8 1
  port := bitsOf (fieldAt b 9 1) 2 0
  stbyValid := bitsOf (fieldAt b 9 1) 3 3 == 1
  stbyBay := bitsOf (fieldAt b 9 1) 7 4
  floodSlot := bitsOf (fieldAt b 10 1) 4 0
  ebbSlot := bitsOf (fieldAt b 11 1) 4 0
  floodSched := fieldAt b 12 2
  ebbSched := fieldAt b 14 2
  granules := fieldAt b 16 2
  slack := fieldAt b 20 4
  fLimit := fieldAt b 24 4
  eLimit := fieldAt b 28 4
  hostPhase := fieldAt b 32 4
  userTag := fieldAt b 36 8

/-- The fields of a 32-byte standing record, for the bay and GEN of its handle (R97, R98). -/
def standingPar (b : List Byte) (bay gen : Nat) : StreamPar where
  handle := gen * 65536 + bay * 256 + fieldAt b 0 1
  cls := bitsOf (fieldAt b 1 1) 1 0
  floodEn := bitsOf (fieldAt b 1 1) 2 2 == 1
  ebbEn := bitsOf (fieldAt b 1 1) 3 3 == 1
  hostFed := bitsOf (fieldAt b 1 1) 4 4 == 1
  part := bitsOf (fieldAt b 2 1) 5 0
  period := bitsOf (fieldAt b 3 1) 2 0
  rate := bitsOf (fieldAt b 3 1) 6 3
  lookahead := fieldAt b 4 1
  cadence := fieldAt b 5 1
  port := bitsOf (fieldAt b 6 1) 2 0
  stbyValid := bitsOf (fieldAt b 6 1) 3 3 == 1
  stbyBay := bitsOf (fieldAt b 6 1) 7 4
  floodSlot := bitsOf (fieldAt b 7 1) 4 0
  ebbSlot := bitsOf (fieldAt b 8 1) 4 0
  floodSched := fieldAt b 10 2
  ebbSched := fieldAt b 12 2
  granules := fieldAt b 14 2
  slack := fieldAt b 24 2 * 1000
  fLimit := fieldAt b 16 4
  eLimit := fieldAt b 20 4
  hostPhase := 0
  userTag := 0

/-- The 64 bytes of a parameter block (R57): the inverse of `parOf`, and what R429 PARAMS carries. -/
def StreamPar.bytes (p : StreamPar) : List Byte :=
  leBytes 4 p.handle ++ leBytes 1 (p.cls + (if p.floodEn then 4 else 0) + (if p.ebbEn then 8 else 0) + (if p.hostFed then 16 else 0))
    ++ leBytes 1 p.part ++ leBytes 1 (p.period + p.rate * 8) ++ leBytes 1 p.lookahead ++ leBytes 1 p.cadence
    ++ leBytes 1 (p.port + (if p.stbyValid then 8 else 0) + p.stbyBay * 16) ++ leBytes 1 p.floodSlot ++ leBytes 1 p.ebbSlot
    ++ leBytes 2 p.floodSched ++ leBytes 2 p.ebbSched ++ leBytes 2 p.granules ++ [0, 0] ++ leBytes 4 p.slack
    ++ leBytes 4 p.fLimit ++ leBytes 4 p.eLimit ++ leBytes 4 p.hostPhase ++ leBytes 8 p.userTag ++ leBytes 20 0

def StreamPar.index (p : StreamPar) : Nat := p.handle % 65536
def StreamPar.gen (p : StreamPar) : Nat := p.handle / 65536

/-- Sample rate in Hz of a RATE code (R57, AP CFG). -/
def rateHz : Nat → Nat
  | 0 => 8000
  | 1 => 16000
  | 2 => 24000
  | 3 => 48000
  | 4 => 22050
  | 5 => 44100
  | _ => 0

/-- Frames in a chunk (R70), when whole. -/
def chunkFrames (rate period : Nat) : Nat := rateHz rate * periodMs period / 1000

/-- A chunk holds a whole number of frames. -/
def framesWhole (rate period : Nat) : Bool := rateHz rate * periodMs period % 1000 == 0

/-- The rate code of a stream: its own when host-fed, its port's otherwise. -/
def State.rateOf (s : State) (p : StreamPar) : Nat := if p.hostFed then p.rate else s.fld (F.apCfgRate p.port)

/-- Frames per chunk of a stream. -/
def State.framesOf (s : State) (p : StreamPar) : Nat := chunkFrames (s.rateOf p) p.period

/-- The port record of a port. -/
def State.port (s : State) (n : Nat) : Port := tget s.ports n {}

/-- Set a port record. -/
def State.setPort (s : State) (n : Nat) (x : Port) : State := { s with ports := tset s.ports n x }

/-- The pull in force on a port's frames, in ppb: that of its synthesizer while it drives the clocks as MASTER (R192). -/
def State.portPull (s : State) (n : Nat) : Int :=
  if s.fld (F.apStatusRoleNow n) = 0 ∧ ¬s.bit (F.apStatusSyncLost n) then signedOf 32 (s.fld (F.acsPullNowPpb (s.fld (F.apCfgAcs n)))) else 0

/-- ns that `k` frames of a port last at the rate in force (R132, R192). -/
def State.frameNs (s : State) (n k : Nat) : Nat :=
  k * 1000000000000000000 / (max 1 (rateHz (s.fld (F.apCfgRate n))) * max 1 (1000000000 + s.portPull n).toNat)

/-- Tray time of the FS assertion of frame `k` of a port, carried from its last FS at the rate in force (R132, R192). -/
def State.frameTime (s : State) (n k : Nat) : Nat :=
  let p := s.port n
  if p.fsIdx ≤ k then p.fsTime + s.frameNs n (k - p.fsIdx) else p.fsTime - s.frameNs n (p.fsIdx - k)

/-- The port guard G in µs, rounded up (R199). -/
def State.guardUs (s : State) (n : Nat) : Nat :=
  let hz := max 1 (rateHz (s.fld (F.apCfgRate n)))
  ceilDiv (1000000000 + (periodMs (s.fld (F.apCfgGrid n)) * 1000 + 1500) * hz) (hz * 1000)

/-- The phase in ns of a stream's chunk ends within its period (R72, R84): for a port-fed stream the phase at the port's
anchor plus the guard (R199), the end of the last frame standing for its landing (log entry 13). -/
def State.phase (s : State) (p : StreamPar) : Nat :=
  let per := periodNs p.period
  if p.hostFed then (if p.cls = 0 then p.hostPhase * 1000 % per else 0)
  else
    let hz := max 1 (rateHz (s.fld (F.apCfgRate p.port)))
    let f := max 1 (s.framesOf p)
    let k := (s.pair (R.apdAnchorIdx p.port) / f + 1) * f
    (s.pair (R.apdAnchorTime p.port) + (k - s.pair (R.apdAnchorIdx p.port)) * 1000000000 / hz + s.guardUs p.port * 1000) % per

/-! ## The table -/

/-- This module holds the lease of a stream of its table: not FAILED, and not on its way in (R65, R66). -/
def Stream.leased (x : Stream) : Bool := x.state != .failed && !(x.state == .migrating && !((x.xfer.map Xfer.source).getD true))

/-- The stream at a descriptor. -/
def State.stream (s : State) (d : Nat) : Option Stream := tfind s.strm.table d

/-- Set the stream at a descriptor. -/
def State.setStream (s : State) (d : Nat) (x : Stream) : State :=
  { s with strm := { s.strm with table := tset s.strm.table d x } }

/-- Change the stream at a descriptor. -/
def State.modStream (s : State) (d : Nat) (f : Stream → Stream) : State :=
  match s.stream d with
  | some x => s.setStream d (f x)
  | none => s

/-- The descriptor that holds a handle. -/
def State.findHandle (s : State) (h : Nat) : Option (Nat × Stream) := s.strm.table.find? (fun x => x.2.par.handle == h)

/-- The descriptor that holds a handle for a partition; a FAILED one included. -/
def State.ownHandle (s : State) (p h : Nat) : Option (Nat × Stream) :=
  s.strm.table.find? (fun x => x.2.par.handle == h && x.2.par.part == p)

/-- The lowest free descriptor number (R56). -/
def State.freeDesc (s : State) : Option Nat :=
  if s.strm.table.length < 4096 then (List.range 4096).find? (fun d => (s.stream d).isNone) else none

/-- STREAM_COUNT0 and STREAM_COUNT1 follow the table. -/
def countStreams (s : State) : State :=
  let n := fun st => (s.strm.table.filter (fun x => x.2.state == st)).length
  (((s.setFld F.streamCount0Idle (n .idle)).setFld F.streamCount0Running (n .running)).setFld F.streamCount1FreeDesc (4096 - s.strm.table.length)).setFld F.streamCount1Waiting (n .admitWait)

/-- The schedule a stream names for one direction, when installed and verified for the partition with that direction (R60). -/
def State.schedFor (s : State) (part id : Nat) (ebb : Bool) : Option Schedule :=
  match tfind s.disp.scheds id with
  | some x => if x.part = part ∧ !x.kernel ∧ x.ebb = ebb then some x else none
  | none => none

/-! ## The checks of R88 -/

/-- A field of the block holds an invalid code (R59, R129, R157). -/
def State.parBad (s : State) (p : StreamPar) : Bool :=
  p.cls == 3 || (!p.floodEn && !p.ebbEn) || decide (p.period > 4) || (p.hostFed && decide (p.rate > 5)) ||
  decide (p.lookahead > 64) || p.cadence == 0 || decide (p.cadence > 64) || decide (p.floodSlot > 31) || decide (p.ebbSlot > 31) ||
  p.granules == 0 || decide (p.granules > 256) || decide (p.slack > 2000000) || (p.cls == 2 && !p.hostFed) ||
  (!p.hostFed && (!s.bit (F.apCtrlEn p.port) ||
    (p.floodEn && !(s.reg (R.apFloodMask p.port)).getLsbD p.floodSlot) ||
    (p.ebbEn && !(s.reg (R.apEbbMask p.port)).getLsbD p.ebbSlot) ||
    (p.stbyValid && !s.bit (F.apCfgTxMode p.port)))) ||
  (let parts := (if p.floodEn then ((s.schedFor p.part p.floodSched false).map Schedule.statePart).getD 0 else 0) +
                (if p.ebbEn then ((s.schedFor p.part p.ebbSched true).map Schedule.statePart).getD 0 else 0)
   decide (p.granules < parts)) ||
  (p.hostFed && p.cls == 0 && decide (p.hostPhase ≥ periodMs p.period * 1000))

/-- W differs from the look-ahead, when the look-ahead is a whole multiple of the period (R372). -/
def windowBad (p : StreamPar) (x : Schedule) : Bool :=
  p.lookahead * 10 % periodMs p.period == 0 && x.window != p.lookahead * 10 / periodMs p.period

/-- A named schedule of an enabled direction is not installed, of another period (R60), or compiled for another look-ahead (R372). -/
def State.schedBad (s : State) (p : StreamPar) : Bool :=
  let bad := fun id ebb => match s.schedFor p.part id ebb with
    | some x => x.period != p.period || (!ebb && windowBad p x)
    | none => true
  (p.floodEn && bad p.floodSched false) || (p.ebbEn && bad p.ebbSched true)

/-- A stream holds a port slot of a direction: a FAILED stream holds nothing but its descriptor (R65). -/
def State.slotHolder (s : State) (port slot : Nat) (ebb : Bool) : Option (Nat × Stream) :=
  s.strm.table.find? (fun x => x.2.state != .failed && !x.2.par.hostFed && x.2.par.port == port &&
    (if ebb then x.2.par.ebbEn && x.2.par.ebbSlot == slot else x.2.par.floodEn && x.2.par.floodSlot == slot))

/-- A slot of an enabled direction is taken, or not granted to the partition (R47, R552). -/
def State.slotTaken (s : State) (p : StreamPar) : Bool :=
  let mask := ((tfind s.disp.parts p.part).map (fun q => q.quota.audio.getD p.port 0)).getD 0
  let taken := fun slot ebb => !Nat.testBit mask slot || (s.slotHolder p.port slot ebb).isSome
  !p.hostFed && ((p.floodEn && taken p.floodSlot false) || (p.ebbEn && taken p.ebbSlot true))

/-- Streams of a partition. -/
def State.streamsOf (s : State) (part : Nat) : List (Nat × Stream) := s.strm.table.filter (fun x => x.2.par.part == part)

/-- How a request comes to be admitted: by a partition's command, as a standing stream, or by transfer or remap. -/
inductive Origin where
  | host (part : Nat)
  | standing
  | taken
  deriving DecidableEq, Repr

/-- The first failing check of R88 that comes before the plan. A standing record names a port-fed stream of RATE 0 that is not BULK
(R97). -/
def State.admitCheck (s : State) (p : StreamPar) (o : Origin) : Option Nat :=
  let active := (tfind s.disp.parts p.part).map Partition.state == some .active
  let partBad := match o with
    | .host q => p.part != q
    | .standing => !active || p.hostFed || p.rate != 0 || p.cls == 2
    | .taken => !active
  let quota := (tfind s.disp.parts p.part).map Partition.quota
  if s.parBad p || partBad then some 0x01
  else if (match o with | .host _ => decide (p.index < 4096) | _ => false) then some 0x02
  else if p.gen = 0 then some 0x03
  else if s.strm.table.any (fun x => x.2.par.index == p.index) then some 0x04
  else if s.freeDesc.isNone then some 0x05
  else if s.schedBad p then some 0x06
  else if !framesWhole (s.rateOf p) p.period then some 0x07
  else if p.lookahead * 10 % periodMs p.period ≠ 0 then some 0x08
  else if s.slotTaken p then some 0x09
  else if !p.hostFed ∧ p.cls = 0 ∧ ¬s.bit (F.apdStatusSteady p.port) then some 0x0A
  else match quota with
    | some q => if p.granules > q.granules ∨ (s.streamsOf p.part).length ≥ q.descriptors then some 0x0B else none
    | none => some 0x0B

/-- The plan checks 0x0C and 0x0D for a GUARANTEED stream, and the candidates chosen. `limits` says whether the bounds'
limits refuse (a taking module admits in spite of them, R110). -/
def State.admitPlan (s : State) (p : StreamPar) (limits : Bool) : Except Nat (Option Cand × Option Cand) :=
  if p.cls ≠ 0 then .ok (none, none)
  else
    let phi := s.phase p
    let f := if p.floodEn then (s.schedFor p.part p.floodSched false).bind (fun x => s.search p.floodSched x phi) else none
    -- the ebb run is looked for in the plan that holds the flood run chosen (R87)
    let t := match f, s.schedFor p.part p.floodSched false with
      | some c, some x => (takeSeat p.floodSched x (s.freeDesc.getD 0) c s).2
      | _, _ => s
    let e := if p.ebbEn then (s.schedFor p.part p.ebbSched true).bind (fun x => t.search p.ebbSched x phi) else none
    if (p.floodEn && f.isNone) || (p.ebbEn && e.isNone) then .error 0x0C
    else if limits ∧ ((p.fLimit ≠ 0 ∧ ((f.map Cand.bound).getD 0) > p.fLimit) ∨ (p.eLimit ≠ 0 ∧ ((e.map Cand.bound).getD 0) > p.eLimit)) then .error 0x0D
    else .ok (f, e)

/-- A refusal of admission is counted and shown (ADMIT_LAST, ADMIT_STATS). -/
def noteRefusal (handle reason : Nat) (s : State) : State :=
  ((s.setFld F.admitLastHandleHandle handle).setFld F.admitLastReasonReason reason).count F.admitStatsRefused 1

/-- The seed of a stream: derived from its handle when SEED_FIXED, otherwise drawn from the DRBG (R378, R706). -/
def State.drawSeed (s : State) (fixedSeed : Nat) : Nat × State :=
  if s.bit F.seedCfgSeedFixed then (fixedSeed, s) else (s.freeNow % 2 ^ 64, { s.freeNext with sec := { s.sec with drbg := s.sec.drbg + 1 } })

/-- The record of a stream accepted now. -/
def newStream (p : StreamPar) (st : SState) (epoch order now sink seed : Nat) (standing : Option Nat) (f e : Dirn) (nextIn : Nat) : Stream where
  par := p
  raw := p.bytes
  state := st
  epoch := epoch
  order := order
  accepted := now
  standing := standing
  sink := sink
  flood := f
  ebb := e
  deferred := false
  grans := []
  resident := false
  pages := []
  stepped := none
  prefetch := false
  swapping := false
  ready := []
  nextIn := nextIn
  lastEnd := 0
  ebbIn := []
  closing := none
  closeCmd := []
  cancelCmd := []
  seed := seed
  xfer := none
  gap := false
  lateSwap := false
  playTo := 0
  plays := []
  full := []
  ended := []
  flags := []
  uttNew := false
  uttFlags := 0
  tailAt := none

/-- The first chunk a port-fed stream processes: the lowest whose first frame lands after now (R71). -/
def State.firstChunk (s : State) (p : StreamPar) : Nat :=
  if p.hostFed then 0
  else
    let f := max 1 (s.framesOf p)
    ((s.port p.port).landed + f - 1) / f

/-- The seed under SEED_FIXED: the finaliser of R377 applied to the handle (R378). -/
def fixedSeed (handle : Nat) : Nat := mix64 handle

/-- Bytes of chunk slots a descriptor owns (R461). -/
abbrev slotBytes : Nat := 0x4_0000

/-- Accept a stream: lowest free descriptor, its chunk slots zeroed, one seat per enabled direction (R56, R87, R461). -/
def accept (p : StreamPar) (st : SState) (epoch sink : Nat) (standing : Option Nat) (plan : Option Cand × Option Cand) (seed? : Option Nat) (s : State) : Nat × State :=
  let d := s.freeDesc.getD 0
  let first := s.firstChunk p
  let take := fun (c : Option Cand) (id : Nat) (ebb : Bool) (s : State) => match c, s.schedFor p.part id ebb with
    | some c, some sch => let (i, s) := takeSeat id sch d c s; (some i, s)
    | _, _ => (none, s)
  let (fi, s) := take plan.1 p.floodSched false s
  let (ei, s) := take plan.2 p.ebbSched true s
  let (seed, s) := match seed? with | some x => (x, s) | none => s.drawSeed (fixedSeed p.handle)
  let x := newStream p st epoch s.strm.nextOrder s.time sink seed standing
    { seat := fi, bound := (plan.1.map Cand.bound).getD 0, next := first, first := first } { seat := ei, bound := (plan.2.map Cand.bound).getD 0, next := first, first := first } first
  let s := { s with strm := { s.strm with nextOrder := s.strm.nextOrder + 1 } }
  let s := s.zeroDram (s.pair R.dmaChunkBase + d * slotBytes) slotBytes
  (d, countStreams (s.setStream d x))

end Sys2Proof.Machine
end

