-- ==== Sys2Proof/Machine/Rings.lean ====
section
/-! DEFINITION. The geometry of a port's rings: containers, lanes, strides, blocks and frames (R125 to R130, R146). -/

namespace Sys2Proof.Machine

/-- Bytes of a container for a WIDTH code (R125). -/
def containerBytes (width : Nat) : Nat := if width = 0 then 2 else 4

/-- Bits set in the low `n` bits of a mask. -/
def popBelow (mask : Nat) : Nat → Nat
  | 0 => 0
  | n + 1 => popBelow mask n + (if Nat.testBit mask n then 1 else 0)

/-- The smallest power of two at or above a number, up to 2^16. -/
def pow2Up (n : Nat) : Nat := if n = 0 then 0 else ((List.range 17).map (2 ^ ·)).find? (fun p => decide (n ≤ p)) |>.getD 65536

/-- Slots of a port (R112, R115). -/
def State.portSlots (s : State) (n : Nat) : Nat := if s.fld (F.apCfgFormat n) = 0 then 2 else s.fld (F.apCfgSlotsM1 n) + 1

/-- The mask of one direction of a port. -/
def State.apMask (s : State) (n : Nat) (ebb : Bool) : Nat := s.fld (if ebb then F.apEbbMaskMask n else F.apFloodMaskMask n)

/-- Container bytes of a port. -/
def State.container (s : State) (n : Nat) : Nat := containerBytes (s.fld (F.apCfgWidth n))

/-- The frame stride of one direction (R126). -/
def State.stride (s : State) (n : Nat) (ebb : Bool) : Nat := pow2Up (popBelow (s.apMask n ebb) 32 * s.container n)

/-- The lane of a slot (R125). -/
def State.lane (s : State) (n : Nat) (ebb : Bool) (slot : Nat) : Nat := popBelow (s.apMask n ebb) slot

/-- The slots of a direction, in lane order. -/
def State.slots (s : State) (n : Nat) (ebb : Bool) : List Nat := (List.range 32).filter (fun i => Nat.testBit (s.apMask n ebb) i)

/-- The block a ring base value names: base address and S (R127). -/
def ringBase (v : Nat) : Nat := v % 2 ^ 48 / 4096 * 4096
def ringSize (v : Nat) : Nat := 2 ^ (v % 64)

/-- The least number of frames of a ring (R127). -/
def minFrames (rate : Nat) : Nat :=
  match rate with
  | 0 => 32768
  | 1 => 65536
  | 2 => 131072
  | 4 => 131072
  | _ => 262144

/-- The code of the first check of R127 a ring base value fails on a port: 0x07 place, 0x08 size (log entry 14). -/
def State.ringBad (s : State) (n v : Nat) : Option Nat :=
  let lg := v % 64
  if decide (12 ≤ lg ∧ lg ≤ 28) && (ringBase v % ringSize v != 0 || decide (ringBase v + 3 * ringSize v > 0x60_0000_0000)) then some 0x07
  else if !decide (12 ≤ lg ∧ lg ≤ 28) || [false, true].any (fun ebb => s.apMask n ebb != 0 &&
      decide (ringSize v / max 1 (s.stride n ebb) < minFrames (s.fld (F.apCfgRate n)))) then some 0x08
  else none

/-- The ring base value that holds flood and reference frame `k` (R146). -/
def State.floodBlock (s : State) (n k : Nat) : Nat :=
  match (s.port n).old with
  | some (v, kb, _) => if k < kb then v else s.pair (R.apRingBase n)
  | none => s.pair (R.apRingBase n)

/-- The ring base value that holds ebb frame `k` (R146). -/
def State.ebbBlock (s : State) (n k : Nat) : Nat :=
  match (s.port n).old with
  | some (v, _, h) => if k < h then v else s.pair (R.apRingBase n)
  | none => s.pair (R.apRingBase n)

/-- Frames a ring of a block holds. -/
def State.ringFrames (s : State) (n : Nat) (ebb : Bool) (v : Nat) : Nat := ringSize v / max 1 (s.stride n ebb)

/-- Where flood record `k` lies (R128). -/
def State.floodAddr (s : State) (n k : Nat) : Nat :=
  let v := s.floodBlock n k
  ringBase v + k % max 1 (s.ringFrames n false v) * s.stride n false

/-- Where ebb record `k` lies. -/
def State.ebbAddr (s : State) (n k : Nat) : Nat :=
  let v := s.ebbBlock n k
  ringBase v + ringSize v + k % max 1 (s.ringFrames n true v) * s.stride n true

/-- Where reference record `k` lies. -/
def State.refAddr (s : State) (n k : Nat) : Nat :=
  let v := s.floodBlock n k
  ringBase v + 2 * ringSize v + k % max 1 (s.ringFrames n true v) * s.stride n true

/-- A sample as a container holds it (R125). -/
def putSample (width v : Nat) : List Byte :=
  if width = 0 then leBytes 2 v else if width = 1 then leBytes 4 (v % 2 ^ 24 * 256) else leBytes 4 v

/-- The sample a container holds. -/
def getSample (width : Nat) (b : List Byte) : Nat := if width = 1 then leNat b / 256 else leNat b

/-- A whole record of samples in lane order, padded with zero (R126). -/
def recordOf (width stride : Nat) (vs : List Nat) : List Byte :=
  let b := vs.flatMap (putSample width)
  b ++ List.replicate (stride - b.length) 0

/-- Zero one lane of every frame of a ring of a block but the frames from `lo` up to `hi`. -/
def zeroLane (start stride size lane width lo hi : Nat) (s : State) : State :=
  let c := containerBytes width
  let frames := max 1 (size / max 1 stride)
  let kept := fun (o : Nat) => decide ((o / max 1 stride + frames - lo % frames) % frames < hi - lo)
  { s with mem := s.mem.filter (fun x => !(decide (start ≤ x.1 ∧ x.1 < start + size) && !kept (x.1 - start) &&
      decide (lane * c ≤ (x.1 - start) % max 1 stride ∧ (x.1 - start) % max 1 stride < (lane + 1) * c))) }

/-- The squares kept of a lane are gone with its samples. -/
def Port.muteLane (p : Port) (ebb : Bool) (lane : Nat) : Port :=
  { p with heard := p.heard.map (fun h => if ebb then (h.1, h.2.set lane 0) else (h.1.set lane 0, h.2)) }

/-- A lane passes to a partition: when its last owner was another, it is zeroed in every ring that holds it, below the index at which
the change takes effect (R130): what the ebb ring holds from there on stays. -/
def handLane (n slot : Nat) (ebb : Bool) (part : Nat) (s : State) : State :=
  let p := s.port n
  let key := 2 * slot + (if ebb then 1 else 0)
  let w := s.fld (F.apCfgWidth n)
  let s := s.setPort n { p with owners := tset p.owners key part }
  match tfind p.owners key with
  | some q =>
    if q = part then s
    else
      let h := match p.old with | some (_, _, h) => h | none => 0
      let vs := (s.pair (R.apRingBase n), max p.idx h, p.ebbHigh) :: (match p.old with | some (v, _, h) => [(v, p.idx, h)] | none => [])
      let s := s.setPort n ((s.port n).muteLane ebb (s.lane n ebb slot))
      vs.foldl (fun s v =>
        let z := fun (off lo hi : Nat) (s : State) => zeroLane (ringBase v.1 + off * ringSize v.1) (s.stride n ebb) (ringSize v.1) (s.lane n ebb slot) w lo hi s
        if ebb then z 2 0 0 (z 1 v.2.1 v.2.2 s) else z 0 0 0 s) s
  | none => s

/-- Every lane of a stream passes to its partition (R130). -/
def handLanes (p : StreamPar) (s : State) : State :=
  if p.hostFed then s
  else
    let s := if p.floodEn then handLane p.port p.floodSlot false p.part s else s
    if p.ebbEn then handLane p.port p.ebbSlot true p.part s else s

/-- The oldest flood frame a stream still needs from its port: the first of the next chunk to be copied; a stream that takes no flood
audio needs none, nor does a DRAINING one with every chunk copied (R147, R149). -/
def State.needs (s : State) (x : Stream) : Option Nat :=
  let f := max 1 (s.framesOf x.par)
  if !x.par.floodEn then none
  else match x.ended with
    | (n, _) :: _ => some (n * f)
    | [] => if x.state = .draining then none else some (x.nextIn * f)

/-- Streams bound to a port. -/
def State.boundTo (s : State) (n : Nat) : List (Nat × Stream) :=
  s.strm.table.filter (fun x => !x.2.par.hostFed && x.2.par.port == n && x.2.state != .failed)

/-- The flood level of a port: frames landed and not copied to every stream held on it, at most the ring's N (R149). -/
def State.floodLevel (s : State) (n : Nat) : Nat :=
  let need := ((s.boundTo n).filter (fun x => x.2.leased)).filterMap (fun x => s.needs x.2)
  match need with
  | [] => 0
  | a :: as => min (s.ringFrames n false (s.pair (R.apRingBase n))) ((s.port n).landed - as.foldl min a)

/-- The ebb level of a port: the highest ebb index written less the index being played (R149); a disabled port, which plays none, keeps the
last two (DESIGN CHOICE: the spec does not say what its level is; log entry 131). -/
def State.ebbLevel (s : State) (n : Nat) : Nat :=
  let p := s.port n
  if p.ebbHigh = 0 then 0 else p.ebbHigh - 1 - (p.idx - 1)

/-- The cut latches of ebb slots clear, and a cut that waits for its first frame with them (R141, R170). -/
def clearCuts (n : Nat) (v : Word) (s : State) : State :=
  let p := s.port n
  let s := s.setReg (R.apCut n) (s.reg (R.apCut n) &&& ~~~v)
  s.setPort n { p with cutOn := (s.reg (R.apCut n)).toNat.land p.cutOn, cutPend := p.cutPend.filter (fun c => !v.getLsbD c.1) }

/-- Both port tidemarks follow their levels (R149, R150). -/
def apTides (n : Nat) (s : State) : State :=
  let f := s.floodLevel n
  let s := tmNotify (tmLevel (R.apFloodTmCfg n) f s) Ev.apTidemark 3 n 0 f
  let e := s.ebbLevel n
  tmNotify (tmLevel (R.apEbbTmCfg n) e s) Ev.apTidemark 3 n 1 e

end Sys2Proof.Machine
end

