-- ==== Sys2Proof/Machine/Pool.lean ====
section
/-! DEFINITION. Tide-pool granules, swap pages and the swap engine's whole-allocation moves (R90 to R94, R411 to R427). -/

namespace Sys2Proof.Machine

/-- Free granules now. -/
def State.poolFree (s : State) : Nat := 16384 - s.tide.held.length - s.tide.zeroing.length

/-- TP_FREE, TP_ZERO and the pool tidemark follow the pool (R443). -/
def poolSync (s : State) : State :=
  let n := s.poolFree
  let s := (s.setFld F.tpFreeFree n).setFld F.tpZeroPending s.tide.zeroing.length
  tmNotify (tmLevel R.tpTmCfg n s) Ev.poolTidemark 8 0 n 0

/-- Take the lowest-numbered free granules (which ones is the model's choice, log entry 7). -/
def takeGranules (n : Nat) (s : State) : List Nat × State :=
  let gs := ((List.range 16384).filter (fun g => !s.tide.held.contains g && !s.tide.zeroing.any (fun z => z.1 == g))).take n
  (gs, poolSync { s with tide := { s.tide with held := s.tide.held ++ gs } })

/-- Where a granule lies (R411). -/
def granAddr (g : Nat) : Nat := poolBase + g * 0x4000

/-- Zero granules at once and free them (R90, R416); `wait` names a partition whose channels may still write them, so that
they wait for its drain (R109). -/
def releaseGranules (gs : List Nat) (wait : Option Nat) (s : State) : State :=
  let held := s.tide.held.filter (fun g => !gs.contains g)
  match wait with
  | some p => poolSync { s with tide := { s.tide with held := held, zeroing := s.tide.zeroing ++ gs.map (fun g => (g, p)) } }
  | none =>
    let s := gs.foldl (fun s g => s.zeroMem (granAddr g) 0x4000) s
    poolSync { s with tide := { s.tide with held := held } }

/-- Zeroing of granules ends: they are free (R406, R416). -/
def granulesZeroed (gs : List Nat) (s : State) : State :=
  let gs := gs.filter (fun g => s.tide.zeroing.any (fun z => z.1 == g))
  let s := gs.foldl (fun s g => s.zeroMem (granAddr g) 0x4000) s
  poolSync { s with tide := { s.tide with zeroing := s.tide.zeroing.filter (fun z => !gs.contains z.1) } }

/-- A channel of a partition is not drained, so zeroing of its granules waits (R109). -/
def State.partWriting (s : State) (p : Nat) : Bool :=
  (List.range 64).any (fun c => !s.bit (F.dmaChOwnerModule c) && s.fld (F.dmaChOwnerPartition c) == p && !s.bit (F.dmaChStatusDrained c))

/-- A channel of a partition has been aborted and is not drained yet (R477, R479). -/
def State.partAborting (s : State) (p : Nat) : Bool :=
  (List.range 64).any (fun c => !s.bit (F.dmaChOwnerModule c) && s.fld (F.dmaChOwnerPartition c) == p && (tget s.dma c {}).aborting)

/-- The partition whose drain the zeroing of granules waits for, if any: one that is being destroyed, or whose channels are being aborted,
while one of its channels is not drained (R109, R479). At every other time a stream's granules are free at once (R90, R104; log entry
119). -/
def State.waitIfGoing (s : State) (p : Nat) : Option Nat :=
  if ((tfind s.disp.parts p).map Partition.state = some .destroying ∨ s.partAborting p) ∧ s.partWriting p then some p else none

/-- A stream's granules lie in the free share: it is, or is becoming or ceasing to be, whole-resident (R419, R422). -/
def Stream.inShare (x : Stream) : Bool := x.resident || x.prefetch || x.swapping

/-- Free granules of the free share (R419). -/
def State.shareFree (s : State) : Nat :=
  let used := ((s.strm.table.filter (fun x => x.2.inShare)).map (fun x => x.2.grans.length)).sum +
    ((s.tide.leavers.filter (fun z => z.str.inShare)).map (fun z => z.str.grans.length)).sum
  16384 - s.fld F.tpFreePlannedPeak - used - s.tide.zeroing.length

/-- Granules a partition's streams hold resident, those that have just left included (R422). -/
def State.partGranules (s : State) (p : Nat) : Nat := ((s.streamsOf p).map (fun x => x.2.grans.length)).sum +
  ((s.tide.leavers.filter (fun z => z.str.par.part == p)).map (fun z => z.str.grans.length)).sum

/-- The quota of a partition. -/
def State.quota (s : State) (p : Nat) : Quota := ((tfind s.disp.parts p).map Partition.quota).getD {}

/-- Swap pages of a partition in use. -/
def State.pagesUsed (s : State) (p : Nat) : List Nat := (s.streamsOf p).flatMap (fun x => x.2.pages)

/-- Swap pages of a partition that are free (R423). -/
def State.pagesFree (s : State) (p : Nat) : Nat := (s.quota p).swapSize / 16384 - (s.pagesUsed p).length

/-- Take the lowest-numbered free swap pages of a partition. -/
def State.takePages (s : State) (p n : Nat) : List Nat :=
  let used := s.pagesUsed p
  ((List.range ((s.quota p).swapSize / 16384)).filter (fun g => !used.contains g)).take n

/-- Where a swap page lies. -/
def State.pageAddr (s : State) (p page : Nat) : Nat := (s.quota p).swapBase + page * 16384

/-- Copy bytes of memory from one place to another. -/
def State.copyMem (s : State) (dst src n : Nat) : State :=
  let cells := s.mem.filter (fun c => decide (src ≤ c.1 ∧ c.1 < src + n))
  let s := s.zeroMem dst n
  dramWrote dst n { s with mem := cells.foldl (fun m c => memSet m (dst + (c.1 - src)) c.2) s.mem }

/-- Copy granules of a stream, by allocation index, to its swap pages (R424). -/
def toSwap (x : Stream) (idx : List Nat) (s : State) : State :=
  idx.foldl (fun s i => match tfind x.grans i, x.pages[i]? with
    | some g, some p => s.copyMem (s.pageAddr x.par.part p) (granAddr g) 16384
    | _, _ => s) s

/-- Copy granules of a stream from its swap pages (R424). -/
def fromSwap (x : Stream) (idx : List Nat) (s : State) : State :=
  idx.foldl (fun s i => match tfind x.grans i, x.pages[i]? with
    | some g, some p => s.copyMem (granAddr g) (s.pageAddr x.par.part p) 16384
    | _, _ => s) s

/-- The next reserved start of a seat's run after now, in ns. -/
def State.nextStart (s : State) (seat : Option Nat) : Option Nat :=
  (seat.bind (fun i => tfind s.strm.cohorts i)).map (fun c =>
    let p := periodNs c.period
    s.time + modSub p (c.offset * 62500) s.time)

/-- The next run of a stream starts within the prefetch lead (R105). -/
def State.runSoon (s : State) (x : Stream) : Bool :=
  [x.flood.seat, x.ebb.seat].any (fun q => match s.nextStart q with
    | some t => decide (t ≤ s.time + s.lead * 1000)
    | none => false)

/-- An IDLE stream that may be evicted: resident whole, no step in progress, no prefetch begun, its swap area can take it, no run within the
lead, no checkpoint read pending (R92, R105, R426). R426 names the last for evictions below SWAP_LOW; the model has every eviction pass
over such a stream (log entry 120). -/
def State.mayEvict (s : State) (x : Stream) : Bool :=
  x.state == .idle && x.resident && !x.flood.stepping && !x.ebb.stepping && !x.prefetch && !x.swapping && !s.runSoon x && !x.flood.ckptBusy && !x.ebb.ckptBusy &&
  (!x.pages.isEmpty || decide (x.par.granules ≤ s.pagesFree x.par.part))

/-- The order of eviction (R92): never stepped first, then least recently stepped, then accepted earlier, then lower number. -/
def evictBefore (a b : Nat × Stream) : Bool :=
  let k := fun (x : Stream) => match x.stepped with | none => 0 | some n => n + 1
  decide (k a.2 < k b.2) || (k a.2 == k b.2 && (decide (a.2.order < b.2.order) || (a.2.order == b.2.order && decide (a.1 ≤ b.1))))

/-- The streams that may be evicted, in order. -/
def State.evictList (s : State) : List (Nat × Stream) :=
  (s.strm.table.filter (fun x => s.mayEvict x.2)).mergeSort evictBefore

/-- Begin the swap-out of a whole-resident stream, by an eviction (3) or as the first write-back of a GUARANTEED join (5): it takes its
swap pages at its first eviction (R423). -/
def beginSwapOut (kind d : Nat) (s : State) : State :=
  match s.stream d with
  | none => s
  | some x =>
    let pages := if x.pages.isEmpty then s.takePages x.par.part x.par.granules else x.pages
    let s := s.setStream d { x with swapping := true, pages := pages }
    { s with tide := { s.tide with moves := s.tide.moves ++ [{ desc := d, ebb := false, sect := 0, kind := kind }] } }

/-- Evict streams, in the order of eviction and of one partition when it is given, until `need` granules are covered; whether a stream may
be evicted is looked at anew after each (R92, R427). The first number is fuel. -/
def evictUntil (part : Option Nat) : Nat → Nat → State → State
  | 0, _, s => s
  | f + 1, need, s =>
    if need = 0 then s
    else match (s.evictList.filter (fun x => part.all (· == x.2.par.part))).head? with
      | some (d, x) => evictUntil part f (need - x.grans.length) (beginSwapOut 3 d s)
      | none => s

/-- A partition whose swap area cannot take a resident idle stream: recorded once an episode (R427). -/
def noteFull (s : State) (p : Nat) : State :=
  match tfind s.disp.parts p with
  | some q => if q.swapFull then s else
      emit Ev.swapAreaFull (some p) 8 0 p 0 0
        (({ s with disp := { s.disp with parts := tset s.disp.parts p { q with swapFull := true } } } : State).count F.tpSwapStatAreaFull 1)
  | none => s

/-- The partitions of resident idle streams that stay because their swap area cannot take them (R427). -/
def State.stuckParts (s : State) : List Nat :=
  (s.strm.table.filter (fun x => x.2.state == .idle && x.2.resident && !x.2.prefetch && !x.2.swapping && x.2.pages.isEmpty
    && decide (s.pagesFree x.2.par.part < x.2.par.granules))).map (fun x => x.2.par.part)

/-- Granules whose swap-out is under way, of one partition when it is given. -/
def State.coming (s : State) (part : Option Nat) : Nat :=
  ((s.strm.table.filter (fun x => x.2.swapping && part.all (· == x.2.par.part))).map (fun x => x.2.grans.length)).sum

/-- `n` more granules would take a partition past its POOL_GRANULES (R422). -/
def State.quotaFull (s : State) (p n : Nat) : Bool := decide ((s.quota p).granules < s.partGranules p + n)

/-- A shortage against a partition's quota evicts its own streams (R92, R422); one that stands because its swap area is full is recorded
(R427). -/
def makeQuota (p n : Nat) (s : State) : State :=
  let s := evictUntil (some p) s.strm.table.length (s.partGranules p + n - (s.quota p).granules - s.coming (some p)) s
  if s.partGranules p + n - (s.quota p).granules > s.coming (some p) then (s.stuckParts.filter (· == p)).foldl noteFull s else s

/-- Make room for a whole allocation: when the partition's quota is short, first its own streams, then, for a shortage of
the pool, any (R92, R422). A shortage that stands because a swap area is full is recorded (R427). -/
def makeRoom (p n : Nat) (s : State) : State :=
  let fuel := s.strm.table.length
  let poolShort := n - s.shareFree
  let s := makeQuota p n s
  let s := evictUntil none fuel (poolShort - s.coming none) s
  if poolShort > s.coming none then s.stuckParts.foldl noteFull s else s

/-- A whole allocation fits now. -/
def State.roomFor (s : State) (p n : Nat) : Bool :=
  decide (n ≤ s.shareFree) && !s.quotaFull p n

/-- A swap-out ends: the state is in the swap pages, the granules zeroed and free (R416, R423). The end of an eviction ends the partition's
SWAP_AREA_FULL episode (R427). -/
def swapOutDone (d : Nat) (s : State) : State :=
  match s.stream d with
  | none => s
  | some x =>
    if !x.swapping then s
    else
      let s := toSwap x (x.grans.map Prod.fst) s
      let s := s.addPair R.tpSwapOut (x.grans.length * 16384)
      let evicted := s.tide.moves.any (fun m => m.desc == d && m.kind == 3)
      let s := s.setStream d { x with swapping := false, resident := false, grans := [], homed := s.time }
      let s := { s with tide := { s.tide with moves := s.tide.moves.filter (fun m => !(m.desc == d && (m.kind == 3 || m.kind == 5))) } }
      let s := match (if evicted then tfind s.disp.parts x.par.part else none) with
        | some q => { s with disp := { s.disp with parts := tset s.disp.parts x.par.part { q with swapFull := false } } }
        | none => s
      releaseGranules (x.grans.map Prod.snd) (s.waitIfGoing x.par.part) s

/-- Below SWAP_LOW the swap engine evicts until SWAP_HIGH, counting what is already on its way out; a stream whose swap area cannot take it stays, recorded once an
episode (R426, R427). -/
def swapEvict (s : State) : State :=
  if s.shareFree < s.fld F.tpSwapCfgSwapLow then
    let s := evictUntil none s.strm.table.length (s.fld F.tpSwapCfgSwapHigh - s.shareFree - s.coming none) s
    s.stuckParts.foldl noteFull s
  else s

end Sys2Proof.Machine
end

