-- ==== Sys2Proof/Machine/Lease.lean ====
section
/-! DEFINITION. Fabric messages sent, leases, and how a stream leaves the module (R75 to R80, R90, R96, R439, R625, R866). -/

namespace Sys2Proof.Machine

/-- This module's bay, from the straps (R50). -/
def State.bay (s : State) : Nat := s.fld F.hubTopoBay

/-! ## Links and routes, as registers show them -/

/-- A link is up: UP8 or UP4. -/
def State.linkUp (s : State) (l : Nat) : Bool := let x := s.fld (F.linkStatusState l); x == 3 || x == 4

/-- The stage the far end of a link reported last. -/
def State.farStage (s : State) (l : Nat) : Nat := (((tget s.fab.links l {}).far).map Hello.stage).getD 0

/-- A stage in which a bay serves the fabric: READY, or LEAVING (R799). -/
def serving (st : Nat) : Bool := st == 1 || st == 4

/-- A link carries every message: up, and both ends READY (R617). -/
def State.linkOpen (s : State) (l : Nat) : Bool := s.linkUp l && serving (s.fld F.fabStatusStage) && serving (s.farStage l)

/-- First-hop link of a bay (FAB_ROUTE0, FAB_ROUTE1; R609). -/
def State.routeOf (s : State) (b : Nat) : Option Nat :=
  let n := wfield (s.reg (if b < 8 then R.fabRoute0 else R.fabRoute1)) (4 * (b % 8) + 3) (4 * (b % 8))
  if n = 15 then none else some n

/-- The torus link that reaches the buddy (R31). -/
def State.buddyTorus (s : State) : Nat := if s.bay % 2 = 0 then 1 else 3

/-- The links a message leaves on: HELLO its own; a broadcast every link that carries it but one; a checkpoint record to the buddy the
link its stream's INDEX names, while that is up (R610, R617, R623). -/
def State.linksFor (s : State) (dst link except : Option Nat) (b : MsgBody) : List Nat :=
  match link with
  | some l => [l]
  | none => match dst with
    | none => (List.range 6).filter (fun l => some l != except && (match b with | .linkState _ _ => s.linkUp l | _ => s.linkOpen l))
    | some d =>
      let plain := (s.routeOf d).toList
      match b with
      | .ckptData _ _ r =>
        let pick := if fieldAt r 0 2 % 2 = 0 then [4, s.buddyTorus] else [s.buddyTorus, 4]
        if d = Nat.xor s.bay 1 then (match pick.find? (fun l => s.linkOpen l) with | some l => [l] | none => plain) else plain
      | _ => plain

/-! ## Transmitting (R597 to R603) -/

/-- The virtual lane of a message (R608): a peer access of a partition travels as ACTIVATION, of the module as BULK (R612). -/
def MsgBody.vl (b : MsgBody) (part : Option Nat) : Nat :=
  match b with
  | .ckptData _ _ _ => 1
  | .write _ _ _ => if part.isSome then 2 else 3
  | .writeAck _ _ => if part.isSome then 2 else 3
  | .readReq _ _ => if part.isSome then 2 else 3
  | .readData _ _ => if part.isSome then 2 else 3
  | _ => 0

/-- Body bytes of the messages that may take more than one flit; every other fits in one (R611). -/
def MsgBody.len : MsgBody → Nat
  | .ckptData _ _ r => 8 + r.length
  | .write _ _ d => 9 + d.length
  | .readData _ d => 1 + d.length
  | _ => 1

/-- Flits of a message: 16 header bytes and the body, 244 payload bytes each (R597, R607). -/
def MsgBody.flits (b : MsgBody) : Nat := ceilDiv (16 + b.len) 244

/-- The virtual lane of each of the 16 turns of R601. -/
def turnVl (t : Nat) : Nat := [0, 0, 1, 1, 1, 1, 1, 1, 2, 2, 2, 2, 2, 3, 3, 3].getD (t % 16) 0

/-- A message has a credit for its next flit. -/
def LinkState.hasCredit (l : LinkState) (m : TxMsg) : Bool := decide (0 < tget l.credits (m.vl * 6 + (m.hops - 1)) 0)

/-- The message of a lane whose flit is sent next: the one begun, else the highest HOPS, oldest first (R601). -/
def LinkState.readyMsg (l : LinkState) (vl : Nat) : Option TxMsg :=
  let ms := l.wait.filter (fun m => m.vl == vl)
  match ms.find? TxMsg.begun with
  | some m => if l.hasCredit m then some m else none
  | none => (ms.filter (fun m => l.hasCredit m)).foldl (fun (best : Option TxMsg) m => match best with
      | some b => if b.hops < m.hops then some m else some b
      | none => some m) none

/-- Take one flit off a message of the queue. -/
def takeFlit (m : TxMsg) : List TxMsg → List TxMsg
  | [] => []
  | x :: rest => if x = m then (if x.left ≤ 1 then rest else { x with left := x.left - 1, begun := true } :: rest) else x :: takeFlit m rest

/-- Send the flits that have a credit while fewer than 2,048 are unacknowledged (R603). The first number is fuel. The answer is how
many were sent. -/
def sendFlits : Nat → LinkState → Nat × LinkState
  | 0, l => (0, l)
  | f + 1, l =>
    if 2048 ≤ l.replay.length then (0, l)
    else match ([turnVl l.turn, 0, 1, 2, 3].map (fun v => l.readyMsg v)).find? Option.isSome with
      | some (some m) =>
        let k := m.vl * 6 + (m.hops - 1)
        let l := { l with wait := takeFlit m l.wait, replay := l.replay ++ [(m.vl, m.hops - 1)], txSeq := (l.txSeq + 1) % 4096, turn := (l.turn + 1) % 16, credits := tset l.credits k (tget l.credits k 0 - 1) }
        let (n, l) := sendFlits f l
        (n + 1, l)
      | _ => (0, l)

/-- A link's record. -/
def State.link (s : State) (l : Nat) : LinkState := tget s.fab.links l {}

/-- Set a link's record. -/
def State.setLink (s : State) (l : Nat) (x : LinkState) : State := { s with fab := { s.fab with links := tset s.fab.links l x } }

/-- A link sends what it may. -/
def pumpLink (l : Nat) (s : State) : State :=
  let x := s.link l
  let (n, x) := sendFlits ((x.wait.map TxMsg.left).sum) x
  (s.setLink l x).addPair (R.linkTxFlits l) n

/-- Transmit a message on its links. -/
def transmit (m : FabMsg) (s : State) : State :=
  let s := { s with fab := { s.fab with out := s.fab.out ++ [m] } }
  m.via.foldl (fun s l =>
    let x := s.link l
    pumpLink l (s.setLink l { x with wait := x.wait ++ [{ id := m.id, vl := m.body.vl m.part, hops := m.hops, left := m.body.flits }] })) s

/-- Send a message on the tray fabric (R607): one MSG_ID each. A module in fail-stop or Neap mode transmits nothing (R619, R664). -/
def sendMsg (dst part link : Option Nat) (b : MsgBody) (s : State) : State :=
  if s.failStopped || s.stage == 10 then s
  else
    let m : FabMsg := { src := s.bay, dst := dst, part := part, id := s.fab.nextMsg, via := s.linksFor dst link none b, body := b }
    transmit m { s with fab := { s.fab with nextMsg := (s.fab.nextMsg + 1) % 2 ^ 32 } }

/-- Broadcast a message. -/
def broadcast (b : MsgBody) (s : State) : State := sendMsg none none none b s

/-- Send a module message to one bay. -/
def unicast (bay : Nat) (b : MsgBody) (s : State) : State := sendMsg (some bay) none none b s

/-! ## The lease table (R866) -/

/-- A LEASE message, received or sent, in the table: the highest epoch seen and its bay, of two the lower (R79); a release removes an entry not above it. -/
def noteLease (h epoch bay : Nat) (released : Bool) (s : State) : State :=
  match tfind s.fab.leases h with
  | some (e, b) =>
    if released then (if e ≤ epoch then { s with fab := { s.fab with leases := terase s.fab.leases h } } else s)
    else if e < epoch ∨ (e = epoch ∧ bay < b) then { s with fab := { s.fab with leases := tset s.fab.leases h (epoch, bay) } } else s
  | none => if released then s else { s with fab := { s.fab with leases := tset s.fab.leases h (epoch, bay) } }

/-- Announce a lease of this module, or its release. -/
def announce (h epoch : Nat) (released : Bool) (s : State) : State :=
  broadcast (.lease h epoch s.bay released) (noteLease h epoch s.bay released s)

/-- A stream's seats are given up (R89, R90). -/
def leaveSeats (d : Nat) (x : Stream) (s : State) : State :=
  let s := match x.flood.seat with | some i => leaveSeat i d s | none => s
  match x.ebb.seat with | some i => leaveSeat i d s | none => s

/-- The cut and pair registers follow the stream table (R139): pairing entry of each flood slot of a port. -/
def pairSync (port : Nat) (s : State) : State :=
  (List.range 32).foldl (fun s slot =>
    let v := match s.slotHolder port slot false with
      | some (_, x) => if x.par.ebbEn && x.leased then 0x80 + x.par.ebbSlot else 0
      | none => 0
    let off := R.apPair0 port + 4 * (slot / 4)
    s.setReg off (wset (s.reg off) (8 * (slot % 4) + 7) (8 * (slot % 4)) v)) s

/-- What a port shows of the streams bound to it follows the stream table: its pairs and its tidemark levels (R139, R149). -/
def portSync (port : Nat) (s : State) : State := apTides port (pairSync port s)

/-- The port of a stream follows the stream table. -/
def followStream (p : StreamPar) (s : State) : State := if p.hostFed then s else portSync p.port s

/-- The commands in progress that include a stream. -/
def State.cmdsWith (s : State) (d : Nat) : List Nat := (s.disp.cmds.filter (fun c => c.2.members.any (fun m => m.desc == d))).map Prod.fst

/-- The granules of a stream that leaves are zeroed and freed: now, or once every command in progress that includes it has ended (R90,
R386). -/
def giveGranules (d : Nat) (x : Stream) (s : State) : State :=
  match s.cmdsWith d with
  | [] => releaseGranules (x.grans.map Prod.snd) (s.waitIfGoing x.par.part) s
  | ids => { s with tide := { s.tide with leavers := s.tide.leavers ++ [{ desc := d, str := x, cmds := ids }] } }

/-- A command has ended: the granules of streams that left during it, and during no other still in progress, are zeroed and freed (R386). -/
def endLeavers (id : Nat) (s : State) : State :=
  let l := s.tide.leavers.map (fun z => { z with cmds := z.cmds.filter (· ≠ id) })
  (l.filter (fun z => z.cmds.isEmpty)).foldl (fun s z => releaseGranules (z.str.grans.map Prod.snd) (s.waitIfGoing z.str.par.part) s)
    { s with tide := { s.tide with leavers := l.filter (fun z => !z.cmds.isEmpty) } }

/-- Parts whose record has been sent and not acknowledged (TP_CKPT_STAT.IN_FLIGHT). -/
def flightSync (s : State) : State :=
  let out := fun (y : Dirn) => if y.ckptSent.isSome && y.ckptSent != y.ckptStands then 1 else 0
  s.setFld F.tpCkptStatInFlight ((s.strm.table.map (fun x => out x.2.flood + out x.2.ebb)).sum)

/-- The checkpoint record a message carries is of a stream. -/
def MsgBody.recordOf (b : MsgBody) (handle : Nat) : Bool :=
  match b with
  | .ckptData _ _ r => fieldAt r 0 4 == handle
  | _ => false

/-- The records of a stream that have not left the module whole are sent no further: the flits that wait are dropped, so that no header
reaches the receiver (R439). -/
def abandonSends (handle : Nat) (s : State) : State :=
  let ids := (s.fab.out.filter (fun m => m.src == s.bay && m.body.recordOf handle && m.via.any (fun l => (s.link l).wait.any (fun t => t.id == m.id && t.vl == 1)))).map FabMsg.id
  if ids.isEmpty then s
  else { s with fab := { s.fab with
    out := s.fab.out.filter (fun m => !(m.src == s.bay && m.body.recordOf handle && ids.contains m.id))
    links := s.fab.links.map (fun (l : Nat × LinkState) => (l.1, { l.2 with wait := l.2.wait.filter (fun t => !(t.vl == 1 && ids.contains t.id)) })) } }

/-- A stream ceases to exist on this module: seats, granules, pages and descriptor are freed; transfers under way for it are
dropped, a record on its way is sent no further; its checkpoint slots at the target, and at former ones, are freed (R90, R439, R625). -/
def removeStream (d : Nat) (s : State) : State :=
  match s.stream d with
  | none => s
  | some x =>
    let s := giveGranules d x (leaveSeats d x s)
    let s := { s with strm := { s.strm with table := terase s.strm.table d },
                      tide := { s.tide with moves := s.tide.moves.filter (fun m => m.desc != d) } }
    let s := flightSync (abandonSends x.par.handle s)
    let s := (s.tide.target.toList ++ (s.tide.old.filter (fun o => o.1 == d)).map Prod.snd).foldl (fun s b => unicast b (.ckptFree x.par.handle) s) s
    let s := { s with tide := { s.tide with old := s.tide.old.filter (fun o => o.1 != d) } }
    countStreams (followStream x.par s)

/-- The commands that wait on a stream end with it: its closes with a status (R96), and its EBB_CANCELs. -/
def endClose (x : Stream) (status : Nat) (s : State) : State :=
  let s := x.cancelCmd.foldl (fun s c => completeCmd c.1 c.2 St.ok 0 x.par.handle 0 s) s
  x.closeCmd.foldl (fun s c => completeCmd c.1 c.2 status 0 x.par.handle 0 s) s

/-- A stream departs by a close: the lease is released, STREAM_CLOSED recorded, and the close completes (R66, R96, R866).
`mode` is 0 DRAIN, 1 ABORT. -/
def departStream (d mode : Nat) (s : State) : State :=
  match s.stream d with
  | none => s
  | some x =>
    let s := if !x.leased then s
      else announce x.par.handle x.epoch true s
    let s := removeStream d s
    let s := emit Ev.streamClosed (some x.par.part) 9 0 x.par.handle mode 0 s
    let s := match x.xfer with
      | some t => match t.cmd with | some (q, id) => completeCmd q id St.aborted 0 x.par.handle 0 s | none => s
      | none => s
    endClose x St.ok s

/-- A stream is dropped because its lease went to another module (R78): at a transfer source the first event is
STREAM_MIGRATED and STREAM_TRANSFER completes with the new epoch (R630). -/
def dropStream (d epoch newBay : Nat) (s : State) : State :=
  match s.stream d with
  | none => s
  | some x =>
    let source := (x.xfer.map Xfer.source).getD false && x.state == .migrating
    let s := removeStream d s
    let s := if source then emit Ev.streamMigrated (some x.par.part) 9 0 x.par.handle epoch newBay s
      else emit Ev.streamLeaseLost (some x.par.part) 9 0 x.par.handle epoch 0 s
    let s := emit Ev.streamClosed (some x.par.part) 9 0 x.par.handle 2 0 s
    let s := match x.xfer with
      | some t => match t.cmd with | some (q, id) => completeCmd q id St.ok 0 x.par.handle epoch s | none => s
      | none => s
    endClose x (if x.closing = some 0 ∧ x.state = .migrating then St.handle else St.ok) s

/-- A stream becomes FAILED: it keeps only its descriptor (R65). -/
def failStream (d cause : Nat) (s : State) : State :=
  match s.stream d with
  | none => s
  | some x =>
    let s := giveGranules d x (leaveSeats d x s)
    let s := s.setStream d { x with state := .failed, grans := [], resident := false, pages := [], prefetch := false, swapping := false, xfer := none, flood := { x.flood with seat := none, stepping := false, ckptSent := none, ckptStands := none }, ebb := { x.ebb with seat := none, stepping := false, ckptSent := none, ckptStands := none } }
    let s := { s with tide := { s.tide with moves := s.tide.moves.filter (fun m => m.desc != d) } }
    emit Ev.streamFailed (some x.par.part) 9 0 x.par.handle cause 0 (flightSync (countStreams (followStream x.par s)))

end Sys2Proof.Machine
end

