-- ==== Sys2Proof/Machine/Sinks.lean ====
section
/-! DEFINITION. Where stream results go: the partition's result ring, or an image-declared result ring (R102, R248). -/

namespace Sys2Proof.Machine

/-- The level of an image-declared ring, given by its block number (ring number less one): TAIL less HEAD. -/
def State.iringLevel (s : State) (n : Nat) : Nat :=
  let size := 2 ^ s.fld (F.iringCfgLog2 n)
  (s.fld (F.iringTailTail n) + size - s.fld (F.iringHeadHead n)) % size

/-- The tidemark of an image-declared ring follows its level. -/
def iringTide (n : Nat) (s : State) : State :=
  let l := s.iringLevel n
  tmNotify (tmLevel (R.iringTmCfg n) l s) Ev.iringTidemark 9 (n + 1) (n + 1) l

/-- Write a record to an image-declared ring; a full ring loses its oldest record (R102). -/
def iringWrite (n : Nat) (r : Result) (s : State) : State :=
  let size := 2 ^ s.fld (F.iringCfgLog2 n)
  let tail := s.fld (F.iringTailTail n)
  let base := ((tfind s.boot.rings (n + 1)).map Prod.snd).getD 0
  let phase := tget s.boot.ringPhase (n + 1) true
  let s := s.pokeDram (base + 64 * tail) (r.bytes phase)
  let next := (tail + 1) % size
  let s := if next = s.fld (F.iringHeadHead n) then s.setFld (F.iringHeadHead n) ((next + 1) % size) else s
  let s := s.setFld (F.iringTailTail n) next
  iringTide n (if next = 0 then { s with boot := { s.boot with ringPhase := tset s.boot.ringPhase (n + 1) (!phase) } } else s)

/-- A stream's result goes to its sink: 0 the partition's result ring, 1 to 8 an image-declared ring (R97). -/
def sinkResult (sink part : Nat) (r : Result) (s : State) : State :=
  if sink = 0 then streamResult part r s
  else if s.bit (F.iringCfgValid (sink - 1)) then iringWrite (sink - 1) r s else s

/-- A stream's result goes to its sink, unless an ABORT is to take it out at the next step boundary: it gives no further results (R96). -/
def giveResult (x : Stream) (r : Result) (s : State) : State :=
  if x.closing = some 1 then s else sinkResult x.sink x.par.part r s

end Sys2Proof.Machine
end

