-- ==== Sys2Proof/Machine/Boundary.lean ====
section
/-! DEFINITION. The step boundary: departures, then joins, in the order of R438 (R90 to R105), and how a stream is opened
and refused (R87, R94, R97 to R101). -/

namespace Sys2Proof.Machine

/-- A stream in ADMIT_WAIT is refused after its acceptance (R94, R101). -/
def refuseStream (d reason : Nat) (s : State) : State :=
  match s.stream d with
  | none => s
  | some x =>
    let s := removeStream d s
    let s := noteRefusal x.par.handle reason s
    let s := emit (if x.standing.isSome then Ev.standingRefused else Ev.streamRefused) (some x.par.part) 9 0 x.par.handle reason 0 s
    endClose x St.ok s

/-- A stream's whole allocation is taken now: granules, zeroed, and for GUARANTEED its swap pages (R91, R423). -/
def takeAllocation (d : Nat) (s : State) : State :=
  match s.stream d with
  | none => s
  | some x =>
    let (gs, s) := takeGranules x.par.granules s
    let pages := if x.par.cls = 0 then s.takePages x.par.part x.par.granules else []
    s.setStream d { x with grans := (List.range gs.length).zip gs, resident := true, pages := pages }

/-- Granules and swap pages a join is short of (R94). Where the quota and the pool are both short, the larger shortfall is what the join
lacks (log entry 121). -/
def State.shortOf (s : State) (x : Stream) : Nat × Nat :=
  let quotaShort := s.partGranules x.par.part + x.par.granules - (s.quota x.par.part).granules
  let poolShort := x.par.granules - s.shareFree
  let pages := if x.par.cls = 0 then x.par.granules - s.pagesFree x.par.part else 0
  (max quotaShort poolShort, pages)

/-- One join at a step boundary (R91 to R94): taken whole, or deferred once and retried, or refused when SLACK has elapsed. -/
def tryJoin (d : Nat) (s : State) : State :=
  match s.stream d with
  | none => s
  | some x =>
    if x.state ≠ .admitWait then s
    else
      let (g, p) := s.shortOf x
      if g = 0 ∧ p = 0 then
        let s := takeAllocation d s
        let s := s.modStream d (fun x => { x with state := .idle })
        let s := if x.par.cls = 0 then beginSwapOut 5 d s else s
        emit Ev.streamOpened (some x.par.part) 9 0 x.par.handle d 0 (countStreams s)
      else
        let late := decide (x.accepted + x.par.slack * 1000 ≤ s.time)
        let s := makeRoom x.par.part x.par.granules s
        if late then refuseStream d 0x0E s
        else if x.deferred then s
        else emit Ev.streamAdmitDeferred (some x.par.part) 9 0 x.par.handle g p (s.setStream d { x with deferred := true })

/-- A draining stream has nothing left: no complete chunk, no step, no ebb input, every ebb chunk played out (R96). -/
def State.drained (s : State) (x : Stream) : Bool :=
  x.ready.isEmpty && (x.ended.isEmpty || !x.par.floodEn) && !x.flood.stepping && !x.ebb.stepping && x.ebbIn.isEmpty &&
  (x.par.hostFed || !x.par.ebbEn || decide (x.playTo ≤ (s.port x.par.port).idx))

/-- An utterance of a stream ends: the chunk on its way out that was produced last is its last; when all of it has left the port, its
EBB_PLAYED is due now (R248). -/
def endUtterance (d : Nat) (s : State) : State :=
  match s.stream d with
  | none => s
  | some x => match x.plays.reverse with
    | p :: rest => s.setStream d { x with plays := rest.reverse ++ [{ p with last := true }] }
    | [] => match x.played with
      | some k => giveResult x { kind := 3, rflags := x.uttFlags, handle := x.par.handle, value := k, tag := x.par.userTag, done := s.time } (s.setStream d { x with played := none, uttFlags := 0 })
      | none => s

/-- How a stream departs at this boundary: 0 DRAIN, 1 ABORT, none not yet (R96, R103). -/
def State.departs (s : State) (x : Stream) : Option Nat :=
  match x.closing with
  | some 1 => some 1
  | some _ =>
    match x.state with
    | .admitWait => some 0
    | .failed => some 0
    | .draining => if s.drained x then some 0 else none
    | _ => none
  | none => none

/-- Every departure of a step boundary, in descriptor order. -/
def departures : List (Nat × Stream) → State → State
  | [], s => s
  | (d, x) :: rest, s =>
    departures rest (match s.departs x with | some m => departStream d m s | none => s)

/-- Every join of a step boundary, in the order their commands executed (R93). -/
def joins : List (Nat × Stream) → State → State
  | [], s => s
  | (d, _) :: rest, s => joins rest (tryJoin d s)

/-- Open a stream for an origin: the checks of R88 in order, then the plan, then ADMIT_WAIT (R87). The answer is the
descriptor or the reason of the refusal. -/
def openStream (p : StreamPar) (o : Origin) (sink : Nat) (standing : Option Nat) (leaseHeld : Bool) (s : State) : Except Nat Nat × State :=
  match s.admitCheck p o with
  | some r => (.error r, noteRefusal p.handle r s)
  | none =>
    match s.admitPlan p true with
    | .error r => (.error r, noteRefusal p.handle r s)
    | .ok plan =>
      if leaseHeld then (.error 0x0F, noteRefusal p.handle 0x0F s)
      else
        let (d, s) := accept p .admitWait 1 sink standing plan none s
        (.ok d, followStream p (handLanes p s))

/-- GEN of standing handles: the low 16 bits of the tray config epoch, 1 when they are 0 (R98). -/
def State.standingGen (s : State) : Nat :=
  let g := s.pair R.fabTrayEpoch % 65536
  if g = 0 then 1 else g

/-- Another module holds a handle's lease, by the lease table (R866). -/
def State.leaseElsewhere (s : State) (h : Nat) : Bool :=
  match tfind s.fab.leases h with
  | some (_, b) => b != s.bay
  | none => false

/-- Open the stream of a standing record (R99 to R101): a refusal is recorded as STANDING_REFUSED. -/
def openStanding (r : Standing) (s : State) : Except Nat Nat × State :=
  let p := standingPar r.raw s.bay s.standingGen
  match openStream p .standing r.sink (some r.index) (s.leaseElsewhere p.handle) s with
  | (.ok d, s) => (.ok d, s)
  | (.error e, s) => (.error e, emit Ev.standingRefused (some p.part) 9 0 p.handle e 0 s)

/-- Open every standing stream in RECORD_INDEX order at the first step boundary after Ready (R99). -/
def openAllStanding : List Standing → State → State
  | [], s => s
  | r :: rest, s => openAllStanding rest (openStanding r s).2

/-- The standing streams are still to be opened: no host request is decided before (R99). -/
def State.standingDue (s : State) : Bool := s.ready && !s.strm.standingOpened && !s.strm.standing.isEmpty

end Sys2Proof.Machine
end

