-- ==== Sys2Proof/Machine/Pcie.lean ====
section
/-! DEFINITION. PCIe: the functions of the tray and their identities, what the module and the switch support, and what the model keeps of it
(R218 to R220, R721, R802). -/

namespace Sys2Proof.Machine

/-- A downstream port of the tray switch: one for each bay, and one for the Lighthouse (R29). -/
inductive SwitchPort where
  | bay (n : Fin 16)
  | lighthouse
  deriving DecidableEq, Repr

/-- The ACS controls of a downstream port (R218). -/
inductive AcsControl where
  | sourceValidation
  | requestRedirect
  | completionRedirect
  | upstreamForwarding
  deriving DecidableEq, Repr

/-- A function of the tray as the host finds it (R29, R218, R721). -/
inductive PcieFn where
  | pf0
  | vf (n : Nat)
  | switchUp
  | switchDown (port : SwitchPort)
  | lighthouse
  deriving DecidableEq, Repr

/-- Vendor ID, Device ID and class code (R219, R721). -/
def PcieFn.identity : PcieFn → Nat × Nat × Nat
  | .pf0 => (0x1EF4, 0x6000, 0x120000)
  | .vf _ => (0x1EF4, 0x6001, 0x120000)
  | .switchUp => (0x1EF4, 0x6020, 0x060400)
  | .switchDown _ => (0x1EF4, 0x6021, 0x060400)
  | .lighthouse => (0x1EF4, 0x6010, 0x088000)

/-- What a function supports (R218): a value of its own, not a state. -/
structure PcieCaps where
  /-- generations and widths the link trains at -/
  gens : List Nat
  lanes : List Nat
  /-- payload and read request sizes in bytes -/
  payloads : List Nat
  reads : List Nat
  /-- non-posted requests outstanding at most -/
  tags : Nat
  msix : Bool
  aer : Bool
  flr : Bool
  /-- TotalVFs, First VF Offset, VF Stride -/
  sriov : Option (Nat × Nat × Nat)
  d3hot : Bool
  aspm : Bool
  /-- ATS, PRI, PASID -/
  translates : Bool
  /-- Relaxed Ordering or No Snoop is ever set on a request -/
  relaxed : Bool
  /-- hot-plug with presence detect -/
  hotPlug : Bool
  /-- Downstream Port Containment -/
  dpc : Bool
  acs : List AcsControl
  deriving DecidableEq, Repr

/-- The features of the module's functions, of the Lighthouse and of the switch ports (R29, R218, R721). -/
def PcieFn.caps (f : PcieFn) : PcieCaps :=
  let mod : PcieCaps := { gens := [1, 2, 3, 4, 5], lanes := [4, 2, 1], payloads := [128, 256, 512], reads := [128, 256, 512, 1024, 2048, 4096], tags := 256,
                          msix := true, aer := true, flr := true, sriov := none, d3hot := false, aspm := false, translates := false, relaxed := false, hotPlug := false, dpc := false, acs := [] }
  match f with
  | .pf0 => { mod with sriov := some (64, 1, 1), d3hot := true }
  | .vf _ => mod
  | .switchUp => { mod with lanes := [16], msix := false, flr := false }
  | .switchDown port =>
    { mod with lanes := (match port with | .bay _ => [4, 2, 1] | .lighthouse => [1]), msix := false, flr := false, hotPlug := true, dpc := true,
               acs := [.sourceValidation, .requestRedirect, .completionRedirect, .upstreamForwarding] }
  | .lighthouse => { mod with lanes := [1] }

/-- The number of the function behind PF0 that a VF is: First VF Offset and VF Stride of 1 (R218, R220). -/
def vfFunction (p : Nat) : Nat := p + 1

/-- A function logs an error in its AER registers (R218). -/
def noteAer (fn : Nat) (s : State) : State :=
  if s.pcie.aer.contains fn then s else { s with pcie := { s.pcie with aer := s.pcie.aer ++ [fn] } }

/-- The switch's DPC contains the downstream port of a bay whose module is gone (R802). -/
def containPort (bay : Nat) (s : State) : State :=
  if s.pcie.contained.contains bay then s else { s with pcie := { s.pcie with contained := s.pcie.contained ++ [bay] } }

/-- The module link trains, at values PF0 and the switch port of its bay (all bay ports are alike) support; others leave the link as it was (R29, R218). -/
def trainPcie (l : PcieLink) (s : State) : State :=
  let ends := [PcieFn.pf0.caps, (PcieFn.switchDown (.bay 0)).caps]
  if ends.all (fun c => c.gens.contains l.gen && c.lanes.contains l.lanes && c.payloads.contains l.maxPayload && c.reads.contains l.maxRead) then
    { s with pcie := { s.pcie with link := l } }
  else s

/-- The power state of PF0 (R218, R226). -/
def setD3hot (b : Bool) (s : State) : State := { s with pcie := { s.pcie with d3hot := b } }

end Sys2Proof.Machine
end

