-- ==== Sys2Proof/Machine/Access.lean ====
section
/-! DEFINITION. How a register access is screened: what each access path reaches (R222, R823), which blocks answer (R25,
R665, R821), and the order of R865. -/

namespace Sys2Proof.Machine

/-- The device-region offset a path's offset names: a VF reaches only the window of R222, every other path the region. -/
def pathOffset (p : Path) (off : Nat) : Option Nat :=
  match p with
  | .vf n =>
    if off < 0x1000 then some (0x100000 + (n.val + 1) * 0x1000 + off)
    else if 0x1000 ≤ off ∧ off < 0x1024 then some (0x980000 + (off - 0x1000))
    else if 0x2000 ≤ off ∧ off < 0x2010 then some (off - 0x2000)
    else none
  | _ => some off

/-- The implemented spans of R819 and R820: first offset, bytes of one, how many there are, and how far apart. -/
def spans : List (Nat × Nat × Nat × Nat) := [
  (0x0, 0x4C, 1, 0), (0x100000, 0x1000, 65, 0x1000), (0x180000, 0x40, 1, 0), (0x200000, 0xC4, 1, 0), (0x300000, 0x1000, 8, 0x1000),
  (0x400000, 0x100, 4, 0x100), (0x401000, 0x40, 8, 0x40), (0x500000, 0x400, 64, 0x400), (0x510000, 0x1C, 1, 0), (0x600000, 0x34, 1, 0),
  (0x601000, 0x100, 12, 0x100)] ++ [
  (0x700000, 0x38, 1, 0), (0x701000, 8, 64, 8), (0x800000, 0x6C, 1, 0), (0x900000, 0x324, 1, 0), (0x980000, 0x500, 1, 0), (0xA00000, 0x100, 6, 0x100),
  (0xA10000, 0x60, 1, 0), (0xB00000, 0x24, 1, 0), (0xC00000, 0x38, 1, 0), (0x1000000, 0x50000, 8, 0x100000)]

/-- An offset lies in an implemented span; every other one is unimplemented (R821). -/
def implemented (off : Nat) : Bool :=
  spans.any (fun x => decide (x.1 ≤ off) && (if x.2.2.2 = 0 then decide (off - x.1 < x.2.1)
    else decide ((off - x.1) / x.2.2.2 < x.2.2.1) && decide ((off - x.1) % x.2.2.2 < x.2.1)))

/-- The page of the queue block an offset lies in, as a queue number: the admin page is the first. -/
def pageQueue (off : Nat) : Nat :=
  let p := (off - 0x100000) / 0x1000
  if p = 0 then adminQ else p - 1

/-- INSTANCE of an offset: the host queue, port, synthesizer, channel, controller or link its page belongs to, else 0 (R254). -/
def instOf (off : Nat) : Nat :=
  if 0x100000 ≤ off ∧ off < 0x141000 then pageQueue off
  else if 0x180000 ≤ off ∧ off < 0x180040 then 65
  else if 0x300000 ≤ off ∧ off < 0x308000 then (off - 0x300000) / 0x1000
  else if 0x400000 ≤ off ∧ off < 0x400400 then (off - 0x400000) / 0x100
  else if 0x401000 ≤ off ∧ off < 0x401200 then (off - 0x401000) / 0x40
  else if 0x500000 ≤ off ∧ off < 0x510000 then (off - 0x500000) / 0x400
  else if 0x601000 ≤ off ∧ off < 0x601C00 then (off - 0x601000) / 0x100
  else if 0xA00000 ≤ off ∧ off < 0xA00600 then (off - 0xA00000) / 0x100
  else 0

/-- UNIT of an offset: bits [27:20] (R254). -/
def unitOf (off : Nat) : Nat := off / 2 ^ 20 % 256

/-- The block at an offset answers: not on a powered-off die, and in Neap mode one of the blocks of R665. The compute and
state dies are powered from stage 4 on (R708, log entry 6). -/
def State.answers (s : State) (off : Nat) : Bool :=
  let u := unitOf off
  let st := s.stage
  if st = 10 then u == 0 || u == 1 || u == 2 || u == 0xB || u == 0xC
  else if u == 8 || decide (0x10 ≤ u ∧ u < 0x18) then decide (4 ≤ st)
  else true

/-- The debug paths are open: RAW and MAKER, a session in OWNER, RETURN once RETURN_DONE is burned (R685, R694). -/
def State.debugOpen (s : State) : Bool :=
  match s.sec.lc with
  | 0 => true
  | 1 => true
  | 2 => s.sec.session
  | 4 => s.sec.returnDone
  | _ => false

/-- Debug authentication registers answer without a session in OWNER (R694). -/
def State.debugAuth (s : State) : Bool := s.debugOpen || s.sec.lc == 2

/-- An offset is one of the debug authentication registers. -/
def isDbgReg (off : Nat) : Bool := decide (0x200080 ≤ off ∧ off < 0x2000C0)

/-- A path may write the register at an offset (R224, R447, R720, R724, R823). -/
def State.mayWrite (s : State) (p : Path) (off : Nat) : Bool :=
  match p with
  | .hub => true
  | .vf n => decide (off / 0x1000 = 0x101 + n.val) || off == R.streamSel
  | .mgmt => off == R.hubBootCtrl
  | .pf0 =>
    !(decide (0x101000 ≤ off ∧ off < 0x141000)) && !isDbgReg off &&
    !(decide (0x500000 ≤ off ∧ off < 0x510000) && !s.bit (F.dmaChOwnerModule ((off - 0x500000) / 0x400)))
  | .debug =>
    if isDbgReg off then decide (0x2000A0 ≤ off) && s.debugAuth
    else s.debugOpen && !(decide (0x101000 ≤ off ∧ off < 0x141000)) &&
      !(decide (0x500000 ≤ off ∧ off < 0x510000) && !s.bit (F.dmaChOwnerModule ((off - 0x500000) / 0x400)))

/-- A device-region offset lies in the window of a path (R222, R823): a VF reaches its queue page, STREAM_SEL to STREAM_GRAN, and HUB_ID
to HUB_CAPS. -/
def inWindow (p : Path) (off : Nat) : Bool :=
  match p with
  | .vf n => decide (off / 0x1000 = 0x101 + n.val) || decide (0x980000 ≤ off ∧ off < 0x980024) || decide (off < 0x10)
  | _ => true

/-- A register write is screened in the order of R865, and `k` is the register's own rule for a write that passes. `off`
is a device-region offset. A module without power is not reached. A word of an implemented span that holds no register is screened as any
other (R819, R821), and a write of it that passes has no effect. -/
def screen (p : Path) (off : Nat) (be : BitVec 4) (k : State → State) (s : State) : State :=
  if !s.boot.powered || !implemented off || !inWindow p off then s
  else if !s.answers off then emitM Ev.regPoweredOff (unitOf off) (instOf off) off 0 0 s
  else if !s.mayWrite p off then emitM Ev.regPathDenied (unitOf off) (instOf off) off p.code 0 s
  else if be ≠ 0xF#4 then emitM Ev.regPartialWrite (unitOf off) (instOf off) off be.toNat 0 s
  else match findReg deviceBlocks off with
  | none => s
  | some r =>
    if s.boot.locked && r.fields.any (fun f => f.acc == .rwl) then emitM Ev.regLockedWrite (unitOf off) (instOf off) off 0 0 s
    else k s

/-- The access code of a field applied to a written word (R9, R16): the new register word. -/
def RegDef.written (r : RegDef) (old v : Word) : Word :=
  r.fields.foldl (fun w f =>
    let x := wfield v f.hi f.lo
    match f.acc with
    | .rw => wset w f.hi f.lo x
    | .rwl => wset w f.hi f.lo x
    | .w1c => wset w f.hi f.lo (wfield (w &&& ~~~v) f.hi f.lo)
    | .w1s => wset w f.hi f.lo (wfield (w ||| v) f.hi f.lo)
    | .ro => w
    | .wo => w
    | .rc => w) old

/-- A register word after an RC read: its RC fields cleared (R9). -/
def RegDef.afterRead (r : RegDef) (old : Word) : Word :=
  r.fields.foldl (fun w f => if f.acc = .rc then wset w f.hi f.lo 0 else w) old

/-- What a read returns of a stored word: WO fields and reserved bits read 0 (R9, R16). -/
def RegDef.readable (r : RegDef) (w : Word) : Word :=
  r.fields.foldl (fun a f => if f.acc = .wo then a else wset a f.hi f.lo (wfield w f.hi f.lo)) 0

/-- What a path holds apart from the others (R15, R824). -/
def State.pathState (s : State) (p : Path) : PathState := tget s.paths p.code {}

/-- Set what a path holds. -/
def State.setPath (s : State) (p : Path) (x : PathState) : State := { s with paths := tset s.paths p.code x }

/-- A path's staged half of a 64-bit value is used up by a commit (R13). -/
def dropStaged (p : Path) (lo : Nat) (s : State) : State := s.setPath p { s.pathState p with staged := terase (s.pathState p).staged lo }

/-- A selector of a path, at its reset value until the path writes it (R824). -/
def State.sel (s : State) (p : Path) (off : Nat) : Word := (tfind (s.pathState p).sel off).getD (regReset deviceBlocks off)

end Sys2Proof.Machine
end

