-- ==== Sys2Proof/Machine/HostCmds.lean ====
section
/-! DEFINITION. The host-interface family: doorbells, fetches, queue control, the event queue, interrupt vectors
(R227 to R237, R252, R253, R267, R247). -/

namespace Sys2Proof.Machine

/-- The SQ_TAIL doorbell (R229): ignored while EN = 0, out of range, or at the current value. -/
def effSqTail (q : Nat) (v : Word) (s : State) : State :=
  let p := page q
  let t := wfield v 15 0
  if !s.bit (F.qCtrlEn p) then s
  else if t ≥ s.sqSize q then
    emit Ev.doorbellRange (qPart q) 1 q t 0 0 (s.setBit (F.qStatusDbErr p) true)
  else if t = s.fld (F.sqTailTail p) then s
  else
    let s := s.setFld (F.sqTailTail p) t
    let x := s.queue q
    issueFetch q (s.setQueue q { x with bells := x.bells ++ [(t, s.time)] })

/-- The doorbell tray time of a command of `w` slots at the ring head (R228). -/
def bellTime (q w : Nat) (s : State) : Nat :=
  let n := s.sqSize q
  let h := s.fld (F.sqHeadHead (page q))
  (((s.queue q).bells.find? (fun b => decide (w ≤ (b.1 + n - h) % n))).map Prod.snd).getD s.time

/-- Take the commands of a fetch return in ring order: at most `room` slots, a critical command only whole, and none beyond
the limits of R231 (R230, R234, R245). The first number is fuel. -/
def takeSlots (q : Nat) : Nat → Nat → List Byte → State → State
  | 0, _, _, s => s
  | n + 1, room, data, s =>
    let x := s.queue q
    let head := s.fld (F.sqHeadHead (page q))
    let w := if fieldAt data 1 1 % 2 = 1 then 2 else 1
    if data.length < 64 * w ∨ s.sqAvail q < w ∨ room < w ∨ x.cmds.length ≥ 256 ∨ x.cmds.length ≥ s.rqFree q then s
    else
      let c : QCmd := { id := x.nextId, slot := head, raw := data.take (64 * w), doorbell := bellTime q w s, begun := false }
      let next := (head + w) % s.sqSize q
      let s := (s.setFld (F.sqHeadHead (page q)) next).setQueue q { x with cmds := x.cmds ++ [c], nextId := x.nextId + 1, bells := x.bells.filter (fun b => decide (w < (b.1 + s.sqSize q - head) % s.sqSize q)) }
      takeSlots q n (room - w) (data.drop (64 * w)) s

/-- The partition whose turn comes next among those with a fetch to make: round-robin from the one after the last served (R234). -/
def State.partTurn (s : State) : Option Nat :=
  ((List.range 64).map (fun i => (s.host.turn + 1 + i) % 64)).find? (fun p => (s.queue p).reading)

/-- The queue whose turn it is: the admin queue at every second turn, else the next partition (R234). -/
def State.fetchTurn (s : State) : Option Nat :=
  if (s.queue adminQ).reading && (!s.host.adminTurn || s.partTurn.isNone) then some adminQ else s.partTurn

/-- A queue's turn is taken. -/
def takeTurn (q : Nat) (s : State) : State :=
  { s with host := { s.host with turn := if q = adminQ then s.host.turn else q, adminTurn := q == adminQ } }

/-- Complete every fetched command of a queue with CMD_ABORTED, in ring order. -/
def abortFetched (q : Nat) : Nat → State → State
  | 0, s => s
  | n + 1, s =>
    match (s.queue q).cmds with
    | [] => s
    | c :: _ => abortFetched q n (endCmd q c.id St.aborted 0 c.streamHandle 0 s.time s)

/-- The queue's partition is being destroyed: what it still fetches completes with CMD_ABORTED (R551). -/
def State.destroying (s : State) (q : Nat) : Bool := q != adminQ && ((tfind s.disp.parts q).map Partition.state == some .destroying)

/-- A fetch read returns at its queue's turn (R230, R234, R235, R236): its commands are fetched, or a host error stops the queue. -/
def fetchReturn (q : Nat) (r : HostRead) (s : State) : State :=
  let x := s.queue q
  let p := page q
  if s.fetchTurn ≠ some q then s
  else
    let s := asFunction (queueFn q) (takeTurn q (s.setQueue q { x with reading := false }))
    match r.bytes? with
    | some data =>
      let s := syncQ q (takeSlots q 8 8 data s)
      if s.destroying q then syncQ q (abortFetched q (s.queue q).cmds.length s) else issueFetch q (advanceQ q s)
    | none =>
      let addr := s.pair (R.sqBase p) + 64 * s.fld (F.sqHeadHead p)
      let s := (s.setBit (F.qCtrlEn p) false).setBit (F.qStatusHostErr p) true
      emit Ev.queueFault (qPart q) 1 q q addr 0 (syncQ q s)

/-- A pointer value lies on the span from a head forward to a tail, both included, counted modulo the ring's size n (R233, R267). -/
def onSpan (n head tail v : Nat) : Bool := decide (v < n) && decide (((v : Int) - head) % n ≤ ((tail : Int) - head) % n)

/-- The RQ_HEAD register (R233). -/
def effRqHead (q : Nat) (v : Word) (s : State) : State :=
  let p := page q
  let h := wfield v 15 0
  let cur := s.fld (F.rqHeadHead p)
  let lg := s.fld (F.rqCfgLog2 p)
  let sized := decide (4 ≤ lg ∧ lg ≤ 16)
  if h = cur ∧ (sized = false ∨ h < s.rqSize q) then s
  else if sized && onSpan (s.rqSize q) cur (s.fld (F.rqTailTail p)) h then issueFetch q (s.setFld (F.rqHeadHead p) h)
  else s.setBit (F.qStatusDbErr p) true

/-- A partition can run its queue: the admin queue always, a partition's while it is ACTIVE (R227, R546). -/
def State.queueOwner (s : State) (q : Nat) : Bool :=
  q == adminQ || ((tfind s.disp.parts q).map Partition.state == some .active)

/-- Setting EN (R227). -/
def effQueueEnable (q : Nat) (s : State) : State :=
  let p := page q
  let a := s.fld (F.sqCfgLog2 p)
  let b := s.fld (F.rqCfgLog2 p)
  if s.bit (F.qCtrlEn p) then s
  else if s.queueOwner q ∧ 4 ≤ a ∧ a ≤ 16 ∧ 4 ≤ b ∧ b ≤ 16 then
    issueFetch q (syncQ q (s.setBit (F.qCtrlEn p) true))
  else s.setBit (F.qStatusCfgErr p) true

/-- Clearing EN (R236). -/
def effQueueDisable (q : Nat) (s : State) : State := syncQ q (s.setBit (F.qCtrlEn (page q)) false)

/-- The four pointers and the ring phase return to their start (R250). -/
def ringReturn (q : Nat) (s : State) : State :=
  let p := page q
  let s := (((s.setFld (F.sqHeadHead p) 0).setFld (F.sqTailTail p) 0).setFld (F.rqHeadHead p) 0).setFld (F.rqTailTail p) 0
  s.setQueue q { s.queue q with phase := true, bells := [] }

/-- Q_CTRL.RESET (R236). -/
def effQueueReset (q : Nat) (s : State) : State :=
  let s := effQueueDisable q s
  let s := s.setQueue q { s.queue q with reading := false }
  syncQ q (ringReturn q (abortFetched q (s.queue q).cmds.length s))

/-- A function-level reset of a queue: disabled and reset, its fetched commands ending without a record (R225). An RQ_OVERFLOW episode ends
with it (DESIGN CHOICE: R232 ends one only when a record is next written; log entry 135). -/
def flrQueue (q : Nat) (s : State) : State :=
  let s := effQueueDisable q s
  let s := s.setQueue q { s.queue q with reading := false, cmds := [], episode := false }
  syncQ q (ringReturn q s)

/-- A write of a ring base or size: ignored while EN = 1, else it returns the pointers (R227). -/
def effQueueCfg (q : Nat) (f : State → State) (s : State) : State :=
  if s.bit (F.qCtrlEn (page q)) then s else ringReturn q (f s)

/-- The vector of event records: 0 of the module's PF0, 1 of the Lighthouse (R251, R721). -/
def State.evVector (s : State) : Nat := if s.host.ownUnit = 1 then 0 else 1

/-- No vector fires for the event records of a queue that is disabled, nor for those written before (R260). -/
def evSilence (s : State) : State :=
  let k := vectorKey 0 s.evVector
  { s with host := { s.host with vectors := tset s.host.vectors k { tget s.host.vectors k {} with unsignalled := 0 } } }

/-- EVQ_CFG (R253). A new LOG2 changes the level of the queue's tidemark (R261). -/
def effEvqCfg (v : Word) (s : State) : State :=
  let en := wfield v 8 8 = 1
  let lg := wfield v 4 0
  if s.bit F.evqCfgEn then
    if en then s
    else evStatus (evTide (evSilence ((((s.setBit F.evqCfgEn false).setFld F.evqCfgLog2 lg).setBit F.evqStatusAlert false).setBit F.hubAlertEvqLoss false)))
  else if en then
    if 6 ≤ lg ∧ lg ≤ 16 then
      let s := (((s.setFld F.evqCfgLog2 lg).setFld F.evqHeadHead 0).setFld F.evqTailTail 0).setBit F.evqCfgEn true
      evSettle { s with host := { s.host with evPhase := true } }
    else evTide ((s.setFld F.evqCfgLog2 lg).setBit F.evqStatusCfgErr true)
  else evTide (s.setFld F.evqCfgLog2 lg)

/-- EVQ_HEAD (R267). -/
def effEvqHead (v : Word) (s : State) : State :=
  let h := wfield v 15 0
  let cur := s.fld F.evqHeadHead
  let lg := s.fld F.evqCfgLog2
  let sized := decide (6 ≤ lg ∧ lg ≤ 16)
  if h = cur ∧ (sized = false ∨ h < s.evSize) then s
  else if sized && onSpan s.evSize cur (s.fld F.evqTailTail) h then evSettle (s.setFld F.evqHeadHead h)
  else s.setBit F.evqStatusHeadErr true

/-- A W1C of EVQ_STATUS.LOST (R259). -/
def effEvqLostClear (s : State) : State := alertRelease (s.setBit F.evqStatusLost false)

/-- Unmask a vector: one whose PBA bit is set fires (R252). -/
def unmask (fn v : Nat) (s : State) : State :=
  let k := vectorKey fn v
  let x := tget s.host.vectors k {}
  let t := { s with host := { s.host with vectors := tset s.host.vectors k { x with masked := false, pending := false } } }
  if x.pending then fireVector fn v t else t

/-! ## The commands -/

/-- SQ_TAIL_DOORBELL. -/
def execSqTailDoorbell (path : Path) (q : Fin 65) (v : Word) (s : State) : Host.Outcome State Fault Refusal :=
  .next (screen path (R.sqTail (page q)) 0xF#4 (effSqTail q v) s)

/-- RQ_HEAD_WRITE. -/
def execRqHeadWrite (path : Path) (q : Fin 65) (v : Word) (s : State) : Host.Outcome State Fault Refusal :=
  .next (screen path (R.rqHead (page q)) 0xF#4 (effRqHead q v) s)

/-- QUEUE_ENABLE. -/
def execQueueEnable (path : Path) (q : Fin 65) (s : State) : Host.Outcome State Fault Refusal :=
  .next (screen path (R.qCtrl (page q)) 0xF#4 (effQueueEnable q) s)

/-- QUEUE_DISABLE. -/
def execQueueDisable (path : Path) (q : Fin 65) (s : State) : Host.Outcome State Fault Refusal :=
  .next (screen path (R.qCtrl (page q)) 0xF#4 (effQueueDisable q) s)

/-- QUEUE_RESET. -/
def execQueueReset (path : Path) (q : Fin 65) (s : State) : Host.Outcome State Fault Refusal :=
  .next (screen path (R.qCtrl (page q)) 0xF#4 (effQueueReset q) s)

/-- The register write a queue configuration makes: bases are 4 KiB aligned by their reserved bits. -/
def queueCfgSet (q : Nat) (which : QueueCfg) (v : Dword) (s : State) : State :=
  match which with
  | .sqBase => s.setPair (R.sqBase (page q)) (v.toNat % 2 ^ 48 / 4096 * 4096)
  | .rqBase => s.setPair (R.rqBase (page q)) (v.toNat % 2 ^ 48 / 4096 * 4096)
  | .sqCfg => s.setFld (F.sqCfgLog2 (page q)) v.toNat
  | .rqCfg => s.setFld (F.rqCfgLog2 (page q)) v.toNat

/-- The offset of a queue configuration register. -/
def queueCfgOff (q : Nat) (which : QueueCfg) : Nat :=
  match which with
  | .sqBase => R.sqBase (page q)
  | .rqBase => R.rqBase (page q)
  | .sqCfg => R.sqCfg (page q)
  | .rqCfg => R.rqCfg (page q)

/-- QUEUE_CFG_WRITE: one committed write of a base pair or of a size. -/
def execQueueCfgWrite (path : Path) (q : Fin 65) (which : QueueCfg) (v : Dword) (s : State) : Host.Outcome State Fault Refusal :=
  .next (screen path (queueCfgOff q which) 0xF#4 (fun s => effQueueCfg q (queueCfgSet q which v) (if which = .sqBase ∨ which = .rqBase then
    dropStaged path (queueCfgOff q which) s else s)) s)

/-- EVQ_CFG_WRITE. -/
def execEvqCfgWrite (path : Path) (v : Word) (s : State) : Host.Outcome State Fault Refusal :=
  .next (screen path R.evqCfg 0xF#4 (effEvqCfg v) s)

/-- EVQ_HEAD_WRITE. -/
def execEvqHeadWrite (path : Path) (v : Word) (s : State) : Host.Outcome State Fault Refusal :=
  .next (screen path R.evqHead 0xF#4 (effEvqHead v) s)

/-- EVQ_LOST_CLEAR. -/
def execEvqLostClear (path : Path) (s : State) : Host.Outcome State Fault Refusal :=
  .next (screen path R.evqStatus 0xF#4 effEvqLostClear s)

/-- MSIX_MODERATION_TIMER: TIME_US has elapsed since the earliest record not signalled. PF0's vector 0 is silent while the event queue is
disabled (R260). -/
def execMsixModerationTimer (fn : Fin 65) (vec : Fin 2) (s : State) : Host.Outcome State Fault Refusal :=
  .next (if 0 < (tget s.host.vectors (vectorKey fn vec) {}).unsignalled ∧ (fn.val = 0 → vec.val = 0 → s.bit F.evqCfgEn = true) then fireVector fn vec s else s)

/-- MSIX_UNMASK. -/
def execMsixUnmask (fn : Fin 65) (vec : Fin 4) (s : State) : Host.Outcome State Fault Refusal :=
  .next (powered (fun s => unmask fn vec s) s)

/-- KEY_REFUSAL_END: the refusal ends and the count of failures restarts at 0 (R247); slots 0x100 to 0x102 are the
Lighthouse's. -/
def execKeyRefusalEnd (slot : Nat) (s : State) : Host.Outcome State Fault Refusal :=
  .next (if (s.key slot).refusing then s.setKey slot { s.key slot with refusing := false, fails := 0 } else s)

end Sys2Proof.Machine
end

