-- ==== Sys2Proof/Machine/Fail.lean ====
section
/-! DEFINITION. A failed start, Neap mode and the fail-stop (R263, R659 to R667, R784 to R787). -/

namespace Sys2Proof.Machine

/-- The reason codes of R667. -/
abbrev Neap.image : Nat := 1
abbrev Neap.dram : Nat := 2
abbrev Neap.link : Nat := 3
abbrev Neap.epoch : Nat := 4
abbrev Neap.security : Nat := 5
abbrev Neap.thermal : Nat := 6
abbrev Neap.watchdog : Nat := 7

/-- Drive every port's outputs high-impedance (R162). -/
def portsHiZ (s : State) : State :=
  { s with ports := s.ports.map (fun p => (p.1, { p.2 with driven := [], padding := false })) }

/-- The transmitters idle, so every link of this module is down and no bay has a route (R43, R619). What the far ends said last is
kept for R615. -/
def linksIdle (s : State) : State :=
  let s := (List.range 6).foldl (fun s l => (s.setReg (R.linkStatus l) 0).setLink l { far := (s.link l).far }) s
  ((s.setReg R.fabRoute0 0xFFFF_FFFF).setReg R.fabRoute1 0xFFFF_FFFF).setFld F.fabReachReachable 0

/-- Enter Neap mode with a reason (R664, R667). The UNIT of its event is log entry 92's. -/
def enterNeap (reason : Nat) (s : State) : State :=
  let s := ((s.setFld F.hubBootStatusStage 10).setBit F.hubBootStatusNeap true)
  let s := (s.setBit F.hubNeapActive true).setFld F.hubNeapReason reason
  let s := portsHiZ (linksIdle { s with pins := { s.pins with faultN := true, ready := false, heartbeat := false } })
  emitM Ev.neapEntered 0 0 reason 0 0 s

/-- A start fails at its stage (R652, R659, R661, R662): the failure is recorded, an image whose content was refused is
marked for skipping, and the module restarts, or enters Neap mode at once for NEAP_SECURITY. -/
def startFail (reason detail : Nat) (s : State) : State :=
  let st := s.stage
  let img := s.fld F.hubBootStatusImage
  let s := (((s.setFld F.hubBootLastReason reason).setFld F.hubBootLastStage st).setFld F.hubBootLastImage img).setFld F.hubBootLastDetail detail
  let s := if reason = Neap.image ∧ (st = 4 ∨ st = 7) then
      s.setBit (if img = 0 then F.hubBootAttemptsSkipA else F.hubBootAttemptsSkipB) true
    else s
  if reason = Neap.security then enterNeap reason s
  else { s with boot := { s.boot with restartDue := true } }

/-- The abort of a module channel at a fail-stop (R477, R480): HEAD passes the descriptor that runs, and EN clears. -/
def haltModuleChan (c : Nat) (s : State) : State :=
  if s.bit (F.dmaChOwnerModule c) then
    let n := 2 ^ s.fld (F.dmaChRingCfgLog2 c)
    let s := if (s.chan c).run.isSome then s.setFld (F.dmaChHeadHead c) ((s.fld (F.dmaChHeadHead c) + 1) % n) else s
    s.setBit (F.dmaChCtrlEn c) false
  else s

/-- Every DMA channel and mover halts: no record, no DONE, the channel drained (R480). -/
def dmaHalt (s : State) : State :=
  let s := ((List.range 64).filter (fun c => s.bit (F.dmaChCtrlEn c))).foldl (fun s c => haltModuleChan c s) s
  let s := { s with dma := s.dma.map (fun (c : Nat × Chan) => (c.1, { c.2 with queue := [], run := none, waits := [], failed := [], aborting := false })) }
  (s.dma.map Prod.fst).foldl (fun s c =>
    (((s.setBit (F.dmaChStatusActive c) false).setBit (F.dmaChStatusIdle c) true).setBit (F.dmaChStatusDrained c) true).setBit (F.dmaChCtrlAbort c) false) s

/-- Admin commands under way that a fail-stopped module does not accept complete with CMD_STATE (R263, R785). -/
def refuseAdmin (s : State) : State :=
  ((s.queue adminQ).cmds.filter (fun c => c.begun && !([0x00, 0x82, 0x83, 0x84, 0x86].contains c.opcode))).foldl
    (fun s c => completeCmd adminQ c.id St.state 0 c.streamHandle 0 s) s

/-- Partition queues stop: what they fetched completes with CMD_ABORTED, and a fetch still in flight is dropped; admin commands under way complete with CMD_STATE
(R263, R785). -/
def abortPartitions (s : State) : State :=
  (s.host.queues.map Prod.fst).foldl (fun s q =>
    if q = adminQ then refuseAdmin s
    else
      let s := s.setQueue q { s.queue q with reading := false }
      syncQ q (abortFetched q (s.queue q).cmds.length s)) s

/-- All work halts: no command, job, transfer or step is in progress. Descriptors stay until release (R785, R789). -/
def haltWork (s : State) : State :=
  let s := (s.disp.cmds.map Prod.fst).foldl (fun s i => endLeavers i s) (dmaHalt s)
  { s with
    disp := { s.disp with cmds := [], jobs := [], placed := [], creating := [], parts := s.disp.parts.map (fun p => (p.1, { p.2 with next := none })), cores := s.disp.cores.map (fun c => (c.1, { c.2 with cmd := none, job := none, changing := none, modeCmd := [] })) },
    tide := { s.tide with moves := [], target := none, chosen := false },
    strm := { s.strm with table := s.strm.table.map (fun x =>
      (x.1, { x.2 with xfer := none, prefetch := false, swapping := false, flood := { x.2.flood with stepping := false }, ebb := { x.2.ebb with stepping := false } })) } }

/-- Keep the cause in ERR_FS_LAST. -/
def latchLast (event unit cause : Nat) (s : State) : State :=
  ((s.setFld F.errFsLastEvent event).setFld F.errFsLastUnit unit).setFld F.errFsLastUnitCause cause

/-- A fault (R782): before Ready it fails the start (R787), in QUARANTINE and Neap mode, where no start runs, its cause is kept; during fail-stop it is only counted (R785); otherwise the module
fail-stops (R784). `event` is FAIL_STOP word 0. -/
def failStop (event unit cause : Nat) (s : State) : State :=
  if s.failStopped then s.count F.errFsTotalFurther 1
  else if 9 ≤ s.stage then latchLast event unit cause s
  else if s.stage ≠ 8 then startFail Neap.watchdog 0 (latchLast event unit cause s)
  else
    let s := linksIdle (broadcast (.failstop event) s)
    let s := portsHiZ (haltWork s)
    let s := { s with pins := { s.pins with faultN := true, ready := false },
                      boot := { s.boot with stops := s.boot.stops ++ [s.time] } }
    let s := ((s.setBit F.errFsStatusActive true).setFld F.errFsStatusCount24h (satAdd 0 s.boot.stops.length 255)).count F.errFsTotalTotal 1
    let s := ((s.setFld F.errFsCauseEvent event).setFld F.errFsCauseUnit unit).setFld F.errFsCauseUnitCause cause
    let s := ((latchLast event unit cause s).setPair R.errFsTime s.time).setFld F.hubBootAttemptsStableS 0
    abortPartitions (emitM Ev.failStop unit 0 event unit 0 s)

/-- Latch a unit's FAULT register with a cause, keeping the first (R785). -/
def latchFault (off cause : Nat) (s : State) : State :=
  if (s.reg off).getLsbD 31 then s else s.setReg off (BitVec.ofNat 32 (0x80000000 + cause))

/-- An execution fault of a unit: latched in its register, then the fail-stop. `code` is UNIT_CAUSE. -/
def unitFault (off unit event cause code : Nat) (s : State) : State := failStop event unit code (latchFault off cause s)

/-- A scratchpad fault of a core (R405, R410). -/
def spFault (core cause : Nat) (s : State) : State := unitFault (R.spFault core) (0x10 + core) 0 cause (cause + 0x30) s

/-- A matrix-engine fault (R297, R301, R302). -/
def meFault (core cause : Nat) (s : State) : State := unitFault (R.meFault core) (0x10 + core) 0 cause cause s

/-- A vector-engine fault (R344, R345). -/
def veFault (core cause : Nat) (s : State) : State := unitFault (R.veFault core) (0x10 + core) 0 cause (cause + 0x10) s

/-- A recurrence-unit fault (R390, R391). -/
def ruFault (core cause : Nat) (s : State) : State := unitFault (R.ruFault core) (0x10 + core) 0 cause (cause + 0x20) s

/-- A tide-pool fault (R421, R441). -/
def tpFault (cause : Nat) (s : State) : State := unitFault R.tpFault 8 0 cause cause s

/-- An uncorrectable read of carried state or control memory (R442, R506): STATE_UE 1, CONTROL_UE 2. -/
def mcFatal (cause addr : Nat) (s : State) : State :=
  unitFault R.mcFault 6 0x0603 cause cause (emitM Ev.mcUeFatal 6 0 addr (addr / 2 ^ 32) 0 s)

/-- A DMA fault (R471, R491). -/
def dmaFault (cause : Nat) (s : State) : State := unitFault R.dmaFault 5 0 cause cause s

end Sys2Proof.Machine
end

