-- ==== Sys2Proof/Machine/Spad.lean ====
section
/-! DEFINITION. The scratchpad as the engines and DMA reach it (R405, R409, R410), the schedule offsets of R563, and where a
core's sequencer stands (R565). -/

namespace Sys2Proof.Machine

/-! ## Access -/

/-- A scratchpad range lies in regions of a partition on a core (R405). -/
def State.spadOk (s : State) (core part a n : Nat) : Bool :=
  let c := tget s.disp.cores core {}
  n == 0 || decide (a + n ≤ 2 ^ 25) && (List.range ((a + n - 1) / 0x1_0000 + 1 - a / 0x1_0000)).all (fun i =>
    c.regions.any (fun r => r.2.part == part && decide (r.2.base ≤ a / 0x1_0000 + i ∧ a / 0x1_0000 + i < r.2.base + r.2.units)))

/-- A scratchpad range lies in WORKING regions of a partition on a core: RETAINED ones are written by the transfers of MODEL_LOAD and
TABLE_INSTALL alone (R402, R405; log entry 111). -/
def State.spadWritable (s : State) (core part a n : Nat) : Bool :=
  s.spadOk core part a n && (n == 0 || !(tget s.disp.cores core {}).regions.any (fun r =>
    r.2.retained && decide (r.2.base * 0x1_0000 < a + n ∧ a < (r.2.base + r.2.units) * 0x1_0000)))

/-- The dispatcher's view of a core. -/
def State.coreSt (s : State) (core : Nat) : CoreState := tget s.disp.cores core {}

/-- Set the dispatcher's view of a core. -/
def State.setCore (s : State) (core : Nat) (c : CoreState) : State := { s with disp := { s.disp with cores := tset s.disp.cores core c } }

/-- The poison of the words a range touches clears (R410). -/
def unpoison (core a n : Nat) (s : State) : State :=
  let c := s.coreSt core
  if c.poison.any (fun w => decide (a < w + 8 ∧ w < a + n)) then
    s.setCore core { c with poison := c.poison.filter (fun w => !decide (a < w + 8 ∧ w < a + n)) }
  else s

/-- Write scratchpad bytes. -/
def pokeSpad (core a : Nat) (bs : List Byte) (s : State) : State := unpoison core a bs.length (s.poke (spadPlace core + a) bs)

/-- Poisoned words a range touches. -/
def State.poisonIn (s : State) (core a n : Nat) : List Nat :=
  (s.coreSt core).poison.filter (fun w => decide (w < a + n ∧ a < w + 8))

/-- Scratchpad bytes as an engine gets them: a poisoned word reads as zero (R410, R583). -/
def State.spadBytes (s : State) (core a n : Nat) : List Byte :=
  let bad := s.poisonIn core a n
  let bs := s.peek (spadPlace core + a) n
  if bad.isEmpty then bs
  else ((List.range n).zip bs).map (fun p => if bad.any (fun w => decide (w ≤ a + p.1 ∧ a + p.1 < w + 8)) then 0 else p.2)

/-- A little-endian field of the scratchpad. -/
def State.spadNat (s : State) (core a n : Nat) : Nat := leNat (s.spadBytes core a n)

/-- The region that holds an offset: its number and record. -/
def State.regionAt (s : State) (core a : Nat) : Option (Nat × Region) :=
  (s.coreSt core).regions.find? (fun r => decide (r.2.base * 0x1_0000 ≤ a ∧ a < (r.2.base + r.2.units) * 0x1_0000))

/-- A command's results carry ERASED. -/
def markErased (cmd : Option Nat) (s : State) : State :=
  match cmd with
  | some i => match tfind s.disp.cmds i with
    | some x => { s with disp := { s.disp with cmds := tset s.disp.cmds i { x with erased := true } } }
    | none => s
  | none => s

/-- The entry whose hot set a region of a core holds, or is being loaded into it. -/
def State.entryOfRegion (s : State) (core key : Nat) : Option (Nat × Entry) :=
  s.disp.entries.find? (fun e => (e.2.resident ++ e.2.loading).contains (core, key))

/-- A damaged word of a RETAINED region (R410): the entry is to be reloaded, and MC_UE_WEIGHT records it. -/
def retainedUe (core key w : Nat) (s : State) : State :=
  match s.entryOfRegion core key with
  | some (i, e) => emit Ev.mcUeWeight (some e.part) (0x10 + core) 0 i w 0 { s with disp := { s.disp with entries := tset s.disp.entries i { e with state := if e.state = .ready then .reloading else e.state } } }
  | none => s

/-- Poison a word and keep its offset. -/
def poisonWord (core w : Nat) (s : State) : State :=
  let c := s.coreSt core
  let s := if c.poison.contains w then s else s.setCore core { c with poison := c.poison ++ [w] }
  s.setFld (F.spUeAddrOffset core) w

/-- Words an engine read finds damaged: RETAINED ones make the command's results ERASED, a WORKING one faults (R410). The
answer is false after a fault. -/
def readBad (core : Nat) (cmd : Option Nat) : List Nat → State → Bool × State
  | [], s => (true, s)
  | w :: ws, s =>
    let fresh := !(s.coreSt core).poison.contains w
    let s := poisonWord core w s
    match s.regionAt core w with
    | some (k, r) =>
      if r.retained then readBad core cmd ws (markErased cmd (if fresh then retainedUe core k w s else s))
      else (false, spFault core 1 s)
    | none => readBad core cmd ws s

/-- The checks of an access by an engine or a channel: every range in the partition's regions (R402, R405), then the errors its reads met
(R409, R410). The answer is false after a fault. -/
def spadScan (core part : Nat) (cmd : Option Nat) (reads writes : List (Nat × Nat)) (u : Upset) (s : State) : Bool × State :=
  if !(reads.all (fun r => s.spadOk core part r.1 r.2) && writes.all (fun r => s.spadWritable core part r.1 r.2)) then (false, spFault core 2 s)
  else
    let s := if u.spCorr = 0 then s else s.count (F.spEccCorr core) u.spCorr
    let found := u.spBad.map (fun w => w / 8 * 8)
    let old := (reads.flatMap (fun r => s.poisonIn core r.1 r.2)).filter (fun w => !found.contains w)
    readBad core cmd (found ++ old) s

/-- What a channel's reads of scratchpads reported (R409, R410): corrections, and words found uncorrectable, which the read meets as
poisoned. -/
def spadEcc (e : Ecc) (s : State) : State :=
  let s := e.spad.foldl (fun s c => s.count (F.spEccCorr c.1) c.2) s
  e.spadBad.foldl (fun s c =>
    let w := c.2 / 8 * 8
    if (s.coreSt c.1).poison.contains w then s
    else match s.regionAt c.1 w with
      | some (k, r) => if r.retained then retainedUe c.1 k w (poisonWord c.1 w s) else poisonWord c.1 w s
      | none => s) s

/-! ## Schedule offsets (R563) -/

/-- The schedule of a command. -/
def State.cmdSched (s : State) (c : Cmd) : Option Schedule := tfind s.disp.scheds c.sched

/-- The model-cache entry of a partition with a tag. -/
def State.entryTag (s : State) (part tag : Nat) : Option (Nat × Entry) :=
  s.disp.entries.find? (fun e => e.2.part == part && e.2.tag == tag)

/-- First byte of the region a base names on a core: 0 the partition's WORKING region, 1 to 4 the RETAINED region of
dependency 0 to 3. -/
def State.basePlace (s : State) (core part : Nat) (deps : List Nat) (base : Nat) : Option Nat :=
  let rs := (s.coreSt core).regions
  if base = 0 then (rs.find? (fun r => !r.2.retained && r.2.part == part)).map (fun r => r.2.base * 0x1_0000)
  else if base ≤ 4 then
    match s.entryTag part (deps.getD (base - 1) 0) with
    | some (_, e) => match e.resident.find? (fun x => x.1 == core) with
      | some (_, k) => (tfind rs k).map (fun r => r.base * 0x1_0000)
      | none => none
    | none => none
  else none

/-- The scratchpad offset a schedule offset names for a command's program on a core; an offset that names none lies beyond the
scratchpad, where every access faults. -/
def State.place (s : State) (core part : Nat) (deps : List Nat) (w : Nat) : Nat :=
  match s.basePlace core part deps (w / 2 ^ 25 % 8) with
  | some b => b + w % 2 ^ 25
  | none => 2 ^ 25 + w % 2 ^ 25

/-- The relocation of the words of a command's records on a core. -/
def State.placer (s : State) (c : Cmd) (core : Nat) : Nat → Nat :=
  s.place core c.part (((s.cmdSched c).map Schedule.deps).getD [])

/-- A descriptor that DMA_SUBMIT names, its SPAD address words and member table relocated (R563): the CORE field names the
program index; what R450 reserves stays, for the start check. `core` is the submitting core. -/
def relocDesc (s : State) (cmd core : Nat) (b : List Byte) : List Byte :=
  match tfind s.disp.cmds cmd with
  | none => b
  | some c =>
    let word := fun (o : Nat) =>
      let w := fieldAt b o 8
      if w / 2 ^ 60 = 1 then
        let k := c.cores.getD (bitsOf w 50 48) 8
        leBytes 8 (w / 2 ^ 51 * 2 ^ 51 + k % 8 * 2 ^ 48 + s.placer c k (bitsOf w 47 0))
      else (b.drop o).take 8
    let op := fieldAt b 0 1
    let mem := if op = 3 ∨ op = 4 then leBytes 4 (s.placer c core (fieldAt b 12 4)) else (b.drop 12).take 4
    b.take 12 ++ mem ++ word 16 ++ word 24 ++ (b.drop 32).take 16 ++ word 48 ++ b.drop 56

/-! ## Engines and the sequencer -/

/-- The engines of a core. -/
def State.engines (s : State) (core : Nat) : Engines := tget s.eng core {}
/-- Set the engines of a core. -/
def State.setEngines (s : State) (core : Nat) (e : Engines) : State := { s with eng := tset s.eng core e }
/-- Set one engine of a core. -/
def State.setMe (s : State) (core : Nat) (m : MeUnit) : State := s.setEngines core { s.engines core with me := m }
/-- Set the vector engine of a core. -/
def State.setVe (s : State) (core : Nat) (v : VeUnit) : State := s.setEngines core { s.engines core with ve := v }
/-- Set the recurrence unit of a core. -/
def State.setRu (s : State) (core : Nat) (r : RuUnit) : State := s.setEngines core { s.engines core with ru := r }
/-- Set the sequencer of a core. -/
def State.setSeq (s : State) (core : Nat) (q : Option Seq) : State := s.setEngines core { s.engines core with seq := q }

/-- Every engine store of a core is zero and nothing is under way there, as its status registers show (R286, R343, R349, R392). -/
def wipeCore (core : Nat) (s : State) : State :=
  [F.meStatusShadowValid core, F.meStatusActiveValid core, F.meStatusLoading core, F.meStatusStreaming core, F.meStatusBusy core,
   F.veStatusSpForm core, F.veStatusMxWaiting core, F.veStatusSpStalled core, F.veStatusSpBusy core, F.veStatusMxBusy core,
   F.ruStatusGateWaiting core, F.ruStatusGateBusy core, F.ruStatusBusy core].foldl (fun s f => s.setFld f 0) (s.setEngines core {})

/-- What the sequencer of a core issues next: the command's number, the command, the sequencer's position and the record. None
while no command runs, after SQ_END, and while it waits at an SQ_PEER. -/
def State.nextRec (s : State) (core : Nat) : Option (Nat × Cmd × Seq × Rec) :=
  match (s.coreSt core).cmd, (s.engines core).seq with
  | some i, some q =>
    if q.ended || q.peer.isSome || s.failStopped then none
    else match tfind s.disp.cmds i with
      | some c => match s.cmdSched c with
        | some sc => match sc.progs[q.prog]? with
          | some (off, len) => (decodeRec ((sc.body.drop (off + q.pos)).take (min 64 (len - q.pos)))).map (fun r => (i, c, q, r))
          | none => none
        | none => none
      | none => none
  | _, _ => none

/-- The sequencer moves past a record. -/
def advance (core : Nat) (q : Seq) (r : Rec) (s : State) : State := s.setSeq core (some { q with pos := q.pos + r.size })

/-- OR a mask into a sticky flag register. -/
def orReg (off mask : Nat) (s : State) : State := s.setReg off (s.reg off ||| BitVec.ofNat 32 mask)

end Sys2Proof.Machine
end

