-- ==== Sys2Proof/Machine/Codec.lean ====
section
/-! DEFINITION. The page codings of the memory controllers: EXC, exact exponent coding (R525 to R533), and FRL, fixed-rate
block floating point (R534 to R537). -/

namespace Sys2Proof.Machine

/-! ## Bit streams -/

/-- Bit `i` of a byte string, least significant bit of each byte first. -/
def bitAt (bs : List Byte) (i : Nat) : Nat := (bs.getD (i / 8) 0).toNat / 2 ^ (i % 8) % 2

/-- `n` bits from bit `o` on, least significant first. -/
def bitsLsb (bs : List Byte) (o : Nat) : Nat → Nat
  | 0 => 0
  | n + 1 => bitAt bs o + 2 * bitsLsb bs (o + 1) n

/-! ## EXC -/

/-- Exponent bits of an element format (R527): BF16, FP16, E4M3, E5M2. -/
def excExpBits : Nat → Nat
  | 0 => 8
  | 1 => 5
  | 2 => 4
  | _ => 5

/-- Raw bits of an element format (R527). -/
def excRawBits : Nat → Nat
  | 0 => 8
  | 1 => 11
  | 2 => 4
  | _ => 3

/-- Elements in a sub-stream of 256 bytes (R527). -/
def excElems (fmt : Nat) : Nat := if fmt < 2 then 128 else 256

/-- Bytes of a raw segment (R527). -/
def excSegment (fmt : Nat) : Nat := excElems fmt * excRawBits fmt / 8

/-- One codeword of the canonical prefix code: entry, length, code. -/
structure Codeword where
  entry : Nat
  len : Nat
  code : Nat
  deriving DecidableEq, Repr

/-- EXP of table entry j (R526). -/
def excExp (blk : List Byte) (j : Nat) : Nat := bitsLsb blk (12 * j) 8

/-- LEN_C of table entry j (R526). -/
def excLen (blk : List Byte) (j : Nat) : Nat := bitsLsb blk (12 * j + 8) 4

/-- Assign canonical codewords to entries already in order (R528). -/
def assignCodes : List (Nat × Nat) → Option (Nat × Nat) → List Codeword
  | [], _ => []
  | (l, j) :: rest, prev =>
    let c := match prev with | none => 0 | some (pl, pc) => (pc + 1) * 2 ^ (l - pl)
    { entry := j, len := l, code := c } :: assignCodes rest (some (l, c))

/-- The canonical code of a coded block: increasing LEN_C, then increasing entry (R528). -/
def excCode (blk : List Byte) : List Codeword :=
  let used := (List.range 16).filterMap (fun j => if excLen blk j = 0 then none else some (excLen blk j, j))
  assignCodes (used.mergeSort (fun a b => decide (a.1 < b.1) || (a.1 == b.1 && decide (a.2 ≤ b.2)))) none

/-- Read one codeword, most significant bit first (R528). `l` bits have been read into `acc`; the number is fuel. -/
def readCode (cs : List Codeword) (bs : List Byte) : Nat → Nat → Nat → Nat → Option (Nat × Nat)
  | 0, _, _, _ => none
  | n + 1, l, acc, pos =>
    let acc := acc * 2 + bitAt bs pos
    match cs.find? (fun c => c.len == l + 1 && c.code == acc) with
    | some c => some (c.entry, pos + 1)
    | none => readCode cs bs n (l + 1) acc (pos + 1)

/-- Decode `n` elements of a sub-stream from bit `pos` of the code area and bit `raw` of its segment (R528). -/
def decodeElems (fmt : Nat) (blk : List Byte) (cs : List Codeword) (seg code : List Byte) : Nat → Nat → Nat → Option (List Nat × Nat)
  | 0, pos, _ => some ([], pos)
  | n + 1, pos, raw =>
    match readCode cs code 15 0 0 pos with
    | none => none
    | some (j, pos) =>
      let e := excExpBits fmt
      let r := excRawBits fmt
      let (exp, pos) := if j = 15 then (bitsLsb code pos e, pos + e) else (excExp blk j, pos)
      let w := bitsLsb seg raw r
      let v := (w / 2 ^ (r - 1) * 2 ^ (e + r - 1) + w % 2 ^ (r - 1)) ||| exp * 2 ^ (r - 1)
      match decodeElems fmt blk cs seg code n pos (raw + r) with
      | none => none
      | some (vs, pos) => some (v :: vs, pos)

/-- The start bit of sub-stream k in the code area (R526). -/
def excSoff (blk : List Byte) (k : Nat) : Nat := if k = 0 then 0 else fieldAt blk (24 + 2 * (k - 1)) 2

/-- Decode sub-stream k: its 256 bytes and the code bit it ends at. -/
def decodeSub (fmt : Nat) (blk : List Byte) (cs : List Codeword) (k : Nat) : Option (List Byte × Nat) :=
  let sz := excSegment fmt
  let seg := (blk.drop (64 + k * sz)).take sz
  let code := blk.drop (64 + 16 * sz)
  match decodeElems fmt blk cs seg code (excElems fmt) (excSoff blk k) 0 with
  | none => none
  | some (vs, pos) => some (vs.flatMap (leBytes (if fmt < 2 then 2 else 1)), pos)

/-- Decode a coded block that is not STORED: its 4,096 bytes, none when it is inconsistent (R528, R529). -/
def decodeBlock (fmt : Nat) (blk : List Byte) : Option (List Byte) :=
  let cs := excCode blk
  let room := 8 * (blk.length - (64 + 16 * excSegment fmt))
  (List.range 16).foldl (fun acc k => match acc, decodeSub fmt blk cs k with
    | some out, some (b, pos) => if pos ≤ room then some (out ++ b) else none
    | _, _ => none) (some [])

/-- The index entry of a block (R525): OFFSET in bytes, LEN in bytes, STORED, FMT. -/
structure ExcIndex where
  off : Nat
  len : Nat
  stored : Bool
  fmt : Nat
  deriving DecidableEq, Repr

/-- The fields of an index entry. -/
def excIndex (v : Nat) : ExcIndex where
  off := bitsOf v 39 0 * 32
  len := bitsOf v 47 40 * 32
  stored := bitsOf v 48 48 == 1
  fmt := bitsOf v 55 52

/-- The 4,096 bytes of block b of an EXC coded area (R525, R528); none is a decoding inconsistency (R533). -/
def excBlock (area : Nat → Nat → List Byte) (b : Nat) : Option (List Byte) :=
  let x := excIndex (leNat (area (8 * b) 8))
  if x.stored then some (area x.off 4096) else decodeBlock x.fmt (area x.off x.len)

/-- A coded block passes the checks of R529 on its table and streams. -/
def excBlockGood (fmt : Nat) (blk : List Byte) : Bool :=
  let used := (List.range 16).filter (fun j => excLen blk j ≠ 0)
  let lits := (used.filter (· ≠ 15)).map (excExp blk)
  decide ((used.map (fun j => 2 ^ (15 - excLen blk j))).sum ≤ 2 ^ 15) && excExp blk 15 == 0 &&
  decide lits.Nodup && (List.range 15).all (fun k => decide (excSoff blk k ≤ excSoff blk (k + 1))) &&
  (decodeBlock fmt blk).isSome

/-- A whole EXC page of `n` blocks verifies within EXTENT for an entry's format (R529). -/
def excPageGood (area : Nat → Nat → List Byte) (n extent fmt : Nat) : Bool :=
  let xs := (List.range n).map (fun b => excIndex (leNat (area (8 * b) 8)))
  let spans := (xs.map (fun x => (x.off, x.off + x.len))).mergeSort (fun a b => a.1 ≤ b.1)
  xs.all (fun x => x.fmt == fmt && decide (96 ≤ x.len ∧ x.len ≤ 4096) && (!x.stored || x.len == 4096) &&
    decide (8 * n ≤ x.off) && decide (x.off + x.len ≤ extent) &&
    (x.stored || excBlockGood fmt (area x.off x.len))) &&
  (spans.zip (spans.drop 1)).all (fun p => decide (p.1.2 ≤ p.2.1))

/-! ## FRL -/

/-- Mantissa bits of an FRL kind: KIND 2 is FRL6, 3 is FRL4. -/
def frlBits (kind : Nat) : Nat := if kind = 2 then 6 else 4

/-- Coded bytes of a block of 32 values (R534). -/
def frlSize (kind : Nat) : Nat := 1 + 4 * frlBits kind

/-- Divide by 2^k, rounding to nearest with ties to even. -/
def rneShift (v k : Nat) : Nat :=
  let q := v / 2 ^ k
  let r := v % 2 ^ k
  if 2 * r > 2 ^ k ∨ (2 * r = 2 ^ k ∧ q % 2 = 1) then q + 1 else q

/-- Encode one BF16 value against a shared exponent (R535): sign, clamped magnitude. -/
def frlMant (n e x : Nat) : Int :=
  let ex := bitsOf x 14 7
  let m := if ex = 0 then x % 128 else 128 + x % 128
  let sh := (e + 9) - (n + (if ex = 0 then 1 else ex))
  let q := rneShift m sh
  let lim := 2 ^ (n - 1) - 1
  let q := if q > lim then lim else q
  if bitsOf x 15 15 = 1 then -(q : Int) else (q : Int)

/-- Encode 32 BF16 values (R535). -/
def frlEncode (kind : Nat) (xs : List Nat) : List Byte :=
  let n := frlBits kind
  if xs.any (fun x => bitsOf x 14 7 == 255) then 0xFF :: List.replicate (4 * n) 0
  else
    let e := max 1 ((xs.map (fun x => bitsOf x 14 7)).foldl max 0)
    let v := ((List.range 32).zip xs).foldl (fun acc p => acc + codeOf n (frlMant n e p.2) * 2 ^ (n * p.1)) 0
    BitVec.ofNat 8 e :: leBytes (4 * n) v

/-- The BF16 code of m × 2^e, exact for the mantissas FRL holds (R535). -/
def bf16Exact (m e : Int) : Nat :=
  let a := m.natAbs
  let s := if m < 0 then 0x8000 else 0
  if a = 0 then 0
  else
    let l := Nat.log2 a
    let b := (l : Int) + e + 127
    if 1 ≤ b then s + b.toNat * 128 + (a * 128 / 2 ^ l) % 128
    else s + a * 2 ^ (e + 133).toNat

/-- Expand a coded block to 32 BF16 values (R535). -/
def frlDecode (kind : Nat) (bs : List Byte) : List Nat :=
  let n := frlBits kind
  let e := (bs.getD 0 0).toNat
  if e = 255 then List.replicate 32 0x7FC0
  else (List.range 32).map (fun i => bf16Exact (signedOf n (bitsLsb bs (8 + n * i) n)) ((e : Int) - 127 - ((n : Int) - 2)))

/-- Encode 64 bytes. -/
def frlEncodeBytes (kind : Nat) (bs : List Byte) : List Byte :=
  frlEncode kind ((List.range 32).map (fun i => fieldAt bs (2 * i) 2))

/-- Expand a coded block to 64 bytes. -/
def frlDecodeBytes (kind : Nat) (bs : List Byte) : List Byte := (frlDecode kind bs).flatMap (leBytes 2)

end Sys2Proof.Machine
end

