-- ==== Sys2Proof/Machine/Xlate.lean ====
section
/-! DEFINITION. DRAM error handling, the translation tables, their walk and TLBs, and mapping blocks (R493, R503 to R524). -/

namespace Sys2Proof.Machine

/-! ## The module physical map (R511) -/

abbrev dramEnd : Nat := 0x60_0000_0000
abbrev deviceBase : Nat := 0xFF00_0000_0000
abbrev peerBase : Nat := 0x8000_0000_0000

/-- An address lies in DRAM. -/
def inDram (a : Nat) : Bool := decide (a < dramEnd)
/-- An address lies in the tide pool. -/
def inPool (a : Nat) : Bool := decide (poolBase ≤ a ∧ a < poolBase + 0x1000_0000)
/-- An address lies in the host window. -/
def inHost (a : Nat) : Bool := decide (hostWindow ≤ a ∧ a < peerBase)
/-- An address lies in the peer range. -/
def inPeer (a : Nat) : Bool := decide (peerBase ≤ a ∧ a < 0xC000_0000_0000)
/-- An address lies in the device region. -/
def inDevice (a : Nat) : Bool := decide (deviceBase ≤ a ∧ a < 2 ^ 48)

/-! ## ECC and poison (R504 to R506) -/

/-- One corrected burst: counted, and recorded at most once per controller per ms (R504). -/
def correctBurst (a : Nat) (s : State) : State :=
  let c := mcOf a
  let s := s.count (F.mcEccCorr c) 1
  let due := match tfind s.mc.corrected c with | some t => decide (t + 1000000 ≤ s.time) | none => true
  if due then emitM Ev.mcCorrected 6 c a (a / 2 ^ 32) 0 { s with mc := { s.mc with corrected := tset s.mc.corrected c s.time } } else s

/-- What the controllers reported while DRAM was read: corrections, on the links too, and bursts now poisoned (R504, R505); and what the
scratchpads did. -/
def applyEcc (e : Ecc) (s : State) : State :=
  let s := spadEcc e s
  let s := e.corrected.foldl (fun s a => correctBurst a s) s
  let s := e.link.foldl (fun s (c : Fin 12) => s.count (F.mcLinkEccCount c) 1) s
  let new := (e.bad.map (· / 64)).filter (fun b => !s.mc.poison.contains b)
  if new.isEmpty then s else poisonSync { s with mc := { s.mc with poison := s.mc.poison ++ new.eraseDups } }

/-- The poisoned bursts that a range of DRAM touches, by address. -/
def State.badIn (s : State) (a n : Nat) : List Nat :=
  (s.mc.poison.filter (fun b => decide (b * 64 < a + n ∧ a < b * 64 + 64))).map (· * 64)

/-- An uncorrectable read is counted and its address kept (R506). -/
def noteUe (a : Nat) (s : State) : State := (s.count (F.mcEccUe (mcOf a)) 1).setPair R.mcUeAddr a

/-- Bytes with those of the bad bursts zeroed; `a` is the address of the first. -/
def zeroBad (bad : List Nat) (a : Nat) (bs : List Byte) : List Byte :=
  ((List.range bs.length).zip bs).map (fun p => if bad.any (fun b => decide (b ≤ a + p.1 ∧ a + p.1 < b + 64)) then 0 else p.2)

/-! ## Table entries (R514, R515) -/

/-- The fields of a leaf entry. -/
structure Leaf where
  va : Nat
  large : Bool
  base : Nat
  target : Nat
  perm : Nat
  kind : Nat
  ret : Bool
  /-- where the walk found its entry -/
  at_ : Nat := 0
  deriving DecidableEq, Repr

/-- Bytes of virtual space a leaf covers. -/
def Leaf.size (l : Leaf) : Nat := if l.large then 0x20_0000 else 0x1_0000

/-- A leaf from its entry, and where that entry stands. -/
def leafOf (va : Nat) (large : Bool) (e : Nat) (at_ : Nat := 0) : Leaf where
  va := va
  large := large
  base := bitsOf e 47 8 * 256
  target := bitsOf e 49 48
  perm := bitsOf e 51 50
  kind := bitsOf e 53 52
  ret := bitsOf e 54 54 == 1
  at_ := at_

/-- The entry of a leaf. -/
def Leaf.entry (l : Leaf) : Nat :=
  3 + l.base / 256 * 256 + l.target * 2 ^ 48 + l.perm * 2 ^ 50 + l.kind * 2 ^ 52 + (if l.ret then 2 ^ 54 else 0)

/-- What a walk finds. -/
inductive Walk where
  | leaf (l : Leaf)
  | fault (ptr : Nat)
  | device (ptr : Nat)
  | denied (ptr : Nat)
  deriving DecidableEq, Repr

/-- One level of the walk at a table: levels 0 to 3 (R514, R521 to R524). The number is the levels left. The bits of an entry that R515
reserves are ignored (R7); the pointer bits it fixes at 0 are a code. -/
def walkFrom (s : State) (va : Nat) : Nat → Nat → Walk
  | 0, ptr => .denied ptr
  | n + 1, table =>
    let level := 3 - n
    let idx := match level with
      | 0 => bitsOf va 47 39
      | 1 => bitsOf va 38 30
      | 2 => bitsOf va 29 21
      | _ => bitsOf va 20 16
    let at_ := table + 8 * idx
    if inDevice table then .device table
    else if !inDram table then .fault table
    else if !(s.badIn at_ 8).isEmpty then .fault at_
    else
      let e := leNat (s.peek at_ 8)
      let isLeaf := bitsOf e 1 1 = 1
      let badCode := ¬isLeaf ∧ level < 2 ∧ bitsOf e 11 8 ≠ 0
      if e % 2 = 0 ∨ badCode then .denied at_
      else if isLeaf then
        if level = 2 then .leaf (leafOf (va / 0x20_0000 * 0x20_0000) true e at_)
        else if level = 3 then .leaf (leafOf (va / 0x1_0000 * 0x1_0000) false e at_)
        else .denied at_
      else if level = 3 then .denied at_
      else walkFrom s va n (bitsOf e 47 8 * 256)

/-- The walk of a partition's tables for a virtual address. -/
def State.walk (s : State) (p va : Nat) : Walk := walkFrom s va 4 (s.pair (R.xlRoot p))

/-- The leaf a partition's tables hold for an address, if any. -/
def State.leafAt (s : State) (p va : Nat) : Option Leaf := match s.walk p va with | .leaf l => some l | _ => none

/-- A walk fault or denial (R521 to R524): latched, recorded, fail-stop. `w0` is what words 0 and 1 carry. -/
def walkFail (code cause va ptr w0 w2 : Nat) (s : State) : State :=
  let first := !(s.reg R.xlFault).getLsbD 31
  let s := latchFault R.xlFault cause s
  let s := if first then (s.setPair R.xlFaultVa va).setPair R.xlFaultPtr ptr else s
  failStop code 7 cause (emitM code 7 0 w0 (w0 / 2 ^ 32) w2 s)

/-- A walk for a channel completes: it is counted, and fills the TLB, whose oldest entry gives way (R519, log entry 9), or
faults (R521 to R524). -/
def walkOp (c p va access : Nat) (s : State) : Option Leaf × State :=
  let s := s.addPair R.xlWalks 1
  match s.walk p va with
  | .leaf l =>
    let x := s.chan c
    let held := if x.tlb.length ≥ 64 then x.tlb.drop 1 else x.tlb
    (some l, s.setChan c { x with tlb := held ++ [{ va := l.va, large := l.large, entry := l.entry, at_ := l.at_ }] })
  | .fault ptr => (none, walkFail Ev.walkFault 1 va ptr va 0 (if inDram ptr then noteUe ptr s else s))
  | .device ptr => (none, walkFail Ev.walkDevice 2 va ptr ptr 0 s)
  | .denied ptr => (none, walkFail Ev.xlateDenied 3 va ptr va access s)

/-- The TLB entry of a channel that covers an address. -/
def Chan.hit (x : Chan) (va : Nat) : Option Leaf :=
  (x.tlb.find? (fun t => decide (t.va ≤ va ∧ va < t.va + (if t.large then 0x20_0000 else 0x1_0000)))).map (fun t => leafOf t.va t.large t.entry t.at_)

/-- Translate an access of a channel: access 1 read, 2 write. None has fail-stopped. -/
def translate (c p va access : Nat) (s : State) : Option Leaf × State :=
  let r := match (s.chan c).hit va with | some l => (some l, s) | none => walkOp c p va access s
  match r with
  | (some l, s) => if Nat.testBit l.perm (access - 1) then (some l, s) else (none, walkFail Ev.xlateDenied 3 va l.at_ va access s)
  | (none, s) => (none, s)

/-- TRANSLATION_WALK: the walk a TLB miss of a partition channel asked for completes (R519). -/
def execTranslationWalk (c : Fin 64) (va : BitVec 48) (write : Bool) (ecc : Ecc) (s : State) : Host.Outcome State Fault Refusal :=
  .next (powered (fun s => if s.bit (F.dmaChOwnerModule c) then s
    else if ((s.chan c).hit va.toNat).isSome then s
    else (walkOp c (s.fld (F.dmaChOwnerPartition c)) va.toNat (if write then 2 else 1) (applyEcc ecc s)).2) s)

/-! ## Building tables -/

/-- The bytes of the translation-table area. -/
def State.tableBytes (s : State) : Nat := s.fld F.xlTableMibMib * 0x10_0000

/-- Take a zeroed table of `size` bytes for a partition: in a frame of its own tables with room, or in the lowest frame of the
area that holds no table and is clean (which one is the model's choice, log entry 10). -/
def allocTable (p size : Nat) (s : State) : Option Nat × State :=
  let up := fun n => ceilDiv n size * size
  match s.mc.tables.find? (fun t => t.2.1 == p && decide (up t.2.2 + size ≤ 0x1_0000)) with
  | some t =>
    let a := t.1 + up t.2.2
    (some a, { s with mc := { s.mc with tables := s.mc.tables.map (fun u => if u.1 = t.1 then (t.1, p, up t.2.2 + size) else u) } })
  | none =>
    let base := s.pair R.xlTableBase
    let taken := fun a => s.mc.tables.any (fun t => t.1 == a) || s.mc.dirty.contains (a / 0x1_0000)
    match ((List.range (s.mc.tables.length + s.mc.dirty.length + 1)).map (fun i => base + i * 0x1_0000)).find? (fun a => !taken a) with
    | some a => if a + 0x1_0000 ≤ base + s.tableBytes then
        (some a, { s with mc := { s.mc with tables := s.mc.tables ++ [(a, p, size)] } }) else (none, s)
    | none => (none, s)

/-- Write the entry of a leaf, with the tables that lead to it; `down` is the levels left from a table. None: no room. -/
def putEntry (p va : Nat) (large : Bool) (e : Nat) : Nat → Nat → State → Option State
  | 0, _, _ => none
  | n + 1, table, s =>
    let level := 3 - n
    let idx := match level with
      | 0 => bitsOf va 47 39
      | 1 => bitsOf va 38 30
      | 2 => bitsOf va 29 21
      | _ => bitsOf va 20 16
    let at_ := table + 8 * idx
    if level = 3 ∨ (level = 2 ∧ large) then some (s.pokeDram at_ (leBytes 8 e))
    else
      let old := leNat (s.peek at_ 8)
      if old % 2 = 1 then putEntry p va large e n (bitsOf old 47 8 * 256) s
      else match allocTable p (if level = 2 then 256 else 4096) s with
        | (some a, s) => putEntry p va large e n a (s.pokeDram at_ (leBytes 8 (a / 256 * 256 + 1)))
        | (none, _) => none

/-- Invalidate the TLB entries of a partition's channels that cover a range (R518). -/
def flushTlb (p va n : Nat) (s : State) : State :=
  { s with dma := s.dma.map (fun (c : Nat × Chan) =>
      if s.fld (F.dmaChOwnerPartition c.1) = p then
        (c.1, { c.2 with tlb := c.2.tlb.filter (fun t => !decide (t.va < va + n ∧ va < t.va + (if t.large then 0x20_0000 else 0x1_0000))) })
      else c) }

/-! ## Mapping blocks (R516 to R518) -/

/-- An entry of a mapping block. -/
structure MapEntry where
  unmap : Bool
  large : Bool
  target : Nat
  kind : Nat
  ret : Bool
  perm : Nat
  count : Nat
  va : Nat
  pa : Nat
  extent : Nat
  reservedZero : Bool
  deriving DecidableEq, Repr

/-- An entry from its 32 bytes. -/
def mapEntry (b : List Byte) : MapEntry :=
  let f := fieldAt b 0 1
  { unmap := bitsOf f 0 0 == 1, large := bitsOf f 1 1 == 1, target := bitsOf f 3 2, kind := bitsOf f 5 4, ret := bitsOf f 6 6 == 1
    perm := bitsOf (fieldAt b 1 1) 1 0, count := fieldAt b 2 2, va := fieldAt b 8 8, pa := fieldAt b 16 8, extent := fieldAt b 24 8
    reservedZero := bitsOf f 7 7 == 0 && bitsOf (fieldAt b 1 1) 7 2 == 0 && fieldAt b 4 4 == 0 }

def MapEntry.size (m : MapEntry) : Nat := if m.large then 0x20_0000 else 0x1_0000

/-- Coded bytes per leaf (R516). -/
def MapEntry.coded (m : MapEntry) : Nat :=
  if m.kind = 1 then m.extent else if m.kind = 0 then m.size else m.size / 64 * frlSize m.kind

/-- The output address of leaf i. -/
def MapEntry.out (m : MapEntry) (q : Quota) (i : Nat) : Nat :=
  let base := match m.target with
    | 0 => q.dramBase
    | 1 => poolBase
    | 2 => hostWindow
    | _ => peerBase
  base + m.pa + i * m.coded

/-- The rules of R517 that the entry alone decides for a module in a bay. An output address must fit its entry: leaf-aligned
for RAW, 256-byte aligned for a coded area (log entry 11). -/
def MapEntry.good (m : MapEntry) (q : Quota) (bay : Nat) : Bool :=
  m.reservedZero && decide (0 < m.count) && m.va % m.size == 0 && decide (m.va + m.count * m.size ≤ 2 ^ 48) &&
  (m.unmap ||
    ((List.range (min 2 m.count)).all (fun i => m.out q i % (if m.kind = 0 then m.size else 256) == 0) &&
    (match m.target with
     | 0 => decide (m.pa + m.count * m.coded ≤ q.dramSize)
     | 1 => m.perm == 1 && decide (m.pa + m.count * m.coded ≤ 0x1000_0000)
     | 2 => decide (m.pa + m.count * m.coded ≤ 2 ^ 46)
     | _ => decide (m.pa < 2 ^ 46) && decide (m.pa % 2 ^ 42 + m.count * m.coded ≤ 2 ^ 42) && m.pa / 2 ^ 42 != bay) &&
    (if m.kind = 1 then m.target == 0 && m.perm == 1 && m.extent % 32 == 0 && decide (m.size / 4096 * 8 ≤ m.extent) else m.extent == 0) &&
    (decide (m.kind < 2) || m.target == 0) && (!m.ret || (m.target == 0 && decide (m.kind < 2)))))

/-- An installed schedule of the partition references an address of a range (R517). -/
def State.schedRefs (s : State) (p va n : Nat) : Bool :=
  s.disp.scheds.any (fun x => x.2.part == p && x.2.refs.any (fun r => decide (r.1 < va + n ∧ va < r.1 + r.2)))

/-- Keep or drop the EXTENT of an EXC leaf. -/
def noteExtent (p va : Nat) (e : Option Nat) (s : State) : State :=
  let rest := s.mc.extents.filter (fun x => !(x.1 == p && x.2.1 == va))
  { s with mc := { s.mc with extents := match e with | some n => rest ++ [(p, va, n)] | none => rest } }

/-- The EXTENT of an EXC leaf. -/
def State.extentOf (s : State) (p va : Nat) : Nat :=
  ((s.mc.extents.find? (fun x => x.1 == p && x.2.1 == va)).map (fun x => x.2.2)).getD 0

/-- Coded bytes of a leaf of a partition (R516). -/
def State.leafCoded (s : State) (p : Nat) (l : Leaf) : Nat :=
  if l.kind = 0 then l.size else if l.kind = 1 then s.extentOf p l.va else l.size / 64 * frlSize l.kind

/-- What the entries of a block before this one make of the leaves: first address, bytes, and the size of the leaves there (true: 2 MiB),
none where they unmapped them; the newest first. -/
abbrev LeafView := List (Nat × Nat × Option Bool)

/-- The size of the leaf that covers an address, with the entries before this one applied. -/
def State.viewLeaf (s : State) (p : Nat) (v : LeafView) (a : Nat) : Option Bool :=
  match v.find? (fun x => decide (x.1 ≤ a ∧ a < x.1 + x.2.1)) with
  | some x => x.2.2
  | none => (s.leafAt p a).map (·.large)

/-- The rules of R517 on the leaves there already, for an entry: a MAP covers none, an UNMAP leaves of its own size that no installed
schedule needs. -/
def State.leavesGood (s : State) (p : Nat) (v : LeafView) (m : MapEntry) : Bool :=
  (List.range m.count).all (fun i =>
    let va := m.va + i * m.size
    if m.unmap then s.viewLeaf p v va == some m.large && !s.schedRefs p va m.size
    else (List.range (if m.large then 32 else 1)).all (fun k => (s.viewLeaf p v (va + k * 0x1_0000)).isNone))

/-- The first entry of a block that breaks a rule of R517, from entry `i` on; each is held against the leaves as those before it leave
them (log entry 12). -/
def State.badEntry (s : State) (p : Nat) (q : Quota) : Nat → List MapEntry → LeafView → Option Nat
  | _, [], _ => none
  | i, m :: rest, v =>
    if m.good q s.bay && s.leavesGood p v m then
      s.badEntry p q (i + 1) rest ((m.va, m.count * m.size, if m.unmap then none else some m.large) :: v)
    else some i

/-- Write leaves i, i + 1, … of a verified entry; none where no table can be taken. The first number is how many are left. -/
def applyLeaves (p : Nat) (q : Quota) (m : MapEntry) : Nat → Nat → State → Option State
  | 0, _, s => some s
  | n + 1, i, s =>
    let va := m.va + i * m.size
    let root := s.pair (R.xlRoot p)
    let e := ({ va := va, large := m.large, base := m.out q i, target := m.target, perm := m.perm, kind := m.kind, ret := m.ret } : Leaf).entry
    match putEntry p va m.large (if m.unmap then 0 else e) 4 root s with
    | some s => applyLeaves p q m n (i + 1) (if m.unmap then noteExtent p va none s else if m.kind = 1 then noteExtent p va (some m.extent) s else s)
    | none => none

/-- Write the entries of a verified mapping block in order, from entry `i` on; where no table can be taken, the status and the byte
offset of the entry, and nothing is written (log entry 12). -/
def applyMap (p : Nat) (q : Quota) : Nat → List MapEntry → State → Except (Nat × Nat) State
  | _, [], s => .ok s
  | i, m :: rest, s =>
    match applyLeaves p q m m.count 0 s with
    | some t => applyMap p q (i + 1) rest (flushTlb p m.va (m.count * m.size) t)
    | none => .error (St.resource, 16 + 32 * i)

/-- The entries of a mapping block, when its header is good (R516); what the header reserves is ignored (R7). -/
def mapEntries (b : List Byte) : Option (List MapEntry) :=
  let n := fieldAt b 0 2
  if 1 ≤ n ∧ n ≤ 1024 ∧ b.length ≥ 16 + 32 * n then
    some ((List.range n).map (fun i => mapEntry ((b.drop (16 + 32 * i)).take 32)))
  else none

/-- A mapping block for a partition: verified whole, then written (R517, R518). -/
def mappingBlock (p : Nat) (b : List Byte) (s : State) : Except (Nat × Nat) State :=
  match mapEntries b with
  | some ms => match s.badEntry p (s.quota p) 0 ms [] with
    | some i => .error (St.verify, 16 + 32 * i)
    | none => applyMap p (s.quota p) 0 ms s
  | none => .error (St.verify, 0)

/-! ## Images (R576, R577) -/

/-- The leaves from an address on until their coded sizes make up a length: the leaves, when they match it exactly. -/
def imageLeaves (s : State) (p : Nat) : Nat → Nat → Nat → Option (List Leaf)
  | 0, _, _ => none
  | f + 1, va, bytes =>
    match s.leafAt p va with
    | some l =>
      let c := s.leafCoded p l
      if l.va ≠ va ∨ c = 0 ∨ bytes < c then none
      else if bytes = c then some [l]
      else (imageLeaves s p f (va + l.size) (bytes - c)).map (l :: ·)
    | none => none

/-- The leaves of an image. -/
def State.imageOf (s : State) (p va bytes : Nat) : Option (List Leaf) := imageLeaves s p (bytes / 8 + 1) va bytes

/-- Bytes of virtual space an entry's image covers. -/
def State.imageSize (s : State) (e : Entry) : Nat := (((s.imageOf e.part e.va e.bytes).getD []).map Leaf.size).sum

end Sys2Proof.Machine
end

