-- ==== Sys2Proof/Machine/Dma.lean ====
section
/-! DEFINITION. The DMA complex: descriptors and their checks, patterns, the movement of bytes through every space, the end of
a descriptor, abort and drain, module rings (R445 to R491). -/

namespace Sys2Proof.Machine

/-! ## The descriptor (R449 to R451) -/

/-- A descriptor's fields. -/
structure Desc where
  op : Nat
  flags : Nat
  srcLog : Nat
  dstLog : Nat
  c0 : Nat
  c1 : Nat
  c2 : Nat
  members : Nat
  src : Nat
  dst : Nat
  ss1 : Nat
  ss2 : Nat
  ds1 : Nat
  ds2 : Nat
  comp : Nat
  fill : List Byte
  tag : List Byte
  deriving DecidableEq, Repr

/-- A descriptor from its 64 bytes. -/
def descOf (b : List Byte) : Desc where
  op := fieldAt b 0 1
  flags := fieldAt b 1 1
  srcLog := fieldAt b 2 1
  dstLog := fieldAt b 3 1
  c0 := fieldAt b 4 4
  c1 := fieldAt b 8 2
  c2 := fieldAt b 10 2
  members := fieldAt b 12 4
  src := fieldAt b 16 8
  dst := fieldAt b 24 8
  ss1 := fieldAt b 32 4
  ss2 := fieldAt b 36 4
  ds1 := fieldAt b 40 4
  ds2 := fieldAt b 44 4
  comp := fieldAt b 48 8
  fill := (b.drop 56).take 4
  tag := (b.drop 60).take 4

def Desc.shape (d : Desc) : Nat := d.flags % 4
def Desc.record (d : Desc) : Bool := Nat.testBit d.flags 2
def Desc.arrive (d : Desc) : Bool := Nat.testBit d.flags 3
def Desc.circSrc (d : Desc) : Bool := Nat.testBit d.flags 4
def Desc.circDst (d : Desc) : Bool := Nat.testBit d.flags 5
def Desc.total (d : Desc) : Nat := d.c0 * d.c1 * d.c2

/-- The parts of an address word (R450). -/
def spaceOf (w : Nat) : Nat := bitsOf w 63 60
def addrOf (w : Nat) : Nat := bitsOf w 47 0
def coreOf (w : Nat) : Nat := bitsOf w 50 48
/-- Reserved bits of an address word are zero. -/
def wordClean (w : Nat) : Bool := bitsOf w 59 51 == 0 && (spaceOf w == 1 || bitsOf w 50 48 == 0)

/-- The base of the ring an address lies in (R453). -/
def ringStart (a log : Nat) : Nat := a / 2 ^ log * 2 ^ log

/-- The lowest address of a side and the one after its highest (R456). -/
def extent (a : Nat) (circ : Bool) (log c0 c1 c2 s1 s2 : Nat) : Nat × Nat :=
  if circ then (ringStart a log, ringStart a log + 2 ^ log) else (a, a + (c1 - 1) * s1 + (c2 - 1) * s2 + c0)

def Desc.srcExtent (d : Desc) : Nat × Nat := extent (addrOf d.src) d.circSrc d.srcLog d.c0 d.c1 d.c2 d.ss1 d.ss2
def Desc.dstExtent (d : Desc) : Nat × Nat := extent (addrOf d.dst) d.circDst d.dstLog d.c0 d.c1 d.c2 d.ds1 d.ds2

/-! ## Start checks (R469) -/

/-- DESC_FORMAT. `module` says the channel is a module channel or mover. -/
def Desc.formatBad (d : Desc) (module : Bool) : Bool :=
  let member := d.op == 3 || d.op == 4
  !decide (1 ≤ d.op ∧ d.op ≤ 4) || d.shape == 3 || decide (64 ≤ d.flags) || d.c0 == 0 || d.c1 == 0 || d.c2 == 0 ||
  decide (d.total > 2 ^ 40) || (d.shape != 1 && (d.c1 != 1 || d.c2 != 1)) ||
  ((d.shape == 2) != (d.circSrc || d.circDst)) ||
  (if d.circSrc then !decide (6 ≤ d.srcLog ∧ d.srcLog ≤ 32) || decide (d.c0 > 2 ^ d.srcLog) else d.srcLog != 0) ||
  (if d.circDst then !decide (6 ≤ d.dstLog ∧ d.dstLog ≤ 32) || decide (d.c0 > 2 ^ d.dstLog) else d.dstLog != 0) ||
  (d.c1 == 1 && (d.ss1 != 0 || d.ds1 != 0)) || (d.c2 == 1 && (d.ss2 != 0 || d.ds2 != 0)) ||
  ((d.op == 2 || d.op == 3) && (d.ss1 != 0 || d.ss2 != 0)) || (d.op == 4 && (d.ds1 != 0 || d.ds2 != 0)) ||
  (d.op == 2 && d.src != 0) || (d.op != 2 && d.fill.any (· != 0)) || (!member && d.members != 0) || (member && module) ||
  !wordClean d.src || !wordClean d.dst || !wordClean d.comp ||
  (if d.record then addrOf d.comp % 32 != 0 else d.comp != 0)

/-- A module physical address in the host window or the peer range. -/
def inOut (a : Nat) : Bool := inHost a || inPeer a

/-- Every address of a side lies in a range a module channel may use, and none is a peer address of the own bay (R450, R511, R513). The
strides and runs of a side are shorter than every range and than every gap between two, so a side that reaches beyond one touches the gap. -/
def physGood (bay : Nat) (e : Nat × Nat) : Bool :=
  let last := e.2 - 1
  let own := peerBase + bay * 2 ^ 42
  (inDram e.1 && inDram last) || (inOut e.1 && inOut last && (decide (last < own) || decide (own + 2 ^ 42 ≤ e.1)))

/-- DESC_SPACE for one side. -/
def sideBad (module : Bool) (bay w : Nat) (e : Nat × Nat) : Bool :=
  if module then spaceOf w != 2 || !physGood bay e else spaceOf w != 0 && spaceOf w != 1

/-- DESC_SPACE. -/
def Desc.spaceBad (d : Desc) (module : Bool) (bay : Nat) : Bool :=
  ((d.op == 1 || d.op == 4) && sideBad module bay d.src d.srcExtent) ||
  (d.op == 3 && spaceOf d.dst != 1) || (d.op != 4 && sideBad module bay d.dst d.dstExtent) ||
  (d.record && sideBad module bay d.comp (addrOf d.comp, addrOf d.comp + 32))

/-- DST_ALIAS (R455). -/
def Desc.aliasBad (d : Desc) : Bool :=
  let dims := (if d.c1 > 1 then [(d.ds1, d.c1)] else []) ++ (if d.c2 > 1 then [(d.ds2, d.c2)] else [])
  match dims.mergeSort (fun a b => a.1 ≤ b.1) with
  | [] => false
  | [a] => decide (a.1 < d.c0)
  | a :: b :: _ => decide (a.1 < d.c0) || decide (b.1 < a.1 * a.2)

/-- Source and destination overlap as written (R456). -/
def Desc.overlaps (d : Desc) : Bool :=
  spaceOf d.src == spaceOf d.dst && (spaceOf d.src != 1 || coreOf d.src == coreOf d.dst) &&
  decide (d.srcExtent.1 < d.dstExtent.2 ∧ d.dstExtent.1 < d.srcExtent.2)

/-- A pure translation (R457). -/
def Desc.pure (d : Desc) : Bool :=
  d.shape == 0 || (d.shape == 1 && (d.c1 == 1 || d.ss1 == d.ds1) && (d.c2 == 1 || d.ss2 == d.ds2))

/-- The first failing start check, or 0 (R469). -/
def Desc.check (d : Desc) (module : Bool) (bay : Nat) : Nat :=
  if d.formatBad module then 2
  else if d.spaceBad module bay then 3
  else if d.op ≠ 4 ∧ d.aliasBad then 4
  else if d.op = 1 ∧ d.overlaps ∧ ¬d.pure then 5
  else 0

/-! ## Patterns (R452, R453, R459) -/

/-- Bursts in one run: at most 512 bytes each (R481). -/
def Desc.burstsPerRun (d : Desc) : Nat := ceilDiv d.c0 512

/-- The copy runs in descending order with the larger destination stride outermost: an overlapping upward translation. -/
def Desc.descends (d : Desc) : Bool := d.op == 1 && d.overlaps && d.pure && decide (addrOf d.src < addrOf d.dst)

/-- Run `j` in iteration order: its indices in dimensions 1 and 2. -/
def Desc.runIndex (d : Desc) (j : Nat) : Nat × Nat :=
  let runs := d.c1 * d.c2
  let j := if d.descends then runs - 1 - j else j
  if d.op = 1 ∧ d.overlaps ∧ d.c1 > 1 ∧ d.c2 > 1 ∧ d.ds1 > d.ds2 then (j / max 1 d.c2, j % max 1 d.c2) else (j % max 1 d.c1, j / max 1 d.c1)

/-- Burst `n` in iteration order: dimension indices, first byte of the run and length. -/
def Desc.burst (d : Desc) (n : Nat) : Nat × Nat × Nat × Nat :=
  let per := max 1 d.burstsPerRun
  let (i1, i2) := d.runIndex (n / per)
  let b := n % per
  if d.descends then
    let hi := d.c0 - b * 512
    (i1, i2, hi - 512, min 512 hi)
  else (i1, i2, b * 512, min 512 (d.c0 - b * 512))

/-- Bursts of a descriptor. -/
def Desc.bursts (d : Desc) : Nat := d.burstsPerRun * d.c1 * d.c2

/-- Bursts already moved, from the bytes moved. -/
def Desc.burstsDone (d : Desc) (moved : Nat) : Nat := moved / max 1 d.c0 * d.burstsPerRun + ceilDiv (moved % max 1 d.c0) 512

/-- The completion record may be written through COMP_ADDR: it is aligned and in a space the channel may use (R449, R450). -/
def Desc.recordGood (d : Desc) (module : Bool) (bay : Nat) : Bool :=
  d.record && wordClean d.comp && addrOf d.comp % 32 == 0 && !sideBad module bay d.comp (addrOf d.comp, addrOf d.comp + 32)

/-- A straight segment of at most 64 KiB in the one or two pieces that no 64 KiB boundary parts, so that one leaf, or one range of the
module physical map, holds each. -/
def pageSplit (x : Nat × Nat) : List (Nat × Nat) :=
  let m := 0x1_0000 - x.1 % 0x1_0000
  if x.2 ≤ m then [x] else [(x.1, m), (x.1 + m, x.2 - m)]

/-- The one or two straight segments of bytes [o, o+n) of a side (R453). -/
def sideSegs (a : Nat) (circ : Bool) (log o n : Nat) : List (Nat × Nat) :=
  if circ then
    let r := ringStart a log
    let x := (a - r + o) % 2 ^ log
    if x + n ≤ 2 ^ log then [(r + x, n)] else [(r + x, 2 ^ log - x), (r, n - (2 ^ log - x))]
  else [(a + o, n)]

/-! ## Reading -/

/-- What a read of part of a source gave: bytes, status (R469), PCIe cause, the peer to ask, and the FRL kind of the leaf. -/
structure Got where
  bytes : List Byte
  status : Nat := 0
  why : Nat := 0
  peer : Option (Nat × Nat) := none
  frl : Nat := 0
  deriving DecidableEq, Repr

/-- The PCIe cause of a failed host read (R470). -/
def hostWhy : HostRead → Nat
  | .ok _ => 0
  | .unsupported => 1
  | .abort => 2
  | .poisoned => 3
  | .timeout => 4

/-- `n` bytes of host data from byte `k` of what the reads returned. -/
def gotHost (ext : HostRead) (k n : Nat) : Got :=
  match ext.bytes? with
  | some b => { bytes := (List.range n).map (fun i => b.getD (k + i) 0) }
  | none => { bytes := [], status := 6, why := hostWhy ext }

/-- A host access of a channel or mover goes out with a function's Requester ID (R220, R448). -/
def hostGot (fn : Nat) (ext : HostRead) (k n : Nat) (s : State) : Got × State := (gotHost ext k n, asFunction fn s)

/-- The model-cache entry whose image covers a virtual address of a partition. -/
def State.entryAt (s : State) (p va : Nat) : Option (Nat × Entry) :=
  s.disp.entries.find? (fun e => e.2.part == p && decide (e.2.va ≤ va ∧ va < e.2.va + s.imageSize e.2))

/-- An uncorrectable weight read (R506, R583): recorded, the entry to be reloaded, the command's results ERASED. -/
def weightUe (p va addr : Nat) (cmd : Option Nat) (s : State) : State :=
  let s := markErased cmd (noteUe addr s)
  match s.entryAt p va with
  | some (i, e) => emit Ev.mcUeWeight (some p) 6 (mcOf addr) i addr 0 { s with disp := { s.disp with entries := tset s.disp.entries i { e with state := if e.state = .ready then .reloading else e.state, damage := if e.damage.contains addr then e.damage else e.damage ++ [addr] } } }
  | none => emit Ev.mcUeWeight (some p) 6 (mcOf addr) 0xFFFFFFFF addr 0 s

/-- Untranslated DRAM for a module channel or mover (R506). -/
def gotDram (a n : Nat) (s : State) : Got × State :=
  match s.badIn a n with
  | [] => ({ bytes := s.peek a n }, s)
  | b :: _ => ({ bytes := [], status := 8 }, noteUe b s)

/-- A granule belongs to a stream of a partition (R414, R520). -/
def State.ownsGranule (s : State) (p g : Nat) : Bool := (s.streamsOf p).any (fun x => x.2.grans.any (fun y => y.2 == g))

/-- A read through a tide-pool leaf: granules of no stream of the partition read as zero (R520). -/
def gotPool (p a n : Nat) (s : State) : Got × State :=
  let own := fun (i : Nat) => s.ownsGranule p ((a + i - poolBase) / 0x4000)
  let bs := ((List.range n).zip (s.peek a n)).map (fun x => if own x.1 then x.2 else 0)
  ({ bytes := bs }, if (List.range n).all own then s else s.count F.xlPoolZeroCount 1)

/-- Block `b` of an EXC leaf as a reader gets it: its bytes, and the address in error when it is uncorrectable or inconsistent, with
whether that is a weight's error: in an index entry, in a RET leaf, or found by the decoder (R506, R533). -/
def excRead (s : State) (l : Leaf) (b : Nat) : Except (Nat × Bool) (List Byte) :=
  let x := excIndex (leNat (s.peek (l.base + 8 * b) 8))
  match s.badIn (l.base + 8 * b) 8, s.badIn (l.base + x.off) x.len with
  | a :: _, _ => .error (a, true)
  | [], a :: _ => .error (a, l.ret)
  | [], [] => match excBlock (fun o n => s.peek (l.base + o) n) b with
    | some blk => .ok blk
    | none => .error (l.base + x.off, true)

/-- The channel has a block decoded, or meets its error: counted and recorded when it is not the block it had last (R531). -/
def excNote (c : Nat) (l : Leaf) (b : Nat) (k : State → State) (s : State) : State :=
  let v := l.va / 4096 + b
  if (s.chan c).block = some v then s else k (s.setChan c { s.chan c with block := some v })

/-- Read `n` bytes at offset `o` of an EXC leaf, block by block (R525 to R533). The first number is fuel. -/
def gotExc (c p : Nat) (l : Leaf) (cmd : Option Nat) : Nat → Nat → Nat → State → Got × State
  | 0, _, _, s => ({ bytes := [] }, s)
  | f + 1, o, n, s =>
    if n = 0 then ({ bytes := [] }, s)
    else
      let b := o / 4096
      let m := min n (4096 - o % 4096)
      let dc := (l.va + o) / 4096 % 12
      let len := (excIndex (leNat (s.peek (l.base + 8 * b) 8))).len
      let go := fun (blk : List Byte) (s : State) =>
        let (g, s) := gotExc c p l cmd f (o + m) (n - m) s
        ({ g with bytes := (blk.drop (o % 4096)).take m ++ g.bytes }, s)
      match excRead s l b with
      | .ok blk => go blk (excNote c l b (fun s => ((s.addPair (R.mcDecBlocks dc) 1).addPair (R.mcDecIn dc) len).addPair (R.mcDecOut dc) 4096) s)
      | .error (a, true) => go (List.replicate 4096 0) (excNote c l b (weightUe p (l.va + o) a cmd) s)
      | .error (a, false) => ({ bytes := [], status := 8 }, noteUe a s)

/-- The 64 expanded bytes of block `b` of an FRL leaf. -/
def frlBlock (l : Leaf) (b : Nat) (s : State) : List Byte := frlDecodeBytes l.kind (s.peek (l.base + b * frlSize l.kind) (frlSize l.kind))

/-- Read within one leaf for a partition channel (R506, R511, R520). `k` is the byte of the pattern, for host data. -/
def gotLeaf (c p : Nat) (l : Leaf) (va n k : Nat) (cmd : Option Nat) (ext : HostRead) (s : State) : Got × State :=
  let o := va - l.va
  let a := l.base + o
  if l.target = 1 then gotPool p a n s
  else if l.target = 2 then hostGot (vfFunction p) ext k n s
  else if l.target = 3 then ({ bytes := [], peer := some (bitsOf a 45 42, bitsOf a 41 0) }, s)
  else if l.kind = 1 then gotExc c p l cmd (n / 4096 + 2) o n s
  else if l.kind = 0 then
    match s.badIn a n with
    | [] => ({ bytes := s.peek a n }, s)
    | b :: bs => if l.ret then ({ bytes := zeroBad (b :: bs) a (s.peek a n) }, (b :: bs).foldl (fun s x => weightUe p (va + (x - a)) x cmd s) s)
        else ({ bytes := [], status := 8 }, noteUe b s)
  else
    let b0 := o / 64
    let b1 := (o + n - 1) / 64
    match s.badIn (l.base + b0 * frlSize l.kind) ((b1 + 1 - b0) * frlSize l.kind) with
    | b :: _ => ({ bytes := [], status := 8 }, noteUe b s)
    | [] =>
      let all := (List.range (b1 + 1 - b0)).flatMap (fun i => frlBlock l (b0 + i) s)
      ({ bytes := (all.drop (o % 64)).take n, frl := if o % 64 = 0 ∧ n % 64 = 0 then l.kind else 0 }, s)

/-- Whether two results join: the first that is not a plain read decides. -/
def Got.join (a b : Got) : Got :=
  if a.status ≠ 0 then a else if b.status ≠ 0 then b
  else { bytes := a.bytes ++ b.bytes, peer := if a.peer.isSome then a.peer else b.peer, frl := if a.frl = b.frl then a.frl else 0 }

/-- Read a straight range of virtual addresses, page by page; status 99 has fail-stopped. The first number is fuel. -/
def gotVa (c p : Nat) (cmd : Option Nat) (ext : HostRead) : Nat → Nat → Nat → Nat → State → Got × State
  | 0, _, _, _, s => ({ bytes := [] }, s)
  | f + 1, va, n, k, s =>
    let m := min n (0x1_0000 - va % 0x1_0000)
    match translate c p va 1 s with
    | (none, s) => ({ bytes := [], status := 99 }, s)
    | (some l, s) =>
      let (g, s) := gotLeaf c p l va m k cmd ext s
      if n ≤ m ∨ g.status ≠ 0 then (g, s)
      else
        let (h, s) := gotVa c p cmd ext f (va + m) (n - m) (k + m) s
        (g.join h, s)

/-- Whose channel and command an access is for. -/
structure Who where
  ch : Nat
  module : Bool
  part : Nat
  cmd : Option Nat
  deriving DecidableEq, Repr

/-- The function whose Requester ID a channel's host accesses carry: PF0 for a module channel, else the partition's VF (R220, R448). -/
def Who.fn (w : Who) : Nat := if w.module then 0 else vfFunction w.part

/-- Read a straight segment of a side. -/
def gotSeg (w : Who) (word a n k : Nat) (ext : HostRead) (s : State) : Got × State :=
  if w.module then
    if inDram a then gotDram a n s
    else if inHost a then hostGot w.fn ext k n s
    else ({ bytes := [], peer := some (bitsOf a 45 42, bitsOf a 41 0) }, s)
  else if spaceOf word = 1 then
    match spadScan (coreOf word) w.part w.cmd [(a, n)] [] {} s with
    | (true, s) => ({ bytes := s.spadBytes (coreOf word) a n }, s)
    | (false, s) => ({ bytes := [], status := 99 }, s)
  else gotVa w.ch w.part w.cmd ext (n / 0x1_0000 + 2) a n k s

/-! ## Writing -/

/-- A write of the channel has gone to the host (R472). -/
def putHost (w : Who) (a : Nat) (bs : List Byte) (s : State) : State :=
  asFunction w.fn ((s.poke a bs).setChan w.ch { s.chan w.ch with toHost := true })

/-- Send a write to a peer, and wait for its acknowledgement (R612, R614). -/
def putPeer (w : Who) (bay a k : Nat) (frl : Nat) (bs : List Byte) (s : State) : State :=
  let x := s.chan w.ch
  let frl := if bs.length % 64 = 0 then frl else 0
  let data := if frl = 0 then bs else (List.range (bs.length / 64)).flatMap (fun i => frlEncodeBytes frl ((bs.drop (64 * i)).take 64))
  let s := s.setChan w.ch { x with waits := x.waits ++ [{ id := s.fab.nextMsg, bay := bay, ch := w.ch, at_ := k, len := bs.length, read := false, link := (s.routeOf bay).getD 15 }] }
  sendMsg (some bay) (if w.module then none else some w.part) none (.write a (if frl = 0 then 0 else frl - 1) data) s

/-- Ask a peer for data (R612). -/
def askPeer (w : Who) (bay a k n : Nat) (s : State) : State :=
  let x := s.chan w.ch
  let s := s.setChan w.ch { x with waits := x.waits ++ [{ id := s.fab.nextMsg, bay := bay, ch := w.ch, at_ := k, len := n, read := true, link := (s.routeOf bay).getD 15 }] }
  sendMsg (some bay) (if w.module then none else some w.part) none (.readReq a n) s

/-- Write bytes at an offset of an FRL leaf: whole blocks are coded, a part of one is merged with what it held (R535). -/
def putFrl (l : Leaf) : Nat → Nat → List Byte → State → State
  | 0, _, _, s => s
  | f + 1, o, bs, s =>
    if bs.isEmpty then s
    else
      let b := o / 64
      let m := min bs.length (64 - o % 64)
      let old := if m = 64 then [] else frlBlock l b s
      let blk := old.take (o % 64) ++ bs.take m ++ old.drop (o % 64 + m)
      let code := frlEncodeBytes l.kind blk
      let s := s.pokeDram (l.base + b * frlSize l.kind) code
      let s := if code.headD 0 = 0xFF then s.count F.mcFrlNanCount 1 else s
      putFrl l f (o + m) (bs.drop m) s

/-- Write within one leaf. -/
def putLeaf (w : Who) (l : Leaf) (va k frl : Nat) (bs : List Byte) (s : State) : State :=
  let a := l.base + (va - l.va)
  if l.target = 2 then putHost w a bs s
  else if l.target = 3 then putPeer w (bitsOf a 45 42) (bitsOf a 41 0) k frl bs s
  else if l.target = 1 then s
  else if l.kind ≥ 2 then putFrl l (bs.length / 64 + 2) (va - l.va) bs s
  else s.pokeDram a bs

/-- Write a straight range of virtual addresses, page by page; false has fail-stopped. -/
def putVa (w : Who) (frl : Nat) : Nat → Nat → Nat → List Byte → State → Bool × State
  | 0, _, _, _, s => (true, s)
  | f + 1, va, k, bs, s =>
    if bs.isEmpty then (true, s)
    else
      let m := min bs.length (0x1_0000 - va % 0x1_0000)
      match translate w.ch w.part va 2 s with
      | (none, s) => (false, s)
      | (some l, s) => putVa w frl f (va + m) (k + m) (bs.drop m) (putLeaf w l va k frl (bs.take m) s)

/-- Write a straight segment of a side. -/
def putSeg (w : Who) (word a k frl : Nat) (bs : List Byte) (s : State) : Bool × State :=
  if w.module then
    if inDram a then (true, s.pokeDram a bs)
    else if inHost a then (true, putHost w a bs s)
    else (true, putPeer w (bitsOf a 45 42) (bitsOf a 41 0) k frl bs s)
  else if spaceOf word = 1 then
    if s.spadWritable (coreOf word) w.part a bs.length then (true, pokeSpad (coreOf word) a bs s)
    else (false, spFault (coreOf word) 2 s)
  else putVa w frl (bs.length / 0x1_0000 + 2) a k bs s

/-- Write bytes over several pieces. -/
def putPieces (w : Who) (word frl : Nat) : List (Nat × Nat) → Nat → List Byte → State → Bool × State
  | [], _, _, s => (true, s)
  | (a, n) :: rest, k, bs, s =>
    match putSeg w word a k frl (bs.take n) s with
    | (false, s) => (false, s)
    | (true, s) => putPieces w word frl rest (k + n) (bs.drop n) s

/-- Write bytes over several segments. -/
def putSegs (w : Who) (word frl : Nat) (segs : List (Nat × Nat)) (k : Nat) (bs : List Byte) (s : State) : Bool × State :=
  putPieces w word frl (segs.flatMap pageSplit) k bs s

/-! ## Movement -/

/-- The value a destination byte takes (R459, R460): its source byte as it was at start where the two sides overlap as written
or the byte has not changed; a byte this descriptor has itself changed, through another address, is either. -/
def aliasPick (d : Desc) (i : Nat) (start now : Byte) : Byte :=
  if start = now ∨ d.overlaps then start else if Config.freeNat i % 2 = 0 then start else now

/-- Pick every byte of a burst. -/
def aliasBytes (d : Desc) (seed : Nat) (start now : List Byte) : List Byte :=
  ((List.range start.length).zip (start.zip now)).map (fun x => aliasPick d (seed + x.1) x.2.1 x.2.2)

/-- The fill bytes of a burst that starts at byte `o` of its run (R454). -/
def fillBytes (d : Desc) (o n : Nat) : List Byte := (List.range n).map (fun i => d.fill.getD ((o + i) % 4) 0)

/-- The bay a piece of a side reaches, when it lies in a peer. -/
def State.bayAt (s : State) (w : Who) (word a : Nat) : Option Nat :=
  if w.module then (if inPeer a then some (bitsOf a 45 42) else none)
  else if spaceOf word = 0 then (match s.leafAt w.part a with
    | some l => if l.target = 3 then some (bitsOf (l.base + (a - l.va)) 45 42) else none
    | none => none)
  else none

/-- Whether an access to a bay can go out: 0 it can, 98 not before a link has retrained (R488, R604), 7 no link leads there. -/
def State.wayTo (s : State) (bay : Nat) : Nat :=
  if (s.routeOf bay).isSome then 0 else if (List.range 6).any (fun l => (s.link l).retraining) then 98 else 7

/-- Whether the accesses to pieces of a side can go out: the first answer of `wayTo` that is not 0. -/
def State.wayOf (s : State) (w : Who) (word : Nat) (segs : List (Nat × Nat)) : Nat :=
  (((segs.flatMap pageSplit).filterMap (fun x => (s.bayAt w word x.1).map s.wayTo)).find? (· ≠ 0)).getD 0

/-- Move the pieces of a burst: the first number is the byte of the pattern, the second that of the run; `dst` gives the destination of
bytes of the run. The answer: status, PCIe cause, bytes moved. -/
def movePieces (w : Who) (d : Desc) (ext : HostRead) (s0 : State) (dst : Nat → Nat → List (Nat × Nat)) : List (Nat × Nat) → Nat → Nat → State → Nat × Nat × Nat × State
  | [], _, _, s => (0, 0, 0, s)
  | (a, n) :: rest, k, o, s =>
    let next := fun (s : State) =>
      let (st, why, m, s) := movePieces w d ext s0 dst rest (k + n) (o + n) s
      (st, why, m + n, s)
    let (g, s) := gotSeg w d.src a n k ext s
    if g.status ≠ 0 then (g.status, g.why, 0, s)
    else match g.peer with
      | some (bay, x) => next (askPeer w bay x k n s)
      | none =>
        let (g0, _) := gotSeg w d.src a n k ext s0
        let bs := if g0.bytes = g.bytes then g.bytes else aliasBytes d s.free g0.bytes g.bytes
        let s := if g0.bytes = g.bytes then s else { s with free := s.free + n }
        match putSegs w d.dst g.frl (dst o n) k bs s with
        | (true, s) => next s
        | (false, s) => (99, 0, 0, s)

/-- Move one burst; `s0` is the state with the bytes this descriptor has changed as they were when it started. The answer: status (0 moved,
98 it cannot go out yet, 99 fail-stopped), PCIe cause, bytes moved. -/
def moveBurst (w : Who) (d : Desc) (ext : HostRead) (s0 : State) (n : Nat) (s : State) : Nat × Nat × Nat × State :=
  let (i1, i2, o, len) := d.burst n
  let k := (i2 * d.c1 + i1) * d.c0 + o
  let dst := sideSegs (addrOf d.dst + i1 * d.ds1 + i2 * d.ds2) d.circDst d.dstLog
  let src := if d.op = 2 then [] else sideSegs (addrOf d.src + i1 * d.ss1 + i2 * d.ss2) d.circSrc d.srcLog o len
  match s.wayOf w d.src src, s.wayOf w d.dst (dst o len) with
  | 0, 0 =>
    if d.op = 2 then
      let (ok, s) := putSegs w d.dst 0 (dst o len) k (fillBytes d o len) s
      (if ok then 0 else 99, 0, len, s)
    else movePieces w d ext s0 dst (src.flatMap pageSplit) k o s
  | 0, st => (st, 0, 0, s)
  | st, _ => (st, 0, 0, s)

/-- Move `n` bursts from burst `i` on, until one fails or cannot go out yet. The answer: status, cause, bytes moved. -/
def moveBursts (w : Who) (d : Desc) (ext : HostRead) (s0 : State) : Nat → Nat → State → Nat × Nat × Nat × State
  | 0, _, s => (0, 0, 0, s)
  | n + 1, i, s =>
    if i ≥ d.bursts then (0, 0, 0, s)
    else match moveBurst w d ext s0 i s with
      | (0, _, k, s) =>
        let (st, why, m, s) := moveBursts w d ext s0 n (i + 1) s
        (st, why, m + k, s)
      | (st, why, k, s) => (if st = 98 then 0 else st, why, k, s)

/-! ## Channel state -/

/-- Whose accesses a channel makes. -/
def State.who (s : State) (c : Nat) (cmd : Option Nat) : Who where
  ch := c
  module := s.bit (F.dmaChOwnerModule c)
  part := s.fld (F.dmaChOwnerPartition c)
  cmd := cmd

/-- Records the ring of a module channel holds. -/
def State.dmaSize (s : State) (c : Nat) : Nat := 2 ^ s.fld (F.dmaChRingCfgLog2 c)

/-- The level of a channel's tidemark (R483). -/
def State.dmaLevel (s : State) (c : Nat) : Nat :=
  if s.bit (F.dmaChOwnerModule c) then (s.fld (F.dmaChTailTail c) + s.dmaSize c - s.fld (F.dmaChHeadHead c)) % s.dmaSize c
  else (s.chan c).queue.length + (if (s.chan c).run.isSome then 1 else 0)

/-- ACTIVE, IDLE and the tidemark follow the channel. -/
def dmaSync (c : Nat) (s : State) : State :=
  let x := s.chan c
  let run := x.run.isSome
  let idle := !run && x.queue.isEmpty && (!s.bit (F.dmaChOwnerModule c) || s.fld (F.dmaChTailTail c) == s.fld (F.dmaChHeadHead c))
  let s := (s.setBit (F.dmaChStatusActive c) run).setBit (F.dmaChStatusIdle c) idle
  let n := s.dmaLevel c
  tmNotify (tmLevel (R.dmaChTmCfg c) n s) Ev.dmaTidemark 5 c n 0

/-- The 32-byte completion record (R474). -/
def dmaRecord (status ch index : Nat) (tag : List Byte) (residue time : Nat) : List Byte :=
  leBytes 1 status ++ leBytes 1 ch ++ leBytes 2 index ++ tag ++ leBytes 8 residue ++ leBytes 8 time ++ List.replicate 7 0 ++ [0x80]

/-- The stream of a member-table entry: handle, valid, chunk (R352). -/
def memberEntry (s : State) (core off r : Nat) : Nat × Bool × Nat :=
  let b := s.spadBytes core (off + 32 * r) 32
  (fieldAt b 0 4, fieldAt b 4 1 % 2 == 1, fieldAt b 8 8)

/-- Where a stream's slot for a chunk lies (R461). -/
def State.slotAddr (s : State) (d : Nat) (x : Stream) (n : Nat) : Nat :=
  s.pair R.dmaChunkBase + d * 0x4_0000 + (n % (if x.par.hostFed then 4 else 2)) * 0x1_0000

/-- OR a flag into the flags of a chunk's result. -/
def flagChunk (n bit : Nat) (x : Stream) : Stream :=
  let old := tget x.flags n 0
  if Nat.testBit old bit then x else { x with flags := tset x.flags n (old + 2 ^ bit) }

/-- What a channel still waits for of the descriptor that has ended: its writes that have not arrived (R473, R478). -/
def Chan.leftWaits (x : Chan) : List PeerWait := (x.waits.filter (fun w => !w.read)).map (fun w => { w with own := false })

/-- A descriptor has ended: its record, counters and channel state; an error stops a module channel, and marks the command of
a partition channel (R470, R471, R474). A record whose write stops the module leaves the rest undone (R480), and one whose COMP_ADDR may not
be used is not written (log entry 126). -/
def endDesc (c status residue : Nat) (s : State) : State :=
  let x := s.chan c
  match x.run with
  | none => s
  | some r =>
    let d := descOf r.raw
    let w := s.who c r.cmd
    let s := if d.recordGood w.module s.bay then (putSeg w d.comp (addrOf d.comp) 0 0 (dmaRecord status c r.index d.tag residue s.time) s).2 else s
    if s.failStopped then s else
    let s := ((s.addPair (R.dmaChDone c) 1).setPair (R.dmaChResidue c) residue).setFld (F.dmaChStatusLastStatus c) status
    let s := s.setChan c { s.chan c with run := none, waits := (s.chan c).leftWaits }
    let s := if w.module then
        let s := s.setFld (F.dmaChHeadHead c) ((s.fld (F.dmaChHeadHead c) + 1) % s.dmaSize c)
        if status ≤ 1 then s
        else
          let s := (s.setBit (F.dmaChStatusErr c) true).setBit (F.dmaChCtrlEn c) false
          if status = 5 then emitM Ev.dmaOverlapUnsafe 5 c r.index 0 0 s
          else if status = 6 then emitM Ev.dmaHostError 5 c r.index r.why 0 s
          else s
      else match r.cmd with
        | some i =>
          let x := s.chan c
          let s := s.setChan c { x with ended := tset x.ended i (tget x.ended i 0 + 1), failed := if status > 1 then x.failed ++ [i] else x.failed }
          let s := match tfind s.disp.cmds i with
            | some y => { s with disp := { s.disp with cmds := tset s.disp.cmds i { y with
                hostErr := y.hostErr || decide (status > 1)
                wrote := y.wrote ++ (if (d.op == 1 || d.op == 2) && spaceOf d.dst == 0 && status ≤ 1 then [(addrOf d.dst, d.total % 2 ^ 32)] else []) } } }
            | none => s
          if d.op = 3 ∧ status = 0 then
            (List.range d.c1).foldl (fun s m =>
              let (h, valid, n) := memberEntry s r.core d.members m
              match s.findHandle h with
              | some (e, y) => if valid then s.setStream e { y with full := y.full.filter (· ≠ n) } else s
              | none => s) s
          else s
        | none => s
    dmaSync c s

/-- Where the ring slot at HEAD of a module channel lies. -/
def State.ringSlot (s : State) (c : Nat) : Nat := s.pair (R.dmaChRingBase c) / 64 * 64 + 64 * s.fld (F.dmaChHeadHead c)

/-- The descriptor a channel runs next: the ring slot at HEAD, or the front of the queue (R466, R467). For a ring outside DRAM the bytes are
what the fetch returned. -/
def nextDesc (c : Nat) (fetch : HostRead) (s : State) : Option (HostRead × DmaRun) :=
  if s.bit (F.dmaChOwnerModule c) then
    if !s.bit (F.dmaChCtrlEn c) || s.fld (F.dmaChHeadHead c) == s.fld (F.dmaChTailTail c) then none
    else
      let a := s.ringSlot c
      let d : HostRead := if inDram a then .ok (s.peek a 64) else fetch
      some (d, { raw := d.bytes?.getD [], index := s.fld (F.dmaChHeadHead c), cmd := none, core := 0, moved := 0, total := 0, status := 0, why := 0 })
  else match (s.chan c).queue with
    | q :: _ => some (.ok [], { raw := q.raw, index := q.index, cmd := some q.cmd, core := q.core, moved := 0, total := 0, status := 0, why := 0 })
    | [] => none

/-- The access that fetches a module channel's next descriptor: from host memory with PF0's Requester ID, from a peer by READ_REQ (log entry
127), or from DRAM, with the address in error there. -/
def descAccess (c : Nat) (s : State) : Option Nat × State :=
  let a := s.ringSlot c
  if !s.bit (F.dmaChOwnerModule c) then (none, s)
  else if inDram a then ((s.badIn a 64).head?, s)
  else if inPeer a then (none, unicast (bitsOf a 45 42) (.readReq (bitsOf a 41 0) 64) s)
  else (none, if inHost a then asFunction 0 s else s)

/-- A descriptor fetch failed (R470). -/
def fetchFail (c : Nat) (fetch : HostRead) (s : State) : State :=
  let i := s.fld (F.dmaChHeadHead c)
  let s := (s.setBit (F.dmaChStatusFetchErr c) true).setBit (F.dmaChCtrlEn c) false
  dmaSync c (emitM Ev.dmaHostError 5 c i (hostWhy fetch) 0 s)

/-- Start the next descriptor of a channel when it is of operation `op`: the checks of R469, then `k` moves its data. A check
that fails ends it at once, and on a partition channel is an execution fault (R471). One that cannot be read from DRAM ends with SRC_UE (R506;
log entry 127). -/
def startDesc (c op : Nat) (fetch : HostRead) (k : DmaRun → Desc → State → State) (s : State) : State :=
  if (s.chan c).run.isSome || s.failStopped then s
  else match nextDesc c fetch s with
    | none => s
    | some (d, r) =>
      let e := descOf r.raw
      let m := s.bit (F.dmaChOwnerModule c)
      let (bad, s') := descAccess c s
      if d.bytes?.isSome ∧ bad.isNone ∧ e.op ≠ op ∧ (1 ≤ e.op ∧ e.op ≤ 4) then s
      else if d.bytes?.isNone then fetchFail c d s'
      else
        let r := { r with total := e.total }
        let x := s'.chan c
        let s := s'.setChan c { x with queue := x.queue.drop (if m then 0 else 1), run := some r, toHost := false, block := none }
        let s := dmaSync c (s.setBit (F.dmaChStatusDrained c) false)
        match bad with
        | some a => endDesc c 8 0 (noteUe a (s.setChan c { s.chan c with run := some { r with raw := [], total := 0 } }))
        | none => match e.check m s.bay with
          | 0 => k r e s
          | st => if m then endDesc c st r.total s else dmaFault 1 s

/-- Keep what a movement did to the running descriptor. -/
def noteMove (c : Nat) (r : DmaRun) (status why m : Nat) (s : State) : State :=
  if status = 99 then s
  else
    let s := s.addPair (R.dmaChBytes c) m
    s.setChan c { s.chan c with run := some { r with moved := r.moved + m, status := status, why := why } }

/-- Memory with bytes as a list has them. -/
def undoCells (prior m : List Host.Cell) : List Host.Cell := prior.foldl (fun m c => memSet m c.1 c.2) m

/-- The bytes two memories differ in, as the first has them. -/
def cellsChanged (a b : List Host.Cell) : List Host.Cell :=
  a.filter (fun c => memGet b c.1 != c.2) ++ (b.filter (fun c => !a.any (fun x => x.1 == c.1))).map (fun c => (c.1, 0))

/-- Move up to `n` further bursts of the running descriptor. The addresses of a module channel are those of its bytes, so only on a
partition channel can its two sides meet through different ones (R460). -/
def moveOn (c n : Nat) (ext : HostRead) (r : DmaRun) (s : State) : State :=
  let d := descOf r.raw
  let w := s.who c r.cmd
  let s0 := if w.module then s else { s with mem := undoCells r.prior s.mem }
  let (st, why, m, s') := moveBursts w d ext s0 n (d.burstsDone r.moved) s
  noteMove c (if w.module then r else { r with prior := cellsChanged s0.mem s'.mem }) st why m s'

/-! ## The data operations -/

/-- COPY: the descriptor is checked and its first `bursts` bursts are moved; DMA_DESC_END moves the rest. -/
def execCopy (c : Fin 64) (fetch ext : HostRead) (bursts : Nat) (ecc : Ecc) (s : State) : Host.Outcome State Fault Refusal :=
  .next (powered (fun s => startDesc c 1 fetch (fun r _ s => moveOn c bursts ext r s) (applyEcc ecc s)) s)

/-- FILL. -/
def execFill (c : Fin 64) (fetch : HostRead) (bursts : Nat) (s : State) (ecc : Ecc := {}) : Host.Outcome State Fault Refusal :=
  .next (powered (fun s => startDesc c 2 fetch (fun r _ s => moveOn c bursts (.ok []) r s) (applyEcc ecc s)) s)

/-- One member of a MEMBER_IN (R464): its slot's bytes, damaged ones zero and the chunk flagged AUDIO_GAP (R506), or zeros. The answer is a
status, 99 fail-stopped, and a PCIe cause. -/
def memberIn (w : Who) (d : Desc) (core m : Nat) (s : State) : Nat × Nat × State :=
  let (h, valid, n) := memberEntry s core d.members m
  let (bs, s) := match s.findHandle h with
    | some (e, x) => if valid && !(x.par.hostFed && x.silent.any (fun k => decide (k ≤ n))) then
          let a := s.slotAddr e x n
          match s.badIn a d.c0 with
          | [] => (s.peek a d.c0, s)
          | b :: bad => (zeroBad (b :: bad) a (s.peek a d.c0), (b :: bad).foldl (fun s y => noteUe y s) (s.setStream e (flagChunk n 4 x)))
        else (List.replicate d.c0 0, s)
    | none => (List.replicate d.c0 0, s)
  let (ok, s) := putSeg w d.dst (addrOf d.dst + m * d.ds1) 0 0 bs s
  (if ok then 0 else 99, 0, s)

/-- Members in order until one fails: status, PCIe cause, members done. -/
def eachMember (f : Nat → State → Nat × Nat × State) : List Nat → State → Nat × Nat × Nat × State
  | [], s => (0, 0, 0, s)
  | m :: rest, s => match f m s with
    | (0, _, s) =>
      let (st, why, n, s) := eachMember f rest s
      (st, why, n + 1, s)
    | (st, why, s) => (st, why, 0, s)

/-- A member operation: its member table is read in the partition's regions (R405), then each member in turn. -/
def runMembers (c : Nat) (r : DmaRun) (d : Desc) (f : Nat → State → Nat × Nat × State) (s : State) : State :=
  match spadScan r.core (s.who c r.cmd).part r.cmd [(d.members, 32 * d.c1)] [] {} s with
  | (false, s) => s
  | (true, s) =>
    let (st, why, n, s) := eachMember f (List.range d.c1) s
    noteMove c (((s.chan c).run).getD r) st why (if st = 0 then r.total else n * d.c0) s

/-- MEMBER_IN (R464). -/
def execMemberIn (c : Fin 64) (ecc : Ecc) (s : State) (fetch : HostRead := .ok []) : Host.Outcome State Fault Refusal :=
  .next (powered (fun s => startDesc c 3 fetch (fun r d s => runMembers c r d (memberIn (s.who c r.cmd) d r.core) s) (applyEcc ecc s)) s)

/-- The first frame at which an ebb chunk plays (R68): one period after the one before while an utterance plays, else the first
chunk boundary whose FS assertion lies at least 60 µs ahead, so that its fetch is 20 µs away or more (R135, log entry 15). -/
def State.playAt (s : State) (x : Stream) : Nat :=
  let f := max 1 (s.framesOf x.par)
  let p := s.port x.par.port
  if x.playTo > p.idx then x.playTo
  else
    let b := ceilDiv p.idx f * f
    if s.time + 60000 ≤ s.frameTime x.par.port b then b else b + f

/-- Write one lane of consecutive ebb records. -/
def putLane (n slot : Nat) : Nat → List Byte → Nat → State → State
  | 0, _, _, s => s
  | f + 1, bs, k, s =>
    let c := s.container n
    putLane n slot f (bs.drop c) (k + 1) (s.pokeDram (s.ebbAddr n k + s.lane n true slot * c) (bs.take c))

/-- An ebb chunk takes its play-out frames in a stream's lane (R68, R136, R465). The answer is the first. -/
def bookPlay (e : Nat) (x : Stream) (chunk : Nat) (s : State) : Nat × State :=
  let f := s.framesOf x.par
  let t := s.playAt x
  let n := x.par.port
  let s := s.setStream e { x with playTo := t + f, uttNew := false, plays := x.plays ++ [{ at_ := t, chunk := chunk, first := x.uttNew, last := false, flags := 0 }] }
  let p := s.port n
  (t, apTides n (s.setPort n { p with ebbHigh := max p.ebbHigh (t + f) }))

/-- Bytes from byte `o` of an ebb chunk that plays from frame `t` on go into its stream's lane. -/
def putEbb (x : Stream) (t o : Nat) (bs : List Byte) (s : State) : State :=
  let c := max 1 (s.container x.par.port)
  putLane x.par.port x.par.ebbSlot (bs.length / c) bs (t + o / c) s

/-- Read the pieces of a member's source: status, PCIe cause, and for each piece its byte of the pattern, its length and what was read. -/
def gotParts (w : Who) (word : Nat) (ext : HostRead) : List (Nat × Nat) → Nat → State → Nat × Nat × List (Nat × Nat × Got) × State
  | [], _, s => (0, 0, [], s)
  | (a, n) :: rest, k, s =>
    let (g, s) := gotSeg w word a n k ext s
    if g.status ≠ 0 then (g.status, g.why, [], s)
    else
      let (st, why, l, s) := gotParts w word ext rest (k + n) s
      (st, why, (k, n, g) :: l, s)

/-- A piece of a member's ebb chunk: written to the lane, or asked of a peer in requests of at most 4,096 bytes (R612). -/
def placePart (w : Who) (d : Desc) (x : Stream) (t : Nat) (s : State) (p : Nat × Nat × Got) : State :=
  match p.2.2.peer with
  | none => putEbb x t (p.1 % max 1 d.c0) p.2.2.bytes s
  | some (bay, a) => (List.range (ceilDiv p.2.1 4096)).foldl (fun s i => askPeer w bay (a + 4096 * i) (p.1 + 4096 * i) (min 4096 (p.2.1 - 4096 * i)) s) s

/-- One member of a MEMBER_OUT (R465); a source that cannot be read ends it (R469, R471). `t` is kept for the pieces a peer gives later. -/
def memberOut (w : Who) (d : Desc) (core : Nat) (ext : HostRead) (m : Nat) (s : State) : Nat × Nat × State :=
  let (h, valid, n) := memberEntry s core d.members m
  match s.findHandle h with
  | some (e, x) =>
    if valid && x.par.ebbEn && !x.par.hostFed then
      let a := addrOf d.src + m * d.ss1
      let first := min d.c0 (0x1_0000 - a % 0x1_0000)
      let segs := [(a, first), (a + first, d.c0 - first)].filter (fun y => y.2 != 0)
      match s.wayOf w d.src segs with
      | 0 => match gotParts w d.src ext segs (m * d.c0) s with
        | (0, _, l, s) =>
          let (t, s) := bookPlay e x n s
          let s := if l.any (fun y => y.2.2.peer.isSome) then
              s.setChan w.ch { s.chan w.ch with run := (s.chan w.ch).run.map (fun r => { r with plays := tset r.plays m t }) }
            else s
          (0, 0, l.foldl (placePart w d x t) s)
        | (st, why, _, s) => (st, why, s)
      | _ => (7, 0, s)
    else (0, 0, s)
  | none => (0, 0, s)

/-- A member of the MEMBER_OUT at the front of a channel's queue takes its data from a peer that no link leads to until one has retrained. -/
def State.outWaits (s : State) (c : Nat) : Bool :=
  match (s.chan c).queue with
  | q :: _ =>
    let d := descOf q.raw
    d.op == 4 && (List.range d.c1).any (fun m => s.wayOf (s.who c (some q.cmd)) d.src [(addrOf d.src + m * d.ss1, min d.c0 0x1_0000)] == 98)
  | [] => false

/-- MEMBER_OUT (R465). -/
def execMemberOut (c : Fin 64) (s : State) (ecc : Ecc := {}) (fetch : HostRead := .ok []) (ext : HostRead := .ok []) : Host.Outcome State Fault Refusal :=
  .next (powered (fun s => if s.outWaits c then s
    else startDesc c 4 fetch (fun r d s => runMembers c r d (memberOut (s.who c r.cmd) d r.core ext) s) (applyEcc ecc s)) s)

/-! ## Ending, abort and drain -/

/-- The accesses to peers the running descriptor still waits for. -/
def Chan.own (x : Chan) : List PeerWait := x.waits.filter PeerWait.own

/-- The running descriptor may end: with every write issued, and under ARRIVE arrived (R472); aborted, with what was asked for written, and
for its record arrived (R477); with any error, at once. -/
def State.descDone (s : State) (c : Nat) (r : DmaRun) : Bool :=
  let x := s.chan c
  let d := descOf r.raw
  if r.status = 0 then r.moved == r.total && x.own.all (fun w => !w.read) && (!d.arrive || (x.own.isEmpty && !x.toHost))
  else if r.status = 1 then x.own.all (fun w => !w.read) && (!d.record || x.own.isEmpty)
  else true

/-- An abort is over with the descriptor it met: EN and ABORT of a module channel clear (R477). -/
def closeAbort (c : Nat) (s : State) : State :=
  if s.bit (F.dmaChCtrlAbort c) then
    let s := s.setBit (F.dmaChCtrlAbort c) false
    if s.bit (F.dmaChOwnerModule c) then s.setBit (F.dmaChCtrlEn c) false else s
  else s

/-- The running descriptor ends with its status. What it asked for and has not been given was not written, and under PEER_DOWN what has not
been acknowledged neither (R477, R488, R641). -/
def endRun (c : Nat) (s : State) : State :=
  match (s.chan c).run with
  | none => s
  | some r =>
    let lost := if r.status = 0 then [] else (s.chan c).own.filter (fun w => w.read || r.status == 7)
    let residue := r.total - r.moved + (lost.map PeerWait.len).sum
    let s := endDesc c r.status residue s
    let s := if r.status = 1 then emitM Ev.dmaAborted 5 c (min residue 0xFFFFFFFF) 0 0 s else s
    dmaSync c (closeAbort c s)

/-- The read that fences the writes to the host returns (R472). -/
def fenceDone (c : Nat) (ext : HostRead) (r : DmaRun) (s : State) : State :=
  let bad := ext.bytes?.isNone && r.status == 0
  s.setChan c { s.chan c with toHost := false, run := some { r with fence := false, status := if bad then 6 else r.status, why := if bad then hostWhy ext else r.why } }

/-- The running descriptor goes on: what is left is moved, then it ends, unless it waits for a peer's data, for a link, or under ARRIVE for
arrivals: of its writes to the host by a read it issues behind the last, whose return the next DMA_DESC_END brings (R472; log entry 128). -/
def finishDesc (c : Nat) (ext : HostRead) (s : State) : State :=
  match (s.chan c).run with
  | none => s
  | some r =>
    let s := if r.fence then fenceDone c ext r s
      else if r.status = 0 ∧ r.moved < r.total then moveOn c (descOf r.raw).bursts ext r s else s
    if s.failStopped then s
    else match (s.chan c).run with
      | none => s
      | some r =>
        if r.status = 0 ∧ r.moved = r.total ∧ (descOf r.raw).arrive ∧ (s.chan c).toHost then
          asFunction (s.who c r.cmd).fn (s.setChan c { s.chan c with run := some { r with fence := true } })
        else if s.descDone c r then endRun c s else s

/-- DMA_DESC_END: `ext` is what further host reads return. -/
def execDmaDescEnd (c : Fin 64) (ext : HostRead) (ecc : Ecc) (s : State) : Host.Outcome State Fault Refusal :=
  .next (powered (fun s => finishDesc c ext (applyEcc ecc s)) s)

/-- An abort that waits ends its descriptor once what it waits for has come. -/
def settleAbort (c : Nat) (s : State) : State :=
  if s.bit (F.dmaChCtrlAbort c) && (s.chan c).run.any (s.descDone c) then endRun c s else s

/-- The abort of a channel (R477, R485): the queue is flushed; the descriptor running issues no further read and ends ABORTED with its
residue, or OK when every write has been issued; where it still waits, ABORT stays set (R486). -/
def abortChan (c : Nat) (s : State) : State :=
  let x := s.chan c
  let run := x.run.map (fun r =>
    let all := r.moved == r.total && x.own.all (fun w => !w.read)
    if r.status = 0 ∧ ¬all then { r with status := 1 } else r)
  let s := s.setChan c { x with queue := [], run := run, aborting := x.aborting || !s.bit (F.dmaChStatusDrained c) }
  let s := s.setBit (F.dmaChCtrlAbort c) true
  dmaSync c (if run.isNone then closeAbort c s else settleAbort c s)

/-- DMA_ABORT. -/
def execDmaAbort (path : Path) (c : Fin 64) (s : State) : Host.Outcome State Fault Refusal :=
  .next (screen path (R.dmaChCtrl c) 0xF#4 (abortChan c) s)

/-- A write of TAIL (R466, R486). -/
def effDmaTail (c : Nat) (v : Word) (s : State) : State :=
  let t := wfield v 15 0
  if !s.bit (F.dmaChCtrlEn c) ∧ ¬s.bit (F.dmaChCtrlAbort c) then s
  else if t ≥ s.dmaSize c then emitM Ev.doorbellRange 5 c t 0 0 (s.setBit (F.dmaChStatusDbErr c) true)
  else dmaSync c (s.setFld (F.dmaChTailTail c) t)

/-- DMA_TAIL_DOORBELL. -/
def execDmaTailDoorbell (path : Path) (c : Fin 64) (v : Word) (s : State) : Host.Outcome State Fault Refusal :=
  .next (screen path (R.dmaChTail c) 0xF#4 (effDmaTail c v) s)

/-- Setting EN of a module channel (R466). -/
def effDmaEnable (c : Nat) (s : State) : State :=
  let lg := s.fld (F.dmaChRingCfgLog2 c)
  let a := s.pair (R.dmaChRingBase c)
  if s.bit (F.dmaChCtrlEn c) then s
  else if 4 ≤ lg ∧ lg ≤ 16 ∧ ¬inDevice a ∧ ¬inPool a then dmaSync c (s.setBit (F.dmaChCtrlEn c) true)
  else s.setBit (F.dmaChStatusCfgErr c) true

/-- DMA_CH_ENABLE. -/
def execDmaChEnable (path : Path) (c : Fin 64) (s : State) : Host.Outcome State Fault Refusal :=
  .next (screen path (R.dmaChCtrl c) 0xF#4 (effDmaEnable c) s)

/-- A channel is drained: nothing runs and every write has arrived; those to a peer whose link went down are waited for no longer (R478). -/
def drainChan (c : Nat) (s : State) : State :=
  let x := s.chan c
  if x.run.isSome || !x.waits.isEmpty then s else s.setBit (F.dmaChStatusDrained c) true |>.setChan c { x with aborting := false }

/-- Accesses to peers whose link went down, or that no link leads to any more, are lost; the running descriptor ends with PEER_DOWN (R469,
R488). -/
def peerSync (s : State) : State :=
  let gone := fun (s : State) (w : PeerWait) =>
    let st := s.fld (F.linkStatusState w.link)
    w.link ≥ 6 || st == 0 || st == 5 || s.wayTo w.bay == 7
  (s.dma.map Prod.fst).foldl (fun s c =>
    let x := s.chan c
    let lost := x.waits.filter (gone s)
    if lost.isEmpty then s
    else
      let own := lost.filter PeerWait.own
      let run := x.run.map (fun r => if own.isEmpty then r else
        { r with status := if r.status = 0 then 7 else r.status, moved := r.moved - (own.map PeerWait.len).sum })
      settleAbort c (s.setChan c { x with waits := x.waits.filter (fun w => !gone s w), run := run })) s

end Sys2Proof.Machine
end

