-- ==== Sys2Proof/Machine/Audio.lean ====
section
/-! DEFINITION. The serial audio ports: enabling, frames, voice activity and cuts, ring commits, frame-sync loss, slips and
tidemarks (R112 to R172, R205 to R213). -/

namespace Sys2Proof.Machine

/-! ## Enabling (R113, R122 to R124) -/

/-- f_ACS / RATE of a rate code (R113), none for an invalid code. -/
def acsRatio (rate : Nat) : Option Nat :=
  match rate with
  | 0 => some 3072
  | 1 => some 1536
  | 2 => some 1024
  | 3 => some 512
  | 4 => some 1024
  | 5 => some 512
  | _ => none

/-- Bits of a slot. -/
def slotBits (width : Nat) : Nat := if width = 0 then 16 else if width = 1 then 24 else 32

/-- The frame length a port's configuration gives, when whole (R113). -/
def State.frameLen (s : State) (n : Nat) : Option Nat :=
  let div := s.fld (F.apCfgBclkDiv n)
  match acsRatio (s.fld (F.apCfgRate n)) with
  | some q => if div = 0 ∨ q % div ≠ 0 then none else some (q / div)
  | none => none

/-- The code of the first check of R123 that a port fails, under a role. In I2S the port ignores FS_WIDTH (R115), so its code is not checked
there (log entry 103). -/
def State.apCheck (s : State) (n role : Nat) : Option Nat :=
  let rate := s.fld (F.apCfgRate n)
  let grid := s.fld (F.apCfgGrid n)
  let slots := s.portSlots n
  if s.fld (F.apCfgFormat n) > 1 ∨ s.fld (F.apCfgWidth n) > 2 ∨ rate > 5 ∨ role > 2 ∨ (s.fld (F.apCfgFormat n) = 1 ∧ s.fld (F.apCfgFsWidth n) > 2) then some 0x01
  else if decide (rate ≥ 4) != s.bit (F.acsCtrlFreq (s.fld (F.apCfgAcs n))) then some 0x02
  else match s.frameLen n with
    | none => some 0x03
    | some len =>
      if len < slots * slotBits (s.fld (F.apCfgWidth n)) then some 0x04
      else if (s.apMask n false = 0 ∧ s.apMask n true = 0) ∨ s.apMask n false ≥ 2 ^ slots ∨ s.apMask n true ≥ 2 ^ slots then some 0x05
      else if grid > 4 ∨ (grid = 0 ∧ rate = 4) then some 0x06
      else s.ringBad n (s.pair (R.apRingBase n))

/-- Steadiness of a port follows its anchor and module time (R198). -/
def steadySync (n : Nat) (s : State) : State :=
  s.setBit (F.apdStatusSteady n) (s.bit (F.apdStatusAnchored n) && s.fld F.timeStatusState != 2)

/-- A RING synthesizer in TRACK enters HOLD; one in ACQUIRE measures again from its first tick (R204, R217). -/
def acsHold (cause a : Nat) (s : State) : State :=
  if s.fld (F.acsCtrlMode a) ≠ 1 then s
  else if s.fld (F.acsStatusState a) = 2 then
    emitM Ev.acsHold 4 a (Config.causeCode cause) 0 0 (s.setFld (F.acsStatusState a) 3)
  else if s.fld (F.acsStatusState a) = 1 then { s with acs := tset s.acs a { tget s.acs a {} with ticks := 0 } }
  else s

/-- Whether a cause of HOLD stands for a synthesizer (R204). -/
def State.acsHeld (s : State) (a : Nat) : Bool :=
  let p := s.fld (F.acsCtrlRefPort a)
  s.fld F.timeStatusState == 2 || !s.bit (F.apCtrlEn p) || s.bit (F.apStatusSyncLost p)

/-- A synthesizer in HOLD whose causes have ended returns to TRACK, or through ACQUIRE once REF_PORT was disabled (R204). -/
def acsResume (a : Nat) (s : State) : State :=
  if s.fld (F.acsStatusState a) = 3 ∧ ¬s.acsHeld a then
    let x := tget s.acs a {}
    if x.refOff then { s.setFld (F.acsStatusState a) 1 with acs := tset s.acs a { x with refOff := false, ticks := 0 } }
    else s.setFld (F.acsStatusState a) 2
  else s

/-- The RING synthesizers whose reference is a port. -/
def State.ringsOf (s : State) (n : Nat) : List Nat :=
  [0, 1, 2, 3].filter (fun a => s.fld (F.acsCtrlMode a) == 1 && s.fld (F.acsCtrlRefPort a) == n)

/-- A write that sets EN (R123): the port is validated, and starts or shows CFG_ERR. A MASTER port that observes the link for 1 ms shows
ROLE_NOW = 3, off (R121; log entry 104). -/
def apEnable (n role : Nat) (s : State) : State :=
  match s.apCheck n role with
  | some code => (s.setBit (F.apStatusCfgErr n) true).setFld (F.apStatusErrCode n) code
  | none =>
    let s := (s.setBit (F.apCtrlEn n) true).setFld (F.apFrameFrameLen n) ((s.frameLen n).getD 0)
    let s := (s.setPair (R.apIdx n) 0).setFld (F.apdGuardGuardUs n) (s.guardUs n)
    let s := (s.setBit (F.apStatusAligned n) false).setFld (F.apStatusRoleNow n) (if role = 0 then 3 else role)
    let x := s.port n
    let s := s.setPort n { observing := role = 0, owners := x.owners, cutOn := x.cutOn }
    apTides n ((s.ringsOf n).foldl (fun s a => acsResume a s) s)

/-- The block a port leaves behind is zeroed and released (R147). -/
def releaseOld (n : Nat) (s : State) : State :=
  let p := s.port n
  match p.old with
  | none => s
  | some (v, _, _) => ((s.zeroDram (ringBase v) (3 * ringSize v)).setPort n { p with old := none }).setBit (F.apStatusOldRingBusy n) false

/-- A stream that is not CLOSED is bound to a port. -/
def State.portBound (s : State) (n : Nat) : Bool := s.strm.table.any (fun x => !x.2.par.hostFed && x.2.par.port == n)

/-- EN clears (R124, R166): the port stops, its pending commit, its anchor and its old block are dropped. -/
def apDisable (n : Nat) (s : State) : State :=
  let s := releaseOld n s
  let s := (((s.setBit (F.apCtrlEn n) false).setBit (F.apStatusRunning n) false).setFld (F.apStatusRoleNow n) 3).setBit (F.apStatusTakenOver n) false
  let s := ((s.setBit (F.apStatusCommitPending n) false).setBit (F.apStatusSyncLost n) false).setBit (F.apStatusAligned n) false
  let s := steadySync n (s.setBit (F.apdStatusAnchored n) false)
  let s := s.setReg (R.apVadFlag n) (s.reg (R.apVadSoft n))
  let s := s.setPort n { s.port n with commit := none, observing := false, driven := [], padding := false, slip := none, dropping := 0, hwFlag := 0, cutPend := [], virt := 0, lostHome := none }
  let s := (s.ringsOf n).foldl (fun s a =>
    let s := acsHold 3 a s
    if s.fld (F.acsStatusState a) = 3 then { s with acs := tset s.acs a { tget s.acs a {} with refOff := true } } else s) s
  apTides n s

/-- A write of AP_CTRL (R122 to R124): TAKEOVER_MASTER at any time, ROLE only while EN = 0. A write that clears EN while a stream is
bound is ignored whole. -/
def effApCtrl (n : Nat) (v : Word) (s : State) : State :=
  let en := s.bit (F.apCtrlEn n)
  let role := wfield v 3 2
  if en ∧ wfield v 0 0 = 0 ∧ s.portBound n then emitM Ev.apCfgBusy 3 n (R.apCtrl n) 0 0 s
  else
    let s := s.setFld (F.apCtrlTakeoverMaster n) (wfield v 4 4)
    let s := if !en then s.setFld (F.apCtrlRole n) role
      else if role ≠ s.fld (F.apCtrlRole n) then emitM Ev.apCfgBusy 3 n (R.apCtrl n) 0 0 s
      else s
    if !en ∧ wfield v 0 0 = 1 then apEnable n role s
    else if en ∧ wfield v 0 0 = 0 then apDisable n s
    else s

/-- AP_ENABLE: a write of AP_CTRL that sets EN. -/
def execApEnable (path : Path) (n : Fin 8) (v : Word) (s : State) : Host.Outcome State Fault Refusal :=
  .next (screen path (R.apCtrl n) 0xF#4 (effApCtrl n (v ||| 1)) s)

/-- AP_DISABLE: a write of AP_CTRL that clears EN. -/
def execApDisable (path : Path) (n : Fin 8) (v : Word) (s : State) : Host.Outcome State Fault Refusal :=
  .next (screen path (R.apCtrl n) 0xF#4 (effApCtrl n (v &&& ~~~1)) s)

/-- The offset of a protected configuration register. -/
def apCfgOff (n : Nat) (w : ApCfg) : Nat :=
  match w with
  | .cfg => R.apCfg n
  | .frame => R.apFrame n
  | .floodMask => R.apFloodMask n
  | .ebbMask => R.apEbbMask n
  | .role => R.apCtrl n

/-- A write of a protected configuration register (R122). -/
def effApCfg (n : Nat) (w : ApCfg) (v : Word) (s : State) : State :=
  match w with
  | .role => effApCtrl n (wset v 0 0 (s.fld (F.apCtrlEn n))) s
  | _ =>
    if s.bit (F.apCtrlEn n) then emitM Ev.apCfgBusy 3 n (apCfgOff n w) 0 0 s
    else match w with
      | .cfg => s.setReg (R.apCfg n) (wset v 31 30 0)
      | .frame => s.setFld (F.apFrameDelay n) (wfield v 16 16)
      | .floodMask => s.setReg (R.apFloodMask n) v
      | .ebbMask => s.setReg (R.apEbbMask n) v
      | .role => s

/-- AP_CFG_WRITE. -/
def execApCfgWrite (path : Path) (n : Fin 8) (which : ApCfg) (v : Word) (s : State) : Host.Outcome State Fault Refusal :=
  .next (screen path (apCfgOff n which) 0xF#4 (effApCfg n which v) s)

/-- Every output is high-impedance: fail-stop, QUARANTINE, Neap mode (R162), stage TRAY_FAILED (R633). -/
def State.outputsOff (s : State) : Bool := s.failStopped || s.stage == 9 || s.stage == 10 || s.fld F.fabStatusStage == 3

/-- The port enters frame-sync loss: it drives nothing and makes virtual frames (R154); a loop that follows it holds (R204). -/
def syncLoss (n : Nat) (s : State) : State :=
  let k := (s.port n).idx
  let s := (s.setBit (F.apStatusSyncLost n) true).count (F.apErrcntSyncLoss n) 1
  let s := s.setPort n { s.port n with virt := 0, driven := [], padding := false, slip := none, dropping := 0 }
  let s := emitM Ev.apSyncLost 3 n k (k / 2 ^ 32) 0 s
  (s.ringsOf n).foldl (fun s a => acsHold 2 a s) s

/-- AP_MASTER_CHECK_END: `active` says that BCLK or FS showed activity in the 1 ms of observation (R121). A port on a FAILED synthesizer
goes on as R209 has its MASTER ports do; one whose outputs are off stays as it is (R162). -/
def execApMasterCheckEnd (n : Fin 8) (active : Bool) (s : State) : Host.Outcome State Fault Refusal :=
  .next (let p := s.port n
    if !p.observing || s.outputsOff then s
    else if active then
      emitM Ev.apClockPresent 3 n 0 0 0 ((s.setPort n { p with observing := false, foreign := true }).setFld (F.apStatusRoleNow n) 2)
    else
      let s := ((s.setPort n { p with observing := false }).setFld (F.apStatusRoleNow n) 0).setBit (F.apStatusRunning n) true
      if s.fld (F.acsStatusState (s.fld (F.apCfgAcs n))) = 4 then syncLoss n s else s)

/-- What a port's BCLK and FS pins carry. -/
inductive ClockPin where
  /-- an input, or high-impedance -/
  | released
  /-- driven low -/
  | low
  /-- driven as a clock of this many BCLK cycles a frame -/
  | running (cycles : Nat)
  deriving DecidableEq, Repr

/-- BCLK and FS of a port (R119, R121, R161, R162, R209): driven by a MASTER alone, low while its synthesizer is FAILED, and released
while every output is off. -/
def State.clockPin (s : State) (n : Nat) : ClockPin :=
  if s.outputsOff || !s.bit (F.apCtrlEn n) || s.fld (F.apStatusRoleNow n) != 0 then .released
  else if s.fld (F.acsStatusState (s.fld (F.apCfgAcs n))) = 4 then .low
  else .running (s.fld (F.apFrameFrameLen n))

/-! ## Voice activity and cuts (R138 to R141, R167) -/

/-- The paired ebb slot of a flood slot, from the pairing registers (R139). -/
def State.paired (s : State) (n slot : Nat) : Option Nat :=
  let b := wfield (s.reg (R.apPair0 n + 4 * (slot / 4))) (8 * (slot % 4) + 7) (8 * (slot % 4))
  if b ≥ 128 then some (b % 32) else none

/-- The flag register follows its two sources; each rising edge sets the cut latch of the paired ebb slot (R138, R140). -/
def flagSync (n : Nat) (s : State) : State :=
  let old := (s.reg (R.apVadFlag n)).toNat
  let new := Nat.lor (s.port n).hwFlag (s.reg (R.apVadSoft n)).toNat
  let s := s.setReg (R.apVadFlag n) (BitVec.ofNat 32 new)
  (List.range 32).foldl (fun s i =>
    if Nat.testBit new i && !Nat.testBit old i then
      match s.paired n i with
      | some e =>
        let p := s.port n
        (s.setPort n { p with cutPend := p.cutPend ++ [(e, s.time)] }).setReg (R.apCut n) (s.reg (R.apCut n) ||| BitVec.ofNat 32 (2 ^ e))
      | none => s
    else s) s

/-- A write of AP_VAD_SOFT (R138). -/
def effVadSoft (n : Nat) (v : Word) (s : State) : State := flagSync n (s.setReg (R.apVadSoft n) v)

/-- A W1C write of AP_CUT (R141). -/
def effApCut (n : Nat) (v : Word) (s : State) : State := clearCuts n v s

/-- The squared samples of a record, in lane order. -/
def State.squares (s : State) (n : Nat) (ebb : Bool) (rec : List Byte) : List Nat :=
  let w := s.fld (F.apCfgWidth n)
  let c := s.container n
  (List.range (s.slots n ebb).length).map (fun i => let x := signedOf (slotBits w) (getSample w ((rec.drop (i * c)).take c)); (x * x).toNat)

/-- The detectors hear record k: what landed, and its reference record (R138). The longest window is 16 ms, 768 frames at 48 kHz. -/
def hear (n k : Nat) (rec : List Byte) (s : State) : State :=
  let p := s.port n
  let ref := if s.apMask n true = 0 then [] else s.squares n true (s.peek (s.refAddr n k) (s.stride n true))
  s.setPort n { p with heard := ((s.squares n false rec, ref) :: p.heard).take 768 }

/-- The energy of one lane over the last `w` frames heard: the sum of its squared samples. -/
def State.laneEnergy (s : State) (n : Nat) (ebb : Bool) (slot w : Nat) : Nat :=
  (((s.port n).heard.take w).map (fun h => (if ebb then h.2 else h.1).getD (s.lane n ebb slot) 0)).sum

/-- The detector's condition on a slot after a frame (R138): over the frames of the window that exist, E_in ≥ −THRESH dBFS and
E_in ≥ E_ref + MARGIN_DB, compared without rounding. A window of WIN_MS + 1 ms that is no whole number of frames is rounded down (log
entry 106). -/
def State.voiced (s : State) (n slot e : Nat) : Bool :=
  let hz := rateHz (s.fld (F.apCfgRate n))
  let w := min (s.port n).heard.length (hz * (s.fld (F.apVadCfgWinMs n) + 1) / 1000)
  let ein := s.laneEnergy n false slot w
  let eref := s.laneEnergy n true e w
  decide (ein ^ 10 * 10 ^ s.fld (F.apVadCfgThresh n) ≥ (w * Config.fullScale (s.fld (F.apCfgWidth n))) ^ 10) &&
  decide (ein ^ 10 ≥ eref ^ 10 * 10 ^ s.fld (F.apVadCfgMarginDb n))

/-- The detectors after a flood record (R138): a slot whose detector does not run counts as one whose condition is false. -/
def detect (n : Nat) (s : State) : State :=
  let p := s.port n
  let on := fun (i : Nat) => (s.reg (R.apVadEn n)).getLsbD i && Nat.testBit (s.apMask n false) i &&
    (match s.paired n i with | some e => s.voiced n i e | none => false)
  let watch := (List.range 32).filter (fun i => (s.reg (R.apVadEn n)).getLsbD i || Nat.testBit p.hwFlag i)
  let p := watch.foldl (fun (p : Port) i =>
    if on i then { p with hwFlag := Nat.lor p.hwFlag (2 ^ i), quiet := terase p.quiet i }
    else match tfind p.quiet i with
      | some _ => p
      | none => { p with quiet := tset p.quiet i s.time }) p
  flagSync n (s.setPort n p)

/-- VAD_FLAG_LOWER: HANG_MS have passed since the condition of a raised flag became false (R138). -/
def execVadFlagLower (n : Fin 8) (slot : Fin 32) (s : State) : Host.Outcome State Fault Refusal :=
  .next (let p := s.port n
    if Nat.testBit p.hwFlag slot && (tfind p.quiet slot).isSome then flagSync n (s.setPort n { p with hwFlag := p.hwFlag - 2 ^ slot.val }) else s)

/-! ## Boundaries: commits and slips (R143 to R147, R205, R206, R211) -/

/-- Frames between commit boundaries (R133). -/
def State.gridFrames (s : State) (n : Nat) : Nat := max 1 (chunkFrames (s.fld (F.apCfgRate n)) (s.fld (F.apCfgGrid n)))

/-- The pending base takes effect when the next frame is its boundary (R146, R172). COMMIT_TIME is the FS assertion at which it takes
effect, also where that frame is then dropped (R211; log entry 107). -/
def ringCommit (n : Nat) (s : State) : State :=
  let p := s.port n
  match p.commit with
  | none => s
  | some (v, kb) =>
    if p.idx ≠ kb then s
    else
      let old := s.pair (R.apRingBase n)
      let h := max p.ebbHigh kb
      let s := s.setPort n { p with commit := none, old := some (old, kb, h) }
      let s := (s.setPair (R.apRingBase n) v).setPair (R.apCommitIdx n) kb
      let s := (s.setPair (R.apCommitTime n) s.time).setFld (F.apCommitEbbTail n) ((h - kb) % 2 ^ 32)
      let s := (s.setBit (F.apStatusCommitPending n) false).setBit (F.apStatusOldRingBusy n) true
      emitM Ev.apRingCommit 3 n kb (kb / 2 ^ 32) ((h - kb) % 2 ^ 32) s

/-- Where ebb record k is fetched from. Ahead of a pending commit's frame k_b that is the new block, unless the old one holds an ebb frame
from k_b on (R146). -/
def State.fetchAddr (s : State) (n k : Nat) : Nat :=
  match (s.port n).commit with
  | some (v, kb) =>
    if kb ≤ k ∧ (s.port n).ebbHigh ≤ k then ringBase v + ringSize v + k % max 1 (s.ringFrames n true v) * s.stride n true
    else s.ebbAddr n k
  | none => s.ebbAddr n k

/-- Read ebb record k and write zero into each of its lanes; damaged samples are silence (R135, R506). -/
def fetchEbb (n k : Nat) (s : State) : List Nat × State :=
  if s.apMask n true = 0 then ([], s)
  else
    let c := s.container n
    let w := s.fld (F.apCfgWidth n)
    let lanes := (s.slots n true).length
    let a := s.fetchAddr n k
    let bad := s.badIn a (lanes * c)
    let raw := zeroBad bad a (s.peek a (lanes * c))
    let s := bad.foldl (fun s b => noteUe b s) s
    ((List.range lanes).map (fun i => getSample w ((raw.drop (i * c)).take c)), s.pokeDram a (List.replicate (lanes * c) 0))

/-- Write a reference record: what was driven, zero in a lane that was not (R137). -/
def writeRef (n k : Nat) (driven : List (Nat × Nat)) (s : State) : State :=
  if s.apMask n true = 0 then s
  else s.pokeDram (s.refAddr n k) (recordOf (s.fld (F.apCfgWidth n)) (s.stride n true)
    ((s.slots n true).map (fun i => ((driven.find? (fun d => d.1 == i)).map Prod.snd).getD 0)))

/-- A port-fed stream loses frames that a flood record is about to overwrite (R152). -/
def overrun (n k : Nat) (s : State) : State :=
  let v := s.floodBlock n k
  let size := s.ringFrames n false v
  (s.boundTo n).foldl (fun s x =>
    if x.2.leased && !x.2.gap && (match s.needs x.2 with | some a => decide (size ≤ k ∧ a ≤ k - size) | none => false) && s.floodBlock n (k - size) == v then
      emitM Ev.apRingOverrun 3 n x.2.par.handle 0 0 ((s.modStream x.1 (fun y => { y with gap := true })).count (F.apErrcntOverrun n) 1)
    else s) s

/-- The streams of a port whose chunk ends with a frame (R71). -/
def chunkEnds (n : Nat) (s : State) : State :=
  let landed := (s.port n).landed
  (s.boundTo n).foldl (fun s x =>
    let f := max 1 (s.framesOf x.2.par)
    if x.2.state != .draining && decide ((x.2.nextIn + 1) * f ≤ landed) then
      s.modStream x.1 (fun y => { y with nextIn := y.nextIn + 1, lastEnd := s.time, ended := y.ended ++ [(y.nextIn, s.time)] })
    else s) s

/-- Flood record k is written and k has landed (R134). -/
def landRecord (n : Nat) (rec : List Byte) (s : State) : State :=
  let p := s.port n
  let k := p.landed
  let s := overrun n k s
  let s := if s.apMask n false = 0 then s else s.pokeDram (s.floodAddr n k) rec
  let s := hear n k rec (s.setPort n { s.port n with landed := k + 1 })
  apTides n (detect n (chunkEnds n s))

/-- A zero flood record (R154). -/
def State.zeroRec (s : State) (n : Nat) : List Byte := List.replicate (s.stride n false) 0

/-- Virtual frames that have begun and not landed land as zero records. The first number is fuel. -/
def landVirtuals (n : Nat) : Nat → State → State
  | 0, s => s
  | f + 1, s =>
    let p := s.port n
    if p.landed < p.idx ∧ p.virtuals.contains p.landed then landVirtuals n f (landRecord n (s.zeroRec n) s) else s

/-- Once flood record k_b - 1 has landed, the m virtual frames of an INSERT at k_b land as copies of it (R205). -/
def landInserted (n : Nat) (s : State) : State :=
  let kb := (s.port n).landed
  match (s.port n).slipped.find? (fun b => b.1 == kb && decide (0 < b.2)) with
  | some (_, m) => (List.range m).foldl (fun s _ => landRecord n (s.peek (s.floodAddr n (kb - 1)) (s.stride n false)) s) s
  | none => s

/-- Streams bound to a port with ebb. -/
def State.ebbOn (s : State) (n : Nat) : List (Nat × Stream) := (s.boundTo n).filter (fun x => x.2.par.ebbEn)

/-- The ebb slots whose chunk starts a new utterance at frame k. -/
def State.firstsAt (s : State) (n k : Nat) : List Nat :=
  ((s.ebbOn n).filter (fun x => x.2.plays.any (fun y => y.first && y.at_ == k))).map (fun x => x.2.par.ebbSlot)

/-- A frame that is not driven ends the cuts of the utterances before it as any other does (R141), those too whose first frame came in the
loss, unseen: by the frame before, 2 µs had passed since their edge. A cut still to come stays. -/
def newUtterance (n k : Nat) (s : State) : State :=
  let p := s.port n
  let passed := fun (i : Nat) (c : Nat × Nat) => c.1 == i && decide (c.2 + 2000 ≤ p.fsTime)
  let done := (s.firstsAt n k).filter (fun i => Nat.testBit p.cutOn i || p.cutPend.any (passed i))
  let left := p.cutPend.filter (fun c => !(done.contains c.1 && passed c.1 c))
  let off := (done.filter (fun i => Nat.testBit p.cutOn i)).foldl (fun m i => Nat.lor m (2 ^ i)) 0
  let s := (done.filter (fun i => !left.any (fun c => c.1 == i))).foldl (fun s i => s.setReg (R.apCut n) (wset (s.reg (R.apCut n)) i i 0)) s
  s.setPort n { p with cutOn := p.cutOn - off, cutPend := left }

/-- The m virtual frames of an INSERT at k_b: reference records copy record k_b - 1, ebb is fetched and cleared and not driven
(R205). -/
def insertFrames (n kb : Nat) : Nat → Nat → State → State
  | 0, _, s => s
  | m + 1, k, s =>
    let s := (fetchEbb n k s).2
    let s := if s.apMask n true = 0 then s else s.pokeDram (s.refAddr n k) (s.peek (s.refAddr n (kb - 1)) (s.stride n true))
    let p := s.port n
    let s := newUtterance n k (s.setPort n { p with idx := k + 1 })
    insertFrames n kb m (k + 1) (s.setPair (R.apIdx n) (k + 1))

/-- The slip decided for the boundary at the next frame takes effect (R205, R206, R212): none in frame-sync loss or while time
is UNTRUSTED. -/
def slipNow (n : Nat) (s : State) : State :=
  let p := s.port n
  match p.slip with
  | none => s
  | some (drop, m, kb) =>
    if p.idx ≠ kb then s
    else if s.bit (F.apStatusSyncLost n) || s.fld F.timeStatusState == 2 then s.setPort n { p with slip := none }
    else
      let s := s.setPort n { p with slip := none, slipped := (p.slipped.filter (fun b => decide (p.landed ≤ b.1 + 2 ^ 27))) ++ [(kb, if drop then 0 else m)], dropping := if drop then m else 0 }
      let s := if drop then s else landInserted n (insertFrames n kb m kb s)
      let s := s.count (if drop then F.apdSlipsDropped n else F.apdSlipsInserted n) m
      emitM Ev.apSlip 3 n (if drop then 1 else 0) m (kb % 2 ^ 32) s

/-- What falls on a commit boundary: the ring commit first, then the slip (R211). -/
def boundaryAt (n : Nat) (s : State) : State := slipNow n (ringCommit n s)

/-- AP_RING_COMMIT. -/
def execApRingCommit (n : Fin 8) (s : State) : Host.Outcome State Fault Refusal := .next (powered (fun s => ringCommit n s) s)

/-- AP_SLIP. -/
def execApSlip (n : Fin 8) (s : State) : Host.Outcome State Fault Refusal := .next (powered (fun s => boundaryAt n s) s)

/-! ## Frames (R131 to R137) -/

/-- Every bit of a port's frames is driven: DRIVE_ALL, but in role LISTEN (R118, R119). -/
def State.drivesAll (s : State) (n : Nat) : Bool := !s.outputsOff && !s.bit (F.apCfgTxMode n) && s.fld (F.apStatusRoleNow n) != 2

/-- The BCLK cycle of a frame, counted from the FS assertion that begins it, in which its first data bit lies (R114, R115): the cycles
before carry the end of the frame before. -/
def State.firstBit (s : State) (n : Nat) : Nat := if s.fld (F.apCfgFormat n) = 0 then 1 else s.fld (F.apFrameDelay n)

/-- The data bit after the first at which a slot begins (R114); in I2S slot 1 has the half frame in which word select is high (R115). -/
def State.slotBit (s : State) (n slot : Nat) : Nat :=
  if s.fld (F.apCfgFormat n) = 0 then slot * (s.fld (F.apFrameFrameLen n) / 2) else slot * slotBits (s.fld (F.apCfgWidth n))

/-- The slot a data bit of a frame belongs to, and its place in it, the most significant first; none in padding (R112, R114, R115). -/
def State.slotAt (s : State) (n bit : Nat) : Option (Nat × Nat) :=
  ((List.range (s.portSlots n)).find? (fun i => decide (s.slotBit n i ≤ bit ∧ bit < s.slotBit n i + slotBits (s.fld (F.apCfgWidth n))))).map (fun i => (i, bit - s.slotBit n i))

/-- What data-out carries in a data bit of the frame: none is high-impedance (R112, R114, R115, R118). -/
def State.dataOut (s : State) (n bit : Nat) : Option Bool :=
  match s.slotAt n bit with
  | some (i, b) => ((s.port n).driven.find? (fun d => d.1 == i)).map (fun d => Nat.testBit d.2 (slotBits (s.fld (F.apCfgWidth n)) - 1 - b))
  | none => if (s.port n).padding then some false else none

/-- The level of FS in a BCLK cycle of a frame as a MASTER drives it: asserted for one cycle, one slot or half the frame (R114); in I2S low
for the first half, for slot 0, and high for the second (R115). -/
def State.fsLevel (s : State) (n cycle : Nat) : Bool :=
  let len := s.fld (F.apFrameFrameLen n)
  if s.fld (F.apCfgFormat n) = 0 then decide (len / 2 ≤ cycle)
  else
    let w := match s.fld (F.apCfgFsWidth n) with
      | 0 => 1
      | 1 => slotBits (s.fld (F.apCfgWidth n))
      | _ => len / 2
    decide (cycle < w) != s.bit (F.apCfgFsInv n)

/-- A port drives a slot of its ebb mask in this frame (R118, R119). -/
def State.drives (s : State) (n slot : Nat) : Bool :=
  if s.outputsOff then false
  else if s.drivesAll n then true
  else match s.slotHolder n slot true with | some (_, x) => x.leased && decide (x.driveAt ≤ s.time) | none => false

/-- The cut decisions of a frame that begins now (R140, R141, R167): `firsts` are the slots whose chunk starts a new utterance. -/
def cutFrame (n k : Nat) (firsts : List Nat) (s : State) : State :=
  let p := s.port n
  let due := p.cutPend.filter (fun c => decide (c.2 + 2000 ≤ s.time))
  let kept := (List.range 32).foldl (fun m i => if Nat.testBit p.cutOn i && !firsts.contains i then m + 2 ^ i else m) 0
  let on := due.foldl (fun m c => Nat.lor m (2 ^ c.1)) kept
  let cleared := firsts.filter (fun i => Nat.testBit p.cutOn i && !p.cutPend.any (fun c => c.1 == i))
  let latch := cleared.foldl (fun w i => wset w i i 0) (s.reg (R.apCut n))
  let s := (s.setReg (R.apCut n) latch).setPort n { p with cutOn := on, cutPend := p.cutPend.filter (fun c => !decide (c.2 + 2000 ≤ s.time)) }
  let fresh := (due.map Prod.fst).eraseDups.filter (fun i => !Nat.testBit kept i)
  fresh.foldl (fun s i => emitM Ev.apBargeIn 3 n i k (k / 2 ^ 32) s) s

/-- A stream's chunks that have left the port before frame k; the last one of an utterance gives EBB_PLAYED (R248). -/
def playedOut (n k : Nat) (s : State) : State :=
  (s.ebbOn n).foldl (fun s x =>
    let f := s.framesOf x.2.par
    let gone := x.2.plays.filter (fun y => decide (y.at_ + f ≤ k))
    if gone.isEmpty then s
    else
      let s := s.setStream x.1 { x.2 with plays := x.2.plays.filter (fun y => !decide (y.at_ + f ≤ k)) }
      gone.foldl (fun s y =>
        match s.stream x.1 with
        | none => s
        | some z =>
          let fl := Nat.lor z.uttFlags y.flags
          if y.last then
            giveResult z { kind := 3, rflags := fl, handle := z.par.handle, value := y.chunk, tag := z.par.userTag, done := s.time } (s.setStream x.1 { z with uttFlags := 0, played := none })
          else s.setStream x.1 { z with uttFlags := fl, played := some y.chunk }) s) s

/-- A stream whose chunk is silenced by a cut in frame k is marked CUT. -/
def markCut (n k : Nat) (s : State) : State :=
  let on := (s.port n).cutOn
  if on = 0 then s
  else (s.ebbOn n).foldl (fun s x =>
    if Nat.testBit on x.2.par.ebbSlot && x.2.plays.any (fun y => decide (y.at_ ≤ k ∧ k < y.at_ + s.framesOf x.2.par)) then
      s.setStream x.1 { x.2 with plays := x.2.plays.map (fun y => if y.at_ ≤ k ∧ k < y.at_ + s.framesOf x.2.par then { y with flags := Nat.lor y.flags 64 } else y) }
    else s) s

/-- A frame with an index begins: ebb is driven and the reference record written (R131, R137). -/
def beginFrame (n : Nat) (s : State) : State :=
  let k := (s.port n).idx
  let s := playedOut n k s
  let (lanes, s) := match (s.port n).fetched with
    | some (j, l) => if j = k then (l, s) else fetchEbb n k s
    | none => fetchEbb n k s
  let s := markCut n k (cutFrame n k (s.firstsAt n k) s)
  let on := (s.port n).cutOn
  let held := (((s.slots n true).zip lanes).filter (fun x => s.drives n x.1)).map (fun x => (x.1, if Nat.testBit on x.1 then 0 else x.2))
  let driven := if s.drivesAll n then held ++ ((List.range (s.portSlots n)).filter (fun i => !Nat.testBit (s.apMask n true) i)).map (fun i => (i, 0)) else held
  let s := writeRef n k driven s
  let p := s.port n
  let s := s.setPort n { p with idx := k + 1, fsIdx := k, fsTime := s.time, fetched := none, driven := driven, padding := s.drivesAll n }
  apTides n ((s.setPair (R.apIdx n) k).setBit (F.apStatusRunning n) true)

/-- Frames of a port can begin: enabled, its observation over, and no loss in progress. -/
def State.framing (s : State) (n : Nat) : Bool :=
  s.bit (F.apCtrlEn n) && !(s.port n).observing && !s.bit (F.apStatusSyncLost n)

/-- AP_EBB_FETCH (R135). -/
def execApEbbFetch (n : Fin 8) (ecc : Ecc) (s : State) : Host.Outcome State Fault Refusal :=
  .next (powered (fun s => let s := applyEcc ecc s
    let k := (s.port n).idx
    if s.bit (F.apCtrlEn n) && !((s.port n).fetched.map Prod.fst == some k) then
      let (l, s) := fetchEbb n k s
      s.setPort n { s.port n with fetched := some (k, l) }
    else s) s)

/-- AP_FRAME_BEGIN: an FS assertion. A dropped frame gets no index and repeats what was driven, silent where a cut applies
(R205, R213); an AP_BARGE_IN whose first silenced frame is a dropped one carries k_b, the index of the next frame that has one (DESIGN
CHOICE: the rules give such a frame none; log entry 134). -/
def execApFrameBegin (n : Fin 8) (s : State) : Host.Outcome State Fault Refusal :=
  .next (if !s.framing n then s
    else oneCycle (fun s =>
      let s := boundaryAt n (landVirtuals n 65536 s)
      let p := s.port n
      if p.dropping = 0 then beginFrame n s
      else
        let s := cutFrame n p.idx [] s
        let p := s.port n
        s.setPort n { p with dropping := p.dropping - 1, driven := p.driven.map (fun d => (d.1, if Nat.testBit p.cutOn d.1 then 0 else d.2)) }) s)

/-- AP_FLOOD_LAND: the samples received, in lane order (R134, R117). -/
def execApFloodLand (n : Fin 8) (samples : List Word) (s : State) : Host.Outcome State Fault Refusal :=
  .next (let p := s.port n
    if !s.bit (F.apCtrlEn n) ∨ p.idx ≤ p.landed then s
    else if p.virtuals.contains p.landed then landInserted n (landRecord n (s.zeroRec n) s)
    else
      let lanes := (s.slots n false).length
      let w := s.fld (F.apCfgWidth n)
      let vs := (List.range lanes).map (fun i => (samples.getD i 0).toNat % 2 ^ slotBits w)
      let r := recordOf w (s.stride n false) vs
      landInserted n (landRecord n r s))

/-! ## The chunk copy (R461, R462) -/

/-- A flood frame of a stream, or a reference frame, was overwritten before it was copied (R152). -/
def State.lostFrame (s : State) (n : Nat) (ebb : Bool) (k : Nat) : Bool :=
  let v := s.floodBlock n k
  let size := s.ringFrames n ebb v
  decide (k + size < (s.port n).landed) && s.floodBlock n (k + size) == v

/-- One frame's container for a chunk: silence for a lost, virtual or missing frame and for damaged bytes; the flag says that
audio is missing. -/
def chunkFrame (s : State) (x : Stream) (ebb : Bool) (k : Nat) : List Byte × Bool × List Nat :=
  let n := x.par.port
  let c := s.container n
  let a := (if ebb then s.refAddr n k + s.lane n true x.par.ebbSlot * c else s.floodAddr n k + s.lane n false x.par.floodSlot * c)
  let bad := s.badIn a c
  if s.lostFrame n ebb k || (match x.tailAt with | some t => decide (t ≤ k) | none => false) then (List.replicate c 0, s.lostFrame n ebb k, [])
  else (zeroBad bad a (s.peek a c), !bad.isEmpty || (s.port n).virtuals.contains k, bad)

/-- The containers of consecutive frames. -/
def chunkPart (s : State) (x : Stream) (ebb : Bool) (k f : Nat) : List (List Byte × Bool × List Nat) :=
  (List.range f).map (fun i => chunkFrame s x ebb (k + i))

/-- Latency from a chunk's end to its slot, kept as a maximum. -/
def noteLatency (e : Nat) (s : State) : State :=
  let ns := min 0xFFFF (s.time - e)
  if ns > s.fld F.dmaPortLatMaxNs then s.setFld F.dmaPortLatMaxNs ns else s

/-- The port mover copies the oldest ended chunk of a stream (R462): deferred, and counted once, while its slot is full. A fail-stop has
aborted it (R480). The FLOOD part of a stream that takes no flood audio is silence (log entry 129). -/
def portCopy (d : Nat) (s : State) : State :=
  match s.stream d with
  | none => s
  | some x =>
    match x.ended with
    | [] => s
    | (n, e) :: rest =>
      if s.failStopped || x.par.hostFed || !x.leased || x.grans.isEmpty && x.state == .failed then s
      else if x.full.any (fun m => m % 2 == n % 2) then
        if Nat.testBit (tget x.flags n 0) 16 then s
        else (s.setStream d { x with flags := tset x.flags n (tget x.flags n 0 + 65536) }).count F.dmaPortDeferCount 1
      else
        let f := max 1 (s.framesOf x.par)
        let flood := if x.par.floodEn then chunkPart s x false (n * f) f else List.replicate f (List.replicate (s.container x.par.port) 0, false, [])
        let ref := if x.par.ebbEn then chunkPart s x true (n * f) f else []
        let gap := (flood ++ ref).any (fun y => y.2.1)
        let slip := (s.port x.par.port).slipped.any (fun b => decide (n * f ≤ b.1 ∧ b.1 < n * f + f))
        let whole := !((List.range f).any (fun i => (x.par.floodEn && s.lostFrame x.par.port false (n * f + i)) || (x.par.ebbEn && s.lostFrame x.par.port true (n * f + i))))
        let s := ((flood ++ ref).flatMap (fun y => y.2.2)).eraseDups.foldl (fun s b => noteUe b s) s
        let s := s.pokeDram (s.slotAddr d x n) ((flood ++ ref).flatMap Prod.fst)
        let y := { x with ended := rest, ready := if x.par.floodEn then x.ready ++ [(n, e)] else x.ready, full := x.full ++ [n], gap := x.gap && !whole }
        let y := if gap then flagChunk n 4 y else y
        let y := if slip then flagChunk n 5 y else y
        apTides x.par.port (noteLatency e (s.setStream d y))

/-- PORT_CHUNK_COPY. -/
def execPortChunkCopy (desc : Fin 4096) (ecc : Ecc) (s : State) : Host.Outcome State Fault Refusal :=
  .next (powered (fun s => portCopy desc (applyEcc ecc s)) s)

/-! ## Ring base (R142 to R148, R165) -/

/-- The next commit boundary for a write that lands now: the one after when it lies in the guard window (R143, R165). -/
def State.nextBoundary (s : State) (n : Nat) : Nat :=
  let g := s.gridFrames n
  let idx := (s.port n).idx
  let kb := ceilDiv idx g * g
  if idx = kb ∧ 0 < kb then kb + g else kb

/-- Two ring blocks overlap (R148). -/
def blocksMeet (a b : Nat) : Bool := decide (ringBase a < ringBase b + 3 * ringSize b) && decide (ringBase b < ringBase a + 3 * ringSize a)

/-- The check code a committed value fails, in the order of the codes (R145, R147, R148). While EN = 0 a value takes the place of the
base at once and leaves no old block in use, so overlap is checked while EN = 1 alone (log entry 108). -/
def State.nextBad (s : State) (n v : Nat) : Option Nat :=
  match s.ringBad n v with
  | some c => some c
  | none =>
    if s.bit (F.apStatusOldRingBusy n) then some 0x09
    else if s.bit (F.apCtrlEn n) && blocksMeet (s.pair (R.apRingBase n)) v then some 0x0A
    else none

/-- A committed write of RING_BASE_NEXT. The pair keeps and shows a value that is then discarded (DESIGN CHOICE: R145 does not say what it
reads as; log entry 130). -/
def effRingNext (n : Nat) (v : Dword) (s : State) : State :=
  let x := v.toNat % 2 ^ 48 / 4096 * 4096 + v.toNat % 64
  let s := s.setPair (R.apRingBaseNext n) x
  match s.nextBad n x with
  | some c => (s.setBit (F.apStatusNextErr n) true).setFld (F.apStatusErrCode n) c
  | none =>
    if s.bit (F.apCtrlEn n) then
      (s.setPort n { s.port n with commit := some (x, s.nextBoundary n) }).setBit (F.apStatusCommitPending n) true
    else s.setPair (R.apRingBase n) x

/-- AP_RING_BASE_NEXT_WRITE: the commit of the pair by the write of its HI register. -/
def execApRingBaseNextWrite (path : Path) (n : Fin 8) (v : Dword) (s : State) : Host.Outcome State Fault Refusal :=
  .next (screen path (R.apRingBaseNext n + 4) 0xF#4 (fun s => effRingNext n v (dropStaged path (R.apRingBaseNext n) s)) s)

/-- Every frame of the old block has been consumed (R147). -/
def State.oldConsumed (s : State) (n : Nat) : Bool :=
  let p := s.port n
  match p.old with
  | none => false
  | some (_, kb, h) => decide (kb ≤ p.landed ∧ h + 1 ≤ p.idx) && (s.boundTo n).all (fun x => match s.needs x.2 with | some a => decide (kb ≤ a) | none => true)

/-- AP_OLD_RING_RELEASE (R147). -/
def execApOldRingRelease (n : Fin 8) (s : State) : Host.Outcome State Fault Refusal :=
  .next (if s.oldConsumed n then releaseOld n s else s)

/-! ## Frame-sync loss and takeover (R153 to R161) -/

/-- AP_SYNC_LOSS: only a port that follows a far end declares it (R153). -/
def execApSyncLoss (n : Fin 8) (s : State) : Host.Outcome State Fault Refusal :=
  .next (let r := s.fld (F.apStatusRoleNow n)
    if s.bit (F.apCtrlEn n) && s.bit (F.apStatusRunning n) && (r == 1 || r == 2) && !s.bit (F.apStatusSyncLost n) then syncLoss n s else s)

/-- AP_VIRTUAL_FRAME (R154, R156, R172): frames begun and not landed land as zero records. The pair that the next tick latches is that of
the last frame, virtual or not (R132; log entry 105). -/
def execApVirtualFrame (n : Fin 8) (s : State) : Host.Outcome State Fault Refusal :=
  .next (if !s.bit (F.apStatusSyncLost n) then s
    else oneCycle (fun s =>
      let s := ringCommit n s
      let p := s.port n
      let k := p.idx
      let late := (List.range (k - p.landed)).map (fun i => p.landed + i)
      let s := s.setPort n { p with virtuals := (p.virtuals.filter (fun j => decide (p.landed ≤ j + 2 ^ 27)) ++ late.filter (fun j => !p.virtuals.contains j)) }
      let s := landVirtuals n 65536 s
      let s := playedOut n k s
      let s := if (s.port n).fetched.map Prod.fst = some k then s else (fetchEbb n k s).2
      let s := newUtterance n k (writeRef n k [] s)
      let p := s.port n
      let s := s.setPort n { p with idx := k + 1, fsIdx := k, fsTime := s.time, fetched := none, virt := p.virt + 1, virtuals := p.virtuals ++ [k] }
      apTides n (s.setPair (R.apIdx n) k)) s)

/-- The port regains lock (R155). -/
def syncRestored (n : Nat) (s : State) : State :=
  let v := (s.port n).virt
  let s := (s.setBit (F.apStatusSyncLost n) false).setPort n { s.port n with virt := 0 }
  let s := emitM Ev.apSyncRestored 3 n v 0 0 s
  (s.ringsOf n).foldl (fun s a => acsResume a s) s

/-- AP_SYNC_RESTORE: 8 frames of correct length have come. -/
def execApSyncRestore (n : Fin 8) (s : State) : Host.Outcome State Fault Refusal :=
  .next (if s.bit (F.apStatusSyncLost n) && s.fld (F.apStatusRoleNow n) != 0 then syncRestored n s else s)

/-- AP_TAKEOVER (R161): not while every output is high-impedance (R162). On a FAILED synthesizer the port drives BCLK and FS low and stays
in frame-sync loss (R209). -/
def execApTakeover (n : Fin 8) (s : State) : Host.Outcome State Fault Refusal :=
  .next (let p := s.port n
    if !s.outputsOff && s.fld (F.apCtrlRole n) == 2 && s.fld (F.apStatusRoleNow n) == 2 && s.bit (F.apCtrlTakeoverMaster n) && s.bit (F.apStatusSyncLost n)
        && decide (4 ≤ p.virt) && (s.boundTo n).any (fun x => x.2.leased) then
      let s := (s.setFld (F.apStatusRoleNow n) 0).setBit (F.apStatusTakenOver n) true
      let failed := s.fld (F.acsStatusState (s.fld (F.apCfgAcs n))) == 4
      let s := if failed then s else (s.setBit (F.apStatusSyncLost n) false).setPort n { p with virt := 0 }
      let s := emitM Ev.apTakeover 3 n p.idx (p.idx / 2 ^ 32) 0 s
      if failed then s else (s.ringsOf n).foldl (fun s a => acsResume a s) s
    else s)

/-! ## Tidemarks (R149 to R151) -/

/-- The CFG register of a tidemark. -/
def markOff (m : Mark) : Nat :=
  match m with
  | .apFlood n => R.apFloodTmCfg n
  | .apEbb n => R.apEbbTmCfg n
  | .dma n => R.dmaChTmCfg n
  | .pool => R.tpTmCfg
  | .evq => R.evqTmCfg
  | .iring n => R.iringTmCfg n

/-- The event of a crossing. -/
def markNotify (m : Mark) (r : Bool × State) : State :=
  let l := wfield (r.2.reg (markOff m + 8)) 27 0
  match m with
  | .apFlood n => tmNotify r Ev.apTidemark 3 n 0 l
  | .apEbb n => tmNotify r Ev.apTidemark 3 n 1 l
  | .dma n => tmNotify r Ev.dmaTidemark 5 n l 0
  | .pool => tmNotify r Ev.poolTidemark 8 0 l 0
  | .evq => tmNotify r Ev.evqTidemark 1 65 l 0
  | .iring n => tmNotify r Ev.iringTidemark 9 (n + 1) (n + 1) l

/-- TIDEMARK_REARM: a W1C of STICKY. -/
def execTidemarkRearm (path : Path) (mark : Mark) (s : State) : Host.Outcome State Fault Refusal :=
  .next (screen path (markOff mark + 4) 0xF#4 (fun s => markNotify mark (tmRearm (markOff mark) s)) s)

/-- TIDEMARK_CFG_WRITE. -/
def execTidemarkCfgWrite (path : Path) (mark : Mark) (v : Word) (s : State) : Host.Outcome State Fault Refusal :=
  .next (screen path (markOff mark) 0xF#4 (fun s => markNotify mark (tmConfig (markOff mark) v s)) s)

end Sys2Proof.Machine
end

