-- ==== Sys2Proof/Machine/Num.lean ====
section
/-! DEFINITION. The number formats of R273, R274, R330 and R331, exact dyadic arithmetic, and the one rounding of each
operation (R287, R289, R329, R331). An FP32 value is held as the number of its 32 bits. -/

namespace Sys2Proof.Machine

/-- The flags an arithmetic step raises (R292, R334, R383). -/
structure Fl where
  nv : Bool := false
  dz : Bool := false
  of : Bool := false
  uf : Bool := false
  nx : Bool := false
  sat : Bool := false
  deriving DecidableEq, Repr

/-- The union of two flag sets. -/
def Fl.or (a b : Fl) : Fl := ⟨a.nv || b.nv, a.dz || b.dz, a.of || b.of, a.uf || b.uf, a.nx || b.nx, a.sat || b.sat⟩

/-- The flag set as the recurrence unit's and the matrix engine's registers number it (R292, R383). -/
def Fl.mask (f : Fl) : Nat :=
  f.nv.toNat + 2 * f.of.toNat + 4 * f.uf.toNat + 8 * f.nx.toNat + 16 * f.sat.toNat

/-- The flag set as the vector engine's registers number it (R334). -/
def Fl.veMask (f : Fl) : Nat :=
  f.nv.toNat + 2 * f.dz.toNat + 4 * f.of.toNat + 8 * f.uf.toNat + 16 * f.nx.toNat + 32 * f.sat.toNat

/-- A value of a format: NaN with its sign and payload bits, an infinity, or ± m × 2^e exactly. -/
inductive Num where
  | nan (neg : Bool) (payload : Nat)
  | inf (neg : Bool)
  | fin (neg : Bool) (m : Nat) (e : Int)
  deriving DecidableEq, Repr

/-- An exact dyadic number i × 2^e. -/
structure Dy where
  i : Int
  e : Int
  deriving DecidableEq, Repr

/-- Exact sum. -/
def Dy.add (a b : Dy) : Dy :=
  if a.i = 0 then b
  else if b.i = 0 then a
  else if a.e ≤ b.e then ⟨a.i + b.i * ((2 ^ (b.e - a.e).toNat : Nat) : Int), a.e⟩
  else ⟨a.i * ((2 ^ (a.e - b.e).toNat : Nat) : Int) + b.i, b.e⟩

/-- Exact product. -/
def Dy.mul (a b : Dy) : Dy := ⟨a.i * b.i, a.e + b.e⟩

/-- Exact negation. -/
def Dy.neg (a : Dy) : Dy := ⟨-a.i, a.e⟩

/-- The first is smaller. -/
def Dy.lt (a b : Dy) : Bool := decide ((a.add b.neg).i < 0)

/-- A signed magnitude. -/
def dyOf (neg : Bool) (m : Nat) (e : Int) : Dy := ⟨if neg then -(m : Int) else m, e⟩

/-! ## Formats -/

/-- A floating-point layout: exponent and mantissa bits, whether the top exponent is IEEE's, and the largest finite magnitude
code. -/
structure FFmt where
  eb : Nat
  mb : Nat
  ieee : Bool
  top : Nat
  deriving DecidableEq, Repr

/-- FP32. -/
def fp32 : FFmt := ⟨8, 23, true, 0x7F7FFFFF⟩
/-- FP16. -/
def fp16 : FFmt := ⟨5, 10, true, 0x7BFF⟩
/-- The floating-point layout of an element format code (R273, R330); the MX codes name their element. -/
def layoutOf (fmt : Nat) : Option FFmt :=
  match fmt with
  | 0 => some ⟨8, 7, true, 0x7F7F⟩
  | 1 => some fp16
  | 2 => some ⟨4, 3, false, 0x7E⟩
  | 3 => some ⟨5, 2, true, 0x7B⟩
  | 5 => some ⟨4, 3, false, 0x7E⟩
  | 6 => some ⟨5, 2, true, 0x7B⟩
  | 7 => some ⟨2, 1, false, 0x7⟩
  | 8 => some fp32
  | _ => none

/-- The exponent bias of a layout. -/
def FFmt.bias (f : FFmt) : Int := ((2 ^ (f.eb - 1) : Nat) : Int) - 1

/-- The value of a code of a floating-point layout (R273, R275). E2M1 has no NaN; E4M3 has one NaN code per sign. -/
def FFmt.dec (f : FFmt) (bits : Nat) : Num :=
  let neg := bits / 2 ^ (f.eb + f.mb) % 2 == 1
  let ex := bits / 2 ^ f.mb % 2 ^ f.eb
  let man := bits % 2 ^ f.mb
  if f.ieee ∧ ex = 2 ^ f.eb - 1 then (if man = 0 then .inf neg else .nan neg (man * 2 ^ (23 - f.mb)))
  else if !f.ieee ∧ f.eb = 4 ∧ ex = 15 ∧ man = 7 then .nan neg 0x400000
  else if ex = 0 then .fin neg man (1 - f.bias - f.mb)
  else .fin neg (2 ^ f.mb + man) (ex - f.bias - f.mb)

/-- The value of a code of an operand format: floating point, INT8 (0x4) or INT32 (0x9). -/
def decodeFmt (fmt bits : Nat) : Num :=
  match layoutOf fmt with
  | some f => f.dec bits
  | none =>
    let i := if fmt = 4 then signedOf 8 bits else signedOf 32 bits
    .fin (decide (i < 0)) i.natAbs 0

/-- Bits of an element of a format. -/
def elemBits (fmt : Nat) : Nat :=
  match fmt with
  | 0 => 16
  | 1 => 16
  | 7 => 4
  | 8 => 32
  | 9 => 32
  | _ => 8

/-- Bytes of `n` elements of a format. -/
def fmtBytes (fmt n : Nat) : Nat := (n * elemBits fmt + 7) / 8

/-- The density of R272. -/
def density (fmt : Nat) : Nat := if fmt < 2 then 1 else if fmt = 7 then 4 else 2

/-- A microscaling format. -/
def isMx (fmt : Nat) : Bool := decide (5 ≤ fmt ∧ fmt ≤ 7)

/-- The canonical NaN (R289, R329). -/
def canonNan : Nat := 0x7FC00000

/-! ## Rounding -/

/-- A magnitude rounded to a layout: its code, and what the rounding lost. -/
structure Rnd where
  bits : Nat
  inexact : Bool
  /-- tiny after rounding, as IEEE 754 defines it with an unbounded exponent -/
  tiny : Bool
  deriving DecidableEq, Repr

/-- m × 2^e to a whole number of 2^q, ties to even. -/
def quantum (m : Nat) (e q : Int) : Nat × Bool :=
  if q ≤ e then (m * 2 ^ (e - q).toNat, false)
  else
    let d := 2 ^ (q - e).toNat
    let k := m / d
    let r := m % d
    (if 2 * r > d ∨ (2 * r = d ∧ k % 2 = 1) then k + 1 else k, decide (r ≠ 0))

/-- A nonzero magnitude m × 2^e rounded to nearest even in a layout, its exponent unbounded above (R287, R331). -/
def FFmt.round (f : FFmt) (m : Nat) (e : Int) : Rnd :=
  let ex := e + Nat.log2 m
  let emin := 1 - f.bias
  let q := (if ex < emin then emin else ex) - f.mb
  let (k, inexact) := quantum m e q
  let (k', _) := quantum m e (ex - f.mb)
  { bits := (q - (emin - f.mb)).toNat * 2 ^ f.mb + k, inexact := inexact,
    tiny := decide (ex < emin ∧ ¬(ex + 1 = emin ∧ k' = 2 ^ (f.mb + 1))) }

/-- The sign bit of a layout. -/
def FFmt.sign (f : FFmt) (neg : Bool) : Nat := if neg then 2 ^ (f.eb + f.mb) else 0

/-- The value of an FP32 word. -/
def fpDec (b : Nat) : Num := fp32.dec b

/-- The word of an exact value: FP32 by R329, with the flags of R334. -/
def roundFp (neg : Bool) (m : Nat) (e : Int) : Nat × Fl :=
  if m = 0 then (fp32.sign neg, {})
  else
    let r := fp32.round m e
    if r.bits > fp32.top then (fp32.sign neg + 0x7F800000, { of := true, nx := true })
    else (fp32.sign neg + r.bits, { uf := r.tiny && r.inexact, nx := r.inexact })

/-- An exact dyadic rounded to FP32; `zneg` is the sign an exact zero takes. -/
def roundDy (d : Dy) (zneg : Bool) : Nat × Fl :=
  if d.i = 0 then (fp32.sign zneg, {}) else roundFp (decide (d.i < 0)) d.i.natAbs d.e

/-- A word is NaN. -/
def isNan (b : Nat) : Bool := match fpDec b with | .nan _ _ => true | _ => false
/-- A word is infinite. -/
def isInf (b : Nat) : Bool := match fpDec b with | .inf _ => true | _ => false
/-- The sign bit of a word. -/
def fpNeg (b : Nat) : Bool := b / 2 ^ 31 % 2 == 1
/-- The infinity of a sign. -/
def infOf (neg : Bool) : Nat := fp32.sign neg + 0x7F800000

/-- An invalid operation gives the canonical NaN and raises NV. -/
def invalid : Nat × Fl := (canonNan, { nv := true })

/-! ## FP32 operations (R329) -/

/-- x × y + z, rounded once. -/
def ffma (x y z : Nat) : Nat × Fl :=
  match fpDec x, fpDec y, fpDec z with
  | .nan _ _, _, _ => (canonNan, {})
  | _, .nan _ _, _ => (canonNan, {})
  | _, _, .nan _ _ => (canonNan, {})
  | .inf s, .inf t, c => match c with
    | .inf u => if u = (s != t) then (infOf u, {}) else invalid
    | _ => (infOf (s != t), {})
  | .inf s, .fin t m _, c => if m = 0 then invalid else match c with
    | .inf u => if u = (s != t) then (infOf u, {}) else invalid
    | _ => (infOf (s != t), {})
  | .fin s m _, .inf t, c => if m = 0 then invalid else match c with
    | .inf u => if u = (s != t) then (infOf u, {}) else invalid
    | _ => (infOf (s != t), {})
  | .fin _ _ _, .fin _ _ _, .inf u => (infOf u, {})
  | .fin s m e, .fin t n f, .fin u k g =>
    let p := s != t
    roundDy ((dyOf p (m * n) (e + f)).add (dyOf u k g)) (m * n == 0 && k == 0 && p && u)

/-- x × y. -/
def fmul (x y : Nat) : Nat × Fl :=
  match fpDec x, fpDec y with
  | .nan _ _, _ => (canonNan, {})
  | _, .nan _ _ => (canonNan, {})
  | .inf s, .inf t => (infOf (s != t), {})
  | .inf s, .fin t m _ => if m = 0 then invalid else (infOf (s != t), {})
  | .fin s m _, .inf t => if m = 0 then invalid else (infOf (s != t), {})
  | .fin s m e, .fin t n f => roundFp (s != t) (m * n) (e + f)

/-- x + y. -/
def fadd (x y : Nat) : Nat × Fl :=
  match fpDec x, fpDec y with
  | .nan _ _, _ => (canonNan, {})
  | _, .nan _ _ => (canonNan, {})
  | .inf s, .inf t => if s = t then (infOf s, {}) else invalid
  | .inf s, .fin _ _ _ => (infOf s, {})
  | .fin _ _ _, .inf t => (infOf t, {})
  | .fin s m e, .fin t n f => roundDy ((dyOf s m e).add (dyOf t n f)) (m == 0 && n == 0 && s && t)

/-- The word with its sign flipped. -/
def fneg (x : Nat) : Nat := if fpNeg x then x - 2 ^ 31 else x + 2 ^ 31

/-- x − y. -/
def fsub (x y : Nat) : Nat × Fl := fadd x (if isNan y then y else fneg y)

/-- A quotient of whole numbers with a sticky bit: value n/d × 2^e, at least 30 significant bits. -/
def quotient (n d : Nat) (e : Int) : Nat × Int :=
  let k := 30 + Nat.log2 d
  let q := n * 2 ^ k / d
  (2 * q + (if n * 2 ^ k % d = 0 then 0 else 1), e - k - 1)

/-- x / y, correctly rounded. -/
def fdiv (x y : Nat) : Nat × Fl :=
  match fpDec x, fpDec y with
  | .nan _ _, _ => (canonNan, {})
  | _, .nan _ _ => (canonNan, {})
  | .inf _, .inf _ => invalid
  | .inf s, .fin t _ _ => (infOf (s != t), {})
  | .fin s _ _, .inf t => (fp32.sign (s != t), {})
  | .fin s m e, .fin t n f =>
    if n = 0 then (if m = 0 then invalid else (infOf (s != t), { dz := true }))
    else
      let (q, g) := quotient m n (e - f)
      roundFp (s != t) q g

/-- The whole square root of a number below 4^k. -/
def isqrt : Nat → Nat → Nat → Nat
  | 0, _, r => r
  | k + 1, n, r => isqrt k n (if (r + 2 ^ k) * (r + 2 ^ k) ≤ n then r + 2 ^ k else r)

/-- The square root, correctly rounded. -/
def fsqrt (x : Nat) : Nat × Fl :=
  match fpDec x with
  | .nan _ _ => (canonNan, {})
  | .inf true => invalid
  | .inf false => (infOf false, {})
  | .fin s m e =>
    if m = 0 then (fp32.sign s, {})
    else if s then invalid
    else
      let odd := e % 2 == 1
      let n := m * 2 ^ (if odd then 61 else 60)
      let r := isqrt 44 n 0
      let h : Int := (e - (if odd then 1 else 0)) / 2 - 30
      roundFp false (2 * r + (if r * r = n then 0 else 1)) (h - 1)

/-- The order of two words that are not NaN, −0 equal to +0: less, equal. -/
def fcmp (x y : Nat) : Bool × Bool :=
  match fpDec x, fpDec y with
  | .inf s, .inf t => (s && !t, s == t)
  | .inf s, .fin _ _ _ => (s, false)
  | .fin _ _ _, .inf t => (!t, false)
  | .fin s m e, .fin t n f =>
    let d := (dyOf s m e).add (dyOf t n f).neg
    (decide (d.i < 0), decide (d.i = 0))
  | _, _ => (false, false)

/-- A condition code of R322. -/
def fcond (code x y : Nat) : Bool :=
  let un := isNan x || isNan y
  let (lt, eq) := fcmp x y
  if un then code == 1 || code == 7
  else match code with
    | 0 => eq
    | 1 => !eq
    | 2 => lt
    | 3 => lt || eq
    | 4 => !lt && !eq
    | 5 => !lt
    | 6 => true
    | _ => false

/-- min or max as R314: NaN gives the canonical NaN, and −0 lies below +0. -/
def fminmax (big : Bool) (x y : Nat) : Nat :=
  if isNan x || isNan y then canonNan
  else
    let (lt, eq) := fcmp x y
    let less := lt || (eq && fpNeg x && !fpNeg y)
    if less = big then y else x

/-- Whether a magnitude m × 2^e rounded to a whole number goes up: the rounding modes of RINT and CVTF. -/
def wholeOf (mode : Nat) (neg : Bool) (m : Nat) (e : Int) : Nat × Bool :=
  if 0 ≤ e then (m * 2 ^ e.toNat, false)
  else
    let d := 2 ^ (-e).toNat
    let k := m / d
    let r := m % d
    let up := match mode with
      | 0 => decide (2 * r > d) || (decide (2 * r = d) && k % 2 == 1)
      | 1 => neg && decide (r ≠ 0)
      | 2 => !neg && decide (r ≠ 0)
      | _ => false
    (if up then k + 1 else k, decide (r ≠ 0))

/-- RINT: a whole FP32 value, the sign kept. -/
def frint (mode x : Nat) : Nat × Fl :=
  match fpDec x with
  | .nan _ _ => (canonNan, {})
  | .inf _ => (x, {})
  | .fin s m e =>
    let (k, nx) := wholeOf mode s m e
    ((roundFp s k 0).1, { nx := nx })

/-- CVTF: to INT32, saturating; NaN gives 0. -/
def toInt32 (mode x : Nat) : Nat × Fl :=
  match fpDec x with
  | .nan _ _ => (0, { nv := true })
  | .inf s => (if s then 0x80000000 else 0x7FFFFFFF, { sat := true, nx := true })
  | .fin s m e =>
    let (k, nx) := wholeOf mode s m e
    let lim := if s then 2 ^ 31 else 2 ^ 31 - 1
    if k > lim then (if s then 0x80000000 else 0x7FFFFFFF, { sat := true, nx := true })
    else (codeOf 32 (if s then -(k : Int) else k), { nx := nx })

/-- CVTI and the chain entry of R309: a 32-bit integer to FP32. -/
def ofInt32 (b : Nat) : Nat × Fl :=
  let i := signedOf 32 b
  roundFp (decide (i < 0)) i.natAbs 0

/-! ## Conversions (R330, R331) -/

/-- An operand code to an FP32 word (R330); exact except INT32. -/
def toFp (fmt bits : Nat) : Nat × Fl :=
  if fmt = 9 then ofInt32 bits
  else match decodeFmt fmt bits with
    | .nan neg p => (fp32.sign neg + 0x7F800000 + p, {})
    | .inf neg => (infOf neg, {})
    | .fin neg m e => roundFp neg m e

/-- A magnitude to a floating-point layout, saturating or overflowing to infinity. -/
def fitFloat (f : FFmt) (sat neg : Bool) (m : Nat) (e : Int) : Nat × Fl :=
  if m = 0 then (f.sign neg, {})
  else
    let r := f.round m e
    if r.bits > f.top then
      if f.ieee && !sat then (f.sign neg + f.top + 1, { of := true, nx := true })
      else (f.sign neg + f.top, { sat := true, nx := true })
    else (f.sign neg + r.bits, { uf := r.tiny && r.inexact, nx := r.inexact })

/-- An FP32 word to an output format other than the MX ones (R331). -/
def ofFp (fmt : Nat) (satinf : Bool) (x : Nat) : Nat × Fl :=
  if fmt = 8 then (x, {})
  else if fmt = 4 then match fpDec x with
    | .nan _ _ => (0, { nv := true })
    | .inf s => (if s then 0x80 else 0x7F, { sat := true, nx := true })
    | .fin s m e =>
      let (k, nx) := wholeOf 0 s m e
      if k > (if s then 128 else 127) then (if s then 0x80 else 0x7F, { sat := true, nx := true })
      else (codeOf 8 (if s then -(k : Int) else k), { nx := nx })
  else match layoutOf fmt with
    | none => (x, {})
    | some f => match fpDec x with
      | .nan s _ => (f.sign s + (if f.ieee then f.top + 1 + 2 ^ (f.mb - 1) else 0x7F), {})
      | .inf s => if f.ieee then (f.sign s + f.top + 1, {}) else (f.sign s + f.top, { sat := true, nx := true })
      | .fin s m e => fitFloat f satinf s m e

/-- The value of a magnitude's exponent: floor of log2. -/
def expOf (m : Nat) (e : Int) : Int := e + Nat.log2 m

/-- The shared exponent of an MX block and its elements (R332): scale byte, element codes and flags. Each entry is an FP32
word, or none for a masked element, which counts as zero. -/
def mxBlock (fmt : Nat) (xs : List (Option Nat)) : Nat × List Nat × Fl :=
  let f := (layoutOf fmt).getD fp32
  let act := xs.filterMap id
  if act.any (fun x => isNan x || isInf x) then (0xFF, xs.map (fun _ => 0), {})
  else
    let mags : List Int := act.filterMap (fun x => match fpDec x with | .fin _ m e => if m = 0 then none else some (expOf m e) | _ => none)
    let emax : Int := if fmt = 5 then 8 else if fmt = 6 then 15 else 2
    let x : Int := match mags with
      | [] => -127
      | h :: t => max (-127) (min 127 (t.foldl max h - emax))
    let out := xs.map (fun v => match v with
      | none => (0, ({} : Fl))
      | some w => match fpDec w with
        | .fin s m e => fitFloat f true s m (e - x)
        | _ => (0, {}))
    ((x + 127).toNat, out.map Prod.fst, (out.map Prod.snd).foldl Fl.or {})

/-! ## Sums (R287, R289, R314) -/

/-- What a sum of exact terms has met so far. -/
structure ExactSum where
  sum : Dy := ⟨0, 0⟩
  nan : Bool := false
  /-- 0 × infinity -/
  bad : Bool := false
  pinf : Bool := false
  ninf : Bool := false
  /-- every term so far is −0 -/
  negz : Bool := true
  any : Bool := false
  deriving DecidableEq, Repr

/-- Add a term. -/
def ExactSum.term (a : ExactSum) (t : Num) : ExactSum :=
  match t with
  | .nan _ _ => { a with nan := true, any := true, negz := false }
  | .inf true => { a with ninf := true, any := true, negz := false }
  | .inf false => { a with pinf := true, any := true, negz := false }
  | .fin s m e => { a with sum := a.sum.add (dyOf s m e), any := true, negz := a.negz && s && m == 0 }

/-- Add a product of two exact values. -/
def ExactSum.prod (a : ExactSum) (x y : Num) : ExactSum :=
  match x, y with
  | .nan s p, _ => a.term (.nan s p)
  | _, .nan s p => a.term (.nan s p)
  | .inf s, .inf t => a.term (.inf (s != t))
  | .inf s, .fin t m _ => if m = 0 then { a with bad := true, any := true, negz := false } else a.term (.inf (s != t))
  | .fin s m _, .inf t => if m = 0 then { a with bad := true, any := true, negz := false } else a.term (.inf (s != t))
  | .fin s m e, .fin t n f => a.term (.fin (s != t) (m * n) (e + f))

/-- A sum holds an infinity of each sign or 0 × infinity. -/
def ExactSum.wrong (a : ExactSum) : Bool := a.bad || (a.pinf && a.ninf)

/-- The result of a sum, rounded once (R289): word and flags. NV is raised for every canonical NaN a matrix lane produces; the
caller's own rule says what it does with a NaN operand. -/
def ExactSum.result (a : ExactSum) : Nat × Fl :=
  if a.nan then (canonNan, {})
  else if a.wrong then invalid
  else if a.pinf then (infOf false, {})
  else if a.ninf then (infOf true, {})
  else if !a.any then (0, {})
  else roundDy a.sum a.negz

/-- The exact sum of FP32 words, or of their squares, rounded once (R314). -/
def sumOf (squares : Bool) (xs : List Nat) : Nat × Fl :=
  (xs.foldl (fun (a : ExactSum) x => if squares then a.prod (fpDec x) (fpDec x) else a.term (fpDec x)) {}).result

/-- The reduction of a list of active values: 0 SUM, 1 MAX, 2 MIN, 3 SUMSQ (R314). -/
def reduceOf (kind : Nat) (xs : List Nat) : Nat × Fl :=
  match kind with
  | 0 => sumOf false xs
  | 3 => sumOf true xs
  | 1 => (xs.foldl (fminmax true) (infOf true), {})
  | _ => (xs.foldl (fminmax false) (infOf false), {})

end Sys2Proof.Machine
end

