-- ==== Sys2Proof/Machine/Lane.lean ====
section
/-! DEFINITION. What one lane of the vector engine computes: activation tables (R323, R324), the opcodes of R321, the stage chain
(R312 to R315, R347) and element programs (R318, R319). A value is the number of an FP32 word. -/

namespace Sys2Proof.Machine

/-! ## Activation (R324) -/

/-- The FP32 word of a small whole number. -/
def fpOfNat (n : Nat) : Nat := (roundFp false n 0).1

/-- The whole part of a word that is not negative. -/
def fpFloor (x : Nat) : Nat := match fpDec x with | .fin _ m e => (wholeOf 3 false m e).1 | _ => 0

/-- A table image applied to a word; it raises OF when an infinity comes of a finite input, and nothing else. -/
def actOf (t : List Byte) (x : Nat) : Nat × Fl :=
  if isNan x then (canonNan, {})
  else
    let w := fun (o : Nat) => fieldAt t o 4
    let u := (ffma x (w 0) (w 4)).1
    let r := if (fcmp u 0).1 then w 8
      else if !(fcmp u 0x43800000).1 then w 12
      else
        let i := fpFloor u
        let d := (fsub u (fpOfNat i)).1
        let c := fun (k : Nat) => w (32 + 16 * i + 4 * k)
        (ffma (ffma (ffma (c 3) d (c 2)).1 d (c 1)).1 d (c 0)).1
    (r, { of := isInf r && !isInf x })

/-- The table of a slot; a slot never loaded holds zeros (R343). -/
def slotTable (ts : Tbl (List Byte)) (i : Nat) : List Byte := tget ts i []

/-! ## Codes that verification admits -/

/-- An input format of the vector engine (R330). -/
def inFmtOk (f : Nat) : Bool := decide (f ≤ 4) || f == 8 || f == 9
/-- An output format (R331). -/
def outFmtOk (f : Nat) : Bool := decide (f ≤ 8)

/-- Opcodes of register mode (R321). -/
def regOpcode (o : Nat) : Bool := decide (o ≤ 0x17) || decide (0x20 ≤ o ∧ o ≤ 0x24) || decide (0x28 ≤ o ∧ o ≤ 0x2A)

/-- The fields of an instruction word are valid in register mode, or in an element program when `e`. -/
def instrOk (e : Bool) (i : VInstr) : Bool :=
  (if e then decide (i.opc ≤ 0x17) else regOpcode i.opc) && (i.opc != 0x12 || decide (i.mod % 16 ≤ 3)) &&
  (!e || i.opc == 0 || i.opc == 0x0D || decide (0x13 ≤ i.opc) || decide (i.d ≤ 15) || i.d == 20)

/-! ## Opcodes on values (R321) -/

/-- The result of an opcode whose result is a value of its operands A, B and C; none for every other opcode. -/
def aluOf (ts : Tbl (List Byte)) (opc mod a b c : Nat) : Option (Nat × Fl) :=
  match opc with
  | 0x01 => some (a, {})
  | 0x02 => some (fadd a b)
  | 0x03 => some (fsub a b)
  | 0x04 => some (fmul a b)
  | 0x05 => some (ffma a b c)
  | 0x06 => some (fdiv a b)
  | 0x07 => some (fsqrt a)
  | 0x08 => some (fminmax false a b, {})
  | 0x09 => some (fminmax true a b, {})
  | 0x0A => some (if fpNeg a then a - 2 ^ 31 else a, {})
  | 0x0B => some (fneg a, {})
  | 0x0C => some (actOf (slotTable ts (mod % 8)) a)
  | 0x0F => some (frint (mod % 4) a)
  | 0x10 => some (ofInt32 a)
  | 0x11 => some (toInt32 (mod % 4) a)
  | 0x12 =>
    let (k, f) := ofFp (mod % 16) (mod / 16 % 2 == 1) a
    some (if isNan a then canonNan else (toFp (mod % 16) k).1, f)
  | _ => none

/-- The result of an opcode on predicates, from P[A], P[B] and the comparison of the operands; none for every other opcode. -/
def predOf (opc mod a b : Nat) (pa pb : Bool) : Option Bool :=
  match opc with
  | 0x0D => some (fcond (mod % 8) a b)
  | 0x13 => some (pa && pb)
  | 0x14 => some (pa || pb)
  | 0x15 => some (pa != pb)
  | 0x16 => some (!pa)
  | 0x17 => some (mod % 2 == 1)
  | _ => none

/-! ## The stage chain -/

/-- One stage of a chain descriptor (R312). -/
structure Stage where
  kind : Nat
  y : Nat
  z : Nat
  param : Nat
  k : Nat
  k2 : Nat
  deriving DecidableEq, Repr

/-- The eight stages of a 128-byte descriptor. -/
def stagesOf (b : List Byte) : List Stage :=
  (List.range 8).map (fun i =>
    let e := b.drop (16 * i)
    { kind := fieldAt e 0 1 % 16, y := fieldAt e 1 1 % 8, z := fieldAt e 1 1 / 8 % 8, param := fieldAt e 2 1, k := fieldAt e 4 4, k2 := fieldAt e 8 4 })

/-- The codes of a chain descriptor are valid (R312, R313); reserved bits are ignored (R7). -/
def chainOk (b : List Byte) : Bool :=
  (List.range 8).all (fun i =>
    let e := b.drop (16 * i)
    let kind := fieldAt e 0 1 % 16
    let src := fieldAt e 1 1
    let p := fieldAt e 2 1
    decide (kind ≤ 7 ∧ src % 8 ≤ 5 ∧ src / 8 % 8 ≤ 5) && (kind != 5 || flagBit p 3 || (bitsOf p 5 4 != 3 && bitsOf p 7 6 != 3)) &&
    (kind != 6 || outFmtOk (p % 16)))

/-- What the stages read beside the element: BROW, BCOL and IN_B values. -/
structure Side where
  brow : Nat := 0
  bcol : Nat := 0
  inb : Nat := 0
  deriving DecidableEq, Repr

/-- An operand of a stage; "none" gives an open value. -/
def Stage.operand (g : Stage) (src : Nat) (d : Side) : Nat :=
  match src with
  | 1 => d.brow
  | 2 => d.bcol
  | 3 => d.inb
  | 4 => g.k
  | 5 => g.k2
  | _ => Config.noOperand % 2 ^ 32

/-- An element on its way through the chain: value, masked, flags so far, the value a REDUCE took. -/
structure Flow where
  x : Nat
  masked : Bool := false
  fl : Fl := {}
  tap : Option Nat := none
  deriving DecidableEq, Repr

/-- One stage (R313, R347): a masked lane raises no flag and is left out of a later REDUCE. -/
def Stage.run (ts : Tbl (List Byte)) (d : Side) (f : Flow) (g : Stage) : Flow :=
  let y := g.operand g.y d
  let put := fun (r : Nat × Fl) => { f with x := r.1, fl := if f.masked then f.fl else f.fl.or r.2 }
  match g.kind with
  | 1 => put (ffma f.x y (g.operand g.z d))
  | 2 => put (fadd f.x y)
  | 3 => put (fmul f.x y)
  | 4 => put (actOf (slotTable ts (g.param % 8)) f.x)
  | 5 =>
    let c := fcond (g.param % 8) f.x y
    if Nat.testBit g.param 3 then { f with masked := f.masked || !c }
    else
      let sel := if c then g.param / 16 % 4 else g.param / 64 % 4
      { f with x := if sel = 0 then f.x else if sel = 1 then y else g.k2 }
  | 7 => if f.masked then f else { f with tap := some f.x }
  | _ => f

/-- The whole chain on one element; `a` is the element converted to FP32. -/
def chainOf (ts : Tbl (List Byte)) (gs : List Stage) (d : Side) (a : Nat × Fl) : Flow :=
  gs.foldl (Stage.run ts d) { x := a.1, fl := a.2 }

/-- The REDUCE of a chain: its kind. -/
def reduceKind (gs : List Stage) : Option Nat := (gs.find? (fun g => g.kind == 7)).map (fun g => g.param % 4)

/-- The stages of a chain agree with each other and with the record's D_FMT (R315). -/
def chainFits (gs : List Stage) (dFmt : Nat) : Bool :=
  let quants := gs.filter (fun g => g.kind == 6)
  let after := (gs.dropWhile (fun g => g.kind != 6)).drop 1
  decide (quants.length ≤ 1) && decide ((gs.filter (fun g => g.kind == 7)).length ≤ 1) && after.all (fun g => g.kind == 0) &&
  (match quants with
    | [] => dFmt == 8
    | g :: _ => g.param % 16 == dFmt) &&
  !((reduceKind gs).isSome && isMx dFmt)

/-- SATINF of the chain's QUANT. -/
def quantSat (gs : List Stage) : Bool := (gs.find? (fun g => g.kind == 6)).any (fun g => Nat.testBit g.param 4)

/-- A stage reads the side operand: the second operand where its kind has one, the third in a SCALE (R313). -/
def chainReads (gs : List Stage) (src : Nat) : Bool :=
  gs.any (fun g => (([1, 2, 3, 5].contains g.kind) && g.y == src) || (g.kind == 1 && g.z == src))

/-! ## Element programs -/

/-- A program image (R318): instructions, USE_P7, K0 to K7. -/
structure EProg where
  code : List VInstr
  useP7 : Bool
  ks : List Nat
  deriving DecidableEq, Repr

/-- The program of an image. -/
def eprogOf (b : List Byte) : EProg where
  code := (List.range (fieldAt b 0 1)).map (fun i => decodeV (fieldAt b (48 + 4 * i) 4))
  useP7 := flagBit (fieldAt b 1 1) 0
  ks := (List.range 8).map (fun i => fieldAt b (16 + 4 * i) 4)

/-- The fields of a program image are valid (R318, R321); reserved bits are ignored (R7). -/
def progOk (b : List Byte) : Bool :=
  let l := fieldAt b 0 1
  decide (1 ≤ l ∧ l ≤ 64) && (List.range l).all (fun i => instrOk true (decodeV (fieldAt b (48 + 4 * i) 4)))

/-- What one element of a program holds: temporaries, predicates, OUT and its flags. -/
structure ElemSt where
  ts : List Nat := List.replicate 16 0
  ps : List Bool := List.replicate 8 false
  out : Nat
  fl : Fl := {}
  deriving DecidableEq, Repr

/-- What an element reads of its place: IN_A, IN_B, BROW, BCOL, LANE and ROW (R319). -/
structure Place where
  ina : Nat
  inb : Nat
  brow : Nat
  bcol : Nat
  lane : Nat
  row : Nat
  deriving DecidableEq, Repr

/-- An operand of an element program (R319). -/
def ElemSt.operand (e : ElemSt) (ks : List Nat) (p : Place) (n : Nat) : Nat :=
  if n < 16 then e.ts.getD n 0
  else match n with
    | 16 => p.ina
    | 17 => p.inb
    | 18 => p.brow
    | 19 => p.bcol
    | 20 => e.out
    | 29 => p.lane
    | 30 => p.row
    | 31 => 0
    | _ => ks.getD (n - 21) 0

/-- Write a destination: a temporary or OUT; every other operand is read-only. -/
def ElemSt.put (e : ElemSt) (d v : Nat) : ElemSt :=
  if d < 16 then { e with ts := e.ts.set d v } else if d = 20 then { e with out := v } else e

/-- One instruction of an element program. -/
def ElemSt.step (tabs : Tbl (List Byte)) (ks : List Nat) (p : Place) (e : ElemSt) (i : VInstr) : ElemSt :=
  let a := e.operand ks p i.a
  let b := e.operand ks p i.b
  match aluOf tabs i.opc i.mod a b (e.operand ks p i.c) with
  | some (v, f) => { e.put i.d v with fl := e.fl.or f }
  | none => match predOf i.opc i.mod a b (e.ps.getD (i.a % 8) false) (e.ps.getD (i.b % 8) false) with
    | some q => { e with ps := e.ps.set (i.d % 8) q }
    | none => if i.opc = 0x0E then e.put i.d (if e.ps.getD (i.mod % 8) false then a else b) else e

/-- The program on one element: its result, none when it ends masked, and its flags. `fl` is what its conversions raised. -/
def EProg.run (g : EProg) (tabs : Tbl (List Byte)) (p : Place) (fl : Fl) : Option Nat × Fl :=
  let e := g.code.foldl (ElemSt.step tabs g.ks p) { out := p.ina, fl := fl }
  if g.useP7 && !e.ps.getD 7 false then (none, {}) else (some e.out, e.fl)

/-- The operands an instruction reads by its opcode, predicates apart (R321). -/
def VInstr.operands (i : VInstr) : List Nat :=
  if [0x01, 0x07, 0x0A, 0x0B, 0x0C, 0x0F, 0x10, 0x11, 0x12, 0x21, 0x28, 0x29, 0x2A].contains i.opc then [i.a]
  else if [0x02, 0x03, 0x04, 0x06, 0x08, 0x09, 0x0D, 0x0E].contains i.opc then [i.a, i.b]
  else if i.opc = 0x05 then [i.a, i.b, i.c] else []

/-- The program reads an operand. -/
def EProg.reads (g : EProg) (n : Nat) : Bool := g.code.any (fun i => i.operands.contains n)

end Sys2Proof.Machine
end

