-- ==== Sys2Proof/Machine/Vector.lean ====
section
/-! DEFINITION. The vector engine (R305 to R349): its channels and their order, operand rows, masking and output, and one meaning
for each of its operations and register-mode instructions. An operation takes effect when it runs; it runs at issue unless an
earlier one on its channel waits. -/

namespace Sys2Proof.Machine

/-! ## Operands -/

/-- The command a core runs: its number and partition. -/
def State.running (s : State) (core : Nat) : Option Nat × Nat :=
  let c := (s.coreSt core).cmd
  (c, ((c.bind (tfind s.disp.cmds)).map Cmd.part).getD 0)

/-- Numbers of `k` bytes each, little-endian; the first argument is how many. -/
def splitNums : Nat → Nat → List Byte → List Nat
  | 0, _, _ => []
  | n + 1, k, bs => leNat (bs.take k) :: splitNums n k (bs.drop k)

/-- `n` elements of a format from a scratchpad offset, converted to FP32 (R330). -/
def State.loadElems (s : State) (core fmt a n : Nat) : List (Nat × Fl) :=
  (splitNums n (elemBits fmt / 8) (s.spadBytes core a (fmtBytes fmt n))).map (toFp fmt)

/-- A BROW value: line and lane of a channel's buffer. -/
def VeUnit.browAt (v : VeUnit) (ch line lane : Nat) : Nat := (tget v.brow (ch * 128 + line) []).getD lane 0
/-- A BCOL value. -/
def VeUnit.bcolAt (v : VeUnit) (ch row : Nat) : Nat := (tget v.bcol ch []).getD row 0
/-- The channel number of a record: 0 MX, 1 SP. -/
def VeRec.ch (r : VeRec) : Nat := if r.sp then 1 else 0

/-- Pairs of nibbles packed into bytes, the first in the low half (R333). -/
def packNibbles : List Nat → List Byte
  | [] => []
  | [a] => [BitVec.ofNat 8 a]
  | a :: b :: t => BitVec.ofNat 8 (a + 16 * b) :: packNibbles t

/-- Field values outside what verification admits (R305, R307, R310, R311, R330, R331, R345 OP_RANGE, R349). -/
def VeRec.bad (r : VeRec) : Bool :=
  let rows := decide (1 ≤ r.rows ∧ r.rows ≤ 1024) && decide (r.browBase ≤ 127)
  let al := fun (n : Nat) => n % 64 == 0
  let outOk := al r.dst && al r.dStride && r.auxStride % 4 == 0 && outFmtOk r.dFmt
  let inOk := al r.srcA && al r.srcB && al r.aStride && al r.bStride && inFmtOk r.bFmt
  let i := decodeV r.cfg
  !(match r.op with
    | 0x21 => rows && outOk && inOk && (!r.sp || inFmtOk r.aFmt)
    | 0x22 => r.sp && rows && outOk && inOk && inFmtOk r.aFmt
    | 0x23 => r.sp && rows && instrOk false i && (i.opc != 0x20 || (al r.srcA && al r.aStride && inFmtOk r.aFmt)) && (i.opc != 0x21 || outOk)
    | 0x24 => (!flagBit r.bcast 0 || (inFmtOk r.aFmt && decide (r.browBase + ceilDiv (if r.count = 0 then 65536 else r.count) 512 ≤ 128))) &&
        (!flagBit r.bcast 1 || (decide (1 ≤ r.rows ∧ r.rows ≤ 1024) && al r.srcB && inFmtOk r.bFmt))
    | 0x26 => decide (1 ≤ r.count)
    | _ => true)

/-! ## Output (R325 to R328, R331 to R333) -/

/-- Blocks of 32. -/
def blocks32 : Nat → List (Option Nat) → List (List (Option Nat))
  | 0, _ => []
  | n + 1, xs => xs.take 32 :: blocks32 n (xs.drop 32)

/-- The bytes a row's elements store at `dst`, with the scale bytes of an MX format; none marks a masked element. `old` gives the
bytes that stand there. -/
def packRow (fmt : Nat) (satinf zero : Bool) (old : List Byte) (xs : List (Option Nat)) : List Byte × List Byte × Fl :=
  if isMx fmt then
    let n := (xs.length + 31) / 32
    let bs := (blocks32 n (xs ++ List.replicate (32 * n - xs.length) none)).map (mxBlock fmt)
    let codes := bs.flatMap (fun b => b.2.1)
    ((if fmt = 7 then packNibbles codes else codes.map (BitVec.ofNat 8)), bs.map (fun b => BitVec.ofNat 8 b.1),
      (bs.map (fun b => b.2.2)).foldl Fl.or {})
  else
    let k := elemBits fmt / 8
    let out := ((List.range xs.length).zip xs).map (fun p => match p.2 with
      | some x => let (c, f) := ofFp fmt satinf x; (leBytes k c, f)
      | none => ((if zero then List.replicate k (0 : Byte) else (old.drop (k * p.1)).take k), ({} : Fl)))
    (out.flatMap Prod.fst, [], (out.map Prod.snd).foldl Fl.or {})

/-- Bytes a row of `n` elements takes at DST: whole blocks for an MX format (R328). -/
def outBytes (fmt n : Nat) : Nat := if isMx fmt then fmtBytes fmt ((n + 31) / 32 * 32) else fmtBytes fmt n

/-- Store a row of elements at an offset, and its scales. -/
def storeRow (core fmt dst aux : Nat) (satinf zero : Bool) (xs : List (Option Nat)) (s : State) : Fl × State :=
  let (bs, sc, f) := packRow fmt satinf zero (s.spadBytes core dst (outBytes fmt xs.length)) xs
  let s := pokeSpad core dst bs s
  (f, if sc.isEmpty then s else pokeSpad core aux sc s)

/-! ## Flags, counters and status -/

/-- Raise flags of a channel (R334). -/
def veFlags (core : Nat) (r : VeRec) (f : Fl) (s : State) : State :=
  orReg (if r.sp then R.veFlagsSp core else R.veFlagsMx core) f.veMask s

/-- The form of an SP operation as VEn_STATUS shows it. -/
def spForm (op : Nat) : Nat := if op = 0x21 then 1 else if op = 0x22 then 2 else if op = 0x23 then 3 else 0

/-- VEn_STATUS follows the channels. -/
def veSync (core : Nat) (s : State) : State :=
  let v := (s.engines core).ve
  let s := s.setFld (F.veStatusSpForm core) (match v.sp with | (_, (r, _)) :: _ => spForm r.op | [] => 0)
  let s := (s.setBit (F.veStatusSpBusy core) (!v.sp.isEmpty)).setBit (F.veStatusMxBusy core) (!v.mx.isEmpty)
  s.setBit (F.veStatusMxWaiting core) (match v.mx with | (_, (r, _)) :: _ => r.op == 0x21 | [] => false)

/-- Causes of a hardware error in the vector engine (R345). -/
def veCause (u : Upset) : Option Nat := u.fatal.filter (fun c => [1, 2, 3, 4, 7].contains c)

/-! ## Operations -/

/-- One row of a chain: the flows of its elements. -/
def chainRow (v : VeUnit) (r : VeRec) (gs : List Stage) (row : Nat) (as bs : List (Nat × Fl)) : List Flow :=
  ((List.range as.length).zip as).map (fun p =>
    let b := bs.getD p.1 (0, {})
    chainOf v.tables gs { brow := v.browAt r.ch (r.browBase + p.1 / 512) (p.1 % 512), bcol := v.bcolAt r.ch row, inb := b.1 } (p.2.1, p.2.2.or b.2))

/-- Store what a chain row gives: its elements and its REDUCE result (R313, R314). -/
def endRow (core : Nat) (r : VeRec) (gs : List Stage) (row : Nat) (fs : List Flow) (s : State) : State :=
  let fl := (fs.filter (fun f => !f.masked)).foldl (fun (a : Fl) f => a.or f.fl) {}
  let (f, s) := storeRow core r.dFmt (r.dst + row * r.dStride) (r.dstAux + row * r.auxStride) (quantSat gs) r.zero (fs.map (fun x => if x.masked then none else some x.x)) s
  let s := veFlags core r (fl.or f) s
  match reduceKind gs with
  | some k =>
    let (x, f) := reduceOf k (fs.filterMap Flow.tap)
    veFlags core r f (pokeSpad core (r.dstAux + row * r.auxStride) (leBytes 4 x) s)
  | none => s

/-- VLEN of the SP channel. -/
def State.vlen (s : State) (core : Nat) : Nat := s.fld (F.veVlenVlen core)
/-- BEAT of the SP channel. -/
def State.beat (s : State) (core : Nat) : Nat := s.fld (F.veStatusBeat core)

/-- The scratchpad ranges of an SP operation's rows: `n` bytes from each row's start. -/
def rowRanges (a stride rows n : Nat) : List (Nat × Nat) := (List.range rows).map (fun i => (a + i * stride, n))

/-- An access screen and then the effect; a fault of the screen ends the operation. -/
def guarded (core : Nat) (reads writes : List (Nat × Nat)) (u : Upset) (k : State → State) (s : State) : State :=
  let (c, p) := s.running core
  match spadScan core p c reads writes u s with
  | (true, s) => k s
  | (false, s) => s

/-- The ranges an SP chain or element program writes. -/
def outRanges (r : VeRec) (n : Nat) (reduce : Bool) : List (Nat × Nat) :=
  rowRanges r.dst r.dStride r.rows (outBytes r.dFmt n)
    ++ (if isMx r.dFmt then rowRanges r.dstAux r.auxStride r.rows ((n + 31) / 32) else if reduce then rowRanges r.dstAux r.auxStride r.rows 4 else [])

/-- VE_CHAIN on the SP channel (R312 to R314): a descriptor that verification would refuse is OP_RANGE (R345). -/
def spChain (core : Nat) (r : VeRec) (u : Upset) (s : State) : State :=
  guarded core [(r.cfg, 128)] [] {} (fun s =>
    let d := s.spadBytes core r.cfg 128
    let gs := stagesOf d
    let n := s.vlen core
    let side := chainReads gs 3
    if !chainOk d || !chainFits gs r.dFmt then veFault core 6 s
    else guarded core (rowRanges r.srcA r.aStride r.rows (fmtBytes r.aFmt n) ++ (if side then rowRanges r.srcB r.bStride r.rows (fmtBytes r.bFmt n) else []))
      (outRanges r n (reduceKind gs).isSome) u (fun s =>
      let s := (List.range r.rows).foldl (fun s row =>
        let as := s.loadElems core r.aFmt (r.srcA + row * r.aStride) n
        let bs := if side then s.loadElems core r.bFmt (r.srcB + row * r.bStride) n else []
        endRow core r gs row (chainRow (s.engines core).ve r gs row as bs) s) s
      s.addPair (R.veBeatsSp core) (r.rows * ceilDiv n 512)) s) s

/-- VE_EPROG (R318, R319): an image that verification would refuse is OP_RANGE (R345). -/
def spProgram (core : Nat) (r : VeRec) (u : Upset) (s : State) : State :=
  guarded core [(r.cfg, 48 + 4 * s.spadNat core r.cfg 1)] [] {} (fun s =>
    let d := s.spadBytes core r.cfg (48 + 4 * s.spadNat core r.cfg 1)
    let g := eprogOf d
    let n := s.vlen core
    let side := g.reads 17
    if !progOk d then veFault core 6 s
    else guarded core (rowRanges r.srcA r.aStride r.rows (fmtBytes r.aFmt n) ++ (if side then rowRanges r.srcB r.bStride r.rows (fmtBytes r.bFmt n) else []))
      (outRanges r n false) u (fun s =>
      let s := (List.range r.rows).foldl (fun s row =>
        let v := (s.engines core).ve
        let as := s.loadElems core r.aFmt (r.srcA + row * r.aStride) n
        let bs := if side then s.loadElems core r.bFmt (r.srcB + row * r.bStride) n else []
        let out := ((List.range n).zip as).map (fun p =>
          let b := bs.getD p.1 (0, {})
          g.run v.tables { ina := p.2.1, inb := b.1, brow := v.browAt 1 (r.browBase + p.1 / 512) (p.1 % 512), bcol := v.bcolAt 1 row, lane := fpOfNat p.1, row := fpOfNat row } (p.2.2.or b.2))
        let (f, s) := storeRow core r.dFmt (r.dst + row * r.dStride) (r.dstAux + row * r.auxStride) r.satinf r.zero (out.map Prod.fst) s
        veFlags core r ((out.map Prod.snd).foldl Fl.or f) s) s
      s.addPair (R.veBeatsSp core) (r.rows * ceilDiv n 512)) s) s

/-- Write consecutive values into BROW lines from a line on, lane 0 first. -/
def fillBrow (ch : Nat) : Nat → Nat → List Nat → VeUnit → VeUnit
  | 0, _, _, v => v
  | k + 1, line, xs, v =>
    if xs.isEmpty then v
    else
      let old := tget v.brow (ch * 128 + line) (List.replicate 512 0)
      let new := xs.take 512 ++ old.drop (xs.take 512).length
      fillBrow ch k (line + 1) (xs.drop 512) { v with brow := tset v.brow (ch * 128 + line) new }

/-- VE_BCAST (R311). -/
def broadcastLoad (core : Nat) (r : VeRec) (u : Upset) (s : State) : State :=
  let n := if r.count = 0 then 65536 else r.count
  let row := flagBit r.bcast 0
  let col := flagBit r.bcast 1
  guarded core ((if row then [(r.cfg, fmtBytes r.aFmt n)] else []) ++ (if col then [(r.srcB, fmtBytes r.bFmt r.rows)] else [])) [] u (fun s =>
    let xs := if row then s.loadElems core r.aFmt r.cfg n else []
    let ys := if col then s.loadElems core r.bFmt r.srcB r.rows else []
    let v := fillBrow r.ch 128 r.browBase (xs.map Prod.fst) (s.engines core).ve
    let v := if col then
        let old := tget v.bcol r.ch (List.replicate 1024 0)
        { v with bcol := tset v.bcol r.ch (ys.map Prod.fst ++ old.drop ys.length) }
      else v
    veFlags core r (((xs ++ ys).map Prod.snd).foldl Fl.or {}) (s.setVe core v)) s

/-- VE_TLOAD (R323). -/
def tableLoad (core : Nat) (r : VeRec) (u : Upset) (s : State) : State :=
  guarded core [(r.cfg, 4128)] [] u (fun s =>
    let v := (s.engines core).ve
    s.setVe core { v with tables := tset v.tables r.tslot (s.spadBytes core r.cfg 4128) }) s

/-- VE_SETVL (R307): VLEN of the SP channel, BEAT to 0. -/
def setVl (core : Nat) (r : VeRec) (s : State) : State :=
  if r.sp then (s.setFld (F.veVlenVlen core) r.count).setFld (F.veStatusBeat core) 0 else s

/-! ## Register mode (R316, R317, R320, R321) -/

/-- A vector register: 512 lanes. -/
def VeUnit.reg (v : VeUnit) (n : Nat) : List Nat := tget v.regs n (List.replicate 512 0)
/-- A predicate register: 512 lanes. -/
def VeUnit.pred (v : VeUnit) (n : Nat) : List Bool := tget v.preds (n % 8) (List.replicate 512 false)

/-- The active lanes of the current beat (R316). -/
def State.activeLanes (s : State) (core : Nat) (r : VeRec) : List Bool :=
  let v := (s.engines core).ve
  (List.range 512).map (fun l => decide (s.beat core * 512 + l < s.vlen core) && (!r.usePred || (v.pred r.pred).getD l false))

/-- New lanes of a register: an active lane takes its result, a masked one keeps its value or takes zero (R325, R327). -/
def mergeLanes {α : Type} (zero : Bool) (z : α) (act : List Bool) (old new : List α) : List α :=
  (act.zip (old.zip new)).map (fun p => if p.1 then p.2.2 else if zero then z else p.2.1)

/-- Write the lanes of a vector register, and raise the flags of the active ones. -/
def putVreg (core : Nat) (r : VeRec) (d : Nat) (new : List (Nat × Fl)) (s : State) : State :=
  let v := (s.engines core).ve
  let act := s.activeLanes core r
  let fl := (act.zip new).foldl (fun (a : Fl) p => if p.1 then a.or p.2.2 else a) {}
  veFlags core r fl (s.setVe core { v with regs := tset v.regs d (mergeLanes r.zero 0 act (v.reg d) (new.map Prod.fst)) })

/-- Write the lanes of a predicate register. -/
def putPred (core : Nat) (r : VeRec) (d : Nat) (new : List Bool) (s : State) : State :=
  let v := (s.engines core).ve
  s.setVe core { v with preds := tset v.preds (d % 8) (mergeLanes r.zero false (s.activeLanes core r) (v.pred d) new) }

/-- VLD and VST touch this many elements of the beat. -/
def State.beatElems (s : State) (core : Nat) : Nat := min 512 (s.vlen core - s.beat core * 512)

/-- VLD (R317). -/
def vload (core : Nat) (r : VeRec) (i : VInstr) (u : Upset) (s : State) : State :=
  let n := s.beatElems core
  let a := r.srcA + (r.rows - 1) * r.aStride + fmtBytes r.aFmt (s.beat core * 512)
  guarded core [(a, fmtBytes r.aFmt n)] [] u (fun s =>
    putVreg core r i.d (s.loadElems core r.aFmt a n ++ List.replicate (512 - n) ((0, {}) : Nat × Fl)) s) s

/-- VST (R317). -/
def vstore (core : Nat) (r : VeRec) (i : VInstr) (u : Upset) (s : State) : State :=
  let n := s.beatElems core
  let a := r.dst + (r.rows - 1) * r.dStride + fmtBytes r.dFmt (s.beat core * 512)
  let x := r.dstAux + (r.rows - 1) * r.auxStride + s.beat core * 16
  guarded core [] ((a, outBytes r.dFmt n) :: (if isMx r.dFmt then [(x, (n + 31) / 32)] else [])) u (fun s =>
    let lanes := ((s.activeLanes core r).zip ((s.engines core).ve.reg i.a)).take n
    let (f, s) := storeRow core r.dFmt a x r.satinf r.zero (lanes.map (fun p => if p.1 then some p.2 else none)) s
    veFlags core r f s) s

/-- One register-mode instruction on the current beat. -/
def regRun (core : Nat) (r : VeRec) (u : Upset) (s : State) : State :=
  let i := decodeV r.cfg
  let v := (s.engines core).ve
  let act := s.activeLanes core r
  let s := match i.opc with
    | 0x00 => s
    | 0x0E =>
      let p := v.pred i.mod
      putVreg core r i.d ((p.zip ((v.reg i.a).zip (v.reg i.b))).map (fun t => (if t.1 then t.2.1 else t.2.2, ({} : Fl)))) s
    | 0x20 => vload core r i u s
    | 0x21 => vstore core r i u s
    | 0x22 => putVreg core r i.d ((List.range 512).map (fun l => (v.browAt r.ch (r.browBase + s.beat core) l, {}))) s
    | 0x23 => putVreg core r i.d (List.replicate 512 (v.bcolAt r.ch (r.rows - 1), {})) s
    | 0x24 => putVreg core r i.d ((List.range 512).map (fun l => (fpOfNat (s.beat core * 512 + l), {}))) s
    | opc =>
      if 0x28 ≤ opc ∧ opc ≤ 0x2A then
        let xs := (act.zip (v.reg i.a)).filterMap (fun p => if p.1 then some p.2 else none)
        let (x, f) := reduceOf (opc - 0x28) xs
        veFlags core r f (putVreg core r i.d (List.replicate 512 (x, {})) s)
      else
        let as := v.reg i.a
        let bs := v.reg i.b
        let cs := v.reg i.c
        let lane := fun (l : Nat) => aluOf v.tables opc i.mod (as.getD l 0) (bs.getD l 0) (cs.getD l 0)
        let bit := fun (l : Nat) => predOf opc i.mod (as.getD l 0) (bs.getD l 0) ((v.pred i.a).getD l false) ((v.pred i.b).getD l false)
        if (lane 0).isSome then putVreg core r i.d ((List.range 512).map (fun l => (lane l).getD (0, {}))) s
        else if (bit 0).isSome then putPred core r i.d ((List.range 512).map (fun l => (bit l).getD false)) s
        else veFault core 6 s
  if s.failStopped then s
  else
    let s := s.addPair (R.veBeatsSp core) 1
    if r.nextbeat then s.setFld (F.veStatusBeat core) (s.beat core + 1) else s

/-! ## Channels and issue (R307, R308, R311, R341, R342) -/

/-- Count corrected errors, and fault on an uncorrectable one, before an operation runs (R345). -/
def veChecked (core : Nat) (u : Upset) (k : State → State) (s : State) : State :=
  match veCause u with
  | some c => veFault core c s
  | none =>
    let s := if u.regCorr = 0 then s else s.count (F.veEccRegCorr core) u.regCorr
    k (if u.storeCorr = 0 then s else s.count (F.veEccStoreCorr core) u.storeCorr)

/-- An operation other than a chain on the MX channel runs; a field value outside what verification admits is OP_RANGE (R345). -/
def veRun (core : Nat) (r : VeRec) (u : Upset) (s : State) : State :=
  if r.bad then veFault core 6 s
  else veChecked core u (fun s =>
    match r.op with
    | 0x21 => spChain core r u s
    | 0x22 => spProgram core r u s
    | 0x23 => regRun core r u s
    | 0x24 => broadcastLoad core r u s
    | 0x25 => tableLoad core r u s
    | 0x26 => setVl core r s
    | _ => s) s

/-- The front of a channel's queue may run: a VE_SYNC once every earlier operation of the channel it names has completed, a
chain on the MX channel only when rows come, anything else at once. -/
def frontReady (mx : Bool) (other : List (Nat × (VeRec × Upset))) (t : Nat) (r : VeRec) : Bool :=
  if r.op = 0x27 then !other.any (fun o => decide (o.1 < t))
  else !(mx && r.op == 0x21)

/-- Run what may run on both channels. The first argument is fuel. -/
def veDrain (core : Nat) : Nat → State → State
  | 0, s => s
  | k + 1, s =>
    let v := (s.engines core).ve
    match v.mx, v.sp with
    | (t, (r, u)) :: rest, sp =>
      if frontReady true sp t r then veDrain core k (veRun core r u (s.setVe core { v with mx := rest }))
      else match sp with
        | (t, (r, u)) :: rest =>
          if frontReady false v.mx t r then veDrain core k (veRun core r u (s.setVe core { v with sp := rest })) else s
        | [] => s
    | [], (t, (r, u)) :: rest =>
      if frontReady false [] t r then veDrain core k (veRun core r u (s.setVe core { v with sp := rest })) else s
    | [], [] => s

/-- Drain both channels as far as they go, and bring the status up to date. -/
def veSettle (core : Nat) (s : State) : State :=
  let v := (s.engines core).ve
  veSync core (veDrain core (v.mx.length + v.sp.length + 1) s)

/-- Offsets of a vector record made absolute (R563). -/
def VeRec.reloc (r : VeRec) (f : Nat → Nat) : VeRec :=
  { r with cfg := if r.op = 0x23 then r.cfg else f r.cfg, srcA := f r.srcA, srcB := f r.srcB, dst := f r.dst, dstAux := f r.dstAux }

/-- A vector record is issued: it joins its channel, or for VE_SYNC the other one, whose later operations it holds. -/
def veIssue (core : Nat) (r : VeRec) (u : Upset) (s : State) : State :=
  let v := (s.engines core).ve
  let x := (v.ticket, (r, u))
  let v := { v with ticket := v.ticket + 1 }
  let onMx := if r.op = 0x27 then r.sp else !r.sp
  veSettle core (s.setVe core (if onMx then { v with mx := v.mx ++ [x] } else { v with sp := v.sp ++ [x] }))

/-- The sequencer issues the vector record it stands at, when `ok` says it is the operation the command names. -/
def issueVe (core : Nat) (ok : VeRec → Bool) (u : Upset) (s : State) : State :=
  match s.nextRec core with
  | some (_, c, q, .ve r) =>
    if ok r then veIssue core (r.reloc (s.placer c core)) u (advance core q (.ve r) s) else s
  | _ => s

/-- Rows the matrix engine delivers with DEST = VEC (R308, R309, R344): each lane with its INT32 mark, `n` active lanes. -/
def veFeed (core : Nat) (rows : List (List (Bool × Nat))) (n : Nat) (s : State) : State :=
  let v := (s.engines core).ve
  match v.mx with
  | (_, (r, u)) :: rest =>
    if r.op ≠ 0x21 ∨ r.rows ≠ rows.length then veFault core 5 s
    else if r.bad then veFault core 6 s
    else
      let s := s.setVe core { v with mx := rest }
      let run := veChecked core u (guarded core [(r.cfg, 128)] [] {} (fun s =>
        let d := s.spadBytes core r.cfg 128
        let gs := stagesOf d
        let side := chainReads gs 3
        if !chainOk d || !chainFits gs r.dFmt then veFault core 6 s
        else guarded core (if side then rowRanges r.srcB r.bStride r.rows (fmtBytes r.bFmt n) else []) (outRanges r n (reduceKind gs).isSome) u (fun s =>
          let s := ((List.range rows.length).zip rows).foldl (fun s p =>
            let as := (p.2.take n).map (fun x => if x.1 then ofInt32 x.2 else (x.2, {}))
            let bs := if side then s.loadElems core r.bFmt (r.srcB + p.1 * r.bStride) n else []
            endRow core r gs p.1 (chainRow (s.engines core).ve r gs p.1 as bs) s) s
          let s := s.addPair (R.veBeatsMx core) rows.length
          (s.addPair (R.veStallSp core) s.freeNow).freeNext) s))
      veSettle core (run s)
  | [] => veFault core 5 s

/-! ## The commands -/

/-- VE_CHAIN: on the MX channel it waits for its rows. -/
def execVeChain (core : Fin 8) (u : Upset) (s : State) : Host.Outcome State Fault Refusal :=
  .next (issueVe core (fun r => r.op == 0x21) u s)

/-- VE_EPROG. -/
def execVeEprog (core : Fin 8) (u : Upset) (s : State) : Host.Outcome State Fault Refusal :=
  .next (issueVe core (fun r => r.op == 0x22) u s)

/-- VE_BCAST. -/
def execVeBcast (core : Fin 8) (u : Upset) (s : State) : Host.Outcome State Fault Refusal :=
  .next (issueVe core (fun r => r.op == 0x24) u s)

/-- VE_TLOAD. -/
def execVeTload (core : Fin 8) (u : Upset) (s : State) : Host.Outcome State Fault Refusal :=
  .next (issueVe core (fun r => r.op == 0x25) u s)

/-- VE_SETVL. -/
def execVeSetvl (core : Fin 8) (u : Upset) (s : State) : Host.Outcome State Fault Refusal :=
  .next (issueVe core (fun r => r.op == 0x26) u s)

/-- VE_SYNC. -/
def execVeSync (core : Fin 8) (s : State) : Host.Outcome State Fault Refusal :=
  .next (issueVe core (fun r => r.op == 0x27) {} s)

/-- Issue the register-mode instruction of an opcode. -/
def issueReg (core opc : Nat) (u : Upset) (s : State) : State :=
  issueVe core (fun r => r.op == 0x23 && (decodeV r.cfg).opc == opc) u s

/-- NOP. -/
def execVeNop (core : Fin 8) (u : Upset) (s : State) : Host.Outcome State Fault Refusal :=
  .next (issueReg core 0x00 u s)

/-- MOV. -/
def execMov (core : Fin 8) (u : Upset) (s : State) : Host.Outcome State Fault Refusal :=
  .next (issueReg core 0x01 u s)

/-- ADD. -/
def execAdd (core : Fin 8) (u : Upset) (s : State) : Host.Outcome State Fault Refusal :=
  .next (issueReg core 0x02 u s)

/-- SUB. -/
def execSub (core : Fin 8) (u : Upset) (s : State) : Host.Outcome State Fault Refusal :=
  .next (issueReg core 0x03 u s)

/-- MUL. -/
def execMul (core : Fin 8) (u : Upset) (s : State) : Host.Outcome State Fault Refusal :=
  .next (issueReg core 0x04 u s)

/-- FMA. -/
def execFma (core : Fin 8) (u : Upset) (s : State) : Host.Outcome State Fault Refusal :=
  .next (issueReg core 0x05 u s)

/-- DIV. -/
def execDiv (core : Fin 8) (u : Upset) (s : State) : Host.Outcome State Fault Refusal :=
  .next (issueReg core 0x06 u s)

/-- SQRT. -/
def execSqrt (core : Fin 8) (u : Upset) (s : State) : Host.Outcome State Fault Refusal :=
  .next (issueReg core 0x07 u s)

/-- MIN. -/
def execMin (core : Fin 8) (u : Upset) (s : State) : Host.Outcome State Fault Refusal :=
  .next (issueReg core 0x08 u s)

/-- MAX. -/
def execMax (core : Fin 8) (u : Upset) (s : State) : Host.Outcome State Fault Refusal :=
  .next (issueReg core 0x09 u s)

/-- ABS. -/
def execAbs (core : Fin 8) (u : Upset) (s : State) : Host.Outcome State Fault Refusal :=
  .next (issueReg core 0x0A u s)

/-- NEG. -/
def execNeg (core : Fin 8) (u : Upset) (s : State) : Host.Outcome State Fault Refusal :=
  .next (issueReg core 0x0B u s)

/-- ACT. -/
def execAct (core : Fin 8) (u : Upset) (s : State) : Host.Outcome State Fault Refusal :=
  .next (issueReg core 0x0C u s)

/-- CMP. -/
def execCmp (core : Fin 8) (u : Upset) (s : State) : Host.Outcome State Fault Refusal :=
  .next (issueReg core 0x0D u s)

/-- SEL. -/
def execSel (core : Fin 8) (u : Upset) (s : State) : Host.Outcome State Fault Refusal :=
  .next (issueReg core 0x0E u s)

/-- RINT. -/
def execRint (core : Fin 8) (u : Upset) (s : State) : Host.Outcome State Fault Refusal :=
  .next (issueReg core 0x0F u s)

/-- CVTI. -/
def execCvti (core : Fin 8) (u : Upset) (s : State) : Host.Outcome State Fault Refusal :=
  .next (issueReg core 0x10 u s)

/-- CVTF. -/
def execCvtf (core : Fin 8) (u : Upset) (s : State) : Host.Outcome State Fault Refusal :=
  .next (issueReg core 0x11 u s)

/-- RND. -/
def execRnd (core : Fin 8) (u : Upset) (s : State) : Host.Outcome State Fault Refusal :=
  .next (issueReg core 0x12 u s)

/-- PAND. -/
def execPand (core : Fin 8) (u : Upset) (s : State) : Host.Outcome State Fault Refusal :=
  .next (issueReg core 0x13 u s)

/-- POR. -/
def execPor (core : Fin 8) (u : Upset) (s : State) : Host.Outcome State Fault Refusal :=
  .next (issueReg core 0x14 u s)

/-- PXOR. -/
def execPxor (core : Fin 8) (u : Upset) (s : State) : Host.Outcome State Fault Refusal :=
  .next (issueReg core 0x15 u s)

/-- PNOT. -/
def execPnot (core : Fin 8) (u : Upset) (s : State) : Host.Outcome State Fault Refusal :=
  .next (issueReg core 0x16 u s)

/-- PSET. -/
def execPset (core : Fin 8) (u : Upset) (s : State) : Host.Outcome State Fault Refusal :=
  .next (issueReg core 0x17 u s)

/-- VLD. -/
def execVld (core : Fin 8) (u : Upset) (s : State) : Host.Outcome State Fault Refusal :=
  .next (issueReg core 0x20 u s)

/-- VST. -/
def execVst (core : Fin 8) (u : Upset) (s : State) : Host.Outcome State Fault Refusal :=
  .next (issueReg core 0x21 u s)

/-- VBROW. -/
def execVbrow (core : Fin 8) (u : Upset) (s : State) : Host.Outcome State Fault Refusal :=
  .next (issueReg core 0x22 u s)

/-- VBCOL. -/
def execVbcol (core : Fin 8) (u : Upset) (s : State) : Host.Outcome State Fault Refusal :=
  .next (issueReg core 0x23 u s)

/-- VIDX. -/
def execVidx (core : Fin 8) (u : Upset) (s : State) : Host.Outcome State Fault Refusal :=
  .next (issueReg core 0x24 u s)

/-- RSUM. -/
def execRsum (core : Fin 8) (u : Upset) (s : State) : Host.Outcome State Fault Refusal :=
  .next (issueReg core 0x28 u s)

/-- RMAX. -/
def execRmax (core : Fin 8) (u : Upset) (s : State) : Host.Outcome State Fault Refusal :=
  .next (issueReg core 0x29 u s)

/-- RMIN. -/
def execRmin (core : Fin 8) (u : Upset) (s : State) : Host.Outcome State Fault Refusal :=
  .next (issueReg core 0x2A u s)

end Sys2Proof.Machine
end

