-- ==== Sys2Proof/Machine/Recur.lean ====
section
/-! DEFINITION. The recurrence unit (R350 to R392): the member table, carried state in the tide pool, the gate pipeline, the scan
unit, Toeplitz images, rings, and the state precision modes. -/

namespace Sys2Proof.Machine

/-! ## Carried state (R352 to R357, R415) -/

/-- A member-table entry (R352). -/
structure MemberRow where
  handle : Nat
  valid : Bool
  held : Bool
  chunk : Nat
  seed : Nat
  token : Nat
  deriving DecidableEq, Repr

/-- The entry 32 bytes spell. -/
def memberOf (b : List Byte) : MemberRow :=
  { handle := fieldAt b 0 4, valid := flagBit (fieldAt b 4 1) 0, held := flagBit (fieldAt b 4 1) 1, chunk := fieldAt b 8 8, seed := fieldAt b 16 8, token := fieldAt b 24 4 }

/-- The entry of member `r` of a table at an offset of a core's scratchpad. -/
def State.memberEntry (s : State) (core off r : Nat) : MemberRow := memberOf (s.spadBytes core (off + 32 * r) 32)

/-- The unit takes its copy of the member table an operation names (R392; log entry 112). -/
def takeTable (core : Nat) (r : RuRec) (s : State) : State :=
  s.setRu core { (s.engines core).ru with members := s.spadBytes core r.members (32 * r.rows) }

/-- The entry of member `r` in the unit's copy of its member table. -/
def State.memberRow (s : State) (core r : Nat) : MemberRow :=
  memberOf (((s.engines core).ru.members.drop (32 * r)).take 32)

/-- The STATE_TOKEN the dispatcher writes: descriptor and direction (log entry 20). -/
def stateToken (desc : Nat) (ebb : Bool) : Nat := 2 * desc + ebb.toNat

/-- Granules of a stream's part, by its schedule. -/
def State.partGrans (s : State) (x : Stream) (ebb : Bool) : Nat :=
  if ebb then (if x.par.ebbEn then ((tfind s.disp.scheds x.par.ebbSched).map Schedule.statePart).getD 0 else 0)
  else if x.par.floodEn then ((tfind s.disp.scheds x.par.floodSched).map Schedule.statePart).getD 0 else 0

/-- First allocation byte of a part: the flood part first, the ebb part after it (R415). -/
def State.partBase (s : State) (x : Stream) (ebb : Bool) : Nat := if ebb then s.partGrans x false * 16384 else 0

/-- A range of an allocation cut at granule boundaries: offset and length of each piece. -/
def granSegs (o n : Nat) : List (Nat × Nat) :=
  if n = 0 then []
  else (List.range ((o + n - 1) / 16384 + 1 - o / 16384)).map (fun i =>
    let a := max o ((o / 16384 + i) * 16384)
    (a, min (o + n) ((o / 16384 + i + 1) * 16384) - a))

/-- Every granule of a range is in the pool. -/
def Stream.inPoolRange (x : Stream) (o n : Nat) : Bool := (granSegs o n).all (fun g => (tfind x.grans (g.1 / 16384)).isSome)

/-- Bytes of an allocation; a granule that is not in the pool reads as zero. -/
def State.allocBytes (s : State) (x : Stream) (o n : Nat) : List Byte :=
  (granSegs o n).flatMap (fun g => match tfind x.grans (g.1 / 16384) with
    | some k => s.peek (granAddr k + g.1 % 16384) g.2
    | none => List.replicate g.2 0)

/-- Write bytes of an allocation to the granules in the pool. -/
def putAlloc (x : Stream) (o : Nat) (bs : List Byte) (s : State) : State :=
  (granSegs o bs.length).foldl (fun s g => match tfind x.grans (g.1 / 16384) with
    | some k => s.poke (granAddr k + g.1 % 16384) ((bs.drop (g.1 - o)).take g.2)
    | none => s) s

/-- The stream a command in progress knows by a descriptor: one that left during it is still that stream to it (R386). -/
def State.streamIn (s : State) (cmd d : Nat) : Option Stream :=
  match s.tide.leavers.find? (fun z => z.desc == d && z.cmds.contains cmd) with
  | some z => some z.str
  | none => s.stream d

/-- The stream left while the command that runs on a core was in progress. -/
def State.leftDuring (s : State) (core d : Nat) : Bool :=
  s.tide.leavers.any (fun z => z.desc == d && (s.running core).1.any (fun i => z.cmds.contains i))

/-- The stream a member's token names, when it is a member of the running command (R415, MEMBER_RANGE). -/
def State.tokenStream (s : State) (core : Nat) (m : MemberRow) : Option Stream :=
  match (s.running core).1 with
  | some i => match tfind s.disp.cmds i with
    | some c => if m.token % 2 == c.ebb.toNat && c.members.any (fun y => y.desc == m.token / 2) then s.streamIn i (m.token / 2) else none
    | none => none
  | none => none

/-! ## Rounding to PREC (R374 to R376) -/

/-- Work bytes per element. -/
def workSize (prec : Nat) : Nat := if prec = 3 then 8 else 4
/-- Storage bytes per element. -/
def storeSize (prec : Nat) : Nat := if prec < 2 then 2 else if prec = 2 then 4 else 8

/-- A work element: hi, and lo under WIDE_COMP. -/
structure WorkEl where
  hi : Nat
  lo : Nat := 0
  deriving DecidableEq, Repr

/-- FP32 to FP16, saturating (R375). -/
def rne16 (v : Nat) : Nat × Fl :=
  match fpDec v with
  | .nan s _ => (fp16.sign s + 0x7E00, { nx := decide (v % 2 ^ 31 ≠ 0x7FC00000) })
  | .inf s => (fp16.sign s + 0x7BFF, { sat := true, nx := true })
  | .fin s m e =>
    if (dyOf false 65504 0).lt (dyOf false m e) then (fp16.sign s + 0x7BFF, { sat := true, nx := true })
    else fitFloat fp16 true s m e

/-- The draw of R377: 16 bits. -/
def drawOf (seed layer chunk pos j : Nat) : Nat :=
  let key := (layer * 2 ^ 40 + pos * 2 ^ 24 + j) * 0xD1B54A32D192ED03 % 2 ^ 64
  mix64 (Nat.xor (Nat.xor seed (chunk * 0x9E3779B97F4A7C15 % 2 ^ 64)) key) / 2 ^ 48

/-- Parts of a magnitude m × 2^e at a quantum 2^q: whole quanta, remainder, and what the remainder is a share of. -/
def quantaOf (m : Nat) (e q : Int) : Nat × Nat × Nat :=
  if q ≤ e then (m * 2 ^ (e - q).toNat, 0, 1) else (m / 2 ^ (q - e).toNat, m % 2 ^ (q - e).toNat, 2 ^ (q - e).toNat)

/-- A stochastic store (R376): the code, the flags, and whether it drew and whether it rounded away. UF is tininess after rounding
with the exponent unbounded, by the same draw (R334). -/
def sr16 (v draw : Nat) : Nat × Fl × Bool × Bool :=
  match fpDec v with
  | .fin s m e =>
    if (dyOf false m e).lt (dyOf false 65504 0) then
      let ex := expOf m e
      let q := (if ex < -14 then -14 else ex) - 10
      let (t, r, d) := quantaOf m e q
      let code := (q + 24).toNat * 2 ^ 10 + t
      if m = 0 ∨ r = 0 then (fp16.sign s + (if m = 0 then 0 else code), {}, false, false)
      else
        let away := decide (draw < r * 65536 / d)
        let (t', r', d') := quantaOf m e (ex - 10)
        let normal := decide (-14 ≤ ex) || (ex == -15 && t' == 2 ^ 11 - 1 && decide (draw < r' * 65536 / d'))
        (fp16.sign s + (if away then code + 1 else code), { nx := true, uf := !normal }, true, away)
    else let (c, f) := rne16 v; (c, f, false, false)
  | _ => let (c, f) := rne16 v; (c, f, false, false)

/-- The bytes one element stores, its flags, and whether it drew and rounded away. -/
def storeEl (prec draw : Nat) (w : WorkEl) : List Byte × Fl × Bool × Bool :=
  match prec with
  | 0 => let (c, f) := rne16 w.hi; (leBytes 2 c, f, false, false)
  | 1 => let (c, f, d, a) := sr16 w.hi draw; (leBytes 2 c, f, d, a)
  | 2 => (leBytes 4 w.hi, {}, false, false)
  | _ => (leBytes 4 w.hi ++ leBytes 4 w.lo, {}, false, false)

/-- A stored element in its work form: exact (R355). -/
def widenEl (prec : Nat) (b : List Byte) : WorkEl :=
  if prec < 2 then { hi := (toFp 1 (leNat (b.take 2))).1 } else { hi := leNat (b.take 4), lo := if prec = 3 then leNat ((b.drop 4).take 4) else 0 }

/-- The bytes of a work element in the state buffer. -/
def WorkEl.bytes (w : WorkEl) (prec : Nat) : List Byte := leBytes 4 w.hi ++ (if prec = 3 then leBytes 4 w.lo else [])

/-- A work element of the state buffer. -/
def RuUnit.work (u : RuUnit) (prec off : Nat) : WorkEl :=
  { hi := leNat (memRead u.buf off 4), lo := if prec = 3 then leNat (memRead u.buf (off + 4) 4) else 0 }

/-- step(a, h, u): one fused step, or the compensated one of R380. -/
def ruStep (prec a : Nat) (h : WorkEl) (u : Nat) : WorkEl × Fl :=
  if prec = 3 then
    let p := fmul a h.hi
    let pe := ffma a h.hi (fneg p.1)
    let q1 := fadd u pe.1
    let q := ffma a h.lo q1.1
    let x := fadd p.1 q.1
    let bv := fsub x.1 p.1
    let av := fsub x.1 bv.1
    let l1 := fsub p.1 av.1
    let l2 := fsub q.1 bv.1
    let l := fadd l1.1 l2.1
    ({ hi := x.1, lo := l.1 }, [p.2, pe.2, q1.2, q.2, x.2, bv.2, av.2, l1.2, l2.2, l.2].foldl Fl.or {})
  else
    let r := ffma a h.hi u
    ({ hi := r.1 }, r.2)

/-! ## Flags and status -/

/-- Raise flags of the unit (R383). -/
def ruFlags (core : Nat) (f : Fl) (s : State) : State := orReg (R.ruFlags core) f.mask s

/-- RUn_STATUS follows the waiting operations. -/
def ruSync (core : Nat) (s : State) : State :=
  let u := (s.engines core).ru
  let w := !u.gates.isEmpty
  ((s.setBit (F.ruStatusGateWaiting core) w).setBit (F.ruStatusGateBusy core) w).setBit (F.ruStatusBusy core) w

/-- Count corrected errors, and fault on an uncorrectable one (R391). -/
def ruChecked (core : Nat) (u : Upset) (k : State → State) (s : State) : State :=
  match u.fatal.filter (fun c => [1, 2, 3, 7].contains c) with
  | some c => ruFault core c s
  | none =>
    let s := if u.regCorr = 0 then s else s.count (F.ruEccBufCorr core) u.regCorr
    k (if u.storeCorr = 0 then s else s.count (F.ruEccTableCorr core) u.storeCorr)

/-! ## Moving state -/

/-- One member's step with its stream; a token that names none faults with MEMBER_RANGE, and state not in the pool, for a valid
member, with the pool's TOKEN fault; of a stream that has left, sections not fetched yet are passed over (log entry 100). `n` bytes at `o` of the part are what the operation touches. -/
def withPart (core : Nat) (m : MemberRow) (o n : Nat) (k : Stream → Nat → State → State) (s : State) : State :=
  if s.failStopped then s
  else match s.tokenStream core m with
    | none => ruFault core 6 s
    | some x =>
      let b := s.partBase x (m.token % 2 == 1) + o
      if m.valid && !x.inPoolRange b n then (if s.leftDuring core (m.token / 2) then s else tpFault 3 s) else k x b s

/-- RU_SLOAD (R355). -/
def stateLoad (core : Nat) (r : RuRec) (s : State) : State :=
  let z := storeSize r.prec
  (List.range r.rows).foldl (fun s i =>
    withPart core (s.memberRow core i) r.stateOff (r.elems * z) (fun x b s =>
      let u := (s.engines core).ru
      let raw := s.allocBytes x b (r.elems * z)
      let ws := (List.range r.elems).flatMap (fun j => (widenEl r.prec (raw.drop (j * z))).bytes r.prec)
      let s := s.setRu core { u with buf := memWrite u.buf (r.bufOff + i * r.elems * workSize r.prec) ws }
      s.addPair (R.ruPoolBytes core) (r.elems * z)) s) s

/-- RU_SSTORE (R356, R376): nothing is written for a member that is not valid. -/
def stateStore (core : Nat) (r : RuRec) (s : State) : State :=
  let z := storeSize r.prec
  (List.range r.rows).foldl (fun s i =>
    let m := s.memberRow core i
    if !m.valid then s
    else withPart core m r.stateOff (r.elems * z) (fun x b s =>
      let u := (s.engines core).ru
      let es := (List.range r.elems).map (fun j =>
        storeEl r.prec (drawOf m.seed r.layer m.chunk r.tPos (r.stateOff / 2 + j)) (u.work r.prec (r.bufOff + (i * r.elems + j) * workSize r.prec)))
      let s := putAlloc x b (es.flatMap (fun e => e.1)) s
      let s := ruFlags core ((es.map (fun e => e.2.1)).foldl Fl.or {}) s
      let s := (s.addPair (R.ruStored core) r.elems).addPair (R.ruSrDraws core) (es.filter (fun e => e.2.2.1)).length
      (s.addPair (R.ruSrAway core) (es.filter (fun e => e.2.2.2)).length).addPair (R.ruPoolBytes core) (r.elems * z)) s) s

/-! ## Gate pipeline (R358 to R362) -/

/-- One cell unit: new state, output and flags. The lanes are i f g o, or r z n_x n_h. -/
def cellOf (ts : Tbl (List Byte)) (gru : Bool) (prec a b c d : Nat) (h : WorkEl) : WorkEl × Nat × Fl :=
  let sg := actOf (slotTable ts 0)
  let th := actOf (slotTable ts 1)
  if gru then
    let r := sg a
    let m := ffma r.1 d c
    let nn := th m.1
    let zz := sg b
    let uu := ffma (fneg zz.1) nn.1 nn.1
    let x := ruStep prec zz.1 h uu.1
    (x.1, x.1.hi, [r.2, m.2, nn.2, zz.2, uu.2, x.2].foldl Fl.or {})
  else
    let i := sg a
    let g := th c
    let p := fmul i.1 g.1
    let f := sg b
    let x := ruStep prec f.1 h p.1
    let o := sg d
    let t := th x.1.hi
    let y := fmul o.1 t.1
    (x.1, y.1, [i.2, g.2, p.2, f.2, x.2, o.2, t.2, y.2].foldl Fl.or {})

/-- Output values converted to OUT_FMT (R331, R332): their bytes and flags. An MX format takes a shared scale per 32 of them; the
scale bytes have no place in memory (log entry 113). -/
def hPack (fmt : Nat) (xs : List Nat) : List Byte × Fl :=
  let p := packRow fmt false true [] (xs.map some)
  (p.1.take (fmtBytes fmt xs.length), p.2.2)

/-- A lane as the gate pipeline takes it in: an INT32 one converted (R309), with the flags that raises. -/
def gateLane (row : List (Bool × Nat)) (l : Nat) : Nat × Fl :=
  let x := row.getD l (false, 0)
  if x.1 then ofInt32 x.2 else (x.2, {})

/-- RU_GATE over the rows the matrix engine delivers. -/
def gateRows (core : Nat) (r : RuRec) (rows : List (List (Bool × Nat))) (s : State) : State :=
  ((List.range rows.length).zip rows).foldl (fun s p =>
    let u := (s.engines core).ru
    let w := workSize r.prec
    let v := fun (l : Nat) => (gateLane p.2 l).1
    let out := (List.range r.units).map (fun q =>
      cellOf u.tables r.gru r.prec (v (4 * q)) (v (4 * q + 1)) (v (4 * q + 2)) (v (4 * q + 3)) (u.work r.prec (r.bufOff + (p.1 * r.units + q) * w)))
    let s := s.setRu core { u with buf := memWrite u.buf (r.bufOff + p.1 * r.units * w) (out.flatMap (fun o => o.1.bytes r.prec)) }
    let h := hPack r.outFmt (out.map (fun o => o.2.1))
    let s := pokeSpad core (r.dst + p.1 * r.dStride) h.1 s
    if (s.memberRow core p.1).valid then
      ruFlags core (((List.range (4 * r.units)).map (fun l => (gateLane p.2 l).2)).foldl Fl.or ((out.map (fun o => o.2.2)).foldl Fl.or h.2)) s
    else s) s

/-! ## Scan unit (R363 to R365) -/

/-- Values of one segment of at most eight positions, from the value before it: (a, u) pairs in order. -/
def segmentOf (hin : Nat) : List (Nat × Nat) → Nat → Nat → Fl → List Nat × Fl
  | [], _, _, f => ([], f)
  | (a, u) :: rest, p, v, f =>
    let p' := fmul p a
    let v' := ffma a v u
    let h := ffma p'.1 hin v'.1
    let (hs, g) := segmentOf hin rest p'.1 v'.1 (((f.or p'.2).or v'.2).or h.2)
    (h.1 :: hs, g)

/-- A segment begins with P = a and V = u, with no rounding. -/
def segmentRun (hin : Nat) (xs : List (Nat × Nat)) : List Nat × Fl :=
  match xs with
  | [] => ([], {})
  | (a, u) :: rest =>
    let h := ffma a hin u
    let (hs, f) := segmentOf hin rest a u h.2
    (h.1 :: hs, f)

/-- The scan of one element over its positions for PREC 0 to 2. The first argument is the number of segments. -/
def scanNarrow : Nat → Nat → List (Nat × Nat) → List Nat × Fl
  | 0, _, _ => ([], {})
  | k + 1, hin, xs =>
    let (hs, f) := segmentRun hin (xs.take 8)
    let (t, g) := scanNarrow k (hs.getLastD hin) (xs.drop 8)
    (hs ++ t, f.or g)

/-- The scan of one element strictly in sequence, for PREC 3: every value and the last. -/
def scanComp : WorkEl → List (Nat × Nat) → List Nat × WorkEl × Fl
  | h, [] => ([], h, {})
  | h, (a, u) :: rest =>
    let (h', f) := ruStep 3 a h u
    let (t, l, g) := scanComp h' rest
    (h'.hi :: t, l, f.or g)

/-- RU_SCAN. -/
def scanRun (core : Nat) (r : RuRec) (s : State) : State :=
  let kin := elemBits r.inFmt / 8
  let w := workSize r.prec
  (List.range r.rows).foldl (fun s i =>
    let u := (s.engines core).ru
    let at_ := fun (base t e : Nat) => toFp r.inFmt (leNat (s.spadBytes core (base + i * r.sStride + t * r.pStride + e * kin) kin))
    let res := (List.range r.elems).map (fun e =>
      let ins := (List.range r.tPos).map (fun t => (at_ r.src t e, at_ r.src2 t e))
      let f0 := ins.foldl (fun (f : Fl) x => (f.or x.1.2).or x.2.2) {}
      let xs := ins.map (fun x => (x.1.1, x.2.1))
      let h := u.work r.prec (r.bufOff + (i * r.elems + e) * w)
      if r.prec = 3 then
        let (hs, l, f) := scanComp h xs
        (hs, l, f0.or f)
      else
        let (hs, f) := scanNarrow (ceilDiv r.tPos 8) h.hi xs
        (hs, { hi := hs.getLastD h.hi }, f0.or f))
    let s := s.setRu core { u with buf := memWrite u.buf (r.bufOff + i * r.elems * w) (res.flatMap (fun x => x.2.1.bytes r.prec)) }
    let h := hPack r.outFmt (if r.outAll then (List.range r.tPos).flatMap (fun t => res.map (fun x => x.1.getD t 0)) else res.map (fun x => x.1.getLastD 0))
    let s := pokeSpad core (r.dst + i * r.dStride) h.1 s
    if (s.memberRow core i).valid then ruFlags core ((res.map (fun x => x.2.2)).foldl Fl.or h.2) s else s)
    (s.addPair (R.ruElempos core) (r.rows * r.elems * r.tPos))

/-! ## Toeplitz images (R366) and rings (R368 to R371) -/

/-- Bytes of a tile image by format (R277). -/
def tileBytes (fmt : Nat) : Nat := if fmt = 7 then 139264 else if isMx fmt then 135168 else 131072

/-- RU_TOEP: the image is zero where no tap falls. -/
def toeplitz (core : Nat) (r : RuRec) (s : State) : State :=
  let k := elemBits r.inFmt / 8
  let line := if k = 2 then 1024 else 512
  let d := signedOf 32 r.delta
  let s0 := s
  let s := unpoison core r.dst 131072 (s.zeroMem (spadPlace core + r.dst) 131072)
  (List.range (128 * density r.inFmt)).foldl (fun (s : State) (row : Nat) =>
    (List.range 512).foldl (fun (s : State) (col : Nat) =>
      let j : Int := d + (col : Int) - (row : Int)
      if 0 ≤ j ∧ j < (r.elems : Int) then s.poke (spadPlace core + r.dst + row * line + col * k) (s0.spadBytes core (r.src + j.toNat * k) k) else s) s) s

/-- Where a unit of a ring lies in the part: past the header, by plane and slot (R368). -/
def ringSlot (r : RuRec) (p v : Nat) : Nat := 16 + p * r.elems * r.unitBytes + v % max 1 r.elems * r.unitBytes

/-- Bytes a ring takes. -/
def ringBytes (r : RuRec) : Nat := 16 + r.units * r.elems * r.unitBytes

/-- RU_RING GATHER (R369, R371, R384). -/
def ringGather (core : Nat) (r : RuRec) (s : State) : State :=
  (List.range r.rows).foldl (fun s i =>
    let m := s.memberRow core i
    withPart core m r.stateOff (ringBytes r) (fun x b s =>
      let n := leNat (s.allocBytes x b 8)
      let s := (List.range r.units).foldl (fun s p =>
        let bs := (List.range r.elems).flatMap (fun q =>
          if n + q < r.elems then List.replicate r.unitBytes 0 else s.allocBytes x (b + ringSlot r p (n + q - r.elems)) r.unitBytes)
        pokeSpad core (r.dst + i * r.dStride + p * r.pStride) bs s) s
      let s := s.addPair (R.ruPoolBytes core) (ringBytes r)
      if r.hold && m.valid then
        let a := r.members + 32 * i + 4
        let old := s.spadNat core a 1
        pokeSpad core a [BitVec.ofNat 8 (old % 2 + old / 4 * 4 + (if n < r.elems then 2 else 0))] s
      else s) s) s

/-- RU_RING APPEND (R370). -/
def ringAppend (core : Nat) (r : RuRec) (s : State) : State :=
  (List.range r.rows).foldl (fun s i =>
    let m := s.memberRow core i
    if !m.valid then s
    else withPart core m r.stateOff (ringBytes r) (fun x b s =>
      let n := leNat (s.allocBytes x b 8)
      let k := min r.count r.elems
      let s := (List.range r.units).foldl (fun s p =>
        (List.range k).foldl (fun s q =>
          let j := r.count - k + q
          putAlloc x (b + ringSlot r p (n + j)) (s.spadBytes core (r.src + i * r.sStride + p * r.pStride + j * r.unitBytes) r.unitBytes) s) s) s
      (putAlloc x b (leBytes 8 (n + r.count)) s).addPair (R.ruPoolBytes core) (16 + r.units * k * r.unitBytes)) s) s

/-! ## Issue and order (R382) -/

/-- The scratchpad ranges an operation reads and writes. -/
def RuRec.ranges (r : RuRec) : List (Nat × Nat) × List (Nat × Nat) :=
  let kin := elemBits r.inFmt / 8
  let table := (r.members, 32 * r.rows)
  match r.op with
  | 0x31 => ([table], [])
  | 0x32 => ([table], [])
  | 0x33 => ([table], rowRanges r.dst r.dStride r.rows (fmtBytes r.outFmt r.units))
  | 0x34 =>
    let ins := fun (b : Nat) => (List.range r.rows).flatMap (fun i => rowRanges (b + i * r.sStride) r.pStride r.tPos (r.elems * kin))
    (table :: (ins r.src ++ ins r.src2), rowRanges r.dst r.dStride r.rows (fmtBytes r.outFmt ((if r.outAll then r.tPos else 1) * r.elems)))
  | 0x35 => ([(r.src, r.elems * kin)], [(r.dst, 131072)])
  | 0x36 =>
    if r.append then (table :: (List.range r.rows).flatMap (fun i => rowRanges (r.src + i * r.sStride) r.pStride r.units (r.count * r.unitBytes)), [])
    else ([table], (if r.hold then [table] else []) ++ (List.range r.rows).flatMap (fun i => rowRanges (r.dst + i * r.dStride) r.pStride r.units (r.elems * r.unitBytes)))
  | 0x37 => ([(r.src, 4128)], [])
  | _ => ([], [])

/-- State-buffer ranges a recurrence record reads and writes (R355, R356, R361, R363). -/
def RuRec.bufs (r : RuRec) : List (Nat × Nat) × List (Nat × Nat) :=
  let w := workSize r.prec
  match r.op with
  | 0x31 => ([], [(r.bufOff, r.rows * r.elems * w)])
  | 0x32 => ([(r.bufOff, r.rows * r.elems * w)], [])
  | 0x33 => ([(r.bufOff, r.rows * r.units * w)], [(r.bufOff, r.rows * r.units * w)])
  | 0x34 => ([(r.bufOff, r.rows * r.elems * w)], [(r.bufOff, r.rows * r.elems * w)])
  | _ => ([], [])

/-- Bytes of the state buffer (R350). -/
def stateBuffer : Nat := 0x20_0000

/-- Field values outside what verification admits (R350, R351, R391 OP_RANGE): codes, ranges, alignments, and state-buffer bytes past
its end. -/
def RuRec.bad (r : RuRec) : Bool :=
  let members := r.op == 0x31 || r.op == 0x32 || r.op == 0x33 || r.op == 0x34 || r.op == 0x36
  let outBad := !outFmtOk r.outFmt
  (members && (decide (r.rows = 0 ∨ 1024 < r.rows ∨ r.members % 32 ≠ 0))) ||
  (r.op == 0x33 && (decide (r.units = 0 ∨ 128 < r.units) || outBad)) ||
  (r.op == 0x34 && (decide (r.tPos = 0) || outBad || !inFmtOk r.inFmt)) ||
  (r.op == 0x35 && (decide (3 < r.inFmt ∨ r.elems = 0 ∨ 65536 < r.elems))) ||
  (r.op == 0x36 && (decide (r.units = 0 ∨ 256 < r.units ∨ r.elems = 0 ∨ 65536 < r.elems ∨ r.unitBytes % 2 = 1 ∨ r.unitBytes = 0) || (r.append && r.count == 0))) ||
  ((r.op == 0x33 || r.op == 0x34 || r.op == 0x35 || r.op == 0x36) && r.dst % 64 != 0) ||
  (r.bufs.1 ++ r.bufs.2).any (fun b => decide (stateBuffer < b.1 + b.2)) ||
  decide (r.stateOff % 64 ≠ 0 ∨ r.bufOff % 64 ≠ 0 ∨ r.sStride % 64 ≠ 0 ∨ r.dStride % 64 ≠ 0)

/-- An operation other than RU_GATE and RU_SYNC runs, on the copy of the member table it takes as it starts. -/
def ruRun (core : Nat) (r : RuRec) (u : Upset) (s : State) : State :=
  if r.bad then ruFault core 5 s
  else ruChecked core u (guarded core r.ranges.1 r.ranges.2 u (fun s =>
    match r.op with
    | 0x31 => stateLoad core r (takeTable core r s)
    | 0x32 => stateStore core r (takeTable core r s)
    | 0x34 => scanRun core r (takeTable core r s)
    | 0x35 => toeplitz core r s
    | 0x36 => if r.append then ringAppend core r (takeTable core r s) else ringGather core r (takeTable core r s)
    | 0x37 =>
      let x := (s.engines core).ru
      s.setRu core { x with tables := tset x.tables r.tslot (s.spadBytes core r.src 4128) }
    | _ => s)) s

/-- Offsets of a recurrence record made absolute (R563). -/
def RuRec.reloc (r : RuRec) (f : Nat → Nat) : RuRec := { r with members := f r.members, src := f r.src, src2 := f r.src2, dst := f r.dst }

/-- An operation the sequencer issues: an RU_GATE waits for its rows, any other runs (R358, R382). -/
def ruIssue (core : Nat) (r : RuRec) (u : Upset) (s : State) : State :=
  let x := (s.engines core).ru
  ruSync core (if r.op = 0x33 then s.setRu core { x with gates := x.gates ++ [(r, u)] } else if r.op = 0x38 then s else ruRun core r u s)

/-- The sequencer issues the recurrence record it stands at, when `ok` says it is the operation the command names. An RU_SYNC holds it
while an RU_GATE waits: every other operation has completed when the next issues (R382, WAIT_SYNC of SQn_STATUS). -/
def issueRu (core : Nat) (ok : RuRec → Bool) (u : Upset) (s : State) : State :=
  match s.nextRec core with
  | some (_, c, q, .ru r) =>
    if ok r && !(r.op == 0x38 && !(s.engines core).ru.gates.isEmpty) then
      ruIssue core (r.reloc (s.placer c core)) u (advance core q (.ru r) s)
    else s
  | _ => s

/-- Rows the matrix engine delivers with DEST = GATE (R358, R390). -/
def ruFeed (core : Nat) (rows : List (List (Bool × Nat))) (n : Nat) (s : State) : State :=
  let x := (s.engines core).ru
  match x.gates with
  | (r, u) :: rest =>
    if r.rows ≠ rows.length ∨ n ≠ 4 * r.units then ruFault core 4 s
    else if r.bad then ruFault core 5 s
    else ruSync core (ruChecked core u (guarded core r.ranges.1 r.ranges.2 u (fun s => gateRows core r rows (takeTable core r s))) (s.setRu core { x with gates := rest }))
  | [] => ruFault core 4 s

/-! ## The commands -/

/-- RU_SLOAD. -/
def execRuSload (core : Fin 8) (u : Upset) (s : State) : Host.Outcome State Fault Refusal := .next (issueRu core (fun r => r.op == 0x31) u s)
/-- RU_SSTORE. -/
def execRuSstore (core : Fin 8) (u : Upset) (s : State) : Host.Outcome State Fault Refusal := .next (issueRu core (fun r => r.op == 0x32) u s)
/-- RU_GATE: it waits for its rows. -/
def execRuGate (core : Fin 8) (u : Upset) (s : State) : Host.Outcome State Fault Refusal := .next (issueRu core (fun r => r.op == 0x33) u s)
/-- RU_SCAN. -/
def execRuScan (core : Fin 8) (u : Upset) (s : State) : Host.Outcome State Fault Refusal := .next (issueRu core (fun r => r.op == 0x34) u s)
/-- RU_TOEP. -/
def execRuToep (core : Fin 8) (u : Upset) (s : State) : Host.Outcome State Fault Refusal := .next (issueRu core (fun r => r.op == 0x35) u s)
/-- RU_RING with APPEND = 0. -/
def execRuRingGather (core : Fin 8) (u : Upset) (s : State) : Host.Outcome State Fault Refusal := .next (issueRu core (fun r => r.op == 0x36 && !r.append) u s)
/-- RU_RING with APPEND = 1. -/
def execRuRingAppend (core : Fin 8) (u : Upset) (s : State) : Host.Outcome State Fault Refusal := .next (issueRu core (fun r => r.op == 0x36 && r.append) u s)
/-- RU_TLOAD. -/
def execRuTload (core : Fin 8) (u : Upset) (s : State) : Host.Outcome State Fault Refusal := .next (issueRu core (fun r => r.op == 0x37) u s)
/-- RU_SYNC. -/
def execRuSync (core : Fin 8) (s : State) : Host.Outcome State Fault Refusal := .next (issueRu core (fun r => r.op == 0x38) {} s)

end Sys2Proof.Machine
end

