-- ==== Sys2Proof/Machine/StreamCmds.lean ====
section
/-! DEFINITION. The stream commands of the submission rings: open, close, ebb input, standing retry (R96, R101, R240 to R242). -/

namespace Sys2Proof.Machine

/-- NOP: it does nothing, and its FENCE makes it a barrier (R239, R230). -/
def execNop (q : Fin 65) (s : State) : Host.Outcome State Fault Refusal :=
  .next (beginCmd q 0x00 false (.ok []) (fun c _ s => completeCmd q c.id St.ok 0 0 0 s) s)

/-- STREAM_OPEN: `d` is what the read of the parameter block returned (R58, R242). A refusal is recorded as STREAM_REFUSED for
the partition that asked (R87, R94). It waits until the standing streams have been opened (R99). -/
def execStreamOpen (q : Fin 65) (d : HostRead) (s : State) : Host.Outcome State Fault Refusal :=
  .next (if s.standingDue && !s.failStopped then s else beginCmd q 0x10 true d (fun c b s =>
    let p := parOf b
    match openStream p (.host q) 0 none false s with
    | (.ok n, s) => completeCmd q c.id St.ok 0 p.handle n s
    | (.error r, s) => completeCmd q c.id St.refused r p.handle 0 (emit Ev.streamRefused (qPart q) 9 0 p.handle r 0 s)) s)

/-- The W chunks of silence that follow a DRAIN under look-ahead (R373), from a chunk and the end of the one before it. -/
def silence (w first end_ per : Nat) : List (Nat × Nat) := (List.range w).map (fun i => (first + i, end_ + (i + 1) * per))

/-- Ebb input of a stream that is still on its way is discarded with the rest: its EBB_INPUT completes, and the block is not held (R96, R241). -/
def dropInput (q h : Nat) (s : State) : State :=
  let x := s.queue q
  s.setQueue q { x with cmds := x.cmds.map (fun c => if c.begun && c.opcode == 0x13 && c.handle == h && c.verdict.isNone then { c with verdict := some St.ok } else c) }

/-- A DRAIN takes effect on a stream (R66, R96): unsynthesised ebb input is discarded, the partial flood chunk of a port-fed stream
counts as complete now, padded with silence, and under look-ahead W chunks of silence follow it. -/
def drainStream (d : Nat) (s : State) : State :=
  match s.stream d with
  | none => s
  | some x =>
    if x.state = .idle ∨ x.state = .running then
      let f := max 1 (s.framesOf x.par)
      let landed := (s.port x.par.port).landed
      let part := !x.par.hostFed && x.par.floodEn && decide (landed > x.nextIn * f)
      let next := if part then x.nextIn + 1 else x.nextIn
      let w := if x.par.floodEn then ((s.schedFor x.par.part x.par.floodSched false).map Schedule.window).getD 0 else 0
      let tail := silence w next (if part then s.time else x.lastEnd) (periodNs x.par.period)
      let s := dropInput x.par.part x.par.handle (countStreams (s.setStream d { x with
        state := .draining
        ended := x.ended ++ (if part then [(x.nextIn, s.time)] else []) ++ (if x.par.hostFed then [] else tail)
        ready := x.ready ++ (if x.par.hostFed then tail else [])
        nextIn := next + w
        silent := if w = 0 then none else some next
        tailAt := if x.par.hostFed then none else some landed
        ebbIn := x.ebbIn.filter (fun b => b.begun && x.ebb.stepping) }))
      let s := followStream x.par s
      if x.ebb.stepping then s else endUtterance d s
    else s

/-- A close of a stream with its mode: 0 DRAIN, 1 ABORT. -/
def closeStream (d mode q id : Nat) (s : State) : State :=
  let s := s.modStream d (fun x => { x with closing := some (max mode (x.closing.getD 0)), closeCmd := x.closeCmd ++ [(q, id)] })
  if mode = 0 then drainStream d s else s

/-- STREAM_CLOSE with the mode its ARG0[0] names; `mode` is the row's. A command of the other mode is not this row's. -/
def beginClose (q mode : Nat) (s : State) : State :=
  match s.nextCmd q with
  | some c =>
    if c.arg0 % 2 ≠ mode then s
    else beginCmd q 0x11 false (.ok []) (fun c _ s =>
      match s.ownHandle q c.handle with
      | some (d, _) => closeStream d mode q c.id s
      | none => completeCmd q c.id St.handle 0 c.handle 0 s) s
  | none => s

/-- STREAM_CLOSE_DRAIN. -/
def execStreamCloseDrain (q : Fin 65) (s : State) : Host.Outcome State Fault Refusal := .next (beginClose q 0 s)

/-- STREAM_CLOSE_ABORT. -/
def execStreamCloseAbort (q : Fin 65) (s : State) : Host.Outcome State Fault Refusal := .next (beginClose q 1 s)

/-- A stream takes ebb input: ebb enabled, and not closing, FAILED or being transferred away (R628; log entry 8). -/
def Stream.takesEbb (x : Stream) : Bool :=
  x.par.ebbEn && x.closing.isNone && (x.state == .admitWait || x.state == .idle || x.state == .running)

/-- What the checks of an EBB_INPUT find when it begins (R249): none when its block will be held. -/
def State.ebbVerdict (s : State) (q : Nat) (c : QCmd) : Option Nat :=
  match s.ownHandle q c.handle with
  | none => some St.handle
  | some (_, x) => if !x.leased then some St.handle else if c.len > 65536 then some St.format else if !x.takesEbb then some St.state else none

/-- EBB_INPUT begins: its block is read by the command mover and arrives later (R240). A check that fails is answered once the read has
succeeded (R249). -/
def execEbbInput (q : Fin 65) (s : State) : Host.Outcome State Fault Refusal :=
  .next (beginCmd q 0x13 false (.ok []) (fun c _ s =>
    match s.ebbVerdict q c with
    | some st => holdVerdict q c.id st s
    | none => s) s)

/-- The data of an EBB_INPUT has arrived: the stream holds the block (R240). -/
def ebbArrived (q : Nat) (c : QCmd) (b : List Byte) (s : State) : State :=
  match s.ownHandle q c.handle with
  | none => completeCmd q c.id St.handle 0 c.handle 0 s
  | some (d, _) =>
    let blk : EbbBlock := { data := b.take c.len, newUtt := c.arg0 % 2 == 1, doorbell := c.doorbell, begun := false }
    completeCmd q c.id St.ok 0 c.handle 0 (s.modStream d (fun x => { x with ebbIn := x.ebbIn ++ [blk] }))

/-- EBB_CANCEL (R241): blocks not begun are discarded; it completes at the end of the run in progress. Between runs the synthesis in
progress has ended with the last one, and it completes now. A stream without ebb has none to cancel: CMD_STATE (log entry 8). -/
def execEbbCancel (q : Fin 65) (s : State) : Host.Outcome State Fault Refusal :=
  .next (beginCmd q 0x14 false (.ok []) (fun c _ s =>
    match s.ownHandle q c.handle with
    | none => completeCmd q c.id St.handle 0 c.handle 0 s
    | some (d, x) =>
      if !x.leased then completeCmd q c.id St.handle 0 c.handle 0 s
      else if !x.par.ebbEn then completeCmd q c.id St.state 0 c.handle 0 s
      else
        let s := dropInput q c.handle (s.setStream d { x with ebbIn := x.ebbIn.filter (fun b => b.begun && x.ebb.stepping) })
        if x.ebb.stepping then s.modStream d (fun x => { x with cancelCmd := x.cancelCmd ++ [(q.val, c.id)] })
        else completeCmd q c.id St.ok 0 c.handle 0 (endUtterance d s)) s)

/-- STREAM_STANDING_RETRY (R101). -/
def execStreamStandingRetry (q : Fin 65) (s : State) : Host.Outcome State Fault Refusal :=
  .next (if s.standingDue && !s.failStopped then s else beginCmd q 0x15 false (.ok []) (fun c _ s =>
    match s.strm.standing.find? (fun r => r.index == c.arg0 % 256) with
    | none => completeCmd q c.id St.handle 0 0 0 s
    | some r =>
      let h := (standingPar r.raw s.bay s.standingGen).handle
      if s.strm.table.any (fun x => x.2.par.index == h % 65536) || s.fld F.fabStatusStage == 4 then completeCmd q c.id St.state 0 h 0 s
      else match openStanding r s with
        | (.ok n, s) => completeCmd q c.id St.ok 0 h n s
        | (.error e, s) => completeCmd q c.id St.refused e h 0 s) s)

end Sys2Proof.Machine
end

