-- ==== Sys2Proof/Machine/Sections.lean ====
section
/-! DEFINITION. The swap and checkpoint engines on state sections and whole allocations (R418 to R434, R442): fetch, residency, release,
write-back, checkpoint reads and the record sent. -/

namespace Sys2Proof.Machine

/-! ## CRC-32C (R429) -/

/-- One bit of the reflected CRC-32C. -/
def crc32Bit (c : Nat) : Nat := if c % 2 = 1 then Nat.xor (c / 2) 0x82F63B78 else c / 2

/-- CRC-32C of bytes. -/
def crc32c (bs : List Byte) : Nat :=
  Nat.xor (bs.foldl (fun c b => crc32Bit (crc32Bit (crc32Bit (crc32Bit (crc32Bit (crc32Bit (crc32Bit (crc32Bit (Nat.xor c b.toNat))))))))) 0xFFFFFFFF) 0xFFFFFFFF

/-! ## Sections of a stream's part -/

/-- A direction of a stream. -/
def Stream.dir (x : Stream) (ebb : Bool) : Dirn := if ebb then x.ebb else x.flood

/-- Change a direction of a stream. -/
def Stream.setDir (x : Stream) (ebb : Bool) (d : Dirn) : Stream := if ebb then { x with ebb := d } else { x with flood := d }

/-- The schedule of a direction of a stream. -/
def State.dirSched (s : State) (x : Stream) (ebb : Bool) : Option Schedule :=
  tfind s.disp.scheds (if ebb then x.par.ebbSched else x.par.floodSched)

/-- Allocation indices of the granules of a section. -/
def State.sectIdx (s : State) (x : Stream) (ebb : Bool) (k : Section) : List Nat :=
  (List.range k.grans).map (fun i => s.partBase x ebb / 16384 + k.first + i)

/-- Section `k` of a cohort's schedule. -/
def State.sectionOf (s : State) (c : Cohort) (k : Nat) : Option Section := (tfind s.disp.scheds c.sched).bind (fun h => h.sections[k]?)

/-- The stream takes part in its run's section transfers: it has joined, and its state is not whole-resident in the free share (R420,
R423). -/
def Stream.bySection (x : Stream) : Bool :=
  x.leased && !x.inShare && (x.state == .idle || x.state == .running || x.state == .draining || x.state == .migrating)

/-- The members of a cohort that take part. -/
def State.sectMembers (s : State) (c : Cohort) : List Nat :=
  c.members.filter (fun d => (s.stream d).any Stream.bySection)

/-- A move the engines have under way. -/
def State.moving (s : State) (m : Move) : Bool := s.tide.moves.contains m

/-- Begin a move. -/
def beginMove (m : Move) (s : State) : State := if s.moving m then s else { s with tide := { s.tide with moves := s.tide.moves ++ [m] } }

/-- A move is over. -/
def endMove (m : Move) (s : State) : State := { s with tide := { s.tide with moves := s.tide.moves.filter (· ≠ m) } }

/-! ## Fetch (R418, R422) -/

/-- One member's section begins to be fetched: it takes granules for it. Where they would take its partition past POOL_GRANULES, its IDLE
streams are evicted first, and the fetch waits until one of them has gone (R422). -/
def fetchMember (ebb : Bool) (k : Nat) (g : Section) (s : State) (d : Nat) : State :=
  match s.stream d with
  | none => s
  | some x =>
    let idx := (s.sectIdx x ebb g).filter (fun i => (tfind x.grans i).isNone)
    if idx.isEmpty then s
    else if s.quotaFull x.par.part idx.length then makeQuota x.par.part idx.length (beginMove { desc := d, ebb := ebb, sect := k, kind := 6 } s)
    else
      let (gs, s) := takeGranules idx.length (endMove { desc := d, ebb := ebb, sect := k, kind := 6 } s)
      beginMove { desc := d, ebb := ebb, sect := k, kind := 0 } (s.setStream d { x with grans := (idx.zip gs).foldl (fun t p => tset t p.1 p.2) x.grans })

/-- The section a move names, in its stream's schedule. -/
def State.moveSect (s : State) (m : Move) : Option (Stream × Section) :=
  (s.stream m.desc).bind (fun x => ((s.dirSched x m.ebb).bind (fun h => h.sections[m.sect]?)).map (fun g => (x, g)))

/-- The fetches that wait for a quota are tried again. -/
def retryFetches (s : State) : State :=
  (s.tide.moves.filter (fun m => m.kind == 6)).foldl (fun s m => match s.moveSect m with
    | some (_, g) => fetchMember m.ebb m.sect g s m.desc
    | none => endMove m s) s

/-- A stream has a step to run: a complete chunk, or ebb input. -/
def Stream.hasWork (x : Stream) : Bool := !x.ready.isEmpty || (x.par.floodEn && !x.ended.isEmpty) || !x.ebbIn.isEmpty

/-- The prefetch of a whole allocation begins when its granules are free; otherwise IDLE streams are evicted for it (R422). -/
def beginPrefetch (d : Nat) (s : State) : State :=
  match s.stream d with
  | none => s
  | some x =>
    if !x.leased || x.inShare || !x.grans.isEmpty || x.pages.isEmpty || !x.hasWork then s
    else if s.roomFor x.par.part x.par.granules then
      let (gs, s) := takeGranules x.par.granules s
      beginMove { desc := d, ebb := false, sect := 0, kind := 4 } (s.setStream d { x with grans := (List.range gs.length).zip gs, prefetch := true })
    else makeRoom x.par.part x.par.granules s

/-- SECTION_FETCH_START: a planned section fetch of a cohort, or a stream's prefetch. -/
def fetchStart (t : SwapItem) (s : State) : State :=
  match t with
  | .planned i k => match tfind s.strm.cohorts i with
    | some c => match s.sectionOf c k with
      | some g => (s.sectMembers c).foldl (fetchMember c.ebb k g) s
      | none => s
    | none => s
  | .whole d => beginPrefetch d s

/-! ## Arrival (R420, R424, R442) -/

/-- Swap pages of a stream, by allocation index, that hold an uncorrectable error. -/
def State.badPages (s : State) (x : Stream) (idx : List Nat) : List Nat :=
  idx.flatMap (fun i => match x.pages[i]? with | some p => s.badIn (s.pageAddr x.par.part p) 16384 | none => [])

/-- The next step of a stream may start: IDLE goes to RUNNING (R66). -/
def toRunning (d : Nat) (s : State) : State :=
  countStreams (s.modStream d (fun x => if x.state = .idle then { x with state := .running } else x))

/-- Granules of a stream are copied in from its swap pages; an uncorrectable one is an error in carried state. -/
def copyIn (x : Stream) (idx : List Nat) (k : State → State) (s : State) : State :=
  match s.badPages x idx with
  | b :: _ => mcFatal 1 b (noteUe b s)
  | [] => k ((fromSwap x idx s).addPair R.tpSwapIn (idx.length * 16384))

/-- A member's section is resident. -/
def sectionIn (ebb : Bool) (k : Nat) (g : Section) (s : State) (d : Nat) : State :=
  let m : Move := { desc := d, ebb := ebb, sect := k, kind := 0 }
  match s.stream d with
  | some x =>
    if s.failStopped || !s.moving m then s
    else copyIn x (s.sectIdx x ebb g) (fun s => if k = 0 then toRunning d (endMove m s) else endMove m s) s
  | none => s

/-- A whole allocation is resident. -/
def wholeIn (d : Nat) (s : State) : State :=
  let m : Move := { desc := d, ebb := false, sect := 0, kind := 4 }
  match s.stream d with
  | some x =>
    if !s.moving m then s
    else copyIn x (x.grans.map Prod.fst) (fun s => toRunning d (endMove m (s.setStream d { x with resident := true, prefetch := false, lateSwap := false }))) s
  | none => s

/-- SWAP_IN_DONE. -/
def swapInDone (t : SwapItem) (s : State) : State :=
  match t with
  | .planned i k => match tfind s.strm.cohorts i with
    | some c => match s.sectionOf c k with
      | some g => c.members.foldl (sectionIn c.ebb k g) s
      | none => s
    | none => s
  | .whole d => wholeIn d s

/-! ## Release, write-back and checkpoint reads (R418, R425, R428) -/

/-- A checkpoint of a part is due and not sent (R428); without a target none is taken (R433). -/
def State.ckptOwed (s : State) (x : Stream) (ebb : Bool) : Bool :=
  let d := x.dir ebb
  s.tide.target.isSome && d.ckptDue.isSome && d.ckptDue != d.ckptSent

/-- One member's section is released: its write-back begins and, when due, its checkpoint read. -/
def releaseMember (ebb : Bool) (k : Nat) (g : Section) (s : State) (d : Nat) : State :=
  match s.stream d with
  | none => s
  | some x =>
    if (s.sectIdx x ebb g).any (fun i => (tfind x.grans i).isNone) || s.moving { desc := d, ebb := ebb, sect := k, kind := 0 } then s
    else
      let s := beginMove { desc := d, ebb := ebb, sect := k, kind := 1 } s
      if s.ckptOwed x ebb && !(x.dir ebb).ckptWhole && !(x.dir ebb).ckptRead.any (fun r => r.1 == k) then
        beginMove { desc := d, ebb := ebb, sect := k, kind := 2 } (s.setStream d (x.setDir ebb { x.dir ebb with ckptBusy := true }))
      else s

/-- SECTION_RELEASE. -/
def sectionRelease (i k : Nat) (s : State) : State :=
  match tfind s.strm.cohorts i with
  | some c => match s.sectionOf c k with
    | some g => (s.sectMembers c).foldl (releaseMember c.ebb k g) s
    | none => s
  | none => s

/-- Granules of a part's first section are in the pool, or the whole allocation is (R420). -/
def State.partReady (s : State) (d : Nat) (x : Stream) (ebb : Bool) : Bool :=
  x.resident || (match (s.dirSched x ebb).bind (fun h => h.sections[0]?) with
    | some g => (s.sectIdx x ebb g).all (fun i => (tfind x.grans i).isSome) && !s.moving { desc := d, ebb := ebb, sect := 0, kind := 0 }
    | none => false)

/-- A part of a member was prepared for a step that did not come: unless its other part is prepared, or a step is in progress, it is
between steps again (R66, R106). -/
def memberIdle (ebb : Bool) (d : Nat) (s : State) : State :=
  countStreams (s.modStream d (fun x =>
    let other := (if ebb then x.par.floodEn else x.par.ebbEn) && s.partReady d x (!ebb)
    if x.state = .running ∧ !x.flood.stepping ∧ !x.ebb.stepping ∧ !x.resident ∧ !other then { x with state := .idle } else x))

/-- The granules of a section are freed once both its write-back and its checkpoint read have ended (R425). With those of section 0 a
member that has not stepped is prepared no more (R66). -/
def freeSection (ebb : Bool) (k : Nat) (g : Section) (d : Nat) (s : State) : State :=
  match s.stream d with
  | none => s
  | some x =>
    if s.moving { desc := d, ebb := ebb, sect := k, kind := 1 } || s.moving { desc := d, ebb := ebb, sect := k, kind := 2 } || x.inShare then s
    else
      let idx := s.sectIdx x ebb g
      let gone := x.grans.filter (fun p => idx.contains p.1)
      let s := releaseGranules (gone.map Prod.snd) (s.waitIfGoing x.par.part) (s.setStream d { x with grans := x.grans.filter (fun p => !idx.contains p.1) })
      if k = 0 then memberIdle ebb d s else s

/-- One member's write-back ends. -/
def writtenBack (ebb : Bool) (k : Nat) (g : Section) (s : State) (d : Nat) : State :=
  let m : Move := { desc := d, ebb := ebb, sect := k, kind := 1 }
  match s.stream d with
  | some x =>
    if !s.moving m then s
    else
      let s := (toSwap x (s.sectIdx x ebb g) s).addPair R.tpSwapOut (g.grans * 16384)
      freeSection ebb k g d (endMove m s)
  | none => s

/-- SECTION_WRITEBACK_DONE. -/
def writebackDone (i k : Nat) (s : State) : State :=
  match tfind s.strm.cohorts i with
  | some c => match s.sectionOf c k with
    | some g => c.members.foldl (writtenBack c.ebb k g) s
    | none => s
  | none => s

/-- A granule of a stream, by allocation index, that stands in the pool: it has one, and no fetch of it is under way. -/
def State.granHere (s : State) (d : Nat) (x : Stream) (i : Nat) : Option Nat :=
  if s.tide.moves.any (fun m => m.desc == d && (m.kind == 4 || (m.kind == 0 && (s.moveSect m).any (fun y => (s.sectIdx x m.ebb y.2).contains i)))) then none
  else tfind x.grans i

/-- The bytes of granules of a stream by allocation index: from the pool, or from their swap pages (R434). -/
def State.granBytes (s : State) (d : Nat) (x : Stream) (idx : List Nat) : List Byte :=
  idx.flatMap (fun i => match s.granHere d x i with
    | some g => s.peek (granAddr g) 16384
    | none => match x.pages[i]? with
      | some p => s.peek (s.pageAddr x.par.part p) 16384
      | none => List.replicate 16384 0)

/-- A checkpoint record (R429). -/
def ckptRecord (x : Stream) (ebb : Bool) (chunk seq time bay : Nat) (body : List Byte) : List Byte :=
  let tail := x.raw ++ body
  let head := leBytes 4 x.par.handle ++ leBytes 4 x.epoch ++ leBytes 8 chunk ++ leBytes 8 x.seed ++ leBytes 8 seq ++ leBytes 8 time ++
    leBytes 2 (body.length / 16384) ++ leBytes 1 ebb.toNat ++ leBytes 1 bay ++ leBytes 4 (crc32c tail) ++ List.replicate 12 0
  head ++ leBytes 4 (crc32c head) ++ tail

/-- A part's record goes to a bay: CKPT_SEQ advances, the part is in flight (R428). A checkpoint names the chunk it fell due after, a
transfer the last chunk stepped. -/
def sendRecord (d bay : Nat) (ebb transfer remap : Bool) (body : List Byte) (s : State) : State :=
  match s.stream d with
  | none => s
  | some x =>
    let y := x.dir ebb
    let n := if transfer then prev64 y.next else y.ckptDue.getD (prev64 y.next)
    let r := ckptRecord x ebb n (y.ckptSeq + 1) s.time s.bay body
    let s := s.setStream d (x.setDir ebb { y with ckptSeq := y.ckptSeq + 1, ckptLast := if transfer then y.ckptLast else y.ckptSeq + 1, ckptSent := if transfer then y.ckptSent else some n, ckptBusy := false, ckptRead := [] })
    sendMsg (some bay) (some x.par.part) none (.ckptData transfer remap r) (s.addPair R.tpCkptSent r.length)

/-- Every section of a part has been read: its record is sent to the target. -/
def ckptSettle (d : Nat) (ebb : Bool) (s : State) : State :=
  match s.stream d with
  | none => s
  | some x =>
    let n := ((s.dirSched x ebb).map (fun h => h.sections.length)).getD 0
    let rs := (x.dir ebb).ckptRead
    if rs.length < n || n = 0 then s
    else match s.tide.target with
      | some b => flightSync (sendRecord d b ebb false false (rs.flatMap Prod.snd) s)
      | none => s

/-- The read of a whole part, for a step outside a run or for a new target (R434). -/
abbrev wholePart : Nat := 32

/-- One member's checkpoint read of a section ends. Its bytes are of no use when the part is to be read whole (R434). -/
def sectionRead (ebb : Bool) (k : Nat) (g : Section) (s : State) (d : Nat) : State :=
  let m : Move := { desc := d, ebb := ebb, sect := k, kind := 2 }
  match s.stream d with
  | some x =>
    if !s.moving m then s
    else
      let y := x.dir ebb
      if !s.ckptOwed x ebb || y.ckptWhole || s.moving { desc := d, ebb := ebb, sect := wholePart, kind := 2 } then freeSection ebb k g d (endMove m s)
      else
        let s := endMove m (s.setStream d (x.setDir ebb { y with ckptRead := tset y.ckptRead k (s.granBytes d x (s.sectIdx x ebb g)) }))
        ckptSettle d ebb (freeSection ebb k g d s)
  | none => s

/-- A checkpoint read of a whole part begins. -/
def readPart (d : Nat) (ebb : Bool) (s : State) : State :=
  beginMove { desc := d, ebb := ebb, sect := wholePart, kind := 2 } (s.modStream d (fun x => x.setDir ebb { x.dir ebb with ckptBusy := true, ckptWhole := false }))

/-- A whole part has been read: its record is sent. An uncorrectable swap page is an error in carried state. -/
def partRead (d : Nat) (ebb : Bool) (s : State) : State :=
  let m : Move := { desc := d, ebb := ebb, sect := wholePart, kind := 2 }
  match s.stream d with
  | none => s
  | some x =>
    if !s.moving m then s
    else
      let idx := (List.range (s.partGrans x ebb)).map (fun i => s.partBase x ebb / 16384 + i)
      match s.badPages x (idx.filter (fun i => (s.granHere d x i).isNone)) with
      | b :: _ => mcFatal 1 b (noteUe b s)
      | [] =>
        let body := s.granBytes d x idx
        let s := endMove m s
        match s.tide.target with
        | some b => flightSync (sendRecord d b ebb false false body s)
        | none => s.setStream d (x.setDir ebb { x.dir ebb with ckptBusy := false })

/-- CKPT_READ_DONE. -/
def ckptReadDone (t : CkptItem) (s : State) : State :=
  match t with
  | .planned i k => match tfind s.strm.cohorts i with
    | some c => match s.sectionOf c k with
      | some g => c.members.foldl (sectionRead c.ebb k g) s
      | none => s
    | none => s
  | .part d ebb => partRead d ebb s

/-- Half microseconds since the start of an occurrence of a pattern. -/
def State.since (s : State) (p : Pat) : Nat := modSub p.period (s.time / 500) p.start

/-- Members of a run whose section should stand in the pool now and does not: its planned fetch is over, its USE_UNTIL has not come, and
their state stood in the swap area when that fetch was to start (R418, R421). -/
def State.missing (s : State) (c : Cohort) (n k : Nat) (g : Section) : Bool :=
  match c.xfers[n - 1 - k]?, c.xfers[n + (n - 1 - k)]? with
  | some f, some w =>
    decide (f.len ≤ s.since f) && decide (s.since f < modSub f.period w.start f.start) &&
    (s.sectMembers c).any (fun d => (s.stream d).any (fun x => decide (x.homed + s.since f * 500 ≤ s.time) && !x.pages.isEmpty &&
      (s.sectIdx x c.ebb g).any (fun i => (tfind x.grans i).isNone)))
  | _, _ => false

/-- PLAN_MISS: a planned transfer of a section is not complete at its planned time (R421): one under way, one that waits for a quota, or
one that never began. -/
def planMiss (i k : Nat) (s : State) : State :=
  match tfind s.strm.cohorts i with
  | some c =>
    let n := ((tfind s.disp.scheds c.sched).map (fun h => h.sections.length)).getD 0
    if s.tide.moves.any (fun m => c.members.contains m.desc && m.ebb == c.ebb && m.sect == k && (decide (m.kind ≤ 2) || m.kind == 6)) ||
        (s.sectionOf c k).any (s.missing c n k) then tpFault 2 s else s
  | none => s

/-! ## The step boundary (R90, R438) -/

/-- The planned start of the fetch of section `k` of a run, in half microseconds: the fetches of a placement stand latest section first. -/
def Cohort.fetchAt (c : Cohort) (n k : Nat) : Option Pat := c.xfers[n - 1 - k]?

/-- The planned fetches whose start falls at this time begin (R438). -/
def boundaryFetches (s : State) : State :=
  s.strm.cohorts.foldl (fun s c =>
    let n := ((tfind s.disp.scheds c.2.sched).map (fun h => h.sections.length)).getD 0
    ((List.finRange 32).filter (fun k => k.val < n && (c.2.fetchAt n k).any (fun p => modSub p.period (s.time / 500) p.start == 0))).foldl
      (fun s k => fetchStart (.planned c.1 k) s) s) s

/-- The step boundary (R90, R438): runs without members are released; departures, planned section
fetches whose start falls here, then standing opens and joins. A standing stream
opened here is tried as a join here (log entry 99). -/
def stepBoundary (s : State) : State :=
  if !s.ready || s.failStopped || s.fld F.fabStatusStage == 3 then s
  else
    let s := releaseRuns s
    let s := boundaryFetches (departures s.strm.table s)
    let s := if s.strm.standingOpened || s.fld F.fabStatusStage == 4 then s
      else openAllStanding (s.strm.standing.mergeSort (fun a b => a.index ≤ b.index)) { s with strm := { s.strm with standingOpened := true } }
    joins ((s.strm.table.filter (fun x => x.2.state == .admitWait)).mergeSort (fun a b => a.2.order ≤ b.2.order)) s

/-! ## The commands -/

/-- SECTION_FETCH_START. -/
def execSectionFetchStart (t : SwapItem) (s : State) : Host.Outcome State Fault Refusal := .next (fetchStart t s)
/-- SWAP_IN_DONE. -/
def execSwapInDone (t : SwapItem) (ecc : Ecc) (s : State) : Host.Outcome State Fault Refusal := .next (powered (fun s => swapInDone t (applyEcc ecc s)) s)
/-- SECTION_RELEASE. -/
def execSectionRelease (cohort : Nat) (sect : Fin 32) (s : State) : Host.Outcome State Fault Refusal := .next (sectionRelease cohort sect s)
/-- SECTION_WRITEBACK_DONE. -/
def execSectionWritebackDone (cohort : Nat) (sect : Fin 32) (s : State) : Host.Outcome State Fault Refusal := .next (writebackDone cohort sect s)
/-- CKPT_READ_DONE. -/
def execCkptReadDone (t : CkptItem) (ecc : Ecc) (s : State) : Host.Outcome State Fault Refusal := .next (powered (fun s => ckptReadDone t (applyEcc ecc s)) s)
/-- SWAP_EVICT. -/
def execSwapEvict (s : State) : Host.Outcome State Fault Refusal := .next (powered (fun s => swapEvict s) s)
/-- SWAP_OUT_DONE. -/
def execSwapOutDone (desc : Fin 4096) (s : State) : Host.Outcome State Fault Refusal := .next (retryFetches (swapOutDone desc s))
/-- PLAN_MISS. -/
def execPlanMiss (cohort : Nat) (sect : Fin 32) (s : State) : Host.Outcome State Fault Refusal := .next (planMiss cohort sect s)

/-- ADMIT_SLACK_EXPIRY: the first step boundary at or after the end of a stream's SLACK: after the departures its join is tried once more,
and refused if it fails (R94). -/
def execAdmitSlackExpiry (desc : Fin 4096) (s : State) : Host.Outcome State Fault Refusal :=
  .next (match s.stream desc with
    | some x => if x.state = .admitWait ∧ x.accepted + x.par.slack * 1000 ≤ s.time then stepBoundary s else s
    | none => s)

end Sys2Proof.Machine
end

