-- ==== Sys2Proof/Machine/Matrix.lean ====
section
/-! DEFINITION. The matrix engine (R270 to R304): tile stores, the exact dot product of a row and a tile, the accumulator, and one
meaning for each of its operations. An operation that waits holds those behind it that depend on it (log entry 21). -/

namespace Sys2Proof.Machine

/-! ## Operands -/

/-- A value times its E8M0 scale (R274). -/
def scaled (scale : Nat) (v : Num) : Num :=
  if scale = 0xFF then .nan false 0x400000
  else match v with
    | .fin s m e => .fin s m (e + scale - 127)
    | x => x

/-- Byte offset in an image of the weight at row k, column n (R277). -/
def weightOff (fmt k n : Nat) : Nat :=
  match density fmt with
  | 1 => k * 1024 + 2 * n
  | 2 => k * 512 + n
  | _ => k * 256 + n / 2

/-- The weight at row k, column n of a tile, with its scale; one in error counts as +0 (R277, R300). -/
def Tile.weight (t : Tile) (k n : Nat) : Num :=
  if t.bad.contains (k, n) then .fin false 0 0
  else
    let b := memGet t.cells (weightOff t.fmt k n)
    let bits := match density t.fmt with
      | 1 => b.toNat + 256 * (memGet t.cells (weightOff t.fmt k n + 1)).toNat
      | 2 => b.toNat
      | _ => if n % 2 = 0 then b.toNat % 16 else b.toNat / 16
    let v := decodeFmt t.fmt bits
    if isMx t.fmt then scaled (memGet t.cells (131072 + 512 * (k / 32) + n)).toNat v else v

/-- The elements of an operand row of 256 bytes, along K, with its scales (R278). -/
def rowValues (fmt : Nat) (bs sc : List Byte) : List Num :=
  let codes := match density fmt with
    | 1 => splitNums 128 2 bs
    | 2 => bs.map BitVec.toNat
    | _ => bs.flatMap (fun b => [b.toNat % 16, b.toNat / 16])
  ((List.range codes.length).zip codes).map (fun p =>
    let v := decodeFmt fmt p.2
    if isMx fmt then scaled (sc.getD (p.1 / 32) 0).toNat v else v)

/-- Where row `i` of an operation starts, and its scales: with INDIRECT, list entry `i` at SRC + i × ROW_STRIDE names the row at
SRC + 64 × entry (R278, R280; log entry 22). -/
def State.rowPlace (s : State) (core : Nat) (r : MeRec) (i : Nat) : Nat × Nat :=
  if r.indirect then
    let l := s.spadNat core (r.src + i * r.rowStride) 4
    (r.src + 64 * l, r.scaleSrc + 16 * l)
  else (r.src + i * r.rowStride, r.scaleSrc + i * r.scaleStride)

/-- Bytes of a row's scale vector. -/
def scaleBytes (fmt : Nat) : Nat := if isMx fmt then 4 * density fmt else 0

/-- The banks of the four words of a row (R394). -/
def rowBanks (a : Nat) : List Nat := (List.range 4).map (fun i => (a / 64 + i) % 64)

/-- Rows of an INDIRECT list that fall in a bank already used in their set of 16 (R399). The list gives row starts in order; `i`
counts them and `used` holds the set's banks. -/
def phaseMisses : Nat → List Nat → List Nat → List Nat
  | _, _, [] => []
  | i, used, a :: rest =>
    let used := if i % 16 = 0 then [] else used
    let bs := rowBanks a
    if bs.any used.contains then i :: phaseMisses (i + 1) used rest else phaseMisses (i + 1) (used ++ bs) rest

/-! ## The exact result of a lane (R282, R287 to R290) -/

/-- An integer lane: the sum, saturated to INT32. -/
def intLane (row col : List Num) (a : Option Nat) : Nat × Fl :=
  let v := fun (n : Num) => match n with | .fin s m _ => (if s then -(m : Int) else m) | _ => 0
  let p := (row.zip col).foldl (fun (t : Int) x => t + v x.1 * v x.2) 0
  let t := p + (match a with | some w => signedOf 32 w | none => 0)
  if t > 2147483647 then (0x7FFFFFFF, { sat := true })
  else if t < -2147483648 then (0x80000000, { sat := true })
  else (codeOf 32 t, {})

/-- A floating-point lane: the exact sum of the products, and of A, rounded once; flags by R292. -/
def fpLane (row col : List Num) (a : Option Nat) : Nat × Fl :=
  let t := (row.zip col).foldl (fun (t : ExactSum) x => t.prod x.1 x.2) {}
  let t := match a with | some w => t.term (fpDec w) | none => t
  let (b, f) := t.result
  if isNan b then (b, { nv := true })
  else (b, { f with uf := decide (t.sum.i ≠ 0 ∧ b % 2 ^ 31 < 0x800000) && !t.pinf && !t.ninf })

/-- One output lane of a row against a tile. -/
def laneOf (t : Tile) (row : List Num) (n : Nat) (a : Option Nat) : Nat × Fl :=
  let col := (List.range row.length).map (fun k => t.weight k n)
  if t.fmt = 4 then intLane row col a else fpLane row col a

/-! ## Output -/

/-- The row of the accumulator, 512 lanes; a row never written holds +0. -/
def MeUnit.row (m : MeUnit) (i : Nat) : List (Bool × Nat) := tget m.acc i (List.replicate 512 (false, 0))

/-- What DEST gets of a row: lanes at and past N_ACTIVE are +0 (R284). -/
def activeRow (n : Nat) (xs : List (Bool × Nat)) : List (Bool × Nat) := xs.take n ++ List.replicate (512 - n) (false, 0)

/-- Deliver rows to DEST (R283). -/
def deliver (core : Nat) (r : MeRec) (rows : List (List (Bool × Nat))) (s : State) : State :=
  let rows := rows.map (activeRow r.nActive)
  match r.dest with
  | 1 => veFeed core rows r.nActive s
  | 2 => ruFeed core rows r.nActive s
  | 3 => ((List.range rows.length).zip rows).foldl (fun s p => pokeSpad core (r.dst + p.1 * 2048) (p.2.flatMap (fun l => leBytes 4 l.2)) s) s
  | _ => s

/-- Where DEST = SPAD writes. -/
def MeRec.outs (r : MeRec) : List (Nat × Nat) := if r.dest = 3 then rowRanges r.dst 2048 r.m 2048 else []

/-! ## Status -/

/-- MEn_STATUS follows the engine's operations. -/
def meSync (core : Nat) (s : State) : State :=
  let m := (s.engines core).me
  let s := (s.setBit (F.meStatusLoading core) m.loading.isSome).setBit (F.meStatusStreaming core) (m.waiting.any (fun w => w.1.op == 2 || w.1.op == 3))
  s.setBit (F.meStatusBusy core) (m.loading.isSome || !m.waiting.isEmpty)

/-- Raise flags of the engine (R292, R293). -/
def meFlags (core : Nat) (f : Fl) (s : State) : State := orReg (R.meFlags core) f.mask s

/-- Count corrected errors, and fault on an uncorrectable accumulator or parity error (R300 to R302). -/
def meChecked (core : Nat) (u : Upset) (k : State → State) (s : State) : State :=
  match u.fatal.filter (fun c => [1, 4].contains c) with
  | some c => meFault core c s
  | none =>
    let s := if u.regCorr = 0 then s else s.count (F.meEccAccCorr core) u.regCorr
    k (if u.storeCorr = 0 then s else s.count (F.meEccTileCorr core) u.storeCorr)

/-! ## Operations -/

/-- ME_LOAD begins: the image is read into what SHADOW will hold. -/
def tileLoad (core : Nat) (r : MeRec) (u : Upset) (s : State) : State :=
  guarded core [(r.src, tileBytes r.wfmt)] [] u (fun s =>
    let lo := spadPlace core + r.src
    let bad := s.poisonIn core r.src (tileBytes r.wfmt)
    let cells := (s.mem.filter (fun c => decide (lo ≤ c.1 ∧ c.1 < lo + tileBytes r.wfmt) && !bad.any (fun w => decide (w ≤ c.1 - spadPlace core ∧ c.1 - spadPlace core < w + 8)))).map (fun c => (c.1 - lo, c.2))
    (s.setMe core { (s.engines core).me with loading := some { fmt := r.wfmt, cells := cells } }).setBit (F.meStatusShadowValid core) false) s

/-- Swap ACTIVE and SHADOW (R270, R281): SHADOW's validity passes to ACTIVE. -/
def swapTiles (core : Nat) (s : State) : State :=
  let m := (s.engines core).me
  let ok := s.bit (F.meStatusShadowValid core)
  let s := s.setMe core { m with active := m.shadow, shadow := m.active }
  let s := (s.setFld (F.meStatusActiveWfmt core) m.shadow.fmt).setFld (F.meStatusShadowWfmt core) m.active.fmt
  let s := (s.setBit (F.meStatusActiveValid core) ok).setBit (F.meStatusShadowValid core) false
  s.setBit (F.meStatusTileSel core) (!s.bit (F.meStatusTileSel core))

/-- Row `i` streams: its values, the tile it meets, the new accumulator row, and whether it is ERASED. -/
def streamRow (core : Nat) (r : MeRec) (t : Tile) (miss : Bool) (i : Nat) (s : State) : List (Bool × Nat) × State :=
  let (a, sc) := s.rowPlace core r i
  let row := if miss then List.replicate (128 * density r.rfmt) (.fin false 0 0)
    else rowValues r.rfmt (s.spadBytes core a 256) (s.spadBytes core sc (scaleBytes r.rfmt))
  let m := (s.engines core).me
  let old := m.row (r.accBase + i)
  let res := (List.range r.nActive).map (fun n => laneOf t row n (if r.accum then some (old.getD n (false, 0)).2 else none))
  let new := res.map (fun x => (decide (t.fmt = 4), x.1)) ++ old.drop r.nActive
  let s := s.setMe core { m with acc := tset m.acc (r.accBase + i) new }
  (new, meFlags core ((res.map Prod.snd).foldl Fl.or {}) s)

/-- Stream every row in order. -/
def streamRows (core : Nat) (r : MeRec) (tile : Nat → Tile) (miss : List Nat) : List Nat → State → List (List (Bool × Nat)) × State
  | [], s => ([], s)
  | i :: is, s =>
    let (x, s) := streamRow core r (tile i) (miss.contains i) i s
    let (xs, s) := streamRows core r tile miss is s
    (x :: xs, s)

/-- The command's results carry ERASED through MEn_FLAGS (R293). -/
def meErase (core : Nat) (s : State) : State := s.setBit (F.meFlagsErased core) true

/-- ME_STREAM with its tile in place (R281 to R284, R292, R297, R300). -/
def streamRun (core : Nat) (r : MeRec) (u : Upset) (s : State) : State :=
  let s := if r.swap then swapTiles core s else s
  let t := (s.engines core).me.active
  if !s.bit (F.meStatusActiveValid core) || density t.fmt != density r.rfmt then meFault core 2 s
  else
    let list := if r.indirect then (List.range r.m).map (fun i => (r.src + i * r.rowStride, 4)) else []
    guarded core list [] {} (fun s =>
      let rows := (List.range r.m).map (fun i => s.rowPlace core r i)
      let reads := rows.map (fun p => (p.1, 256)) ++ (if isMx r.rfmt then rows.map (fun p => (p.2, scaleBytes r.rfmt)) else [])
      guarded core reads r.outs u (fun s =>
        let miss := if r.indirect then phaseMisses 0 [] (rows.map Prod.fst) else []
        let (at_, bad) := u.tile.getD (r.m, [])
        let t' : Tile := { t with bad := t.bad ++ bad }
        let s := if miss.isEmpty then s else meErase core (s.count (F.spPhaseMissCount core) miss.length)
        let s := if at_ < r.m then meErase core ((s.setMe core { (s.engines core).me with active := t' }).count (F.meErasedTiles core) 1) else s
        let s := if t.bad.isEmpty then s else meErase core s
        let (xs, s) := streamRows core r (fun i => if at_ ≤ i then t' else t) miss (List.range r.m) s
        let s := (s.addPair (R.meMacs core) (r.m * 65536 * density r.rfmt)).addPair (R.meStreamCyc core) r.m
        deliver core r xs s) s) s

/-- Field values outside what verification admits (R278, R280, OP_RANGE). With INDIRECT the rows are 64-byte aligned when SRC is. -/
def MeRec.bad (r : MeRec) : Bool :=
  (r.op != 1 && decide (r.m = 0 ∨ 1024 < r.m ∨ 1024 < r.accBase + r.m)) ||
  ((r.op == 2 || r.op == 3) && decide (r.nActive = 0 ∨ 512 < r.nActive ∨ (r.dest = 3 ∧ r.dst % 64 ≠ 0))) ||
  (r.op == 3 && decide (r.dest = 0)) || (r.op == 1 && decide (7 < r.wfmt ∨ r.src % 64 ≠ 0)) ||
  (r.op == 2 && (decide (7 < r.wfmt ∨ 7 < r.rfmt ∨ r.src % 64 ≠ 0) ||
    (if r.indirect then decide (r.rowStride % 4 ≠ 0) else decide (r.rowStride % 64 ≠ 0 ∨ r.rowStride < 256)) ||
    (isMx r.rfmt && decide (r.scaleSrc % 8 ≠ 0 ∨ r.scaleStride % 8 ≠ 0))))

/-- One operation runs. -/
def meRun (core : Nat) (r : MeRec) (u : Upset) (s : State) : State :=
  if r.bad then meFault core 3 s
  else meChecked core u (fun s =>
    match r.op with
    | 1 => tileLoad core r u s
    | 2 => streamRun core r u s
    | 3 =>
      let m := (s.engines core).me
      guarded core [] r.outs u (deliver core r ((List.range r.m).map (fun i => m.row (r.accBase + i)))) s
    | _ =>
      let m := (s.engines core).me
      s.setMe core { m with acc := (List.range r.m).foldl (fun a i => tset a (r.accBase + i) (List.replicate 512 (false, 0))) m.acc }) s

/-- An operation waits while an ME_LOAD it depends on runs: another ME_LOAD, or an ME_STREAM that swaps (R295, R298). -/
def MeRec.blocked (r : MeRec) (m : MeUnit) : Bool := m.loading.isSome && (r.op == 1 || (r.op == 2 && r.swap))

/-- An operation waits for an earlier one `e` that has not completed: one of its own kind (R295), a swap its load would overtake, one
with overlapping accumulator rows (R299), or one whose rows go to the same engine before its own (R308, R358). -/
def MeRec.after (r e : MeRec) : Bool :=
  r.op == e.op || (r.op == 1 && e.op == 2 && e.swap) ||
  (r.op != 1 && e.op != 1 && (decide (r.accBase < e.accBase + e.m ∧ e.accBase < r.accBase + r.m) ||
    ((r.op == 2 || r.op == 3) && (e.op == 2 || e.op == 3) && (r.dest == 1 || r.dest == 2) && r.dest == e.dest)))

/-- The oldest waiting operation that may go on, and those that stay; `held` are those before it. -/
def MeUnit.pick (m : MeUnit) : List (MeRec × Upset) → List (MeRec × Upset) → Option ((MeRec × Upset) × List (MeRec × Upset))
  | _, [] => none
  | held, x :: t => if x.1.blocked m || held.any (fun e => x.1.after e.1) then m.pick (held ++ [x]) t else some (x, held ++ t)

/-- Run waiting operations as far as they go (R295, R299). The first argument is fuel. -/
def meDrain (core : Nat) : Nat → State → State
  | 0, s => s
  | k + 1, s =>
    let m := (s.engines core).me
    match m.pick [] m.waiting with
    | some ((r, u), rest) => if s.failStopped then s else meDrain core k (meRun core r u (s.setMe core { m with waiting := rest }))
    | none => s

/-- Drain, and bring the status up to date. -/
def meSettle (core : Nat) (s : State) : State := meSync core (meDrain core ((s.engines core).me.waiting.length + 1) s)

/-- Offsets of a matrix record made absolute (R563); the list's spacing is no offset. -/
def MeRec.reloc (r : MeRec) (f : Nat → Nat) : MeRec := { r with src := f r.src, scaleSrc := f r.scaleSrc, dst := f r.dst }

/-- The sequencer issues the matrix record it stands at, when it is the operation the command names. A swap that has to wait
counts in MEn_LOAD_WAIT; how many cycles is open in a model without cycles. -/
def issueMe (core op : Nat) (u : Upset) (s : State) : State :=
  match s.nextRec core with
  | some (_, c, q, .me r) =>
    if r.op = op then
      let s := advance core q (.me r) s
      let m := (s.engines core).me
      let s := if r.blocked m && r.op == 2 then (s.addPair (R.meLoadWait core) s.freeNow).freeNext else s
      meSettle core (s.setMe core { m with waiting := m.waiting ++ [(r.reloc (s.placer c core), u)] })
    else s
  | _ => s

/-- ME_LOAD completes: SHADOW takes the image and SHADOW_VALID sets, and what waited goes on (R281, R295). -/
def loadDone (core : Nat) (s : State) : State :=
  let m := (s.engines core).me
  match m.loading with
  | some t =>
    let s := s.setMe core { m with shadow := t, loading := none }
    meSettle core ((s.setBit (F.meStatusShadowValid core) true).setFld (F.meStatusShadowWfmt core) t.fmt)
  | none => s

/-! ## The commands -/

/-- ME_LOAD. -/
def execMeLoad (core : Fin 8) (u : Upset) (s : State) : Host.Outcome State Fault Refusal := .next (issueMe core 1 u s)
/-- ME_LOAD_DONE. -/
def execMeLoadDone (core : Fin 8) (s : State) : Host.Outcome State Fault Refusal := .next (loadDone core s)
/-- ME_STREAM. -/
def execMeStream (core : Fin 8) (u : Upset) (s : State) : Host.Outcome State Fault Refusal := .next (issueMe core 2 u s)
/-- ME_DRAIN. -/
def execMeDrain (core : Fin 8) (u : Upset) (s : State) : Host.Outcome State Fault Refusal := .next (issueMe core 3 u s)
/-- ME_CLEAR. -/
def execMeClear (core : Fin 8) (u : Upset) (s : State) : Host.Outcome State Fault Refusal := .next (issueMe core 4 u s)

end Sys2Proof.Machine
end

