-- ==== Sys2Proof/Machine/Parts.lean ====
section
/-! DEFINITION. Partitions: quota blocks, creation, change and destruction, core modes, and the zeroing of frames, units and
granules (R264, R406 to R409, R437, R508, R509, R546 to R555). -/

namespace Sys2Proof.Machine

/-! ## Quota blocks (R547, R548) -/

/-- The fields of a 96-byte quota block. -/
def quotaOf (b : List Byte) : Quota where
  raw := b.take 96
  dramBase := fieldAt b 0 8
  dramSize := fieldAt b 8 8
  swapBase := fieldAt b 16 8
  swapSize := fieldAt b 24 8
  granules := fieldAt b 32 2
  descriptors := fieldAt b 34 2
  spadUnits := fieldAt b 36 2
  retQuota := fieldAt b 38 2
  pinUnits := fieldAt b 40 2
  channels := fieldAt b 42 1
  entries := fieldAt b 43 1
  exclMax := fieldAt b 44 1
  budget := fieldAt b 46 2
  audio := (List.range 8).map (fun i => fieldAt b (48 + 4 * i) 4)

/-- Check 1 of R548: a reserved field, a range or an alignment. -/
def quotaBad (len : Nat) (b : List Byte) : Bool :=
  let q := quotaOf b
  let mib2 := 0x20_0000
  len != 96 || fieldAt b 45 1 != 0 || fieldAt b 80 8 != 0 || fieldAt b 88 8 != 0 ||
  q.dramBase % mib2 != 0 || q.dramSize % mib2 != 0 || q.swapBase % mib2 != 0 || q.swapSize % mib2 != 0 ||
  decide (q.granules > 16384) || decide (q.descriptors > 4096) || decide (q.spadUnits > 512) || decide (q.retQuota > q.spadUnits) ||
  decide (q.pinUnits > q.retQuota) || decide (q.channels > 64) || decide (q.entries > 64) || decide (q.exclMax > 8) || decide (q.budget > 2560)

/-- Two ranges share a byte. -/
def rangesMeet (a n b m : Nat) : Bool := decide (0 < n ∧ 0 < m ∧ a < b + m ∧ b < a + n)

/-- Every quota in force or waiting, but those of one partition. -/
def State.quotasBut (s : State) (p : Nat) : List Quota :=
  (s.disp.parts.filter (fun x => x.1 != p)).flatMap (fun x => x.2.quota :: x.2.next.toList) ++
  ((s.disp.creating.filter (fun x => x.1 != p)).map (fun x => x.2.1))

/-- The channels every other partition may hold, by its quota in force or waiting. -/
def State.channelsElse (s : State) (p : Nat) : Nat :=
  ((s.disp.parts.filter (fun x => x.1 != p)).map (fun x => max x.2.quota.channels ((x.2.next.map Quota.channels).getD 0))).sum +
  ((s.disp.creating.filter (fun x => x.1 != p)).map (fun x => x.2.1.channels)).sum

/-- A standing stream of another partition holds a slot of a port; a FAILED one holds nothing but its descriptor (R65). -/
def State.standingSlot (s : State) (p port slot : Nat) : Bool :=
  s.strm.table.any (fun x => x.2.standing.isSome && x.2.state != .failed && x.2.par.part != p && !x.2.par.hostFed && x.2.par.port == port &&
    ((x.2.par.floodEn && x.2.par.floodSlot == slot) || (x.2.par.ebbEn && x.2.par.ebbSlot == slot)))

/-- Check 2 of R548. -/
def State.quotaOver (s : State) (p : Nat) (q : Quota) : Bool :=
  let others := s.quotasBut p
  let top := s.pair R.mcModBase
  decide (q.dramBase + q.dramSize > top) || decide (q.swapBase + q.swapSize > top) ||
  rangesMeet q.dramBase q.dramSize q.swapBase q.swapSize ||
  others.any (fun o => rangesMeet q.dramBase q.dramSize o.dramBase o.dramSize || rangesMeet q.dramBase q.dramSize o.swapBase o.swapSize ||
    rangesMeet q.swapBase q.swapSize o.dramBase o.dramSize || rangesMeet q.swapBase q.swapSize o.swapBase o.swapSize) ||
  decide (s.channelsElse p + q.channels > 64) ||
  (List.range 8).any (fun n => (List.range 32).any (fun i => Nat.testBit (q.audio.getD n 0) i &&
    (others.any (fun o => Nat.testBit (o.audio.getD n 0) i) || s.standingSlot p n i)))

/-! ## DRAM frames (R508, R509) -/

/-- The 64 KiB frames of a range. -/
def rangeFrames (base size : Nat) : List Nat := (List.range (size / 0x1_0000)).map (fun i => base / 0x1_0000 + i)

/-- MC_ZERO.PENDING follows the DIRTY frames. -/
def zeroSync (s : State) : State := s.setFld F.mcZeroPending s.mc.dirty.length

/-- Frames become DIRTY (R508). -/
def dirtyFrames (fs : List Nat) (s : State) : State :=
  zeroSync { s with mc := { s.mc with dirty := s.mc.dirty ++ fs.filter (fun f => !s.mc.dirty.contains f) } }

/-- Every frame of a range is clean. -/
def State.clean (s : State) (base size : Nat) : Bool :=
  !s.mc.dirty.any (fun f => decide (base / 0x1_0000 ≤ f ∧ f < (base + size) / 0x1_0000))

/-! ## Channels (R446, R553) -/

/-- The channels of a partition, ascending. -/
def State.channelsOf (s : State) (p : Nat) : List Nat :=
  (List.range 64).filter (fun c => !s.bit (F.dmaChOwnerModule c) && s.fld (F.dmaChOwnerPartition c) == p)

/-- A module channel that is drained, disabled and empty. -/
def State.channelIdle (s : State) (c : Nat) : Bool :=
  s.bit (F.dmaChStatusDrained c) && !s.bit (F.dmaChCtrlEn c) && (s.chan c).run.isNone && (s.chan c).queue.isEmpty

/-- The channels that may be assigned, ascending. -/
def State.freeChannels (s : State) : List Nat := (List.range 64).filter (fun c => s.bit (F.dmaChOwnerModule c) && s.channelIdle c)

/-- A channel passes to an owner: its registers, queue and tidemark start from zero (R446). -/
def moveChannel (owner : Option Nat) (s : State) (c : Nat) : State :=
  let base := R.dmaChOwner c
  let s := { s with regs := s.regs.filter (fun r => !decide (base ≤ r.1 ∧ r.1 < base + 0x400)), dma := terase s.dma c }
  match owner with
  | some p => (s.setBit (F.dmaChOwnerModule c) false).setFld (F.dmaChOwnerPartition c) p
  | none => s

/-- Assign or take back channels until a partition has n (R553). -/
def setChannels (p n : Nat) (s : State) : State :=
  let have_ := s.channelsOf p
  if have_.length ≤ n then (s.freeChannels.take (n - have_.length)).foldl (moveChannel (some p)) s
  else (have_.drop n).foldl (moveChannel none) s

/-! ## Creation and change (R549, R550) -/

/-- A partition's record. -/
def State.partition (s : State) (p : Nat) : Option Partition := tfind s.disp.parts p

/-- Set a partition's record. -/
def State.setPartition (s : State) (p : Nat) (x : Partition) : State := { s with disp := { s.disp with parts := tset s.disp.parts p x } }

/-- A partition becomes ACTIVE with empty tables and its channels (R549); not without a frame for the tables (log entry 10). -/
def activate (p : Nat) (q : Quota) (s : State) : Option State :=
  match allocTable p 4096 s with
  | (none, _) => none
  | (some root, s) =>
    let s := setChannels p q.channels (s.setPair (R.xlRoot p) root)
    let s := s.setPartition p { state := .active, quota := q, remain := List.replicate 8 q.budget }
    some (emit Ev.partitionCreated (some p) 9 0 p 0 0 s)

/-- Frames of the translation-table area wait to be zeroed (R545). -/
def State.tablesDirty (s : State) : Bool :=
  let base := s.pair R.xlTableBase
  s.mc.dirty.any (fun f => decide (base ≤ f * 0x1_0000 ∧ f * 0x1_0000 < base + s.tableBytes))

/-- A creation that waited ends once its frames are clean and its channels can be assigned (R509, R549). Where no frame is left for its
tables it waits for one to be zeroed, and ends with CMD_RESOURCE where none is coming (log entry 10). -/
def settleCreate (s : State) (x : Nat × (Quota × Nat)) : State :=
  let (p, q, id) := x
  if s.clean q.dramBase q.dramSize && s.clean q.swapBase q.swapSize && decide (q.channels ≤ s.freeChannels.length) then
    let t := { s with disp := { s.disp with creating := terase s.disp.creating p } }
    match activate p q t with
    | some t => completeCmd adminQ id St.ok 0 0 0 t
    | none => if s.tablesDirty then s else completeCmd adminQ id St.resource 0 0 0 t
  else s

/-- The leaves below a table that covers virtual addresses from `va` on: address, whether it is a 2 MiB one, and entry. -/
def tableLeaves (s : State) : Nat → Nat → Nat → List (Nat × Bool × Nat)
  | 0, _, _ => []
  | n + 1, va, table =>
    let span := match n with
      | 3 => 2 ^ 39
      | 2 => 2 ^ 30
      | 1 => 2 ^ 21
      | _ => 2 ^ 16
    (List.range (if n = 0 then 32 else 512)).flatMap (fun i =>
      let e := leNat (s.peek (table + 8 * i) 8)
      if e % 2 = 0 then []
      else if bitsOf e 1 1 = 1 then [(va + i * span, n == 1, e)]
      else tableLeaves s n (va + i * span) (bitsOf e 47 8 * 256))

/-- The leaves of a partition below a table, with the virtual address each covers. -/
def State.leavesOf (s : State) (p : Nat) : List Leaf :=
  (tableLeaves s 4 0 (s.pair (R.xlRoot p))).map (fun x => leafOf x.1 x.2.1 x.2.2)

/-- The end of the bytes a leaf names. -/
def State.leafEnd (s : State) (p : Nat) (l : Leaf) : Nat := l.base + s.leafCoded p l

/-- RETAINED units of pinned entries of a partition on a core. -/
def State.pinnedUnits (s : State) (p core : Nat) : Nat :=
  ((s.disp.entries.filter (fun e => e.2.part == p && e.2.pinned && e.2.resident.any (fun r => r.1 == core))).map (fun e => e.2.hotUnits)).sum

/-- Scratchpad units of a partition on a core. -/
def State.unitsHeld (s : State) (p core : Nat) : Nat :=
  (((tget s.disp.cores core {}).regions.filter (fun r => r.2.part == p)).map (fun r => r.2.units)).sum

/-- A PARTITION_SET that R550 refuses with CMD_RESOURCE. -/
def State.setOver (s : State) (p : Nat) (old q : Quota) : Bool :=
  let cores := List.range 8
  q.dramBase != old.dramBase || q.swapBase != old.swapBase ||
  (s.leavesOf p).any (fun l => l.target == 0 && decide (s.leafEnd p l > q.dramBase + q.dramSize)) ||
  (s.pagesUsed p).any (fun g => decide ((g + 1) * 16384 > q.swapSize)) ||
  decide (q.granules < s.partGranules p) || decide (q.descriptors < (s.streamsOf p).length) ||
  cores.any (fun c => decide (q.spadUnits < s.unitsHeld p c) || decide (q.pinUnits < s.pinnedUnits p c)) ||
  s.disp.jobs.any (fun j => j.2.part == p && j.2.excl && decide (q.exclMax < j.2.cores)) ||
  (s.streamsOf p).any (fun x => x.2.state != .failed && !x.2.par.hostFed && ((x.2.par.floodEn && !Nat.testBit (q.audio.getD x.2.par.port 0) x.2.par.floodSlot) ||
    (x.2.par.ebbEn && !Nat.testBit (q.audio.getD x.2.par.port 0) x.2.par.ebbSlot)))

/-- A PARTITION_SET would take back a channel that is not drained or holds a queued descriptor (R446, R553). -/
def State.takesBusy (s : State) (p n : Nat) : Bool :=
  ((s.channelsOf p).drop n).any (fun c => !s.bit (F.dmaChStatusDrained c) || (s.chan c).run.isSome || !(s.chan c).queue.isEmpty)

/-- A PARTITION_SET takes effect once the frames that join are clean and enough channels can be assigned; those that leave become DIRTY
(R550, R553). Channels it takes back that have work by then refuse it as they would have at its start. BUDGET is refilled at the next plan
cycle (R590). -/
def settleSet (s : State) (x : Nat × Partition) : State :=
  let (p, y) := x
  match y.next, y.cmd with
  | some q, some id =>
    let joins := fun (a n m : Nat) => decide (m ≤ n) || s.clean (a + n) (m - n)
    if s.takesBusy p q.channels then completeCmd adminQ id St.state 0 0 0 (s.setPartition p { y with next := none, cmd := none })
    else if joins q.dramBase y.quota.dramSize q.dramSize && joins q.swapBase y.quota.swapSize q.swapSize &&
        decide (q.channels ≤ (s.channelsOf p).length + s.freeChannels.length) then
      let gone := fun (a n m : Nat) => if m < n then rangeFrames (a + m) (n - m) else []
      let s := dirtyFrames (gone q.dramBase y.quota.dramSize q.dramSize ++ gone q.swapBase y.quota.swapSize q.swapSize) s
      let s := setChannels p q.channels (s.setPartition p { y with quota := q, next := none, cmd := none })
      completeCmd adminQ id St.ok 0 0 0 s
    else s
  | _, _ => s

/-! ## Destruction (R264, R551) -/

/-- A region leaves a core: its units wait to be zeroed (R406). -/
def removeRegion (core key : Nat) (s : State) : State :=
  let c := tget s.disp.cores core {}
  match tfind c.regions key with
  | none => s
  | some r =>
    { s with disp := { s.disp with cores := tset s.disp.cores core { c with regions := terase c.regions key, zeroing := c.zeroing ++ (List.range r.units).map (fun i => (r.base + i, r.part)) } } }

/-- Every region of a partition is removed. -/
def removeRegions (p : Nat) (s : State) : State :=
  (List.range 8).foldl (fun s core =>
    (((tget s.disp.cores core {}).regions.filter (fun r => r.2.part == p)).map Prod.fst).foldl (fun s k => removeRegion core k s) s) s

/-- The commands and jobs of a partition end without results; their cores are free (R561). -/
def dropWork (p : Nat) (s : State) : State :=
  let gone := (s.disp.cmds.filter (fun x => x.2.part == p)).map Prod.fst
  let jobs := (s.disp.jobs.filter (fun x => x.2.part == p)).map Prod.fst
  let s := gone.foldl (fun s i => endLeavers i s) s
  { s with disp := { s.disp with
      cmds := s.disp.cmds.filter (fun x => x.2.part != p)
      jobs := s.disp.jobs.filter (fun x => x.2.part != p)
      placed := s.disp.placed.filter (fun x => (tfind s.disp.scheds x.sched).map Schedule.part != some p)
      cores := s.disp.cores.map (fun (c : Nat × CoreState) => (c.1, { c.2 with cmd := c.2.cmd.filter (fun i => !gone.contains i), job := c.2.job.filter (fun i => !jobs.contains i) })) } }

/-- Everything of a partition has left: its commands, its streams, its channels' writes, its units and granules (R264). -/
def State.emptied (s : State) (p : Nat) : Bool :=
  (s.queue p).cmds.isEmpty && !(s.queue p).reading && (s.tide.leavers.filter (fun z => z.str.par.part == p)).isEmpty && (s.streamsOf p).isEmpty && (s.channelsOf p).all (fun c => s.bit (F.dmaChStatusDrained c)) &&
  (List.range 8).all (fun c => !(tget s.disp.cores c {}).zeroing.any (fun z => z.2 == p)) && !s.tide.zeroing.any (fun z => z.2 == p)

/-- The engine stores of the cores whose last partition leaves are zeroed, so that one created under its number later finds none of
them (R286, R343, R392, R709). -/
def wipeEngines (p : Nat) (s : State) : State :=
  ((s.eng.map Prod.fst).filter (fun c => (s.coreSt c).lastPart == p && (s.coreSt c).cmd.isNone)).foldl (fun s c => wipeCore c s) s

/-- A partition returns to ABSENT (R551). -/
def settleDestroy (s : State) (x : Nat × Partition) : State :=
  let (p, y) := x
  if y.state ≠ .destroying ∨ ¬s.emptied p then s
  else
    let frames := rangeFrames y.quota.dramBase y.quota.dramSize ++ rangeFrames y.quota.swapBase y.quota.swapSize ++
      ((s.mc.tables.filter (fun t => t.2.1 == p)).map (fun t => t.1 / 0x1_0000))
    let s := dirtyFrames frames { s with mc := { s.mc with tables := s.mc.tables.filter (fun t => t.2.1 != p), extents := s.mc.extents.filter (fun x => x.1 != p) } }
    let s := setChannels p 0 (wipeEngines p (s.setPair (R.xlRoot p) 0))
    let s := { s with sec := { s.sec with pkeys := terase s.sec.pkeys p }, disp := { s.disp with parts := terase s.disp.parts p } }
    let s := emit Ev.partitionDestroyed (some p) 9 0 p 0 0 s
    match y.cmd with
    | some id => completeCmd adminQ id St.ok 0 0 0 s
    | none => s

/-- Something still wants a region on a core: a pin, or work placed there or a run of its die that depends on the entry or on the partition's
WORKING region. -/
def State.regionWanted (s : State) (core : Nat) (w : RegionWait) : Bool :=
  let scheds := s.placedOn core ++ (s.strm.cohorts.filter (fun x => x.2.die == core / 2)).map (fun x => x.2.sched)
  match w with
  | .hot i => (tfind s.disp.entries i).any (fun e => (e.cmd.isSome && Nat.testBit e.pinMask core) || scheds.any (s.dependsOn e))
  | .working p => scheds.any (fun id => (tfind s.disp.scheds id).map Schedule.part == some p)

/-- Something waits for zeroing, with the units, granules or frames still pending (R437, R509). -/
def State.zeroWaits (s : State) (w : ZeroWait) : Option (Nat × Nat × Option Nat) :=
  match w with
  | .region n w =>
    let c := tget s.disp.cores n {}
    if c.awaiting.contains w && s.regionWanted n w && !c.zeroing.isEmpty then some (0x10 + n.val, c.zeroing.length, none) else none
  | .join d => match s.stream d with
    | some x => if x.state = .admitWait ∧ ¬s.tide.zeroing.isEmpty then some (8, s.tide.zeroing.length, some x.par.part) else none
    | none => none
  | .part p =>
    let left := (s.tide.zeroing.filter (fun z => z.2 == p.val)).length + ((List.range 8).map (fun c => ((tget s.disp.cores c {}).zeroing.filter (fun z => z.2 == p.val)).length)).sum
    if ((tfind s.disp.creating p).isSome || ((s.partition p).map (fun y => y.next.isSome)).getD false) && !s.mc.dirty.isEmpty then some (6, s.mc.dirty.length, some p.val)
    else if ((s.partition p).map Partition.state == some .destroying) && left != 0 then some (8, left, some p.val)
    else none

/-- A wait for zeroing that has ended may be recorded anew when it begins again (R437). -/
def purgeLags (s : State) : State := { s with disp := { s.disp with lagged := s.disp.lagged.filter (fun l => (s.zeroWaits l).isSome) } }

/-- Partition commands that wait are looked at again. -/
def settleParts (s : State) : State :=
  let s := s.disp.creating.foldl settleCreate s
  let s := s.disp.parts.foldl settleSet s
  purgeLags (s.disp.parts.foldl settleDestroy s)

/-- A core can take a mode change: nothing runs on it and no job holds it (R555). -/
def State.coreIdle (s : State) (n : Nat) : Bool :=
  let c := tget s.disp.cores n {}
  c.cmd.isNone && c.job.isNone

/-- A mode change that waits takes effect once its core is idle, and completes (R555). -/
def settleMode (n : Nat) (s : State) : State :=
  let c := tget s.disp.cores n {}
  match c.changing with
  | some m =>
    if s.coreIdle n then
      let s := { s with disp := { s.disp with cores := tset s.disp.cores n { c with excl := m, changing := none, modeCmd := [] } } }
      c.modeCmd.foldl (fun s id => completeCmd adminQ id St.ok 0 0 0 s) s
    else s
  | none => s

/-- Every mode change that waits is looked at again. -/
def settleModes (s : State) : State := (List.range 8).foldl (fun s n => settleMode n s) s

/-- A partition begins to be destroyed (R264, R551): its commands end with CMD_ABORTED, its queues stop, its streams are to
leave at the next step boundary, its channels abort, and what it installed is removed. No other command takes a core from it (R479, log entry
122). -/
def beginDestroy (p id : Nat) (s : State) : State :=
  match s.partition p with
  | none => s
  | some y =>
    let s := s.setPartition p { y with state := .destroying, cmd := some id, next := none }
    let s := match y.cmd with | some old => completeCmd adminQ old St.aborted 0 0 0 s | none => s
    let s := settleModes (dropWork p s)
    let s := effQueueDisable p s
    let s := syncQ p (abortFetched p (s.queue p).cmds.length s)
    let s := (s.streamsOf p).foldl (fun s x => s.modStream x.1 (fun z => { z with closing := some 1 })) s
    let s := (s.channelsOf p).foldl (fun s c => abortChan c s) s
    let s := { s with disp := { s.disp with
      scheds := s.disp.scheds.filter (fun x => x.2.part != p)
      entries := s.disp.entries.filter (fun x => x.2.part != p)
      tags := s.disp.tags.filter (fun t => t.1 != p)
      cores := s.disp.cores.map (fun (c : Nat × CoreState) => (c.1, { c.2 with store := c.2.store.filter (fun x => (tfind s.disp.scheds x.1).map Schedule.part != some p) })) } }
    let s := { s with boot := { s.boot with bodies := s.boot.bodies.filter (fun b => b.1 != p) } }
    settleParts (removeRegions p s)

/-! ## The commands -/

/-- COMMAND_FETCH: a fetch read returns (R230 to R236); the last one of a partition that is being destroyed may end its destruction (R264). -/
def execCommandFetch (q : Fin 65) (r : HostRead) (s : State) : Host.Outcome State Fault Refusal :=
  .next (let t := fetchReturn q r s
    if t.destroying q then settleParts t else t)

/-- PARTITION_CREATE: `d` is the read of the quota block (R548, R549). -/
def execPartitionCreate (d : HostRead) (s : State) : Host.Outcome State Fault Refusal :=
  .next (beginCmd adminQ 0x80 true d (fun c b s =>
    let p := c.handle % 64
    let q := quotaOf b
    if quotaBad c.len b then completeCmd adminQ c.id St.format 0 0 0 s
    else if (s.partition p).isSome || (tfind s.disp.creating p).isSome then completeCmd adminQ c.id St.state 0 0 0 s
    else if s.quotaOver p q then completeCmd adminQ c.id St.resource 0 0 0 s
    else settleParts { s with disp := { s.disp with creating := tset s.disp.creating p (q, c.id) } }) s)

/-- PARTITION_SET (R548, R550, R553). -/
def execPartitionSet (d : HostRead) (s : State) : Host.Outcome State Fault Refusal :=
  .next (beginCmd adminQ 0x40 true d (fun c b s =>
    let p := c.handle % 64
    let q := quotaOf b
    if quotaBad c.len b then completeCmd adminQ c.id St.format 0 0 0 s
    else match s.partition p with
      | none => completeCmd adminQ c.id St.state 0 0 0 s
      | some y =>
        if y.state ≠ .active ∨ y.next.isSome then completeCmd adminQ c.id St.state 0 0 0 s
        else if s.quotaOver p q || s.setOver p y.quota q then completeCmd adminQ c.id St.resource 0 0 0 s
        else if s.takesBusy p q.channels then completeCmd adminQ c.id St.state 0 0 0 s
        else settleParts (s.setPartition p { y with next := some q, cmd := some c.id })) s)

/-- PARTITION_DESTROY: `d` is the read of the LEN bytes its CHECK covers. A partition that is not ACTIVE completes with
CMD_STATE (log entry 19). -/
def execPartitionDestroy (d : HostRead) (s : State) : Host.Outcome State Fault Refusal :=
  .next (beginCmd adminQ 0x81 true d (fun c _ s =>
    let p := c.handle % 64
    match s.partition p with
    | some y => if y.state = .active then beginDestroy p c.id s else completeCmd adminQ c.id St.state 0 0 0 s
    | none => completeCmd adminQ c.id St.state 0 0 0 s) s)

/-- CORE_MODE_SET (R555): a core that has the target mode completes at once, also while a change waits; a second for a change that waits
completes with it. -/
def execCoreModeSet (s : State) : Host.Outcome State Fault Refusal :=
  .next (beginCmd adminQ 0x41 false (.ok []) (fun c _ s =>
    let n := c.arg0 % 8
    let m := bitsOf c.arg0 8 8 == 1
    let x := tget s.disp.cores n {}
    if bitsOf c.arg0 31 9 ≠ 0 then completeCmd adminQ c.id St.format 0 0 0 s
    else if x.excl == m then completeCmd adminQ c.id St.ok 0 0 0 s
    else if m && !(s.runsOn (n / 2)).isEmpty then completeCmd adminQ c.id St.state 0 0 0 s
    else settleMode n { s with disp := { s.disp with cores := tset s.disp.cores n { x with changing := some m, modeCmd := x.modeCmd ++ [c.id] } } }) s)

/-! ## Zeroing -/

/-- Units of a core that may be zeroed now: no channel of the partition they left still writes (R408). -/
def unitsZeroed (core : Nat) (us : List Nat) (s : State) : State :=
  let c := tget s.disp.cores core {}
  let done := (c.zeroing.filter (fun z => us.contains z.1 && !s.partWriting z.2)).map Prod.fst
  let s := done.foldl (fun s u => s.zeroMem (spadPlace core + u * 0x1_0000) 0x1_0000) s
  { s with disp := { s.disp with cores := tset s.disp.cores core { c with zeroing := c.zeroing.filter (fun z => !done.contains z.1), poison := c.poison.filter (fun w => !done.contains (w / 0x1_0000)) } } }

/-- ZERO_LAG: a wait has lasted more than 1 ms; recorded once per wait. -/
def execZeroLag (w : ZeroWait) (s : State) : Host.Outcome State Fault Refusal :=
  .next (powered (fun s => let s := purgeLags s
    match s.zeroWaits w with
    | some (unit, n, part) =>
      if s.disp.lagged.contains w then s
      else emit Ev.zeroLag part unit 0 n 0 0 { s with disp := { s.disp with lagged := s.disp.lagged ++ [w] } }
    | none => s) s)

/-- FRAME_ZERO_DONE (R508, R509). -/
def execFrameZeroDone (frame : Nat) (s : State) : Host.Outcome State Fault Refusal :=
  .next (powered (fun s => if s.mc.dirty.contains frame then
      let s := s.zeroDram (frame * 0x1_0000) 0x1_0000
      settleParts (zeroSync { s with mc := { s.mc with dirty := s.mc.dirty.filter (· ≠ frame) } })
    else s) s)

/-- DMA_DRAINED (R478): waiting zeroing and changes of owner may go on. -/
def execDmaDrained (c : Fin 64) (s : State) : Host.Outcome State Fault Refusal :=
  .next (powered (fun s => let p := s.fld (F.dmaChOwnerPartition c)
    let s := drainChan c s
    let s := if s.bit (F.dmaChOwnerModule c) || s.partWriting p then s
      else granulesZeroed ((s.tide.zeroing.filter (fun z => z.2 == p)).map Prod.fst) s
    settleParts s) s)

end Sys2Proof.Machine
end

