-- ==== Sys2Proof/Machine/Sequencer.lean ====
section
/-! DEFINITION. The core sequencer's own records: loops, waits, the end of a program, and DMA submission (R467, R471, R565). -/

namespace Sys2Proof.Machine

/-- No engine operation of a core is under way or waiting. -/
def State.enginesQuiet (s : State) (core : Nat) : Bool :=
  let e := s.engines core
  e.me.loading.isNone && e.me.waiting.isEmpty && e.ve.mx.isEmpty && e.ve.sp.isEmpty && e.ru.gates.isEmpty

/-- No descriptor of a command is queued or running, from one core or from any. -/
def State.dmaQuiet (s : State) (cmd : Nat) (core : Option Nat) : Bool :=
  s.dma.all (fun c =>
    !(c.2.queue.any (fun q => q.cmd == cmd && (core.isNone || core == some q.core))) &&
    !(c.2.run.any (fun r => r.cmd == some cmd && (core.isNone || core == some r.core))))

/-- Every earlier operation of a core's program has completed (SQ_BARRIER). -/
def State.quiet (s : State) (core cmd : Nat) : Bool := s.enginesQuiet core && s.dmaQuiet cmd (some core)

/-- SQ_LOOP: the loop opens with COUNT iterations, or with the beats of the SP channel's VLEN. -/
def loopOpen (core : Nat) (s : State) : State :=
  match s.nextRec core with
  | some (_, _, q, .loop n beats) =>
    let k := if beats then ceilDiv (s.vlen core) 512 else n
    s.setSeq core (some { q with pos := q.pos + 16, loops := (q.pos + 16, k) :: q.loops })
  | _ => s

/-- SQ_ENDLOOP: the innermost loop runs again, or ends. -/
def loopEnd (core : Nat) (s : State) : State :=
  match s.nextRec core with
  | some (_, _, q, .endloop) =>
    match q.loops with
    | (start, k) :: rest =>
      if 1 < k then s.setSeq core (some { q with pos := start, loops := (start, k - 1) :: rest })
      else s.setSeq core (some { q with pos := q.pos + 16, loops := rest })
    | [] => s.setSeq core (some { q with pos := q.pos + 16 })
  | _ => s

/-- SQ_BARRIER: passed once the program's earlier operations have completed. -/
def barrier (core : Nat) (s : State) : State :=
  match s.nextRec core with
  | some (i, _, q, .barrier) => if s.quiet core i then advance core q .barrier s else s
  | _ => s

/-- SQ_PEER: the program waits; the last program of the command to arrive at the ID releases all. -/
def peerWait (core : Nat) (s : State) : State :=
  match s.nextRec core with
  | some (_, c, q, .peer id) =>
    let s := s.setSeq core (some { q with peer := some id })
    if c.cores.all (fun k => ((s.engines k).seq.bind Seq.peer) == some id) then
      c.cores.foldl (fun s k => match (s.engines k).seq with
        | some x => s.setSeq k (some { x with peer := none, pos := x.pos + 16 })
        | none => s) s
    else s
  | _ => s

/-- SQ_END. -/
def programEnd (core : Nat) (s : State) : State :=
  match s.nextRec core with
  | some (_, _, q, .fin) => s.setSeq core (some { q with ended := true })
  | _ => s

/-- The channel a partition's index names (R467, R553). -/
def State.partChannel (s : State) (p i : Nat) : Option Nat := (s.channelsOf p)[i]?

/-- DMA_SUBMIT: a queue of 32, the descriptor running counted (R483), holds the sequencer. The descriptor is read in the partition's regions
as the record issues (R405). -/
def dmaSubmit (core : Nat) (s : State) : State :=
  match s.nextRec core with
  | some (i, c, q, .submit ch off) =>
    match s.partChannel c.part ch with
    | some k =>
      if 32 ≤ s.dmaLevel k then s
      else
        let at_ := s.placer c core off
        match spadScan core c.part (some i) [(at_, 64)] [] {} s with
        | (false, s) => s
        | (true, s) =>
          let x := s.chan k
          let n := (s.dma.map (fun d => tget d.2.submitted i 0)).sum
          let d : QDesc := { cmd := i, core := core, index := n % 65536, raw := relocDesc s i core (s.spadBytes core at_ 64) }
          let s := advance core q (.submit ch off) s
          dmaSync k (s.setChan k { x with queue := x.queue ++ [d], submitted := tset x.submitted i (tget x.submitted i 0 + 1) })
    | none => s
  | _ => s

/-- The command's job has been cancelled (R575). -/
def State.cancelled (s : State) (c : Cmd) : Bool :=
  match c.work with
  | .jobStep j => (tfind s.disp.jobs j).any (fun x => !x.cancel.isEmpty)
  | _ => false

/-- End every program of a command. -/
def endPrograms (c : Cmd) (s : State) : State :=
  c.cores.foldl (fun s k => match (s.engines k).seq with
    | some x => s.setSeq k (some { x with ended := true, peer := none })
    | none => s) s

/-- DMA_WAIT: passed once the channel has ended COUNT descriptors of the command. A descriptor of the command that ended there with
an error ends the command instead (R471). -/
def dmaWait (core : Nat) (s : State) : State :=
  match s.nextRec core with
  | some (i, c, q, .wait ch n) =>
    match s.partChannel c.part ch with
    | some k =>
      let x := s.chan k
      if x.failed.contains i then endPrograms c s
      else if n ≤ tget x.ended i 0 ∨ s.cancelled c then advance core q (.wait ch n) s
      else s
    | none => s
  | _ => s

/-! ## The commands -/

/-- SQ_LOOP. -/
def execSqLoop (core : Fin 8) (s : State) : Host.Outcome State Fault Refusal := .next (loopOpen core s)
/-- SQ_ENDLOOP. -/
def execSqEndloop (core : Fin 8) (s : State) : Host.Outcome State Fault Refusal := .next (loopEnd core s)
/-- SQ_BARRIER. -/
def execSqBarrier (core : Fin 8) (s : State) : Host.Outcome State Fault Refusal := .next (barrier core s)
/-- SQ_PEER. -/
def execSqPeer (core : Fin 8) (s : State) : Host.Outcome State Fault Refusal := .next (peerWait core s)
/-- SQ_END. -/
def execSqEnd (core : Fin 8) (s : State) : Host.Outcome State Fault Refusal := .next (programEnd core s)
/-- DMA_SUBMIT. -/
def execDmaSubmit (core : Fin 8) (s : State) : Host.Outcome State Fault Refusal := .next (dmaSubmit core s)
/-- DMA_WAIT. -/
def execDmaWait (core : Fin 8) (s : State) : Host.Outcome State Fault Refusal := .next (dmaWait core s)

end Sys2Proof.Machine
end

