-- ==== Sys2Proof/Machine/Cache.lean ====
section
/-! DEFINITION. The model cache (R576 to R583, R586, R587): image bytes, entries, hot sets and their regions, pins, eviction,
activation tables, and reload after an uncorrectable error. -/

namespace Sys2Proof.Machine

/-! ## Image bytes -/

/-- Bytes of one RET leaf at an offset: RAW bytes, the damaged ones zero, or decoded EXC blocks; a block that is damaged or cannot be decoded
is zero (R506, R533). -/
def leafBytes (s : State) (l : Leaf) (o n : Nat) : List Byte :=
  if l.kind = 1 then
    let b0 := o / 4096
    let all := (List.range ((o + n + 4095) / 4096 - b0)).flatMap (fun i => match excRead s l (b0 + i) with
      | .ok blk => blk
      | .error _ => List.replicate 4096 0)
    (all.drop (o % 4096)).take n
  else zeroBad (s.badIn (l.base + o) n) (l.base + o) (s.peek (l.base + o) n)

/-- What a read of one RET leaf meets that is uncorrectable: virtual and module address of each error. -/
def leafErrors (s : State) (l : Leaf) (o n : Nat) : List (Nat × Nat) :=
  if l.kind = 1 then
    (List.range ((o + n + 4095) / 4096 - o / 4096)).filterMap (fun i => match excRead s l (o / 4096 + i) with
      | .ok _ => none
      | .error e => some (l.va + (o / 4096 + i) * 4096, e.1))
  else (s.badIn (l.base + o) n).map (fun a => (l.va + (max a (l.base + o) - l.base), a))

/-- Decoded bytes of a partition's virtual space, as an image holds them; an address without a leaf is zero. The first number is
fuel: one step for each 64 KiB. -/
def vaBytes (s : State) (p : Nat) : Nat → Nat → Nat → List Byte
  | 0, _, _ => []
  | f + 1, va, n =>
    if n = 0 then []
    else
      let m := min n (0x1_0000 - va % 0x1_0000)
      (match s.leafAt p va with
        | some l => leafBytes s l (va - l.va) m
        | none => List.replicate m 0) ++ vaBytes s p f (va + m) (n - m)

/-- What a read of a partition's virtual space meets that is uncorrectable. The first number is fuel: one step for each 64 KiB. -/
def vaErrors (s : State) (p : Nat) : Nat → Nat → Nat → List (Nat × Nat)
  | 0, _, _ => []
  | f + 1, va, n =>
    if n = 0 then []
    else
      let m := min n (0x1_0000 - va % 0x1_0000)
      (match s.leafAt p va with
        | some l => leafErrors s l (va - l.va) m
        | none => []) ++ vaErrors s p f (va + m) (n - m)

/-- Bytes a hot set takes. -/
def Entry.hotBytes (e : Entry) : Nat := e.hotUnits * 0x1_0000

/-- The bytes of an entry's RETAINED image at an offset: the hot set, with the activation tables installed in it. -/
def imageBytes (s : State) (e : Entry) (o n : Nat) : List Byte :=
  e.tables.foldl (fun (bs : List Byte) t =>
    ((List.range bs.length).zip bs).map (fun x => if t.1 ≤ o + x.1 ∧ o + x.1 < t.1 + t.2.length then t.2.getD (o + x.1 - t.1) 0 else x.2))
    (vaBytes s e.part (n / 0x1_0000 + 2) (e.hotVa + o) n)

/-! ## Entries -/

/-- The record of an entry. -/
def State.entry (s : State) (i : Nat) : Option Entry := tfind s.disp.entries i

/-- Set the record of an entry. -/
def State.setEntry (s : State) (i : Nat) (e : Entry) : State := { s with disp := { s.disp with entries := tset s.disp.entries i e } }

/-- Change the record of an entry. -/
def State.modEntry (s : State) (i : Nat) (f : Entry → Entry) : State :=
  match s.entry i with
  | some e => s.setEntry i (f e)
  | none => s

/-- Count an eviction and record it (R581). -/
def noteEviction (word part : Nat) (s : State) : State :=
  emit Ev.modelEvicted (some part) 9 0 word part 0 (s.count F.dispCacheStatsEvictions 1)

/-- The hot set of an entry leaves a core: its region is removed (R581, R406). -/
def dropHot (i core : Nat) (s : State) : State :=
  match s.entry i with
  | none => s
  | some e =>
    let gone := (e.resident ++ e.loading).filter (fun r => r.1 == core)
    gone.foldl (fun s r => removeRegion core r.2 s)
      (s.setEntry i { e with resident := e.resident.filter (fun r => r.1 != core), loading := e.loading.filter (fun r => r.1 != core) })

/-- The hot set of an entry is evicted from a core. -/
def evictHot (i core : Nat) (s : State) : State :=
  match s.entry i with
  | some e => noteEviction (i + 0x100 * (core + 1)) e.part (dropHot i core s)
  | none => s

/-- An entry is freed: its regions go with it, the partition's DRAM stays. -/
def freeEntry (i : Nat) (s : State) : State :=
  let s := (List.range 8).foldl (fun s c => dropHot i c s) s
  let s := match s.entry i with
    | some e => { s with boot := { s.boot with bodies := s.boot.bodies.filter (fun b => !(b.1 == e.part && b.2.1 == e.tag)) } }
    | none => s
  { s with disp := { s.disp with entries := terase s.disp.entries i } }

/-- Entries a partition holds. -/
def State.entriesOf (s : State) (p : Nat) : List (Nat × Entry) := s.disp.entries.filter (fun e => e.2.part == p)

/-- The entry that gives up its slot to a partition (R581): its own first, then those of a partition beyond its ENTRIES, least
recently invoked first. -/
def State.slotVictim (s : State) (p : Nat) : Option (Nat × Entry) :=
  let free := fun (x : Nat × Entry) => s.evictable x.2 && x.2.loading.isEmpty
  let byAge := fun (l : List (Nat × Entry)) => l.mergeSort (fun a b => a.2.lru ≤ b.2.lru)
  (byAge ((s.entriesOf p).filter free) ++
    byAge (s.disp.entries.filter (fun x => x.2.part != p && free x && decide ((s.entriesOf x.2.part).length > (s.quota x.2.part).entries)))).head?

/-- A free entry for a partition, evicting when none is free. -/
def takeEntry (p : Nat) (s : State) : Option Nat × State :=
  match (List.range 64).find? (fun i => (s.entry i).isNone) with
  | some i => (some i, s)
  | none => match s.slotVictim p with
    | some (i, e) => (some i, noteEviction i e.part (freeEntry i s))
    | none => (none, s)

/-! ## Regions and hot sets (R401, R406, R579, R581) -/

/-- The lowest run of units of a core that will be free: in no region, zeroed or waiting to be. -/
def CoreState.placeSoon (c : CoreState) (n : Nat) : Option Nat :=
  let taken := fun (u : Nat) => c.regions.any (fun r => decide (r.2.base ≤ u ∧ u < r.2.base + r.2.units))
  (List.range (513 - n)).find? (fun b => (List.range n).all (fun i => !taken (b + i)))

/-- A region may join a core: one of 32, and within the partition's units there (R401, R547). -/
def State.regionFits (s : State) (p core n : Nat) : Bool :=
  decide ((s.coreSt core).regions.length < 32) && decide (s.unitsHeld p core + n ≤ (s.quota p).spadUnits)

/-- Evict hot sets from a core, one at a time, until a region of `n` units fits or no candidate is left. The answer says whether it
will fit. Past its own units a partition evicts only its own. The first number is fuel. -/
def makeUnits (p core n : Nat) : Nat → State → Bool × State
  | 0, s => (false, s)
  | f + 1, s =>
    let own := !decide (s.unitsHeld p core + n ≤ (s.quota p).spadUnits)
    if s.regionFits p core n && ((s.coreSt core).placeSoon n).isSome then (true, s)
    else match ((s.evictionOrder p core).filter (fun x => !own || x.2.part == p)).head? with
      | some (i, _) => makeUnits p core n f (evictHot i core s)
      | none => (false, s)

/-- The lowest free region number of a core. -/
def CoreState.freeKey (c : CoreState) : Nat := ((List.range 32).find? (fun k => (tfind c.regions k).isNone)).getD 31

/-- Create a region on a core, when its units are zeroed; until then the creation waits (R407). The answer is its number. -/
def createRegion (w : RegionWait) (p core n : Nat) (retained : Bool) (s : State) : Option Nat × State :=
  let c := s.coreSt core
  match c.place n with
  | some b =>
    if s.regionFits p core n then
      (some c.freeKey, s.setCore core { c with regions := tset c.regions c.freeKey { retained := retained, part := p, base := b, units := n }, awaiting := c.awaiting.filter (· ≠ w) })
    else (none, s)
  | none => (none, s.setCore core { c with awaiting := c.awaiting.filter (· ≠ w) ++ (if c.zeroing.isEmpty then [] else [w]) })

/-- Throttleable work is withheld, for power or temperature (R836, R839, R852). -/
def State.withheld (s : State) : Bool := s.bit F.hubAlertPower || s.bit F.hubAlertThermal

/-- A hot set is wanted on a core: room is made, and its load begins as soon as its units are zeroed, unless loads are withheld (R836). The
answer is false when the need fails (R581). -/
def wantHot (i core : Nat) (s : State) : Bool × State :=
  match s.entry i with
  | none => (false, s)
  | some e =>
    if (e.resident ++ e.loading).any (fun r => r.1 == core) || s.withheld then (true, s)
    else
      let (ok, s) := makeUnits e.part core e.hotUnits 65 s
      if !ok then (false, s)
      else match createRegion (.hot i) e.part core e.hotUnits true s with
        | (some k, s) => (true, s.modEntry i (fun e => { e with loading := e.loading ++ [(core, k)] }))
        | (none, s) => (true, s)

/-- The bytes of a hot set arrive in its region; damaged weights arrive as zero, and the entry is to be reloaded (R506, R533, R579). -/
def fillHot (i core key : Nat) (s : State) : State :=
  match s.entry i, tfind (s.coreSt core).regions key with
  | some e, some r =>
    let t := pokeSpad core (r.base * 0x1_0000) (imageBytes s e 0 e.hotBytes) s
    (vaErrors s e.part (e.hotUnits + 2) e.hotVa e.hotBytes).foldl (fun t x => weightUe e.part x.1 x.2 none t) t
  | _, _ => s

/-! ## Pins (R580) -/

/-- RETAINED units a partition's pins claim on a core, but those of one entry. -/
def State.pinClaim (s : State) (p core but : Nat) : Nat :=
  ((s.disp.entries.filter (fun e => e.1 != but && e.2.part == p && e.2.pinned &&
    (Nat.testBit e.2.pinMask core || e.2.resident.any (fun r => r.1 == core)))).map (fun e => e.2.hotUnits)).sum

/-- The hot set of a pinned entry stands on every core of its mask. -/
def Entry.pinDone (e : Entry) : Bool :=
  (List.range 8).all (fun c => !Nat.testBit e.pinMask c || e.resident.any (fun r => r.1 == c))

/-- A pin goes on: missing loads begin; it completes when its hot set stands everywhere, and fails with CMD_RESOURCE, unpinned,
when a core has no room (log entry 24). -/
def settlePin (i : Nat) (s : State) : State :=
  match s.entry i with
  | none => s
  | some e => match e.cmd with
    | none => s
    | some id =>
      if e.pinDone then completeCmd e.part id St.ok 0 0 0 (s.setEntry i { e with cmd := none })
      else
        let r := (List.range 8).foldl (fun (a : Bool × State) c =>
          if Nat.testBit e.pinMask c then (let b := wantHot i c a.2; (a.1 && b.1, b.2)) else a) (true, s)
        if r.1 then r.2
        else completeCmd e.part id St.resource 0 0 0 (r.2.modEntry i (fun e => { e with pinned := false, pinMask := 0, cmd := none }))

/-- Every pin that waits is looked at again. -/
def settlePins (s : State) : State := (s.disp.entries.map Prod.fst).foldl (fun s i => settlePin i s) s

/-- A cache entry a command names by number, of its partition (log entry 24: CMD_STATE where there is none). -/
def withEntry (q : Nat) (c : QCmd) (i : Nat) (k : Entry → State → State) (s : State) : State :=
  match s.entry i with
  | some e => if e.part = q then k e s else completeCmd q c.id St.state 0 0 0 s
  | none => completeCmd q c.id St.state 0 0 0 s

/-- MODEL_PIN. -/
def pinEntry (q : Nat) (c : QCmd) (s : State) : State :=
  let i := c.arg0 % 64
  withEntry q c i (fun e s =>
    let mask := bitsOf c.arg0 15 8
    let mask := if mask = 0 then (e.resident.map (fun r => 2 ^ r.1)).foldl Nat.lor 0 else mask
    let full := (List.range 8).any (fun n => (Nat.testBit mask n || e.resident.any (fun r => r.1 == n)) &&
      decide (s.pinClaim q n i + e.hotUnits > (s.quota q).pinUnits))
    if full then completeCmd q c.id St.resource 0 0 0 s
    else if e.cmd.isSome then completeCmd q c.id St.state 0 0 0 s
    else settlePin i (s.setEntry i { e with pinned := true, pinMask := mask, cmd := some c.id })) s

/-! ## MODEL_LOAD (R576, R577) -/

/-- A load block breaks its layout (R576); reserved fields are ignored (R7). -/
def loadBad (len : Nat) (b : List Byte) : Bool :=
  let tag := fieldAt b 0 2
  let units := fieldAt b 40 2
  len != 64 || tag == 0 || tag == 0xFFFF || fieldAt b 32 8 % 4096 != 0 ||
  !decide (1 ≤ units ∧ units ≤ 512) || decide (fieldAt b 42 1 > 3)

/-- The entry a load block asks for. -/
def loadEntry (p : Nat) (b : List Byte) : Entry where
  state := .loading
  part := p
  tag := fieldAt b 0 2
  hostAddr := fieldAt b 8 8
  va := fieldAt b 16 8
  bytes := fieldAt b 24 8
  hotVa := fieldAt b 32 8
  hotUnits := fieldAt b 40 2
  fmt := fieldAt b 42 1
  pinned := fieldAt b 2 1 % 2 == 1
  pinMask := 0
  resident := []
  loading := []
  lru := 0
  cmd := none

/-- The conditions of R577 on an entry's leaves and hot set that need no image byte. Another entry's image is overlapped in the partition's
virtual space, or in the DRAM its leaves name, which a load never writes (R542, R578). -/
def State.loadFits (s : State) (e : Entry) : Bool :=
  match s.imageOf e.part e.va e.bytes with
  | none => false
  | some ls =>
    let size := (ls.map Leaf.size).sum
    ls.all (fun l => l.ret && l.perm == 1) &&
    s.disp.entries.all (fun x => x.2.part != e.part || !(rangesMeet e.va size x.2.va (s.imageSize x.2) ||
      ((s.imageOf x.2.part x.2.va x.2.bytes).getD []).any (fun m => ls.any (fun l => rangesMeet l.base (s.leafCoded e.part l) m.base (s.leafCoded e.part m))))) &&
    decide (e.va ≤ e.hotVa ∧ e.hotVa + e.hotBytes ≤ e.va + size) &&
    s.disp.tags.all (fun t => !(t.1 == e.part && t.2.1 == e.tag) || (t.2.2.1 == e.va && t.2.2.2.1 == e.bytes && t.2.2.2.2 == e.hotUnits))

/-- Copy a host copy into leaves, coded areas in VA order. -/
def copyImage (p : Nat) : List Leaf → List Byte → State → State
  | [], _, s => s
  | l :: ls, bs, s =>
    let n := s.leafCoded p l
    copyImage p ls (bs.drop n) (s.pokeDram l.base ((List.range n).map (fun i => bs.getD i 0)))

/-- Every EXC page of an image verifies (R529). -/
def State.imageGood (s : State) (e : Entry) (ls : List Leaf) : Bool :=
  ls.all (fun l => l.kind != 1 || excPageGood (fun o n => s.peek (l.base + o) n) (l.size / 4096) (s.extentOf e.part l.va) e.fmt)

/-- Damaged bytes of the EXC pages of an image that is being verified (R506). -/
def State.pagesBad (s : State) (p : Nat) (ls : List Leaf) : List Nat :=
  (ls.filter (fun l => l.kind == 1)).flatMap (fun l => s.badIn l.base (s.leafCoded p l))

/-- MODEL_LOAD: `copy` is what the reads of the host copy return, `ecc` what the reads of the pages to be verified meet. -/
def loadModel (q : Nat) (c : QCmd) (b : List Byte) (copy : HostRead) (ecc : Ecc) (s : State) : State :=
  let e := loadEntry q b
  if loadBad c.len b then completeCmd q c.id St.format 0 0 0 s
  else if (s.entryByTag q e.tag).isSome then completeCmd q c.id St.state 0 0 0 s
  else match takeEntry q s with
    | (none, s) => completeCmd q c.id St.resource 0 0 0 s
    | (some i, s) =>
      if !s.loadFits e then completeCmd q c.id St.verify 0 0 0 s
      else match copy.bytes? with
        | none => completeCmd q c.id St.hostRead 0 0 0 s
        | some bs =>
          let ls := (s.imageOf q e.va e.bytes).getD []
          let s := applyEcc ecc (copyImage q ls bs s)
          match s.pagesBad q ls with
          | a :: _ => mcFatal 2 a (noteUe a s)
          | [] =>
            if !s.imageGood e ls then completeCmd q c.id St.verify 0 0 0 s
            else completeCmd q c.id St.ok 0 0 i (s.setEntry i { e with state := .ready })

/-! ## Activation tables (R323, R570) -/

/-- An FP32 word is finite. -/
def finite32 (w : Nat) : Bool := bitsOf w 30 23 != 255

/-- The byte offset of the first field of a table image that verification refuses (R323). -/
def tableBad (b : List Byte) : Option Nat :=
  let words := [0, 4, 8, 12] ++ (List.range 1024).map (fun i => 32 + 4 * i)
  if fieldAt b 0 4 = 0 ∨ 2 ^ 31 ≤ fieldAt b 0 4 then some 0
  else words.find? (fun o => !finite32 (fieldAt b o 4))

/-- A refusal of verification (R568, R570): recorded, kept for DISP_VERIFY, and completed with CMD_VERIFY. -/
def refuseVerify (q id check off : Nat) (s : State) : State :=
  let s := ((s.setFld F.dispVerifyLastCheck check).setFld F.dispVerifyLastPartition q).setFld F.dispVerifyOffOff off
  completeCmd q id St.verify 0 0 0 (emit Ev.schedRefused (some q) 9 0 check off 0 s)

/-- Where the next activation table of an entry lies: from the end of the image downward, 64-byte aligned (log entry 23). -/
def Entry.tableSpot (e : Entry) : Option Nat :=
  let n := (e.tables.length + 1) * 4160
  if n ≤ e.hotBytes then some (e.hotBytes - n) else none

/-- TABLE_INSTALL of an activation table: it joins the image, and every region that holds it. -/
def installTable (q : Nat) (c : QCmd) (b : List Byte) (s : State) : State :=
  let i := bitsOf c.arg1 5 0
  withEntry q c i (fun e s =>
    if e.state ≠ .ready || s.entryInUse e then completeCmd q c.id St.state 0 0 0 s
    else match (if c.len = 4128 then tableBad b else some 0) with
      | some o => refuseVerify q c.id 0x10 o s
      | none => match e.tableSpot with
        | none => completeCmd q c.id St.resource 0 0 0 s
        | some o =>
          let t := b.take 4128
          let s := s.setEntry i { e with tables := tset e.tables o t }
          let s := e.resident.foldl (fun s r => match tfind (s.coreSt r.1).regions r.2 with
            | some g => pokeSpad r.1 (g.base * 0x1_0000 + o) t s
            | none => s) s
          completeCmd q c.id St.ok 0 0 o s) s

/-! ## Reload (R583) -/

/-- The leaf of an entry's image whose coded area holds an address, with the offset of that area in the host copy. -/
def leafAtByte (s : State) (p a : Nat) : List Leaf → Nat → Option (Leaf × Nat)
  | [], _ => none
  | l :: ls, o => if l.base ≤ a ∧ a < l.base + s.leafCoded p l then some (l, o) else leafAtByte s p a ls (o + s.leafCoded p l)

/-- The blocks of an EXC leaf whose index entry or coded data the burst at an address touches. -/
def excAt (s : State) (l : Leaf) (a : Nat) : List Nat :=
  (List.range (l.size / 4096)).filter (fun b =>
    let x := excIndex (leNat (s.peek (l.base + 8 * b) 8))
    decide (l.base + x.off < a + 64 ∧ a < l.base + x.off + x.len) || decide (l.base + 8 * b < a + 64 ∧ a < l.base + 8 * b + 8))

/-- The coded bytes that the damaged block at an address of a leaf takes: offset in the leaf's area and length. -/
def damagedSpan (s : State) (l : Leaf) (a : Nat) : List (Nat × Nat) :=
  let o := a - l.base
  if l.kind = 1 then
    (o / 256 * 256, 256) :: (excAt s l a).map (fun b => let x := excIndex (leNat (s.peek (l.base + 8 * b) 8)); (x.off, x.len))
  else [(o / 4096 * 4096, 4096)]

/-- Rewrite the 256-byte lines of a damaged block from the host copy. -/
def rewriteBlock (ls : List Leaf) (p : Nat) (copy : List Byte) (a : Nat) (s : State) : State :=
  match leafAtByte s p a ls 0 with
  | none => s
  | some (l, o) =>
    (damagedSpan s l a).foldl (fun s x =>
      let lo := l.base + x.1
      let first := lo / 256 * 256
      let n := (lo + x.2 + 255) / 256 * 256 - first
      let first := max first l.base
      let n := min n (s.leafCoded p l - (first - l.base))
      s.pokeDram first ((List.range n).map (fun i => copy.getD (o + (first - l.base) + i) 0))) s

/-- The units of a hot set that hold damaged blocks of its image: a block lies in one unit, since the hot set begins on 4 KiB. -/
def State.staleUnits (s : State) (e : Entry) (ls : List Leaf) (damage : List Nat) : List Nat :=
  ((damage.flatMap (fun a => match leafAtByte s e.part a ls 0 with
    | some (l, _) => if l.kind = 1 then (excAt s l a).map (fun b => l.va + b * 4096) else [l.va + (a - l.base)]
    | none => [])).filterMap (fun va => if e.hotVa ≤ va then some ((va - e.hotVa) / 0x1_0000) else none)).eraseDups

/-- Rewrite the damaged units of an entry's hot sets from the DRAM image, with those that were loaded from damaged blocks of it. -/
def rewriteUnits (e : Entry) (stale : List Nat) (s : State) : State :=
  e.resident.foldl (fun s r => match tfind (s.coreSt r.1).regions r.2 with
    | some g =>
      let units := (((s.coreSt r.1).poison.map (· / 0x1_0000)) ++ stale.map (· + g.base)).eraseDups.filter (fun u => decide (g.base ≤ u ∧ u < g.base + g.units))
      units.foldl (fun s u => pokeSpad r.1 (u * 0x1_0000) (imageBytes s e ((u - g.base) * 0x1_0000) 0x1_0000) s) s
    | none => s) s

/-- The host copy of an image-declared entry is its module-area copy (R650); of any other, what the host read returned. -/
def State.copyOf (s : State) (e : Entry) (copy : HostRead) : HostRead :=
  match s.boot.bodies.find? (fun b => b.1 == e.part && b.2.1 == e.tag) with
  | some b => .ok b.2.2
  | none => copy

/-- A reload of an entry runs: the damaged part of DRAM from the host copy, then the damaged scratchpad units; a host read that
fails leaves it BROKEN. -/
def reloadEntry (i : Nat) (copy : HostRead) (s : State) : State :=
  match s.entry i with
  | none => s
  | some e =>
    let s := if e.damage.isEmpty then s else asFunction (queueFn e.part) s
    match (if e.damage.isEmpty then some [] else (s.copyOf e copy).bytes?) with
    | none => emitM Ev.dmaHostError 5 0 (0x10000 + i) (hostWhy copy) 0 (s.setEntry i { e with state := .broken })
    | some bs =>
      let ls := (s.imageOf e.part e.va e.bytes).getD []
      let stale := s.staleUnits e ls e.damage
      let s := e.damage.foldl (fun s a => rewriteBlock ls e.part bs a s) s
      let s := rewriteUnits e stale (s.setEntry i { e with damage := [] })
      (s.modEntry i (fun e => { e with state := .ready })).count F.dispCacheStatsReloads 1

/-! ## The commands -/

/-- MODEL_LOAD. -/
def execModelLoad (q : Fin 65) (d copy : HostRead) (s : State) (ecc : Ecc := {}) : Host.Outcome State Fault Refusal :=
  .next (beginCmd q 0x23 true d (fun c b s => loadModel q c b copy ecc s) s)

/-- MODEL_PIN. -/
def execModelPin (q : Fin 65) (s : State) : Host.Outcome State Fault Refusal :=
  .next (beginCmd q 0x24 false (.ok []) (fun c _ s => pinEntry q c s) s)

/-- MODEL_UNPIN. -/
def execModelUnpin (q : Fin 65) (s : State) : Host.Outcome State Fault Refusal :=
  .next (beginCmd q 0x25 false (.ok []) (fun c _ s =>
    withEntry q c (c.arg0 % 64) (fun e s =>
      completeCmd q c.id St.ok 0 0 0 (s.setEntry (c.arg0 % 64) { e with pinned := false, pinMask := 0 })) s) s)

/-- TABLE_INSTALL whose ARG0[1:0] is 1 when `act`, and any other when not: a command of the other sort is not this row's. -/
def beginTable (q : Nat) (act : Bool) (d : HostRead) (k : QCmd → List Byte → State → State) (s : State) : State :=
  match s.nextCmd q with
  | some c => if (c.arg0 % 4 == 1) == act then beginCmd q 0x22 true d k s else s
  | none => s

/-- TABLE_INSTALL of a mapping block; kinds 2 and 3 complete with CMD_FORMAT (R570). -/
def execTableInstallMapping (q : Fin 65) (d : HostRead) (s : State) : Host.Outcome State Fault Refusal :=
  .next (beginTable q false d (fun c b s =>
    if c.arg0 % 4 ≠ 0 then completeCmd q c.id St.format 0 0 0 s
    else match mappingBlock q b s with
      | .ok s => completeCmd q c.id St.ok 0 0 0 s
      | .error (st, o) => if st = St.verify then refuseVerify q c.id 0x10 o s else completeCmd q c.id st 0 0 0 s) s)

/-- TABLE_INSTALL of an activation table. -/
def execTableInstallActivation (q : Fin 65) (d : HostRead) (s : State) : Host.Outcome State Fault Refusal :=
  .next (beginTable q true d (fun c b s => installTable q c b s) s)

/-- MODEL_RELOAD. -/
def execModelReload (i : Fin 64) (copy : HostRead) (s : State) : Host.Outcome State Fault Refusal :=
  .next (if (s.entry i).map Entry.state = some .reloading then reloadEntry i copy s else s)

/-- MODEL_RELOAD_RETRY. -/
def execModelReloadRetry (i : Fin 64) (copy : HostRead) (s : State) : Host.Outcome State Fault Refusal :=
  .next (if (s.entry i).map Entry.state = some .broken then reloadEntry i copy s else s)

end Sys2Proof.Machine
end

