-- ==== Sys2Proof/Machine/Program.lean ====
section
/-! DEFINITION. A schedule container as verification reads it (R562 to R565): its header, its programs' records, the sequence in which
a program issues them, and what each touches in the scratchpad. -/

namespace Sys2Proof.Machine

/-! ## The header (R562) -/

/-- The fields of a container's header and section map. -/
structure Header where
  magic : Nat
  version : Nat
  kind : Nat
  dir : Nat
  period : Nat
  window : Nat
  bmax : Nat
  k : Nat
  statePart : Nat
  nsect : Nat
  programs : Nat
  working : Nat
  wcet : Nat
  anchor : Nat
  deps : List Nat
  progs : List (Nat × Nat)
  deriving DecidableEq, Repr

/-- The header of a container. -/
def headerOf (b : List Byte) : Header where
  magic := fieldAt b 0 4
  version := fieldAt b 4 2
  kind := fieldAt b 6 1
  dir := fieldAt b 7 1
  period := fieldAt b 8 1
  window := fieldAt b 9 1
  bmax := fieldAt b 10 2
  k := fieldAt b 12 2
  statePart := fieldAt b 14 2
  nsect := fieldAt b 16 1
  programs := fieldAt b 17 1
  working := fieldAt b 18 2
  wcet := fieldAt b 20 4
  anchor := fieldAt b 24 4
  deps := (List.range 4).map (fun i => fieldAt b (32 + 2 * i) 2)
  progs := (List.range 8).map (fun i => (fieldAt b (40 + 8 * i) 4, fieldAt b (44 + 8 * i) 4))

/-- The container is a STREAM schedule. -/
def Header.stream (h : Header) : Bool := h.kind == 0

/-- A section of the map (R417). -/
def sectionOf (b : List Byte) (i : Nat) : Section :=
  let o := 128 + 8 * i
  { first := fieldAt b o 1, grans := fieldAt b (o + 1) 1 + 1, useFrom := fieldAt b (o + 2) 3, useUntil := fieldAt b (o + 5) 3 }

/-- The sections of a container. -/
def sectionsOf (b : List Byte) (h : Header) : List Section := if h.stream then (List.range h.nsect).map (sectionOf b) else []

/-- The first condition that fails, by offset: each pair is an offset and whether it is good. -/
def firstBad (l : List (Nat × Bool)) : Option Nat := (l.find? (fun x => !x.2)).map Prod.fst

/-- Check HEADER (0x01): its codes and ranges; reserved fields are ignored (R7). -/
def headerBad (len : Nat) (b : List Byte) : Option Nat :=
  let h := headerOf b
  let st := h.stream
  firstBad ([(0, decide (128 ≤ len ∧ len ≤ 0x100_0000) && h.magic == 0x4C444353), (4, h.version == 1), (6, decide (h.kind ≤ 1)), 
    (8, !st || decide (h.period ≤ 4)), (9, decide (h.window ≤ 64)), (10, !st || decide (1 ≤ h.bmax ∧ h.bmax ≤ 1024)),
    (12, !st || decide (1 ≤ h.k ∧ h.k ≤ 2560)), (14, !st || decide (1 ≤ h.statePart ∧ h.statePart ≤ 256)),
    (16, !st || (decide (1 ≤ h.nsect ∧ h.nsect ≤ 32) && decide (128 + 8 * h.nsect ≤ len))),
    (17, if st then h.programs == 2 else decide (1 ≤ h.programs ∧ h.programs ≤ 8)), (18, decide (1 ≤ h.working ∧ h.working ≤ 512)),
    (20, !st || h.wcet == 0), (24, decide (h.anchor % 2 ^ 28 < 5 * 2 ^ 25))] ++
    ((List.range 8).zip h.progs).map (fun p => (40 + 8 * p.1,
      if p.1 < h.programs then decide (p.2.2 ≤ 0x8_0000) && decide (p.2.1 + p.2.2 ≤ len) else p.2.1 == 0 && p.2.2 == 0)))

/-! ## Records -/

/-- The records of a byte stream, each with its offset; one that does not decode ends the list as none. The first number is fuel. -/
def recordsFrom : Nat → Nat → List Byte → List (Nat × Option Rec)
  | 0, _, _ => []
  | f + 1, off, b =>
    if b.isEmpty then []
    else match decodeRec (b.take 64) with
      | some r => if r.size ≤ b.length then (off, some r) :: recordsFrom f (off + r.size) (b.drop r.size) else [(off, none)]
      | none => [(off, none)]

/-- The records of program `p` of a container. -/
def programOf (b : List Byte) (h : Header) (p : Nat) : List (Nat × Option Rec) :=
  let (off, len) := h.progs.getD p (0, 0)
  recordsFrom (len / 16 + 1) off ((b.drop off).take len)

/-- The fields of a record are valid (R280, R349, R350, R351, R467, R565). -/
def recOk : Rec → Bool
  | .me r => !r.bad
  | .ve r => !r.bad
  | .ru r => !r.bad
  | .loop n beats => beats || decide (1 ≤ n)
  | .submit _ o => o % 64 == 0
  | _ => true

/-! ## Issue order (R565) -/

/-- A record as a program issues it: its offset, the VLEN and BEAT of the SP channel (none before a VE_SETVL), and how many SQ_PEERs the
program has passed. -/
structure Issue where
  off : Nat
  r : Rec
  vlen : Option Nat
  beat : Nat
  epoch : Nat
  deriving DecidableEq, Repr

/-- Where a program stands while its order is worked out. -/
structure Walker where
  pos : Nat := 0
  loops : List (Nat × Nat) := []
  vlen : Option Nat := none
  beat : Nat := 0
  epoch : Nat := 0
  deriving DecidableEq, Repr

/-- The position after the SQ_ENDLOOP that matches, from a position inside a loop on; `d` counts the loops opened since. -/
def afterLoop : Nat → List (Nat × Rec) → Nat → Nat
  | pos, [], _ => pos
  | pos, (_, .loop _ _) :: t, d => afterLoop (pos + 1) t (d + 1)
  | pos, (_, .endloop) :: t, d => match d with
    | 0 => pos + 1
    | d + 1 => afterLoop (pos + 1) t d
  | pos, _ :: t, d => afterLoop (pos + 1) t d

/-- What a record changes in the walk. A loop counted in beats before any VE_SETVL is walked once, for DEAD_READ to refuse it. -/
def Walker.next (w : Walker) (rs : List (Nat × Rec)) (r : Rec) : Walker :=
  match r with
  | .loop n beats =>
    let k := if beats then (w.vlen.map (fun v => ceilDiv v 512)).getD 1 else n
    if k = 0 then { w with pos := afterLoop (w.pos + 1) (rs.drop (w.pos + 1)) 0 }
    else { w with pos := w.pos + 1, loops := (w.pos + 1, k) :: w.loops }
  | .endloop => match w.loops with
    | (start, k) :: rest => if 1 < k then { w with pos := start, loops := (start, k - 1) :: rest } else { w with pos := w.pos + 1, loops := rest }
    | [] => { w with pos := w.pos + 1 }
  | .peer _ => { w with pos := w.pos + 1, epoch := w.epoch + 1 }
  | .ve v =>
    if v.op = 0x26 ∧ v.sp then { w with pos := w.pos + 1, vlen := some v.count, beat := 0 }
    else if v.op = 0x23 ∧ v.nextbeat then { w with pos := w.pos + 1, beat := w.beat + 1 }
    else { w with pos := w.pos + 1 }
  | _ => { w with pos := w.pos + 1 }

/-- The records a program issues, up to its SQ_END. The first number is fuel. -/
def issuesFrom (rs : List (Nat × Rec)) : Nat → Walker → List Issue
  | 0, _ => []
  | f + 1, w =>
    match rs[w.pos]? with
    | none => []
    | some (off, r) =>
      { off := off, r := r, vlen := w.vlen, beat := w.beat, epoch := w.epoch } ::
        (match r with
          | .fin => []
          | _ => issuesFrom rs f (w.next rs r))

/-- The issue order of a program: four loops of at most 65,535 around its records bound it. -/
def issuesOf (rs : List (Nat × Rec)) : List Issue := issuesFrom rs ((rs.length + 1) * 2 ^ 64) {}

/-! ## What a record touches -/

/-- Lines of BROW a row of `n` elements spans (R306). -/
def beatsOf (n : Nat) : Nat := ceilDiv n 512

/-- A schedule offset (R563) with its base kept apart from what strides add: base times 2^40, and the offset. -/
def wide (w : Nat) : Nat := w / 2 ^ 25 % 8 * 2 ^ 40 + w % 2 ^ 25

/-- The base of a wide offset. -/
def wideBase (a : Nat) : Nat := a / 2 ^ 40

/-- What verification can know of a wide range: the bytes of a dependency's image, none for WORKING words. -/
abbrev Known := Nat → Nat → Option (List Byte)

/-- The stages of a chain whose descriptor is known. -/
def Known.stages (k : Known) (r : VeRec) : List Stage := ((k r.cfg 128).map stagesOf).getD []

/-- The element program of a record, when known. -/
def Known.prog (k : Known) (r : VeRec) : Option EProg :=
  match k r.cfg 1 with
  | some l => (k r.cfg (48 + 4 * leNat l)).map eprogOf
  | none => none

/-- The wide ranges a matrix record reads and writes. -/
def meTouch (k : Known) (r : MeRec) : List (Nat × Nat) × List (Nat × Nat) :=
  let r := r.reloc wide
  match r.op with
  | 1 => ([(r.src, tileBytes r.wfmt)], [])
  | 2 =>
    let rows := if r.indirect then (List.range r.m).filterMap (fun i => (k (r.src + i * r.rowStride) 4).map (fun b => (r.src + 64 * leNat b, r.scaleSrc + 16 * leNat b)))
      else (List.range r.m).map (fun i => (r.src + i * r.rowStride, r.scaleSrc + i * r.scaleStride))
    ((if r.indirect then (List.range r.m).map (fun i => (r.src + i * r.rowStride, 4)) else []) ++ rows.map (fun p => (p.1, 256)) ++
      (if isMx r.rfmt then rows.map (fun p => (p.2, scaleBytes r.rfmt)) else []), r.outs)
  | 3 => ([], r.outs)
  | _ => ([], [])

/-- The descriptor, program or table image a vector record takes in. -/
def veImage (k : Known) (r : VeRec) : List (Nat × Nat) :=
  match r.op with
  | 0x21 => [(r.cfg, 128)]
  | 0x22 => [(r.cfg, 48 + 4 * (((k.prog r).map (fun g => g.code.length)).getD 0))]
  | 0x25 => [(r.cfg, 4128)]
  | _ => []

/-- The rows of A and of B that a chain or an element program reads; `n` is VLEN, or N_ACTIVE on the MX channel. -/
def veSources (k : Known) (r : VeRec) (n : Nat) : List (Nat × Nat) × List (Nat × Nat) :=
  let side := if r.op = 0x21 then chainReads (k.stages r) 3 else (k.prog r).any (fun g => g.reads 17)
  (if r.sp then rowRanges r.srcA r.aStride r.rows (fmtBytes r.aFmt n) else [],
   if side then rowRanges r.srcB r.bStride r.rows (fmtBytes r.bFmt n) else [])

/-- What a vector record reads and writes beside the image it takes in. -/
def veRows (k : Known) (r : VeRec) (n beat : Nat) : List (Nat × Nat) × List (Nat × Nat) :=
  match r.op with
  | 0x21 => let x := veSources k r n; (x.1 ++ x.2, outRanges r n (reduceKind (k.stages r)).isSome)
  | 0x22 => let x := veSources k r n; (x.1 ++ x.2, outRanges r n false)
  | 0x23 =>
    let m := min 512 (n - beat * 512)
    match (decodeV r.cfg).opc with
    | 0x20 => ([(r.srcA + (r.rows - 1) * r.aStride + fmtBytes r.aFmt (beat * 512), fmtBytes r.aFmt m)], [])
    | 0x21 => ([], (r.dst + (r.rows - 1) * r.dStride + fmtBytes r.dFmt (beat * 512), outBytes r.dFmt m) ::
        (if isMx r.dFmt then [(r.dstAux + (r.rows - 1) * r.auxStride + beat * 16, (m + 31) / 32)] else []))
    | _ => ([], [])
  | 0x24 =>
    ((if flagBit r.bcast 0 then [(r.cfg, fmtBytes r.aFmt (if r.count = 0 then 65536 else r.count))] else []) ++
      (if flagBit r.bcast 1 then [(r.srcB, fmtBytes r.bFmt r.rows)] else []), [])
  | _ => ([], [])

/-- The wide ranges a vector record reads and writes. -/
def veTouch (k : Known) (r : VeRec) (n beat : Nat) : List (Nat × Nat) × List (Nat × Nat) :=
  let r := r.reloc wide
  let x := veRows k r n beat
  (veImage k r ++ x.1, x.2)

/-- The wide ranges an issued record reads and writes; `n` is N_ACTIVE of the matrix operation that feeds it. -/
def Issue.touch (k : Known) (n : Nat) (i : Issue) : List (Nat × Nat) × List (Nat × Nat) :=
  match i.r with
  | .me r => meTouch k r
  | .ve r => veTouch k r (if r.sp then i.vlen.getD 0 else n) i.beat
  | .ru r => (r.reloc wide).ranges
  | .submit _ o => ([(wide o, 64)], [])
  | _ => ([], [])

/-! ## Descriptors that can be known at load -/

/-- An address word with its schedule offset made wide. -/
def wideWord (w : Nat) : Nat := if spaceOf w = 1 then w / 2 ^ 48 * 2 ^ 48 + wide (w % 2 ^ 48) else w

/-- A descriptor with its offsets made wide. -/
def Desc.widen (d : Desc) : Desc :=
  { d with src := wideWord d.src, dst := wideWord d.dst, comp := if d.record then wideWord d.comp else d.comp, members := wide d.members }

/-- The descriptor a DMA_SUBMIT names, when its bytes are known. -/
def Known.desc (k : Known) (o : Nat) : Option Desc := (k (wide o) 64).map (fun b => (descOf b).widen)

/-- The straight pieces of a side of a descriptor: every run of its pattern. -/
def Desc.pieces (d : Desc) (dst : Bool) : List (Nat × Nat) :=
  (List.range d.c2).flatMap (fun i2 => (List.range d.c1).flatMap (fun i1 =>
    if dst then sideSegs (addrOf d.dst + i1 * d.ds1 + i2 * d.ds2) d.circDst d.dstLog 0 d.c0
    else sideSegs (addrOf d.src + i1 * d.ss1 + i2 * d.ss2) d.circSrc d.srcLog 0 d.c0))

/-- A descriptor reads its source side, and has a destination side. -/
def Desc.hasSrc (d : Desc) : Bool := d.op == 1 || d.op == 4
def Desc.hasDst (d : Desc) : Bool := d.op != 4

/-- The scratchpad ranges a descriptor reads and writes on the core of program `p`: its member table when it was submitted there. -/
def Desc.spad (d : Desc) (p : Nat) (own : Bool) : List (Nat × Nat) × List (Nat × Nat) :=
  let on := fun (w : Nat) => spaceOf w == 1 && coreOf w == p
  ((if d.hasSrc && on d.src then d.pieces false else []) ++ (if own && (d.op == 3 || d.op == 4) then [(d.members, 32 * d.c1)] else []),
   (if d.hasDst && on d.dst then d.pieces true else []) ++ (if d.record && on d.comp then [(addrOf d.comp, 32)] else []))

end Sys2Proof.Machine
end

