-- ==== Sys2Proof/Machine/Slots.lean ====
section
/-! DEFINITION. The slot service of the scratchpad as verification computes it (R394 to R398): the words an operation uses and the
cycles it uses them in, and whether each is served within its window. -/

namespace Sys2Proof.Machine

/-- Who reaches the scratchpad through slots of its own (R395). -/
inductive Requester where
  /-- matrix operands and results, with the MX channel's output and the gate pipeline -/
  | operands
  /-- ME_LOAD -/
  | weights
  /-- the SP channel, with the MX channel's side reads and REDUCE results (R335) -/
  | vector
  | recurrence
  | dma
  /-- zeroing and scrub -/
  | service
  deriving DecidableEq, Repr

/-- The slot positions of a requester (R395). -/
def Requester.positions : Requester → List Nat
  | .operands => List.range 8
  | .weights => [8, 9]
  | .vector => [10, 11, 12]
  | .recurrence => [13]
  | .dma => [14]
  | .service => [15]

/-- Words of 64 bytes a requester moves in a cycle: four banks for each of its positions (R396). -/
def Requester.rate (q : Requester) : Nat := 4 * q.positions.length

/-- One of the positions owns a bank's group in a cycle (R396). -/
def ownsBank (ps : List Nat) (cycle bank : Nat) : Bool := ps.any (fun p => (p + cycle) % 16 == bank / 4)

/-- The words, in the order of their requests, are all served within their 32 cycles (R397): each is a cycle of request and a word. A
table holds the cycle after each bank's last service; `phase` is where in the rotation cycle 0 falls. -/
def served (ps : List Nat) (phase : Nat) : Tbl Nat → List (Nat × Nat) → Bool
  | _, [] => true
  | next, (u, w) :: t =>
    let lo := max u (tget next (w % 64) 0)
    match (List.range' lo (u + 32 - lo)).find? (fun c => ownsBank ps (c + phase) (w % 64)) with
    | some c => served ps phase (tset next (w % 64) (c + 1)) t
    | none => false

/-- Words are served whatever the phase the operation begins at. -/
def servedAlways (q : Requester) (l : List (Nat × Nat)) : Bool :=
  let l := l.mergeSort (fun x y => decide (x.1 ≤ y.1))
  (List.range 16).all (fun phase => served q.positions phase [] l)

/-- The words of `n` bytes at an offset, used in a cycle. -/
def wordsAt (cycle a n : Nat) : List (Nat × Nat) :=
  if n = 0 then [] else (List.range ((a + n - 1) / 64 + 1 - a / 64)).map (fun i => (cycle, a / 64 + i))

/-- The words of ranges moved one after another at the full rate of a requester's slots, each with its cycle: how an operation with no
cycles of its own in the manual uses them (log entry 138). -/
def streamWords (q : Requester) (rs : List (Nat × Nat)) : List (Nat × Nat) :=
  let l := rs.flatMap (fun a => wordsAt 0 a.1 a.2)
  ((List.range l.length).zip l).map (fun x => (x.1 / q.rate, x.2.2))

/-- The cycle in which row `i` of a matrix operation enters (R294). -/
def MeRec.entry (r : MeRec) (i : Nat) : Nat := if r.dest = 3 then 9 * i / 8 else i

/-- What an ME_STREAM or ME_DRAIN uses of the matrix slots: list entries or rows with their scales, and rows for the scratchpad 160
cycles later. Rows named by a list have no address fixed at load (R399). -/
def meWords (r : MeRec) : List (Nat × Nat) :=
  (List.range r.m).flatMap (fun i =>
    let c := r.entry i
    (if r.op ≠ 2 then [] else if r.indirect then wordsAt c (r.src + i * r.rowStride) 4
      else wordsAt c (r.src + i * r.rowStride) 256 ++ wordsAt c (r.scaleSrc + i * r.scaleStride) (scaleBytes r.rfmt)) ++
    (if r.dest = 3 then wordsAt (if r.op = 2 then c + 160 else c) (r.dst + i * 2048) 2048 else []))

/-- What a row writes at DST and DST_AUX, from element `e` on, `m` of them. -/
def outWords (r : VeRec) (cycle row e m : Nat) : List (Nat × Nat) :=
  wordsAt cycle (r.dst + row * r.dStride + fmtBytes r.dFmt e) (outBytes r.dFmt m) ++
    (if isMx r.dFmt then wordsAt cycle (r.dstAux + row * r.auxStride + e / 32) ((m + 31) / 32) else [])

/-- Slot transfers per beat on the SP channel (R337). -/
def VeRec.transfers (r : VeRec) (side : Bool) : Nat :=
  ceilDiv (fmtBytes r.aFmt 512 + (if side then fmtBytes r.bFmt 512 else 0)) 256 + ceilDiv (outBytes r.dFmt 512 + (if isMx r.dFmt then 16 else 0)) 256

/-- What a chain or an element program on the SP channel uses of the vector slots (R337): `l` is 1 for a chain and the length of a
program, `side` says that B is read, `reduce` that a REDUCE result ends each row. -/
def spWords (r : VeRec) (n l : Nat) (side reduce : Bool) : List (Nat × Nat) :=
  let beats := beatsOf n
  let s := r.transfers side
  (List.range r.rows).flatMap (fun row => (List.range beats).flatMap (fun b =>
    let k := row * beats + b
    let c := 2 + max (k * l) (ceilDiv (k * s + (if reduce then row else 0)) 3)
    let m := min 512 (n - b * 512)
    wordsAt c (r.srcA + row * r.aStride + fmtBytes r.aFmt (b * 512)) (fmtBytes r.aFmt m) ++
      (if side then wordsAt c (r.srcB + row * r.bStride + fmtBytes r.bFmt (b * 512)) (fmtBytes r.bFmt m) else []) ++
      outWords r (c + l + 40) row (b * 512) m ++
      (if reduce && b + 1 == beats then wordsAt (c + l + 48) (r.dstAux + row * r.auxStride) 4 else [])))

/-- A word of an operation would not be served within its window: tile images through the weight slots, matrix rows, gate outputs and MX
outputs through the operand slots, vector rows through the vector slots, the rows of RU_SCAN, RU_RING, RU_TOEP and RU_TLOAD through the
recurrence slot, and a known descriptor's runs on the submitting core through the DMA slot. Tables, descriptors, BROW and BCOL sources
and register-mode rows of the vector engine are contiguous streams at their slots' rate, which R398 says are served. -/
def slotMiss (kn : Known) (p : Nat) (x : Issue × Nat) : Bool :=
  match x.1.r with
  | .me r =>
    if r.op = 1 then !servedAlways .weights (streamWords .weights [(wide r.src, tileBytes r.wfmt)])
    else (r.op == 2 || r.op == 3) && !servedAlways .operands (meWords (r.reloc wide))
  | .ve r =>
    let w := r.reloc wide
    let n := if r.sp then x.1.vlen.getD 0 else x.2
    let gs := kn.stages w
    let side := !(veSources kn w n).2.isEmpty
    if r.op = 0x21 ∧ r.sp then !servedAlways .vector (spWords w n 1 side (reduceKind gs).isSome)
    else if r.op = 0x21 then
      !servedAlways .operands ((List.range r.rows).flatMap (fun i => outWords w i i 0 n)) ||
      !servedAlways .vector ((List.range r.rows).flatMap (fun i => (if side then wordsAt i (w.srcB + i * w.bStride) (fmtBytes w.bFmt n) else []) ++
        (if (reduceKind gs).isSome then wordsAt (i + 48) (w.dstAux + i * w.auxStride) 4 else [])))
    else if r.op = 0x22 then !servedAlways .vector (spWords w n (((kn.prog w).map (fun g => g.code.length)).getD 1) side false)
    else false
  | .ru r =>
    if r.op = 0x33 then !servedAlways .operands ((List.range r.rows).flatMap (fun i => wordsAt i (wide r.dst + i * r.dStride) (fmtBytes r.outFmt r.units)))
    else
      let t := (r.reloc wide).ranges
      !servedAlways .recurrence (streamWords .recurrence t.1) || !servedAlways .recurrence (streamWords .recurrence t.2)
  | .submit _ o =>
    (kn.desc o).any (fun d =>
      let t := d.spad p true
      !servedAlways .dma (streamWords .dma t.1) || !servedAlways .dma (streamWords .dma t.2))
  | _ => false

end Sys2Proof.Machine
end

