-- ==== Sys2Proof/Machine/Timing.lean ====
section
/-! DEFINITION. The times load-time verification takes as exact (R294, R335 to R338, R381, R468, R532), and what they sum to in a program:
the least that a command lasts. What issue, waits between engines and slot service add is open (log entry 25). -/

namespace Sys2Proof.Machine

/-! ## One operation -/

/-- CORE cycles in ninths of a nanosecond at the highest CORE clock, 1.8 GHz (R296). -/
def ofCycles (n : Nat) : Nat := 5 * n
/-- Nanoseconds in ninths. -/
def ofNs (n : Nat) : Nat := 9 * n

/-- Cycles a matrix operation holds the engine of its kind (R294, R296). -/
def MeRec.cycles (r : MeRec) : Nat :=
  match r.op with
  | 1 => if r.wfmt = 7 then 272 else if isMx r.wfmt then 264 else 256
  | 4 => ceilDiv r.m 4
  | _ => r.entry (r.m - 1) + 1

/-- Cycles a vector record holds its channel (R335, R337, R338): every beat's entry, or an issue. -/
def veCycles (kn : Known) (r : VeRec) (n : Nat) : Nat :=
  let beats := r.rows * beatsOf n
  let side := !(veSources kn r n).2.isEmpty
  let span := fun (l : Nat) => max ((beats - 1) * l) (ceilDiv ((beats - 1) * r.transfers side) 3) + 1
  match r.op with
  | 0x21 => if r.sp then span 1 else r.rows
  | 0x22 => span (((kn.prog r).map (fun g => g.code.length)).getD 1)
  | 0x23 => 1
  | _ => 0

/-- Tide-pool bytes and scratchpad bytes an operation of the tide-pool group moves (R355, R356, R369, R370). -/
def RuRec.moves (r : RuRec) : Nat × Nat :=
  match r.op with
  | 0x31 => (r.rows * r.elems * storeSize r.prec, 0)
  | 0x32 => (r.rows * r.elems * storeSize r.prec, 0)
  | 0x36 =>
    if r.append then (r.rows * (16 + r.units * min r.count r.elems * r.unitBytes), r.rows * r.units * r.count * r.unitBytes)
    else (r.rows * ringBytes r, r.rows * r.units * r.elems * r.unitBytes)
  | _ => (0, 0)

/-- The time of a recurrence operation in ninths of a nanosecond (R381). -/
def RuRec.time (r : RuRec) : Nat :=
  match r.op with
  | 0x33 => ofCycles r.rows
  | 0x34 =>
    let ep := r.rows * r.elems * r.tPos
    let bytes := ep * (2 * elemBits r.inFmt + (if r.outAll then elemBits r.outFmt else 0)) / 8
    ofCycles (2 + max (ceilDiv ep (if r.prec = 3 then 128 else 512)) (ceilDiv bytes 256))
  | 0x35 => ofCycles 520
  | 0x37 => ofCycles 17
  | 0x38 => 0
  | _ => ofNs 400 + max (ofNs (ceilDiv r.moves.1 200)) (ofCycles (ceilDiv r.moves.2 256))

/-! ## Descriptors -/

/-- Leaves cover a virtual range with a permission, 0 read or 1 write, and answer to a test of the leaf. The first number is fuel: one leaf
each. -/
def leavesCover (s : State) (p bit : Nat) (good : Leaf → Bool) : Nat → Nat → Nat → Bool
  | 0, _, n => n == 0
  | f + 1, a, n =>
    if n = 0 then true
    else match s.leafAt p a with
      | some l => Nat.testBit l.perm bit && good l && leavesCover s p bit good f (l.va + l.size) (n - (l.va + l.size - a))
      | none => false

/-- The leaves a virtual range goes through, as far as they are there. The first number is fuel: one leaf each. -/
def spanned (s : State) (p : Nat) : Nat → Nat → Nat → List Leaf
  | 0, _, _ => []
  | f + 1, a, n =>
    if n = 0 then []
    else match s.leafAt p a with
      | some l => l :: spanned s p f (l.va + l.size) (n - (l.va + l.size - a))
      | none => spanned s p f ((a / 0x1_0000 + 1) * 0x1_0000) (n - ((a / 0x1_0000 + 1) * 0x1_0000 - a))

/-- What verification charges for the read of a range (R532): line slots of the controllers, for coded lines and for index lines, one for 32
blocks of a run and one for each block of a shorter one; and MEM cycles of the busiest cluster (R531). Ranges through no EXC leaf cost
nothing here. -/
def excCharge (s : State) (p a n : Nat) : Nat × Nat :=
  let blocks := (List.range (ceilDiv n 4096)).filterMap (fun i =>
    match s.leafAt p (a + 4096 * i) with
    | some l => if l.kind = 1 then some ((a + 4096 * i) / 4096 % 12, excIndex (leNat (s.peek (l.base + 8 * ((a + 4096 * i - l.va) / 4096)) 8))) else none
    | none => none)
  let lines := (blocks.map (fun b => if b.2.len = 0 then 0 else (b.2.off + b.2.len - 1) / 256 + 1 - b.2.off / 256)).sum
  let index := if blocks.length < 32 then blocks.length else ceilDiv blocks.length 32
  let held := fun (c : Nat) => ((blocks.filter (fun b => b.1 == c)).map (fun b => if b.2.stored then 0 else if b.2.fmt < 2 then 32 else 64)).sum
  (lines + index, ((List.range 12).map held).foldl max 0)

/-- The worst-case duration in ns of a descriptor (R468): 500 ns and its bytes at 7.8 GB/s, 300 ns more with ARRIVE. No endpoint of R482 alone
is slower, but for EXC reads: their line slots at the largest share of a die, and the decoding of the busiest cluster (R494, R532). -/
def descNs (s : State) (p : Nat) (d : Desc) : Nat :=
  let exc := (if d.hasSrc && spaceOf d.src == 0 then d.pieces false else []).map (fun x => excCharge s p x.1 x.2)
  let share := ((List.range 4).map (fun i => (s.reg R.mcDieSlots).toNat / 256 ^ i % 256)).foldl max 1
  500 + max (ceilDiv (d.total * 10) 78) (max ((exc.map Prod.fst).sum * 1000 / (12 * share)) ((exc.map Prod.snd).sum * 5 / 6)) + (if d.arrive then 300 else 0)

/-! ## A program -/

/-- What an issue holds, and for how long in ninths of a nanosecond: 1 to 3 the matrix engine by kind of operation, streams and drains apart, 5
and 6 the vector channels, 7 to 9 the recurrence groups (R382), and from 16 on a DMA channel. -/
def Issue.cost (s : State) (p : Nat) (kn : Known) (x : Issue × Nat) : Nat × Nat :=
  match x.1.r with
  | .me r => (r.op, ofCycles r.cycles)
  | .ve r => (if r.sp then 6 else 5, ofCycles (veCycles kn (r.reloc wide) (if r.sp then x.1.vlen.getD 0 else x.2)))
  | .ru r => (if r.op = 0x33 then 9 else if r.op = 0x31 ∨ r.op = 0x32 ∨ r.op = 0x36 then 7 else 8, r.time)
  | .submit c o => (16 + c, match kn.desc o with | some d => ofNs (descNs s p d) | none => 0)
  | _ => (0, 0)

/-- The least time in ns a program lasts: what it puts on its busiest unit, since the operations of one follow each other. -/
def programNs (s : State) (p : Nat) (kn : Known) (l : List (Issue × Nat)) : Nat :=
  let t := l.foldl (fun (t : Tbl Nat) x => let c := Issue.cost s p kn x; tset t c.1 (tget t c.1 0 + c.2)) []
  ceilDiv ((t.map Prod.snd).foldl max 0) 9

/-- The accesses of a program to its members' state part, in issue order, each with the least time in ns from the program's start at which it
has ended: the tide-pool group runs them one after another (R381, R382). The number is the time before them. -/
def stateTimes : Nat → List RuRec → List (RuRec × Nat)
  | _, [] => []
  | t, r :: l => (r, t + ceilDiv r.time 9) :: stateTimes (t + ceilDiv r.time 9) l

end Sys2Proof.Machine
end

