-- ==== Sys2Proof/Machine/Verify.lean ====
section
/-! DEFINITION. Load-time verification (R568) and the installation of schedules (R561a, R567). Each check answers the container offset
of the first item it refuses. A descriptor or program that lies in WORKING words has no bytes at load, so its own fields are not
checked here, but a descriptor there is refused (log entry 26). -/

namespace Sys2Proof.Machine

/-- What the checks look at: the partition, the container, its header, and for each program its records and its issue order. -/
structure Checked where
  part : Nat
  body : List Byte
  h : Header
  recs : List (List (Nat × Option Rec))
  runs : List (List Issue)
  deriving DecidableEq, Repr

/-- A container made ready for the checks. -/
def checkedOf (p : Nat) (b : List Byte) : Checked :=
  let h := headerOf b
  let recs := (List.range h.programs).map (programOf b h)
  { part := p, body := b, h := h, recs := recs, runs := recs.map (fun rs => issuesOf (rs.filterMap (fun x => x.2.map (fun r => (x.1, r))))) }

/-- The entry that dependency `d` (0 to 3) names. -/
def State.depEntry (s : State) (k : Checked) (d : Nat) : Option Entry :=
  let tag := k.h.deps.getD d 0
  if tag = 0 then none else (s.entryByTag k.part tag).map Prod.snd

/-- Bytes known at load: those of the images of the dependencies (R402, R563). -/
def State.known (s : State) (k : Checked) : Known := fun a n =>
  let b := wideBase a
  if 1 ≤ b ∧ b ≤ 4 then
    match s.depEntry k (b - 1) with
    | some e => if a % 2 ^ 40 + n ≤ e.hotBytes then some (imageBytes s e (a % 2 ^ 40) n) else none
    | none => none
  else none

/-- Every issue of a container, with its program. -/
def Checked.all (k : Checked) : List (Nat × Issue) :=
  ((List.range k.runs.length).zip k.runs).flatMap (fun p => p.2.map (fun i => (p.1, i)))

/-- The first issue a test refuses. -/
def firstIssue (l : List Issue) (bad : Issue → Bool) : Option Nat := (l.find? bad).map Issue.off

/-- The first of two answers. -/
def orElse2 (a b : Option Nat) : Option Nat := match a with | some x => some x | none => b

/-- The first answer of a list. -/
def firstOf (l : List (Option Nat)) : Option Nat := l.foldl orElse2 none

/-! ## RECORD (0x02) -/

/-- What an issued record names is valid: its known descriptor or program, and its BROW lines (R310). -/
def issueOk (kn : Known) (i : Issue) : Bool :=
  match i.r with
  | .ve r =>
    let lines := !(r.sp && (r.op == 0x21 || r.op == 0x22 || r.op == 0x23)) || decide (r.browBase + beatsOf (i.vlen.getD 0) ≤ 128)
    lines &&
    (match r.op with
      | 0x21 => (kn (wide r.cfg) 128).all chainOk
      | 0x22 => match kn (wide r.cfg) 1 with
        | some l => (kn (wide r.cfg) (48 + 4 * leNat l)).all progOk
        | none => true
      | _ => true)
  | .submit _ o => match kn.desc o with
    | some d => decide (1 ≤ d.op ∧ d.op ≤ 4 ∧ d.flags < 64) && d.shape != 3 && wordClean (d.src % 2 ^ 40 + d.src / 2 ^ 48 * 2 ^ 48) && wordClean (d.dst % 2 ^ 40 + d.dst / 2 ^ 48 * 2 ^ 48)
    | none => true
  | _ => true

/-- Check RECORD. -/
def badRecord (s : State) (k : Checked) : Option Nat :=
  orElse2 (((k.recs.flatten).find? (fun x => !x.2.any recOk)).map Prod.fst) (firstIssue k.runs.flatten (fun i => !issueOk (s.known k) i))

/-! ## LOOP (0x03) -/

/-- The first record of a program at which its loops break: deeper than four, an end without a start, or an SQ_END inside one. -/
def badNest : Nat → List (Nat × Rec) → Option Nat
  | _, [] => none
  | d, (o, .loop _ _) :: t => if 4 ≤ d then some o else badNest (d + 1) t
  | d, (o, .endloop) :: t => match d with
    | 0 => some o
    | d + 1 => badNest d t
  | d, (o, .fin) :: t => if 0 < d then some o else badNest d t
  | d, _ :: t => badNest d t

/-- The SQ_PEERs a program reaches: offset and ID. -/
def peersOf (l : List Issue) : List (Nat × Nat) := l.filterMap (fun i => match i.r with | .peer n => some (i.off, n) | _ => none)

/-- The offset at which two programs' SQ_PEERs part. -/
def peersPart : List (Nat × Nat) → List (Nat × Nat) → Option Nat
  | [], [] => none
  | [], (o, _) :: _ => some o
  | (o, _) :: _, [] => some o
  | (_, a) :: s, (o, b) :: t => if a = b then peersPart s t else some o

/-- Check LOOP. -/
def badLoop (k : Checked) : Option Nat :=
  let progs := k.recs.map (fun rs => rs.filterMap (fun x => x.2.map (fun r => (x.1, r))))
  let one := fun (p : Nat × List (Nat × Rec)) =>
    match badNest 0 p.2 with
    | some o => some o
    | none => if p.2.any (fun x => x.2 == .fin) then none else some (40 + 8 * p.1)
  firstOf (((List.range progs.length).zip progs).map one ++ k.runs.map (fun r => peersPart (peersOf (k.runs.headD [])) (peersOf r)))

/-! ## FORMAT_PAIR (0x04) -/

/-- The pairs of R276. -/
def pairOk (w r : Nat) : Bool :=
  (decide (w ≤ 1) && decide (r ≤ 1)) || ((w == 2 || w == 3) && (r == 2 || r == 3)) || (w == 4 && r == 4) ||
  ((w == 5 || w == 6) && (r == 5 || r == 6)) || (w == 7 && r == 7)

/-- The first ME_STREAM of a program whose pair is not permitted, or that names another format than its ACTIVE tile's. The numbers are
the formats of ACTIVE and SHADOW. -/
def badPairs : Option Nat → Option Nat → List Issue → Option Nat
  | _, _, [] => none
  | act, shw, i :: t => match i.r with
    | .me r =>
      if r.op = 1 then badPairs act (some r.wfmt) t
      else if r.op = 2 then
        let (act, shw) := if r.swap then (shw, act) else (act, shw)
        if pairOk r.wfmt r.rfmt && (act.isNone || act == some r.wfmt) then badPairs act shw t else some i.off
      else badPairs act shw t
    | _ => badPairs act shw t

/-- A known chain descriptor agrees with the rules of R315. -/
def chainPairs (kn : Known) (i : Issue) : Bool :=
  match i.r with
  | .ve r => r.op != 0x21 || (kn (wide r.cfg) 128).all (fun b => chainFits (stagesOf b) r.dFmt)
  | _ => true

/-- Check FORMAT_PAIR. -/
def badFormats (s : State) (k : Checked) : Option Nat :=
  orElse2 (firstOf (k.runs.map (badPairs none none))) (firstIssue k.runs.flatten (fun i => !chainPairs (s.known k) i))

/-! ## PAIRING (0x08) of rows with the operations they feed (R308, R358) -/

/-- The matrix operations of a program that send rows to a destination: M, N_ACTIVE and offset, in issue order. -/
def feedsOf (dest : Nat) (l : List Issue) : List (Nat × Nat × Nat) :=
  l.filterMap (fun i => match i.r with
    | .me r => if (r.op = 2 ∨ r.op = 3) ∧ r.dest = dest then some (r.m, r.nActive, i.off) else none
    | _ => none)

/-- A record that takes rows from the matrix engine: destination and ROWS. -/
def takerOf (i : Issue) : Option (Nat × Nat) :=
  match i.r with
  | .ve r => if r.op = 0x21 ∧ !r.sp then some (1, r.rows) else none
  | .ru r => if r.op = 0x33 then some (2, r.rows) else none
  | _ => none

/-- Each issue of a program with N_ACTIVE of the matrix operation that feeds it, 0 when none does. -/
def withFeed (l : List Issue) : List (Issue × Nat) :=
  let go := fun (a : List (Issue × Nat) × List (Nat × Nat × Nat) × List (Nat × Nat × Nat)) (i : Issue) =>
    match takerOf i with
    | some (1, _) => ((i, (a.2.1.head?.map (fun f => f.2.1)).getD 0) :: a.1, a.2.1.drop 1, a.2.2)
    | some _ => ((i, (a.2.2.head?.map (fun f => f.2.1)).getD 0) :: a.1, a.2.1, a.2.2.drop 1)
    | none => ((i, 0) :: a.1, a.2.1, a.2.2)
  (l.foldl go ([], feedsOf 1 l, feedsOf 2 l)).1.reverse

/-- Bytes an MX chain writes in a row, and its vector-slot bytes (R336). -/
def mxSlotsOk (kn : Known) (r : VeRec) (n : Nat) : Bool :=
  let gs := kn.stages (r.reloc wide)
  let out := outBytes r.dFmt n + (if isMx r.dFmt then (n + 31) / 32 else 0)
  let slots := (if chainReads gs 3 then fmtBytes r.bFmt n else 0) + (if (reduceKind gs).isSome then 4 else 0) + (if chainReads gs 2 then 4 else 0)
  decide (out ≤ 1792) && decide (slots ≤ 768)

/-- The first pairing of a program that fails: a matrix operation meets no operation issued before it, counts differ, or a taker is
left over. -/
def badFeeds (kn : Known) (dest : Nat) (l : List Issue) : Option Nat :=
  let go := fun (a : List (Nat × Issue) × Option Nat) (i : Issue) =>
    match a.2 with
    | some o => (a.1, some o)
    | none =>
      match takerOf i with
      | some (d, n) => if d = dest then (a.1 ++ [(n, i)], none) else a
      | none =>
        match i.r with
        | .me r =>
          if (r.op = 2 ∨ r.op = 3) ∧ r.dest = dest then
            match a.1 with
            | [] => (a.1, some i.off)
            | (n, t) :: rest =>
              let fits : Bool := match t.r with
                | .ve v => mxSlotsOk kn v r.nActive
                | .ru g => r.nActive == 4 * g.units
                | _ => true
              (rest, if n == r.m && fits then none else some t.off)
          else a
        | _ => a
  match l.foldl go ([], none) with
  | (_, some o) => some o
  | ((_, t) :: _, none) => some t.off
  | ([], none) => none

/-- Check PAIRING. -/
def badFeed (s : State) (k : Checked) : Option Nat :=
  firstOf (k.runs.flatMap (fun l => [badFeeds (s.known k) 1 l, badFeeds (s.known k) 2 l]))

/-! ## REGION (0x05) -/

/-- A wide range lies in its base region: WORKING, or the hot set of a dependency. An absent dependency is left to check 0x0D. -/
def State.inRegion (s : State) (k : Checked) (x : Nat × Nat) : Bool :=
  let b := wideBase x.1
  let e := x.1 % 2 ^ 40 + x.2
  if x.2 = 0 then true
  else if b = 0 then decide (e ≤ k.h.working * 0x1_0000)
  else if b ≤ 4 then
    if k.h.deps.getD (b - 1) 0 = 0 then false
    else match s.depEntry k (b - 1) with
      | some d => decide (e ≤ d.hotBytes)
      | none => true
  else false

/-- Members of the share of program `p` of a full cohort (R564). -/
def Header.share (h : Header) (p : Nat) : Nat := if p = 0 then (h.bmax + 1) / 2 else h.bmax / 2

/-- What the dispatcher writes at ANCHOR_OFF for program `p`: the member table of a full cohort, or the step parameter. -/
def Header.anchored (h : Header) (p : Nat) : Nat × Nat := (wide h.anchor, if h.stream then 32 * h.share p else 8)

/-- The scratchpad ranges an issue reads and writes, those of a known DMA descriptor on its own core included. -/
def touched (kn : Known) (p : Nat) (x : Issue × Nat) : List (Nat × Nat) × List (Nat × Nat) :=
  let t := x.1.touch kn x.2
  match x.1.r with
  | .submit _ o => match kn.desc o with
    | some d => let u := d.spad p true; (t.1 ++ u.1, t.2 ++ u.2)
    | none => t
  | _ => t

/-- The ranges of a known descriptor on the other cores of the command. -/
def elsewhere (kn : Known) (p n : Nat) (i : Issue) : List (Nat × Nat) × List (Nat × Nat) :=
  match i.r with
  | .submit _ o => match kn.desc o with
    | some d =>
      let l := ((List.range n).filter (· ≠ p)).map (fun q => d.spad q false)
      (l.flatMap Prod.fst, l.flatMap Prod.snd)
    | none => ([], [])
  | _ => ([], [])

/-- Check REGION. -/
def badRegion (s : State) (k : Checked) : Option Nat :=
  let kn := s.known k
  let one := fun (p : Nat) (l : List Issue) => (((withFeed l).find? (fun x =>
    let t := touched kn p x
    let e := elsewhere kn p k.h.programs x.1
    !((t.1 ++ e.1 ++ t.2 ++ e.2).all (s.inRegion k)) || (t.2 ++ e.2).any (fun w => decide (0 < w.2) && wideBase w.1 != 0))).map (fun x => x.1.off))
  let anchor := (List.range k.h.programs).any (fun p => !s.inRegion k (k.h.anchored p) || (wideBase (wide k.h.anchor) != 0 && decide (0 < (k.h.anchored p).2)))
  orElse2 (if anchor then some 24 else none) (firstOf (((List.range k.runs.length).zip k.runs).map (fun p => one p.1 p.2)))

/-! ## DEAD_READ (0x06) -/

/-- A range is covered by a list of ranges. The first number is fuel. -/
def coveredBy (rs : List (Nat × Nat)) : Nat → Nat → Nat → Bool
  | 0, _, n => n == 0
  | f + 1, a, n =>
    if n = 0 then true
    else match rs.find? (fun r => decide (r.1 ≤ a ∧ a < r.1 + r.2)) with
      | some r => coveredBy rs f (r.1 + r.2) (n - (r.1 + r.2 - a))
      | none => false

/-- A range is covered. -/
def covers (rs : List (Nat × Nat)) (x : Nat × Nat) : Bool := coveredBy rs (rs.length + 1) x.1 x.2

/-- A DMA descriptor a program has submitted and not yet waited for: channel, its order among the program's on that channel, and what it
writes by program. -/
structure Sub where
  ch : Nat
  order : Nat
  writes : List (Nat × (Nat × Nat))
  deriving DecidableEq, Repr

/-- What a program has written or loaded so far. -/
structure Live where
  bytes : List (Nat × Nat) := []
  buf : List (Nat × Nat) := []
  active : Bool := false
  shadow : Bool := false
  acc : List Nat := []
  regs : List Nat := []
  preds : List Nat := []
  /-- BROW lanes loaded, each line of 512 at channel times 128 plus line; BCOL rows loaded by channel -/
  brow : List (Nat × Nat) := []
  bcol : Tbl Nat := []
  tables : List Nat := []
  ruTables : List Nat := []
  subs : List Sub := []
  count : Tbl Nat := []
  deriving DecidableEq, Repr

/-- Registers and predicates an instruction reads, and those it writes. -/
def VInstr.uses (i : VInstr) : (List Nat × List Nat) × (List Nat × List Nat) :=
  let rp := if i.opc = 0x0E then [i.mod % 8] else if 0x13 ≤ i.opc ∧ i.opc ≤ 0x15 then [i.a % 8, i.b % 8] else if i.opc = 0x16 then [i.a % 8] else []
  let wp := i.opc == 0x0D || decide (0x13 ≤ i.opc ∧ i.opc ≤ 0x17)
  ((i.operands, rp), if wp then ([], [i.d % 8]) else if i.opc = 0 ∨ i.opc = 0x21 then ([], []) else ([i.d], []))

/-- BROW is loaded for a row of `n` elements: those lanes and no others are read (R310, R343). -/
def Live.lines (v : Live) (ch base n : Nat) : Bool := covers v.brow ((ch * 128 + base) * 512, n)

/-- An operation's engine sources have been written or loaded in the command (R285, R343). -/
def Live.veReady (v : Live) (kn : Known) (n beat : Nat) (r : VeRec) : Bool :=
  let ch := r.ch
  match r.op with
  | 0x21 =>
    let gs := kn.stages (r.reloc wide)
    (!chainReads gs 1 || v.lines ch r.browBase n) && (!chainReads gs 2 || decide (r.rows ≤ tget v.bcol ch 0)) &&
    gs.all (fun g => g.kind != 4 || v.tables.contains (g.param % 8))
  | 0x22 => match kn.prog (r.reloc wide) with
    | some g => (!g.reads 18 || v.lines ch r.browBase n) && (!g.reads 19 || decide (r.rows ≤ tget v.bcol ch 0)) &&
        g.code.all (fun i => i.opc != 0x0C || v.tables.contains (i.mod % 8))
    | none => true
  | 0x23 =>
    let i := decodeV r.cfg
    i.uses.1.1.all v.regs.contains && i.uses.1.2.all v.preds.contains && (!r.usePred || v.preds.contains r.pred) &&
    (i.opc != 0x0C || v.tables.contains (i.mod % 8)) && (i.opc != 0x22 || covers v.brow ((128 + r.browBase + beat) * 512, min 512 (n - beat * 512))) &&
    (i.opc != 0x23 || decide (r.rows ≤ tget v.bcol 1 0))
  | _ => true

/-- What a vector record leaves written. -/
def Live.veDone (v : Live) (r : VeRec) : Live :=
  match r.op with
  | 0x23 => { v with regs := (decodeV r.cfg).uses.2.1 ++ v.regs, preds := (decodeV r.cfg).uses.2.2 ++ v.preds }
  | 0x24 =>
    let v := if flagBit r.bcast 0 then { v with brow := ((r.ch * 128 + r.browBase) * 512, if r.count = 0 then 65536 else r.count) :: v.brow } else v
    if flagBit r.bcast 1 then { v with bcol := tset v.bcol r.ch (max r.rows (tget v.bcol r.ch 0)) } else v
  | 0x25 => { v with tables := r.tslot :: v.tables }
  | _ => v

/-- A matrix record's sources are valid (R285), and what it leaves. -/
def Live.me (v : Live) (r : MeRec) : Bool × Live :=
  let rows := (List.range r.m).map (r.accBase + ·)
  match r.op with
  | 1 => (true, { v with shadow := true })
  | 2 =>
    let v1 := if r.swap then { v with active := v.shadow, shadow := false } else v
    (v1.active && (!r.accum || rows.all v1.acc.contains), { v1 with acc := rows.filter (fun x => !v1.acc.contains x) ++ v1.acc })
  | 3 => (rows.all v.acc.contains, v)
  | _ => (true, { v with acc := rows.filter (fun x => !v.acc.contains x) ++ v.acc })

/-- A table load names a table that is installed in the image of a dependency (R323). -/
def State.tableAt (s : State) (k : Checked) (a : Nat) : Bool :=
  let b := wideBase a
  if 1 ≤ b ∧ b ≤ 4 then
    match s.depEntry k (b - 1) with
    | some e => (tfind e.tables (a % 2 ^ 40)).isSome
    | none => true
  else false

/-- The submissions of a program that are sure to have ended: those on a channel of which the command, its other programs' included,
cannot have ended COUNT otherwise. -/
def Live.waited (v : Live) (ch count others : Nat) : Live :=
  let done := v.subs.filter (fun x => x.ch == ch && decide (x.order + 1 + others ≤ count))
  { v with subs := v.subs.filter (fun x => !done.contains x) }

/-- Every DMA record of a container by program: its channel. -/
def subsOn (k : Checked) (ch : Nat) : List Nat :=
  k.runs.map (fun l => (l.filter (fun i => match i.r with | .submit c _ => c == ch | _ => false)).length)

/-- Submissions of the programs other than `p` on a channel. -/
def othersOn (k : Checked) (p ch : Nat) : Nat := (subsOn k ch).sum - (subsOn k ch).getD p 0

/-- One issue of program `p` in the scan: whether its sources are written, what it leaves, and the writes of descriptors known to have
ended at it. `foreign` holds what other programs' ended descriptors wrote, by epoch. -/
def Live.step (s : State) (k : Checked) (kn : Known) (p : Nat) (foreign : List (Nat × (Nat × Nat))) (v : Live) (x : Issue × Nat) : Bool × Live × List (Nat × (Nat × Nat)) :=
  let i := x.1
  let t := i.touch kn x.2
  let have_ := v.bytes ++ (foreign.filter (fun f => decide (f.1 < i.epoch))).map Prod.snd
  let readsOk := t.1.all (fun a => a.2 == 0 || wideBase a.1 != 0 || covers have_ a)
  let wrote := { v with bytes := t.2 ++ v.bytes }
  let ended := fun (v2 : Live) => (v.subs.filter (fun y => !v2.subs.contains y)).flatMap Sub.writes
  let close := fun (v2 : Live) => let e := ended v2; (readsOk, { v2 with bytes := (e.filter (fun f => f.1 == p)).map Prod.snd ++ v2.bytes }, e)
  match i.r with
  | .me r => let m := wrote.me r; (readsOk && m.1, m.2, [])
  | .ve r =>
    let n := if r.sp then i.vlen.getD 0 else x.2
    let vl := !r.sp || i.vlen.isSome || [0x24, 0x25, 0x26, 0x27].contains r.op
    (readsOk && vl && v.veReady kn n i.beat r && (r.op != 0x25 || s.tableAt k (wide r.cfg)), wrote.veDone r, [])
  | .ru r =>
    let ok := r.bufs.1.all (covers v.buf) && (r.op != 0x33 || (v.ruTables.contains 0 && v.ruTables.contains 1)) && (r.op != 0x37 || s.tableAt k (wide r.src))
    (readsOk && ok, { wrote with buf := r.bufs.2 ++ v.buf, ruTables := if r.op = 0x37 then r.tslot :: v.ruTables else v.ruTables }, [])
  | .submit c o =>
    let n := tget v.count c 0
    let w := match kn.desc o with
      | some d => (List.range k.h.programs).flatMap (fun q => (d.spad q (q == p)).2.map (fun r => (q, r)))
      | none => []
    let src := match kn.desc o with
      | some d => (d.spad p true).1.all (fun a => a.2 == 0 || wideBase a.1 != 0 || covers have_ a)
      | none => true
    (readsOk && src, { v with subs := v.subs ++ [{ ch := c, order := n, writes := w }], count := tset v.count c (n + 1) }, [])
  | .wait c n => close (v.waited c n (othersOn k p c))
  | .barrier => close { v with subs := [] }
  | .loop _ beats => (readsOk && (!beats || i.vlen.isSome), v, [])
  | _ => (readsOk, v, [])

/-- The scan of a program: the first issue that reads what nothing has written, and the writes of its ended descriptors by epoch and
program. -/
def scanDead (s : State) (k : Checked) (p : Nat) (foreign : List (Nat × (Nat × Nat))) : List (Issue × Nat) → Live → Option Nat × List (Nat × (Nat × (Nat × Nat)))
  | [], _ => (none, [])
  | x :: t, v =>
    let (ok, v2, e) := v.step s k (s.known k) p foreign x
    let r := scanDead s k p foreign t v2
    (if ok then r.1 else some x.1.off, e.map (fun w => (x.1.epoch, w)) ++ r.2)

/-- What a program starts from: its anchor written by the dispatcher. -/
def Live.start (k : Checked) (p : Nat) : Live := { bytes := [k.h.anchored p] }

/-- Check DEAD_READ. -/
def badDead (s : State) (k : Checked) : Option Nat :=
  let runs := (List.range k.runs.length).zip (k.runs.map withFeed)
  let ends := runs.map (fun r => (scanDead s k r.1 [] r.2 (Live.start k r.1)).2)
  firstOf (runs.map (fun r =>
    let foreign := ((List.range ends.length).zip ends).flatMap (fun e => if e.1 = r.1 then [] else (e.2.filter (fun w => w.2.1 == r.1)).map (fun w => (w.1, w.2.2)))
    (scanDead s k r.1 foreign r.2 (Live.start k r.1)).1))

/-! ## SLOT_WINDOW (0x07) -/

/-- Check SLOT_WINDOW (R398): each operation by itself, from every phase of the slot rotation (log entry 25). -/
def badSlots (s : State) (k : Checked) : Option Nat :=
  firstOf (((List.range k.runs.length).zip k.runs).map (fun l => ((withFeed l.2).find? (slotMiss (s.known k) l.1)).map (fun x => x.1.off)))

/-! ## CONCURRENCY (0x09) -/

/-- Two range lists share a byte. -/
def meets (a b : List (Nat × Nat)) : Bool := a.any (fun x => b.any (fun y => decide (0 < x.2 ∧ 0 < y.2 ∧ x.1 < y.1 + y.2 ∧ y.1 < x.1 + x.2)))

/-- The queue an operation runs in: 1 and 2 the vector channels MX and SP, 3 to 5 the recurrence groups of R382, 6 to 9 the matrix engine
(loads, and rows to the accumulator or scratchpad, to the vector engine, to the gate pipeline), 10 a DMA channel, 0 any other. -/
def queueOf (i : Issue) : Nat :=
  match i.r with
  | .ve r => if r.op = 0x27 then 0 else if r.sp then 2 else 1
  | .ru r => match r.op with
    | 0x31 => 3
    | 0x32 => 3
    | 0x36 => 3
    | 0x33 => 5
    | 0x38 => 0
    | _ => 4
  | .me r => if r.op = 1 then 6 else if r.dest = 1 then 8 else if r.dest = 2 then 9 else 7
  | .submit _ _ => 10
  | _ => 0

/-- The footprint of an operation for R341 and R382, read or written: whole beats of scratchpad, the state buffer and the members' state
part each in a space of its own. Images it takes into a store, and the member table, are no part of it. -/
def footprint (kn : Known) (p : Nat) (x : Issue × Nat) : List (Nat × Nat) :=
  let i := x.1
  match i.r with
  | .ve r =>
    let t := veRows kn (r.reloc wide) (if r.sp then beatsOf (i.vlen.getD 0) * 512 else if x.2 = 0 then 0 else 512) i.beat
    t.1 ++ t.2
  | .ru r =>
    let part := match r.op with
      | 0x36 => (r.stateOff, ringBytes r)
      | 0x31 => (r.stateOff, r.elems * storeSize r.prec)
      | 0x32 => (r.stateOff, r.elems * storeSize r.prec)
      | _ => (0, 0)
    let place := fun (b : Nat) (l : List (Nat × Nat)) => l.map (fun a => (b * 2 ^ 40 + a.1, a.2))
    let w := r.reloc wide
    let t := w.ranges
    let table := (w.members, 32 * w.rows)
    (if r.op = 0x37 then [] else t.1.filter (· != table)) ++ t.2 ++ place 8 (r.bufs.1 ++ r.bufs.2) ++ place 9 [part]
  | .me r => let t := meTouch kn r; t.1 ++ t.2
  | .submit _ o => match kn.desc o with
    | some d => let t := d.spad p true; t.1 ++ t.2
    | none => []
  | _ => []

/-- An operation that may still run: its queue, the order in which it was submitted on its DMA channel, the record, and its footprint. -/
structure Open where
  queue : Nat
  order : Nat
  i : Issue
  foot : List (Nat × Nat)
  deriving DecidableEq, Repr

/-- A record after which an earlier operation has completed: SQ_BARRIER, the VE_SYNC of its channel, RU_SYNC, and for a matrix operation
the synchronisation with the engine that took its rows; DMA_WAIT for a descriptor sure to be among those it counts. -/
def Open.closedBy (o : Open) (others : Nat → Nat) (i : Issue) : Bool :=
  match i.r with
  | .barrier => true
  | .ve r => r.op == 0x27 && (if r.sp then o.queue == 2 else o.queue == 1 || o.queue == 8)
  | .ru r => r.op == 0x38 && ([3, 4, 5, 9].contains o.queue)
  | .wait c n => (match o.i.r with | .submit ch _ => ch == c | _ => false) && decide (o.order + 1 + others c ≤ n)
  | _ => false

/-- The matrix operation an entry stands for: its kind, 0 for any other. -/
def Open.kind (o : Open) : Nat := match o.i.r with | .me r => r.op | _ => 0

/-- What may still run after a record: matrix operations complete in issue order within their kind (R295). -/
def stillOpen (others : Nat → Nat) (i : Issue) (l : List Open) : List Open :=
  (l.foldr (fun o (a : List Open × List Nat) =>
    if o.closedBy others i then (a.1, if o.kind = 0 then a.2 else o.kind :: a.2)
    else if o.kind ≠ 0 ∧ a.2.contains o.kind then a else (o :: a.1, a.2)) ([], [])).1

/-- Operations of two queues may run beside each other under R341 or R382: the two vector channels, or a recurrence operation and any
other. -/
def beside (a b : Nat) : Bool :=
  a != b && ((a == 1 && b == 2) || (a == 2 && b == 1) || decide (3 ≤ a ∧ a ≤ 5) || decide (3 ≤ b ∧ b ≤ 5))

/-- Kinds of the matrix operations that send rows to the gate pipeline, in issue order: one for each RU_GATE (R358). -/
def gateKinds (l : List (Issue × Nat)) : List Nat :=
  l.filterMap (fun x => match x.1.r with | .me r => if (r.op = 2 ∨ r.op = 3) ∧ r.dest = 2 then some r.op else none | _ => none)

/-- A matrix operation has completed when a later RU_GATE takes its first row: it is of the kind that brings the rows (R295, R382). -/
def Open.beforeGate (o : Open) (feed : Option Nat) : Bool := o.kind != 0 && feed == some o.kind

/-- The first operation of a program that may run beside an earlier one it shares a byte with. `subs` counts the descriptors submitted
on each channel, `feeds` are the kinds of matrix operation that feed the RU_GATEs to come. -/
def badBeside (kn : Known) (p : Nat) (others : Nat → Nat) : Tbl Nat → List Nat → List Open → List (Issue × Nat) → Option Nat
  | _, _, _, [] => none
  | subs, feeds, l, x :: t =>
    let q := queueOf x.1
    let l := stillOpen others x.1 l
    if q = 0 then badBeside kn p others subs feeds l t
    else
      let ch := match x.1.r with | .submit c _ => c | _ => 0
      let o : Open := { queue := q, order := tget subs ch 0, i := x.1, foot := footprint kn p x }
      if l.any (fun y => beside y.queue q && !(q == 5 && y.beforeGate feeds.head?) && meets o.foot y.foot) then some x.1.off
      else badBeside kn p others (if q = 10 then tset subs ch (o.order + 1) else subs) (if q = 5 then feeds.drop 1 else feeds) (l ++ [o]) t

/-- The destination of a chain or an element program meets its sources only in place (R340). -/
def placeOk (kn : Known) (x : Issue × Nat) : Bool :=
  match x.1.r with
  | .ve r =>
    if ¬(r.op = 0x21 ∨ r.op = 0x22) then true
    else
      let r := r.reloc wide
      let n := if r.sp then x.1.vlen.getD 0 else x.2
      let s := veSources kn r n
      let out := (veRows kn r n 0).2
      let same := r.dst == r.srcA && r.dStride == r.aStride && decide (elemBits r.dFmt ≤ elemBits r.aFmt) && !isMx r.dFmt
      !meets (veImage kn r ++ s.2) out && !meets s.1 (out.drop r.rows) && (same || !meets s.1 (out.take r.rows))
  | _ => true

/-- Two RU_SSTOREs with one LAYER and POS write overlapping elements of the same members (R387). -/
def badStores : List Issue → Option Nat
  | [] => none
  | i :: t =>
    let clash := fun (j : Issue) => match i.r, j.r with
      | .ru a, .ru b => a.op == 0x32 && b.op == 0x32 && a.layer == b.layer && a.tPos == b.tPos &&
          meets [(wide a.members, 32 * a.rows)] [(wide b.members, 32 * b.rows)] &&
          meets [(a.stateOff, a.elems * storeSize a.prec)] [(b.stateOff, b.elems * storeSize b.prec)]
      | _, _ => false
    match t.find? clash with
    | some j => some j.off
    | none => badStores t

/-- Check CONCURRENCY. -/
def badConcurrency (s : State) (k : Checked) : Option Nat :=
  let kn := s.known k
  firstOf (((List.range k.runs.length).zip k.runs).flatMap (fun x =>
    let l := withFeed x.2
    [(l.find? (fun y => !placeOk kn y)).map (fun y => y.1.off), badBeside kn x.1 (othersOn k x.1) [] (gateKinds l) [] l, badStores x.2]))

/-! ## DMA (0x0A) and TRANSLATION (0x0B) -/

/-- A descriptor has an endpoint in the host window or a peer, by every leaf it goes through. -/
def State.reachesOut (s : State) (p : Nat) (d : Desc) : Bool :=
  let out := fun (w : Nat) (dst : Bool) => spaceOf w == 0 && (d.pieces dst).any (fun x =>
    (spanned s p (x.2 / 0x1_0000 + 2) x.1 x.2).any (fun l => l.target != 0 && !inPool l.base))
  (d.hasSrc && out d.src false) || (d.hasDst && d.op != 3 && out d.dst true)

/-- The ns a container declares: its slices, or WCET_NS. -/
def Header.declaredNs (h : Header) : Nat := if h.stream then h.k * 62500 else h.wcet

/-- DMA records of a program are refused (R468). A descriptor in WORKING words is not there to be verified, and a partition channel runs only
verified ones (R541; log entry 26); one that an absent dependency would hold is left to check 0x0D. -/
def dmaOk (s : State) (k : Checked) (i : Issue) : Bool :=
  let chans := (s.quota k.part).channels
  match i.r with
  | .submit c o => decide (c < chans) && (match (s.known k) (wide o) 64 with
    | none => wideBase (wide o) != 0
    | some b =>
      let d := descOf b
      let w := d.widen
      d.check false s.bay == 0 && (spaceOf d.src != 1 || !w.hasSrc || decide (coreOf d.src < k.h.programs)) &&
      (spaceOf d.dst != 1 || !w.hasDst || decide (coreOf d.dst < k.h.programs)) && !(k.h.stream && s.reachesOut k.part w) &&
      decide (descNs s k.part w ≤ k.h.declaredNs))
  | .wait c _ => decide (c < chans)
  | _ => true

/-- A program runs on as far as its DMA_WAITs and SQ_PEERs let it: the records left, and the descriptors submitted by channel. -/
def runOn : List Issue → Tbl Nat → List Issue × Tbl Nat
  | [], sub => ([], sub)
  | i :: t, sub => match i.r with
    | .submit c _ => runOn t (tset sub c (tget sub c 0 + 1))
    | .wait c n => if n ≤ tget sub c 0 then runOn t sub else (i :: t, sub)
    | .peer _ => (i :: t, sub)
    | _ => runOn t sub

/-- The programs of a command run on in turn, each as far as it can, and pass an SQ_PEER together: the first DMA_WAIT at which one stands when
nothing moves any more can never be satisfied (R468). The first number is fuel. -/
def stuckWait : Nat → Tbl Nat → List (List Issue) → Option Nat
  | 0, _, _ => none
  | f + 1, sub, l =>
    let (l', sub') := l.foldl (fun (a : List (List Issue) × Tbl Nat) p => let r := runOn p a.2; (a.1 ++ [r.1], r.2)) ([], sub)
    let atPeer := fun (p : List Issue) => match p.head?.map Issue.r with | some (.peer _) => true | _ => false
    if l'.all List.isEmpty then none
    else if l'.all atPeer then stuckWait f sub' (l'.map (List.drop 1))
    else if (l'.map List.length).sum < (l.map List.length).sum then stuckWait f sub' l'
    else ((l'.find? (fun p => !p.isEmpty && !atPeer p)).bind List.head?).map Issue.off

/-- Check DMA. -/
def badDma (s : State) (k : Checked) : Option Nat :=
  orElse2 (firstIssue k.runs.flatten (fun i => !dmaOk s k i)) (stuckWait (2 * k.runs.flatten.length + 2) [] k.runs)

/-- Virtual pieces of a descriptor's side: none when the side is not virtual. -/
def Desc.virt (d : Desc) : List (Nat × Nat) × List (Nat × Nat) :=
  (if d.hasSrc && spaceOf d.src == 0 then d.pieces false else [],
   (if d.hasDst && spaceOf d.dst == 0 && d.op != 3 then d.pieces true else []) ++ (if d.record && spaceOf d.comp == 0 then [(addrOf d.comp, 32)] else []))

/-- Virtual accesses of a known descriptor are covered, EXC reads and FRL writes of whole blocks (R531, R536). -/
def virtOk (s : State) (k : Checked) (i : Issue) : Bool :=
  match i.r with
  | .submit _ o => match (s.known k).desc o with
    | none => true
    | some d =>
      let whole := fun (x : Nat × Nat) => x.1 % 4096 == 0 && x.2 % 4096 == 0
      d.virt.1.all (fun x => leavesCover s k.part 0 (fun l => l.kind != 1 || (d.shape == 0 && whole x)) (x.2 / 0x1_0000 + 2) x.1 x.2) &&
      d.virt.2.all (fun x => leavesCover s k.part 1 (fun l => decide (l.kind < 2) || whole x) (x.2 / 0x1_0000 + 2) x.1 x.2)
  | _ => true

/-- Check TRANSLATION. -/
def badVirt (s : State) (k : Checked) : Option Nat := firstIssue k.runs.flatten (fun i => !virtOk s k i)

/-! ## STATE_MAP (0x0C) -/

/-- Bytes of the members' state part a recurrence record reaches. -/
def statePartOf (r : RuRec) : Nat :=
  match r.op with
  | 0x31 => r.stateOff + r.elems * storeSize r.prec
  | 0x32 => r.stateOff + r.elems * storeSize r.prec
  | 0x36 => r.stateOff + ringBytes r
  | _ => 0

/-- The sections cover the part in order (R417): the first that does not, from its index and the granule it should begin at. -/
def badSections (total k : Nat) : Nat → Nat → List Section → Option Nat
  | i, at_, [] => if at_ = total then none else some (128 + 8 * (i - 1))
  | i, at_, x :: t =>
    if x.first = at_ ∧ x.useFrom ≤ x.useUntil ∧ x.useUntil * 2 ≤ k * 125 ∧ at_ + x.grans ≤ total then badSections total k (i + 1) (at_ + x.grans) t
    else some (128 + 8 * i)

/-- T_disp in ns of a run's direction. -/
def dispNs (ebb : Bool) : Nat := if ebb then 30000 else 15000

/-- Granules of the members' state part an operation reaches, first and last + 1. -/
def granulesOf (r : RuRec) : Nat × Nat := if statePartOf r ≤ r.stateOff then (0, 0) else (r.stateOff / 16384, (statePartOf r - 1) / 16384 + 1)

/-- The USE windows against the schedule's accesses (R417): a section no operation reaches agrees with any window, one whose window ends
before a store to it can have ended disagrees, by the least times of R381 in issue order; for the rest it turns on when the sequencer
issues each record, which the spec leaves open (log entry 25). -/
def badUse (k : Checked) : Option Nat :=
  let l := (k.runs.flatMap (fun run => stateTimes (dispNs (k.h.dir % 2 == 1)) (run.filterMap (fun i => match i.r with
    | .ru r => if r.op = 0x31 ∨ r.op = 0x32 ∨ r.op = 0x36 then some r else none
    | _ => none))))
  let xs := (List.range (sectionsOf k.body k.h).length).zip (sectionsOf k.body k.h)
  let on := fun (x : Section) => l.filter (fun a => decide ((granulesOf a.1).1 < x.first + x.grans ∧ x.first < (granulesOf a.1).2))
  let store := fun (r : RuRec) => r.op == 0x32 || (r.op == 0x36 && r.append)
  match xs.find? (fun x => (on x.2).any (fun a => store a.1 && decide (x.2.useUntil * 1000 < a.2))) with
  | some x => some (128 + 8 * x.1)
  | none => if xs.any (fun x => !(on x.2).isEmpty) then Config.useWindow k.body else none

/-- Check STATE_MAP. -/
def badState (k : Checked) : Option Nat :=
  let first := firstIssue k.runs.flatten (fun i => match i.r with | .ru r => decide ((if k.h.stream then k.h.statePart * 16384 else 0) < statePartOf r) | _ => false)
  orElse2 first (if k.h.stream then orElse2 (badSections k.h.statePart k.h.k 0 0 (sectionsOf k.body k.h)) (badUse k) else none)

/-! ## DEPENDENCY, DURATION, RESOURCE -/

/-- Check DEPENDENCY (0x0D). -/
def badDep (s : State) (k : Checked) : Option Nat :=
  firstBad ((List.range 4).map (fun d => (32 + 2 * d, k.h.deps.getD d 0 == 0 || (s.depEntry k d).map Entry.state == some .ready)))

/-- The computed worst case in ns (R568): what the exact times of the records sum to, and the rest, which the spec does not determine (log
entry 25). -/
def worstNs (s : State) (k : Checked) : Nat :=
  (((List.range k.runs.length).zip k.runs).map (fun r => programNs s k.part (s.known k) (withFeed r.2))).foldl max 0 + Config.restNs k.body

/-- Check DURATION (0x0E). -/
def badDuration (s : State) (k : Checked) : Option Nat :=
  let w := worstNs s k
  if k.h.stream then (if w + dispNs (k.h.dir % 2 == 1) > k.h.k * 62500 then some 12 else none)
  else if w > k.h.wcet then some 20 else none

/-- RETAINED units of a schedule's dependencies. -/
def State.depUnits (s : State) (p : Nat) (deps : List Nat) : Nat :=
  ((deps.filter (· ≠ 0)).map (fun t => ((s.entryByTag p t).map (fun e => e.2.hotUnits)).getD 0)).sum

/-- Check RESOURCE (0x0F). -/
def badResource (s : State) (k : Checked) : Option Nat :=
  if k.h.working + s.depUnits k.part k.h.deps > (s.quota k.part).spadUnits then some 18 else none

/-! ## The whole of verification -/

/-- The checks after HEADER, in order: code and offset of the first that fails (R568). Each is only worked out when those before it
have passed. -/
def verifyRest (s : State) (k : Checked) : Option (Nat × Nat) :=
  let checks : List (Nat × (Unit → Option Nat)) := [(0x02, fun _ => badRecord s k), (0x03, fun _ => badLoop k), (0x04, fun _ => badFormats s k),
    (0x05, fun _ => badRegion s k), (0x06, fun _ => badDead s k), (0x07, fun _ => badSlots s k), (0x08, fun _ => badFeed s k),
    (0x09, fun _ => badConcurrency s k), (0x0A, fun _ => badDma s k), (0x0B, fun _ => badVirt s k), (0x0C, fun _ => badState k),
    (0x0D, fun _ => badDep s k), (0x0E, fun _ => badDuration s k), (0x0F, fun _ => badResource s k)]
  checks.findSome? (fun c => (c.2 ()).map (fun o => (c.1, o)))

/-- Verification of a container of `len` bytes. -/
def verify (p len : Nat) (b : List Byte) (s : State) : Option (Nat × Nat) :=
  match headerBad len b with
  | some o => some (0x01, o)
  | none => verifyRest s (checkedOf p b)

/-- Virtual ranges the known descriptors of a container touch (R517). -/
def refsOf (s : State) (k : Checked) : List (Nat × Nat) :=
  k.runs.flatten.flatMap (fun i => match i.r with
    | .submit _ o => match (s.known k).desc o with
      | some d => d.virt.1 ++ d.virt.2
      | none => []
    | _ => [])

/-- The schedule a verified container becomes. -/
def scheduleOf (s : State) (p : Nat) (b : List Byte) : Schedule :=
  let k := checkedOf p b
  let h := k.h
  { part := p, kernel := !h.stream, ebb := h.dir % 2 == 1, exclOnly := h.dir / 2 % 2 == 1, period := h.period, window := h.window, bmax := h.bmax,
    k := h.k, statePart := h.statePart, programs := h.programs, working := h.working, wcet := worstNs s k, anchor := h.anchor, deps := h.deps,
    progs := h.progs.take h.programs, sections := sectionsOf b h, refs := refsOf s k, body := b }

/-- The lowest free schedule identifier (R567). -/
def State.freeSched (s : State) : Option Nat := (List.range' 1 1023).find? (fun i => (tfind s.disp.scheds i).isNone)

/-- TAGs an installed schedule depends on keep their image (R577). -/
def noteTags (p : Nat) (deps : List Nat) (s : State) : State :=
  (deps.filter (· ≠ 0)).foldl (fun s t => match s.entryByTag p t with
    | some (_, e) =>
      let x := (p, t, e.va, e.bytes, e.hotUnits)
      if s.disp.tags.contains x then s else { s with disp := { s.disp with tags := s.disp.tags ++ [x] } }
    | none => s) s

/-- SCHED_INSTALL. -/
def installSched (q : Nat) (c : QCmd) (b : List Byte) (s : State) : State :=
  let b := b.take c.len
  match verify q c.len b s with
  | some (code, off) => refuseVerify q c.id code off s
  | none => match s.freeSched with
    | none => completeCmd q c.id St.resource 0 0 0 s
    | some i =>
      let x := scheduleOf s q b
      let s := noteTags q x.deps { s with disp := { s.disp with scheds := tset s.disp.scheds i x } }
      completeCmd q c.id St.ok 0 0 i s

/-- Something names a schedule (R567). -/
def State.schedNamed (s : State) (p i : Nat) : Bool :=
  let par := fun (x : StreamPar) => x.part == p && ((x.floodEn && x.floodSched == i) || (x.ebbEn && x.ebbSched == i))
  s.strm.table.any (fun x => par x.2.par) || s.strm.cohorts.any (fun x => x.2.sched == i) || s.strm.standing.any (fun r => par r.par) ||
  s.disp.jobs.any (fun j => j.2.steps.any (fun t => t.sched == i))

/-- A schedule leaves: its programs leave the stores, and TAGs no schedule of the partition depends on any more are free. -/
def dropSched (i : Nat) (s : State) : State :=
  let rest := terase s.disp.scheds i
  { s with disp := { s.disp with
      scheds := rest
      tags := s.disp.tags.filter (fun t => rest.any (fun x => x.2.part == t.1 && x.2.deps.contains t.2.1))
      cores := s.disp.cores.map (fun c => (c.1, { c.2 with store := c.2.store.filter (fun x => x.1 != i) })) } }

/-- SCHED_REMOVE: ARG0 names the schedule. One that is not the partition's is CMD_HANDLE. -/
def removeSched (q : Nat) (c : QCmd) (s : State) : State :=
  let i := c.arg0 % 0x1_0000
  match tfind s.disp.scheds i with
  | some x =>
    if x.part ≠ q then completeCmd q c.id St.handle 0 0 0 s
    else if s.schedNamed q i then completeCmd q c.id St.state 0 0 0 s
    else completeCmd q c.id St.ok 0 0 0 (dropSched i s)
  | none => completeCmd q c.id St.handle 0 0 0 s

/-- SCHED_INSTALL: `d` is what the read of the container returned. -/
def execSchedInstall (q : Fin 65) (d : HostRead) (s : State) : Host.Outcome State Fault Refusal :=
  .next (beginCmd q 0x20 true d (fun c b s => installSched q c b s) s)

/-- SCHED_REMOVE. -/
def execSchedRemove (q : Fin 65) (s : State) : Host.Outcome State Fault Refusal :=
  .next (beginCmd q 0x21 false (.ok []) (fun c _ s => removeSched q c s) s)

end Sys2Proof.Machine
end

