-- ==== Sys2Proof/Machine/Runs.lean ====
section
/-! DEFINITION. Starting work on cores: hot sets, program stores and working regions, the member table, runs at their reserved
start, and stream steps and jobs in unreserved time (R69, R76, R95, R352, R431, R554 to R560, R566, R573, R578, R584, R585). -/

namespace Sys2Proof.Machine

/-! ## A core made ready for a schedule (R403, R566, R579) -/

/-- Displace programs no work uses, oldest first, until `n` bytes fit; the answer says whether they do. The first number is fuel. -/
def storeRoom (core n : Nat) : Nat → State → Bool × State
  | 0, s => (decide (s.progBytes (s.coreSt core).store + n ≤ 2 ^ 20), s)
  | f + 1, s =>
    if s.progBytes (s.coreSt core).store + n ≤ 2 ^ 20 then (true, s)
    else match (s.coreSt core).store.find? (fun x => !s.storeBusy core x.1) with
      | some x => storeRoom core n f (s.setCore core { s.coreSt core with store := (s.coreSt core).store.filter (· ≠ x) })
      | none => (false, s)

/-- A schedule's program is copied into the store of a core. -/
def storeProgram (id : Nat) (h : Schedule) (core prog : Nat) (s : State) : Bool × State :=
  if (s.coreSt core).store.contains (id, prog) then (true, s)
  else
    let (ok, s) := storeRoom core (h.storeBytes prog) 1024 s
    if ok then (true, s.setCore core { s.coreSt core with store := (s.coreSt core).store ++ [(id, prog)] }) else (false, s)

/-- The partition's WORKING region on a core holds at least `n` units: a smaller one gives way while nothing of the partition runs
there. The answer says whether it stands. -/
def ensureWorking (p core n : Nat) (s : State) : Bool × State :=
  match (s.coreSt core).regions.find? (fun r => !r.2.retained && r.2.part == p) with
  | some (k, r) =>
    if n ≤ r.units then (true, s)
    else
      let s := removeRegion core k s
      let (ok, s) := makeUnits p core n 65 s
      if ok then (let (r, s) := createRegion (.working p) p core n false s; (r.isSome, s)) else (false, s)
  | none =>
    let (ok, s) := makeUnits p core n 65 s
    if ok then (let (r, s) := createRegion (.working p) p core n false s; (r.isSome, s)) else (false, s)

/-- How what work needs on its cores stands: in place, on its way, or not to be had (R581). -/
inductive Need where
  | ready
  | waits
  | fails
  deriving DecidableEq, Repr

/-- The state of two needs together. -/
def Need.and : Need → Need → Need
  | .fails, _ => .fails
  | _, .fails => .fails
  | .waits, _ => .waits
  | _, n => n

/-- The hot set of a dependency stands on a core; otherwise its load begins. An entry that is LOADING lets nothing start (R578). -/
def ensureHot (part tag core : Nat) (s : State) : Need × State :=
  match s.entryByTag part tag with
  | none => (.fails, s)
  | some (i, _) =>
    let (ok, s) := wantHot i core s
    (if !ok then .fails else if (s.entry i).any (fun e => e.state != .loading && e.resident.any (fun r => r.1 == core)) then .ready else .waits, s)

/-- The hot sets and the program a schedule needs on a core: what is missing begins to be loaded (R566, R584). -/
def prepareCore (id : Nat) (h : Schedule) (a : Need × State) (x : Nat × Nat) : Need × State :=
  let a := (h.deps.filter (· ≠ 0)).foldl (fun (a : Need × State) t => let (n, s) := ensureHot h.part t x.1 a.2; (a.1.and n, s)) a
  let (ok, s) := storeProgram id h x.1 x.2 a.2
  (a.1.and (if ok then .ready else .fails), s)

/-- The hot sets and programs a schedule needs on its cores. -/
def prepareHot (id : Nat) (h : Schedule) (cores : List Nat) (s : State) : Need × State := (h.progsOn cores).foldl (prepareCore id h) (.ready, s)

/-- Everything a schedule needs stands on its cores, working regions too; what is missing begins to be made. -/
def prepare (id : Nat) (h : Schedule) (cores : List Nat) (s : State) : Bool × State :=
  let (n, s) := prepareHot id h cores s
  cores.foldl (fun (a : Bool × State) c => let (ok, s) := ensureWorking h.part c h.working a.2; (a.1 && ok, s)) (n == .ready, s)

/-! ## Starting a command (R285, R286, R293, R334, R343, R383, R392, R519, R559, R582) -/

/-- Nothing an earlier command left unfinished goes on: loads, waiting operations and their status bits. -/
def freshEngines (core : Nat) (s : State) : State :=
  let e := s.engines core
  let s := s.setEngines core { e with me := { e.me with loading := none, waiting := [] }, ve := { e.ve with mx := [], sp := [] }, ru := { e.ru with gates := [] } }
  ruSync core (veSync core (meSync core s))

/-- A core starts a program of a command: flags clear, nothing of an earlier command is left under way, and on a change of partition
every engine store is zeroed. -/
def startCore (id part prog core : Nat) (s : State) : State :=
  let c := s.coreSt core
  let s := if c.lastPart = part then s else s.setEngines core {}
  let s := (freshEngines core s).setSeq core (some { prog := prog })
  let s := (s.setBit (F.meStatusActiveValid core) false).setBit (F.meStatusShadowValid core) false
  let s := (((s.setReg (R.meFlags core) 0).setReg (R.veFlagsMx core) 0).setReg (R.veFlagsSp core) 0).setReg (R.ruFlags core) 0
  s.setCore core { s.coreSt core with cmd := some id, lastPart := part }

/-- The entries a schedule depends on are invoked. -/
def invoke (h : Schedule) (s : State) : State :=
  { s with disp := { s.disp with entries := s.disp.entries.map (fun e =>
      (e.1, if e.2.part == h.part && e.2.tag != 0 && h.deps.contains e.2.tag then { e.2 with lru := s.time } else e.2)) } }

/-- A command starts: the TLBs of the partition's channels are empty. The answer is its number. -/
def startCommand (h : Schedule) (c : Cmd) (s : State) : Nat × State :=
  let id := s.disp.nextCmd
  let s := { s with disp := { s.disp with cmds := tset s.disp.cmds id c, nextCmd := id + 1 } }
  let s := ((List.range c.cores.length).zip c.cores).foldl (fun s p => startCore id c.part p.1 p.2 s) s
  let s := (s.channelsOf c.part).foldl (fun s k => s.setChan k { s.chan k with tlb := [] }) s
  (id, invoke h s)

/-- A member-table entry (R352). -/
def memberBytes (s : State) (ebb : Bool) (m : Member) : List Byte :=
  let (h, seed) := match s.stream m.desc with | some x => (x.par.handle, x.seed) | none => (0, 0)
  leBytes 4 h ++ leBytes 4 m.valid.toNat ++ leBytes 8 m.chunk ++ leBytes 8 seed ++ leBytes 4 (stateToken m.desc ebb) ++ leBytes 4 0

/-- The shares of a command's members by program (R564). -/
def shares (ms : List Member) : List (List Member) := [ms.take ((ms.length + 1) / 2), ms.drop ((ms.length + 1) / 2)]

/-- The member tables are written (R352, R564). -/
def writeTables (h : Schedule) (c : Cmd) (s : State) : State :=
  (c.cores.zip (shares c.members)).foldl (fun s p =>
    pokeSpad p.1 (s.place p.1 c.part h.deps h.anchor) (p.2.flatMap (memberBytes s c.ebb)) s) s

/-! ## Whether a stream may step -/

/-- This module holds the lease of a stream and has seen no higher epoch (R76). -/
def State.leaseGood (s : State) (x : Stream) : Bool :=
  x.leased && (match tfind s.fab.leases x.par.handle with | some (e, _) => decide (e ≤ x.epoch) | none => true)

/-- Module time lets a stream step: a port-fed stream not while it is UNTRUSTED (R108). -/
def State.timeLets (s : State) (x : Stream) : Bool := x.par.hostFed || s.fld F.timeStatusState != 2

/-- A stream in a state in which steps run, not about to be ABORTed and not on its first way out to the swap area. -/
def State.mayStep (s : State) (x : Stream) (ebb : Bool) : Bool :=
  s.leaseGood x && s.timeLets x && !x.swapping && x.closing != some 1 && !(x.dir ebb).stepping &&
  (x.state == .idle || x.state == .running || x.state == .migrating || (x.state == .draining && !ebb))

/-- The end of a chunk as its run sees it: with the port guard for a port-fed stream (R199). -/
def State.effEnd (s : State) (x : Stream) (e : Nat) : Nat := if x.par.hostFed then e else e + s.guardUs x.par.port * 1000

/-- At a transfer source, a flood chunk is processed here only when it lies below H (R628). -/
def Stream.below (x : Stream) (n e : Nat) : Bool :=
  match x.xfer with
  | some t => (match t.h with | some h => decide (n < h) | none => true) && (match t.cut with | some c => decide (e < c) | none => true)
  | none => true

/-- The flood chunk a stream processes next, when it is complete: number and end. -/
def Stream.headFlood (x : Stream) : Option (Nat × Nat) :=
  match x.ready with
  | (n, e) :: _ => if n = x.flood.next ∧ x.below n e then some (n, e) else none
  | [] => none

/-- The checkpoint gate is open for a part: the last checkpoint that fell due, before which all others stand, stands too (R431, R433). -/
def State.gateOpen (s : State) (x : Stream) (ebb : Bool) : Bool :=
  s.tide.target.isNone || (x.dir ebb).ckptDue.isNone || (x.dir ebb).ckptDue == (x.dir ebb).ckptStands

/-- A step held by the gate is recorded once (R431). -/
def holdStep (d : Nat) (ebb : Bool) (s : State) : State :=
  match s.stream d with
  | none => s
  | some x =>
    let y := x.dir ebb
    if y.ckptHeld then s
    else
      let from_ := match y.ckptStands with | some k => (k + 1) % 2 ^ 64 | none => y.first
      let s := (s.setStream d (x.setDir ebb { y with ckptHeld := true })).count F.tpCkptStatHeld 1
      emit Ev.ckptLate (some x.par.part) 8 0 x.par.handle (y.next - from_) 0 s

/-- Work is placed nowhere any more: it has started, or its place is given up. -/
def dropPlaced (w : Placeable) (s : State) : State := { s with disp := { s.disp with placed := s.disp.placed.filter (fun p => p.work != w) } }

/-- A stream's step is dispatched (R66, R428): its chunk is taken, its checkpoint falls due at the cadence, and the head block of ebb
input begins. -/
def takeStep (d : Nat) (ebb : Bool) (e : Nat) (s : State) : State :=
  match s.stream d with
  | none => s
  | some x =>
    let fresh := ebb && (match x.ebbIn with | b :: _ => !b.begun && b.newUtt | [] => false)
    let s := dropPlaced (.step d ebb) (if fresh then endUtterance d s else s)
    let x := (s.stream d).getD x
    let y := x.dir ebb
    let due := s.tide.target.isSome && (y.next + 1) % max 1 x.par.cadence == 0
    let x := x.setDir ebb { y with stepping := true, ckptHeld := false, ckptDue := if due then some y.next else y.ckptDue }
    let x := if ebb then
        match x.ebbIn with
        | b :: rest => { x with ebbIn := { b with begun := true } :: rest, uttNew := x.uttNew || fresh }
        | [] => x
      else { x with ends := tset x.ends y.next e }
    countStreams (s.setStream d { x with state := if x.state = .idle then .running else x.state, lateSwap := false })

/-! ## Runs (R69, R76, R106, R352, R585) -/

/-- The latest reserved start of a cohort at or before a time. -/
def Cohort.startAt (c : Cohort) (t : Nat) : Option Nat :=
  let b := modSub (periodNs c.period) t (c.offset * 62500)
  if b ≤ t then some (t - b) else none

/-- The chunk a member steps in the occurrence that begins at `start`, with its end; none leaves its share idle. A chunk that the
checkpoint gate has held once is left to unreserved time (R95, R431). -/
def State.runChunk (s : State) (c : Cohort) (start d : Nat) : Option (Nat × Nat) :=
  match s.stream d with
  | none => none
  | some x =>
    if !s.mayStep x c.ebb || !s.partReady d x c.ebb then none
    else if c.ebb then
      match x.ebbIn with
      | b :: _ =>
        if (x.state == .migrating && (x.xfer.bind Xfer.cut).isSome) || x.ebb.ckptHeld then none
        else if b.begun ∨ b.doorbell ≤ start + 15000 then some (x.ebb.next, 0) else none
      | [] => none
    else match x.headFlood with
      | some (n, e) =>
        let t := s.effEnd x e
        if start < t + periodNs c.period ∧ t ≤ start then some (n, e) else none
      | none => none

/-- One member of a run: VALID when it steps; held by the gate it is recorded. -/
def runMember (c : Cohort) (start : Nat) (a : List Member × State) (d : Nat) : List Member × State :=
  let (ms, s) := a
  match s.runChunk c start d, s.stream d with
  | some (n, e), some x =>
    if s.gateOpen x c.ebb then (ms ++ [{ desc := d, valid := true, chunk := n }], takeStep d c.ebb e s)
    else (ms ++ [{ desc := d, valid := false, chunk := n }], holdStep d c.ebb s)
  | _, x => (ms ++ [{ desc := d, valid := false, chunk := (x.map (fun x => (x.dir c.ebb).next)).getD 0 }], s)

/-- The module dispatches: it is Ready, and neither it nor its tray has failed (R633, R785). -/
def State.mayDispatch (s : State) : Bool := s.ready && !s.failStopped && s.fld F.fabStatusStage != 3

/-- Nothing runs on a core and it takes SHARED work. -/
def State.sharedIdle (s : State) (core : Nat) : Bool :=
  let c := s.coreSt core
  s.coreIdle core && !c.excl && c.changing.isNone

/-- A run is dispatched at its reserved start, within its dispatch time; an occurrence whose hot sets, programs or working regions are
not in place is passed. -/
def runDispatch (i : Nat) (s : State) : State :=
  if !s.mayDispatch then s
  else match tfind s.strm.cohorts i with
    | none => s
    | some c => match tfind s.disp.scheds c.sched, c.startAt s.time with
      | some h, some start =>
        let cores := [2 * c.die, 2 * c.die + 1]
        if c.ran = some start ∨ start + dispNs c.ebb < s.time ∨ c.members.isEmpty ∨ !cores.all s.sharedIdle then s
        else
          let s := { s with strm := { s.strm with cohorts := tset s.strm.cohorts i { c with ran := some start } } }
          let (ok, s) := prepare c.sched h cores s
          if !ok then c.members.foldl (fun s d => memberIdle c.ebb d s) s
          else
            let (ms, s) := c.members.foldl (runMember c start) ([], s)
            let cmd : Cmd := { work := .run i 0, sched := c.sched, part := h.part, cores := cores, ebb := c.ebb, start := start, members := ms, catchup := false, erased := false, hostErr := false }
            writeTables h cmd (startCommand h cmd s).2
      | _, _ => s

/-! ## Unreserved time (R422, R556 to R558, R584) -/

/-- Work outside a run: a stream's step, or a job's next command. -/
inductive Pick where
  | step (desc : Nat) (ebb : Bool) (chunk end_ : Nat) (catchup : Bool)
  | job (j : Nat)
  deriving DecidableEq, Repr

/-- A flood chunk of a GUARANTEED stream whose run has passed (R95): it holds no seat, or the first reserved start at or after the
chunk's end, with the dispatch time, is over. -/
def State.passed (s : State) (x : Stream) (e : Nat) : Bool :=
  match x.flood.seat.bind (tfind s.strm.cohorts) with
  | none => true
  | some c =>
    let t := s.effEnd x e
    let first := t + modSub (periodNs c.period) (c.offset * 62500) t
    decide (first + dispNs c.ebb < s.time) || (c.ran.any (fun r => decide (first ≤ r)))

/-- The candidates of one stream: tier, key and work (R557). Bit 17 of a chunk's flags marks one that waited while time was
untrusted (R108). A GUARANTEED ebb chunk comes only once its step has been held (R431). -/
def State.streamPicks (s : State) (d : Nat) (x : Stream) : List (Nat × Nat × Pick) :=
  let flood := if !s.mayStep x false then [] else match x.headFlood with
    | none => []
    | some (n, e) =>
      let p := fun cu => Pick.step d false n e cu
      if x.par.cls = 0 then (if s.passed x e then [(1, e, p true)] else [])
      else if Nat.testBit (tget x.flags n 0) 17 then [(1, e, p true)]
      else if x.par.cls = 1 then [(0, e + x.par.lookahead * 10000000 + x.par.slack * 1000, p false)]
      else [(2, tget x.bells n 0, p false)]
  let ebb := if !s.mayStep x true || (x.par.cls == 0 && !x.ebb.ckptHeld) || (x.state == .migrating && (x.xfer.bind Xfer.cut).isSome) then [] else match x.ebbIn with
    | [] => []
    | b :: _ => [if x.par.cls = 0 then (1, b.doorbell, Pick.step d true x.ebb.next 0 true) else if x.par.cls = 1 then (0, b.doorbell + x.par.slack * 1000, Pick.step d true x.ebb.next 0 false) else (2, b.doorbell, Pick.step d true x.ebb.next 0 false)]
  flood ++ ebb

/-- Everything that waits for unreserved time, in the order of R557. -/
def State.picks (s : State) : List (Nat × Nat × Pick) :=
  let jobs := (s.disp.jobs.filter (fun j => !j.2.excl && !j.2.running && j.2.cancel.isEmpty)).map (fun j => (2, j.2.doorbell, Pick.job j.1))
  (s.strm.table.flatMap (fun x => s.streamPicks x.1 x.2) ++ jobs).mergeSort (fun a b => decide (a.1 < b.1) || (a.1 == b.1 && decide (a.2.1 ≤ b.2.1)))

/-- The schedule a candidate runs: its identifier, when installed. -/
def State.pickSched (s : State) : Pick → Option (Nat × Schedule)
  | .step d ebb _ _ _ => (s.stream d).bind (fun x => let i := if ebb then x.par.ebbSched else x.par.floodSched; (tfind s.disp.scheds i).map (fun h => (i, h)))
  | .job j => (tfind s.disp.jobs j).bind (fun j => (j.steps[j.step]?).bind (fun t => (tfind s.disp.scheds t.sched).map (fun h => (t.sched, h))))

/-- The window of a command in ns (R556). -/
def Schedule.windowNs (h : Schedule) : Nat := 15000 + h.wcet

/-- The charge of a command in slices (R558). -/
def Schedule.charge (h : Schedule) : Nat := ceilDiv h.windowNs 62500

/-- The next reserved slice of a die after now is later than a window, and now is in none (R556, R591). -/
def State.gapNow (s : State) (die w : Nat) : Bool :=
  (s.runsOn die).all (fun c =>
    let p := periodNs c.period
    decide (c.k * 62500 ≤ modSub p s.time (c.offset * 62500)) && decide (w < modSub p (c.offset * 62500) s.time))

/-- A schedule runs on both cores of a die in SHARED time: a STREAM, or a KERNEL of two programs (R564, R572). -/
def Schedule.both (h : Schedule) : Bool := !h.kernel || decide (2 ≤ h.programs)

/-- The cores a candidate place names: both of a die, or one. -/
def placeCores (both : Bool) (p : Nat) : List Nat := if both then [2 * p, 2 * p + 1] else [p]

/-- A partition's budget on cores covers a charge (R558). -/
def State.budgetCovers (s : State) (p n : Nat) (cores : List Nat) : Bool :=
  (s.partition p).any (fun q => cores.all (fun c => decide (n ≤ q.remain.getD c 0)))

/-- A place may serve a schedule at some time: SHARED cores, a gap that holds the window, and the budget (R584). -/
def State.placeGood (s : State) (id : Nat) (h : Schedule) (p : Nat) : Bool :=
  let cores := placeCores h.both p
  let die := if h.both then p else p / 2
  cores.all (fun c => !(s.coreSt c).excl && (s.coreSt c).changing.isNone) && s.budgetCovers h.part h.charge cores &&
  (h.progsOn cores).all (s.storeTakes id h) &&
  ((s.runsOn die).isEmpty || decide (h.windowNs < s.largestFree die * 62500))

/-- Dependency units resident on cores. -/
def State.affinity (s : State) (h : Schedule) (cores : List Nat) : Nat :=
  ((h.deps.filter (· ≠ 0)).map (fun t => match s.entryByTag h.part t with
    | some (_, e) => ((cores.filter (fun c => e.resident.any (fun r => r.1 == c))).length) * e.hotUnits
    | none => 0)).sum

/-- The place chosen for a schedule (R584): affinity, then free and evictable units, then the lowest number. -/
def State.choose (s : State) (h : Schedule) (both : Bool) (ps : List Nat) : Option Nat :=
  (ps.foldl (fun best p =>
    let cores := placeCores both p
    let a := s.affinity h cores
    let u := (cores.map (fun c => s.unitsFor h.part c)).sum
    match best with
    | none => some (p, a, u)
    | some (q, b, v) => if a > b ∨ (a = b ∧ u > v) then some (p, a, u) else some (q, b, v)) (none : Option (Nat × Nat × Nat))).map (fun x => x.1)

/-- Work is placed: at the first of its candidates, in the order of R584, where what it needs can be had; its hot sets begin to load, and it
holds what it depends on from here (R580). A place where the need fails stops being a candidate (R581). The first number is fuel. -/
def place (w : Placeable) (id : Nat) (h : Schedule) : Nat → List Nat → State → Option (List Nat) × State
  | 0, _, s => (none, s)
  | f + 1, ps, s => match s.choose h h.both ps with
    | none => (none, s)
    | some p =>
      let cores := placeCores h.both p
      let s := dropPlaced w s
      let (n, s) := prepareHot id h cores { s with disp := { s.disp with placed := s.disp.placed ++ [{ work := w, sched := id, cores := cores }] } }
      if n = .fails then place w id h f (ps.filter (· ≠ p)) (dropPlaced w s) else (some cores, s)

/-- The cores where SHARED work is placed, which is placed now if it is not: on cores that are still SHARED, for the same schedule. -/
def placement (w : Placeable) (id : Nat) (h : Schedule) (s : State) : Option (List Nat) × State :=
  match s.disp.placed.find? (fun p => p.work == w && p.sched == id && p.cores.all (fun c => !(s.coreSt c).excl && (s.coreSt c).changing.isNone)) with
  | some p => (some p.cores, s)
  | none => place w id h 8 ((List.range (if h.both then 4 else 8)).filter (s.placeGood id h)) (dropPlaced w s)

/-- Take a charge from a partition's budget on cores. -/
def takeBudget (p n : Nat) (cores : List Nat) (s : State) : State :=
  match s.partition p with
  | some q => s.setPartition p { q with remain := ((List.range 8).zip q.remain).map (fun r => if cores.contains r.1 then r.2 - n else r.2) }
  | none => s

/-- A stream whose step cannot start for its prefetch is recorded once for the step (R422). -/
def noteSwapLate (d : Nat) (s : State) : State :=
  match s.stream d with
  | some x => if x.lateSwap then s else
      emit Ev.swapLate (some x.par.part) 8 0 x.par.handle 0 0 ((s.setStream d { x with lateSwap := true }).count F.tpSwapStatLate 1)
  | none => s

/-- The step parameter of a KERNEL command at ANCHOR_OFF of each program's core (R571). -/
def writeParam (h : Schedule) (cores : List Nat) (param : Nat) (s : State) : State :=
  cores.foldl (fun s c => pokeSpad c (s.place c h.part h.deps h.anchor) (leBytes 8 param) s) s

/-- Start a command of a job on cores. -/
def startJobStep (j : Nat) (x : Job) (id : Nat) (h : Schedule) (cores : List Nat) (s : State) : State :=
  let c : Cmd := { work := .jobStep j, sched := id, part := x.part, cores := cores, ebb := false, start := s.time, members := [], catchup := false, erased := false, hostErr := false }
  let s := dropPlaced (.job j) { s with disp := { s.disp with jobs := tset s.disp.jobs j { x with running := true } } }
  writeParam h cores (((x.steps[x.step]?).map JobStep.param).getD 0) (startCommand h c s).2

/-- A job ends: it leaves, its cores are free, and its JOB_SUBMIT completes, then every JOB_CANCEL that named it (R574, R575). -/
def endJob (j status : Nat) (s : State) : State :=
  match tfind s.disp.jobs j with
  | none => s
  | some x =>
    let s := { s with disp := { s.disp with jobs := terase s.disp.jobs j } }
    let s := x.held.foldl (fun s c => settleMode c (s.setCore c { s.coreSt c with job := none })) s
    let s := completeCmd x.part x.cmd status 0 0 (if status = St.aborted then 0 else x.done) s
    x.cancel.foldl (fun s id => completeCmd x.part id St.ok 0 0 0 s) s

/-- A dependency of a job's next command has been freed (R578). -/
def State.depGone (s : State) (h : Schedule) : Bool := (h.deps.filter (· ≠ 0)).any (fun t => (s.entryByTag h.part t).isNone)

/-- Placed work may start on its cores now: they take SHARED work, everything it needs stands there, its window fits before the next reserved
slice, and the budget covers it (R556, R558, R584). -/
def startable (id : Nat) (h : Schedule) (cores : List Nat) (s : State) : Bool × State :=
  let (ok, s) := prepare id h cores s
  (ok && s.gapNow (cores.headD 0 / 2) h.windowNs && s.budgetCovers h.part h.charge cores, s)

/-- One candidate is looked at for a core: `true` says that work has started and no further candidate is. -/
def tryPick (core : Nat) (a : Bool × State) (p : Pick) : Bool × State :=
  let (done, s) := a
  if done then a
  else match s.pickSched p with
    | none => (false, s)
    | some (id, h) =>
      match p with
      | .job j =>
        if s.depGone h then (false, endJob j St.resource s)
        else match placement (.job j) id h s with
          | (none, s) => (false, s)
          | (some cores, s) =>
            if !cores.contains core || !cores.all s.sharedIdle then (false, s)
            else
              let (ok, s) := startable id h cores s
              match tfind s.disp.jobs j with
              | some x => if ok then (true, startJobStep j x id h cores (takeBudget h.part h.charge cores s)) else (false, s)
              | none => (false, s)
      | .step d ebb n e cu =>
        match placement (.step d ebb) id h s with
        | (none, s) => (false, s)
        | (some cores, s) =>
          if !cores.contains core || !cores.all s.sharedIdle then (false, s)
          else match s.stream d with
            | none => (false, s)
            | some x =>
              if !s.gateOpen x ebb then (false, holdStep d ebb s)
              else
                let (ok, s) := startable id h cores s
                if !ok then (false, s)
                else if !x.resident then (false, noteSwapLate d s)
                else
                  let c : Cmd := { work := .streamStep d ebb n, sched := id, part := h.part, cores := cores, ebb := ebb, start := s.time, members := [{ desc := d, valid := true, chunk := n }], catchup := cu, erased := false, hostErr := false }
                  let s := takeStep d ebb e (takeBudget h.part h.charge cores s)
                  (true, writeTables h c (startCommand h c s).2)

/-- The work that a pick names. -/
def Pick.work : Pick → Placeable
  | .step d ebb _ _ _ => .step d ebb
  | .job j => .job j

/-- The dispatcher looks for work for a core's unreserved time. -/
def unreservedDispatch (core : Nat) (s : State) : State :=
  if !s.mayDispatch || s.withheld || !s.sharedIdle core then s
  else
    let ps := s.picks.map (fun x => x.2.2)
    let s := { s with disp := { s.disp with placed := s.disp.placed.filter (fun p => (ps.map Pick.work).contains p.work) } }
    (ps.foldl (tryPick core) (false, s)).2

/-! ## EXCLUSIVE jobs (R561, R573) -/

/-- The next command of an EXCLUSIVE job that holds its cores starts when what it needs is in place. -/
def pumpJob (j : Nat) (s : State) : State :=
  match tfind s.disp.jobs j with
  | none => s
  | some x =>
    if !x.excl || x.running || x.held.isEmpty || !x.cancel.isEmpty || s.failStopped || s.withheld then s
    else match s.pickSched (.job j) with
      | none => s
      | some (id, h) =>
        if s.depGone h then endJob j St.resource s
        else
          let cores := x.held.take h.programs
          let (ok, s) := prepare id h cores s
          match tfind s.disp.jobs j with
          | some x => if ok then startJobStep j x id h cores s else s
          | none => s

/-- Every EXCLUSIVE job that holds its cores is looked at again. -/
def pump (s : State) : State := (s.disp.jobs.map Prod.fst).foldl (fun s j => pumpJob j s) s

/-- Choose `n` cores one after another by the rule of placement. The first number is fuel. -/
def State.chooseCores (s : State) (h : Schedule) : Nat → List Nat → List Nat → List Nat
  | 0, _, got => got
  | n + 1, ps, got => match s.choose h false ps with
    | some p => s.chooseCores h n (ps.filter (· ≠ p)) (got ++ [p])
    | none => got

/-- The EXCLUSIVE job submitted earliest among those that wait for cores. -/
def State.firstExcl (s : State) : Option (Nat × Job) :=
  ((s.disp.jobs.filter (fun j => j.2.excl && j.2.held.isEmpty)).mergeSort (fun a b => a.2.order ≤ b.2.order)).head?

/-- EXCLUSIVE_JOB_START: the earliest waiting job takes its cores once enough are idle with its partition's budget and room for its
programs (R573, R584). -/
def exclusiveStart (s : State) : State :=
  if !s.mayDispatch then s
  else match s.firstExcl with
    | none => s
    | some (j, x) => match s.pickSched (.job j) with
      | none => s
      | some (id, h) =>
        let idle := (List.range 8).filter (fun c => (s.coreSt c).excl && (s.coreSt c).changing.isNone && s.coreIdle c && s.budgetCovers h.part h.charge [c] &&
          (List.range h.programs).all (fun p => s.storeTakes id h (c, p)))
        if idle.length < x.cores then s
        else
          let got := (s.chooseCores h x.cores idle []).mergeSort (· ≤ ·)
          let s := { s with disp := { s.disp with jobs := tset s.disp.jobs j { x with held := got } } }
          pumpJob j (got.foldl (fun s c => s.setCore c { s.coreSt c with job := some j }) s)

/-- BUDGET_REFILL (R558, R590). -/
def budgetRefill (s : State) : State :=
  { s with disp := { s.disp with parts := s.disp.parts.map (fun p => (p.1, { p.2 with remain := List.replicate 8 p.2.quota.budget })) } }

/-! ## The commands -/

/-- RUN_DISPATCH: the cohort whose reserved start has come. -/
def execRunDispatch (cohort : Nat) (s : State) : Host.Outcome State Fault Refusal := .next (runDispatch cohort s)
/-- UNRESERVED_DISPATCH on a core. -/
def execUnreservedDispatch (core : Fin 8) (s : State) : Host.Outcome State Fault Refusal := .next (unreservedDispatch core s)
/-- EXCLUSIVE_JOB_START. -/
def execExclusiveJobStart (s : State) : Host.Outcome State Fault Refusal := .next (exclusiveStart s)
/-- BUDGET_REFILL. -/
def execBudgetRefill (s : State) : Host.Outcome State Fault Refusal := .next (budgetRefill s)

end Sys2Proof.Machine
end

