-- ==== Sys2Proof/Machine/Image.lean ====
section
/-! DEFINITION. The module's flash and the Limtex image: slots, header, sections, signature and the checks of stage 2
(R643 to R650, R653, R705). -/

namespace Sys2Proof.Machine

/-! ## Flash (R643) -/

/-- Where the model keeps flash: complemented, so that erased flash is not listed. -/
def flashPlace : Nat := 2 ^ 49

/-- Flash bytes. -/
def State.flash (s : State) (off n : Nat) : List Byte := (s.peek (flashPlace + off) n).map (fun b => ~~~b)

/-- Erase a range of flash: every bit reads 1. -/
def eraseFlash (off n : Nat) (s : State) : State := s.zeroMem (flashPlace + off) n

/-- Program erased flash. -/
def programFlash (off : Nat) (bs : List Byte) (s : State) : State := s.poke (flashPlace + off) (bs.map (fun b => ~~~b))

/-- Where a slot begins. -/
def slotBase (slot : Nat) : Nat := slot * 2 ^ 28

/-- The largest image. -/
def slotMax : Nat := 2 ^ 28

/-- The sector erased at once. -/
def sector : Nat := 0x1_0000

/-! ## Layout (R644 to R646) -/

/-- One entry of the section table. -/
structure Sect where
  type : Nat
  mask : Nat
  off : Nat
  len : Nat
  digest : List Byte
  deriving DecidableEq, Repr

def imageSigner (b : List Byte) : Nat := fieldAt b 6 1
def imageVersion (b : List Byte) : Nat := fieldAt b 8 8
def imageLength (b : List Byte) : Nat := fieldAt b 16 4
def imageSects (b : List Byte) : Nat := fieldAt b 20 2
def imageSigOff (b : List Byte) : Nat := fieldAt b 28 4

/-- The section table. -/
def sectTable (b : List Byte) : List Sect :=
  (List.range (imageSects b)).map (fun i =>
    let e := (b.drop (256 + 48 * i)).take 48
    { type := fieldAt e 0 1, mask := fieldAt e 2 2, off := fieldAt e 4 4, len := fieldAt e 8 4, digest := (e.drop 16).take 32 })

/-- The bytes of a section. -/
def Sect.body (b : List Byte) (x : Sect) : List Byte := (b.drop x.off).take x.len

/-- Sections lie apart from the spans before them and from each other. -/
def apart : List (Nat × Nat) → List (Nat × Nat) → Bool
  | _, [] => true
  | spans, x :: rest => spans.all (fun y => !rangesMeet x.1 x.2 y.1 y.2) && apart (x :: spans) rest

/-- The end of the section table. -/
def tableEnd (b : List Byte) : Nat := 256 + 48 * imageSects b

/-- Check HEADER: MAGIC, FORMAT, ranges and reserved fields of R644 and R645. -/
def headerGood (b : List Byte) : Bool :=
  let n := imageSects b
  let so := imageSigOff b
  let len := imageLength b
  fieldAt b 0 4 == 0x58544D4C && fieldAt b 4 2 == 1 && decide (imageSigner b ≤ 1) && fieldAt b 7 1 == 0 && fieldAt b 22 2 == 0 &&
  zeros ((b.drop 32).take 224) && decide (len ≤ slotMax) && decide (1 ≤ n ∧ n ≤ 256) && fieldAt b 24 4 == 256 && so % 64 == 0 &&
  decide (tableEnd b ≤ so ∧ so + 192 ≤ len) &&
  (List.range n).all (fun i => fieldAt b (256 + 48 * i + 1) 1 == 0 && fieldAt b (256 + 48 * i + 12) 4 == 0) &&
  (sectTable b).all (fun x => x.off % 64 == 0 && decide (x.off + x.len ≤ len)) &&
  apart [(0, tableEnd b), (so, 192)] ((sectTable b).map (fun x => (x.off, x.len)))

/-! ## The contents that apply to one bay -/

/-- The sections of a type that apply to a bay, in table order (R645). -/
def bodiesOf (b : List Byte) (bay type : Nat) : List (List Byte) :=
  ((sectTable b).filter (fun x => x.type == type && Nat.testBit x.mask bay)).map (Sect.body b)

/-- Records of a section, each of the length its own bytes give, each on an 8-byte boundary (R646). The first number is fuel. -/
def records (len : List Byte → Option Nat) : Nat → List Byte → Option (List (List Byte))
  | 0, b => if b.isEmpty then some [] else none
  | n + 1, b =>
    if b.isEmpty then some []
    else match len b with
      | none => none
      | some l =>
        if l = 0 ∨ b.length < l then none
        else (records len n (b.drop ((l + 7) / 8 * 8))).map (fun rest => b.take l :: rest)

/-- The records of every applicable section of a type, in section order. -/
def recordsOf (b : List Byte) (bay type : Nat) (len : List Byte → Option Nat) : Option (List (List Byte)) :=
  ((bodiesOf b bay type).mapM (fun x => records len x.length x)).map List.flatten

/-- A partition number and seven reserved bytes, which are ignored (R7), begin the record. -/
def partHead (b : List Byte) : Bool := decide (8 ≤ b.length) && decide (fieldAt b 0 1 < 64)

def partitionLen (b : List Byte) : Option Nat := if partHead b then some 104 else none
def mapLen (b : List Byte) : Option Nat := if partHead b ∧ 1 ≤ fieldAt b 8 2 ∧ fieldAt b 8 2 ≤ 1024 then some (24 + 32 * fieldAt b 8 2) else none
def scheduleLen (b : List Byte) : Option Nat :=
  if 8 ≤ b.length ∧ fieldAt b 0 1 < 64 then some (8 + fieldAt b 4 4) else none
/-- A MODELS record (R650): HOST_ADDR is 0, and a STORE record carries no body. -/
def modelLen (b : List Byte) : Option Nat :=
  let src := fieldAt b 1 1
  if 112 ≤ b.length ∧ fieldAt b 0 1 < 64 ∧ src ≤ 1 ∧ (src = 0 ∨ fieldAt b 8 8 = 0) ∧
      ¬loadBad 64 ((b.drop 48).take 64) ∧ fieldAt b 56 8 = 0 then some (112 + fieldAt b 8 8) else none
def ringLen (b : List Byte) : Option Nat := if 16 ≤ b.length then some 16 else none
def standingLen (b : List Byte) : Option Nat := if 32 ≤ b.length then some 32 else none

/-- The entries of the applicable REGS sections: offset and value (R649); bits [31:24] of the offset are reserved and ignored (R7). -/
def regEntries (b : List Byte) (bay : Nat) : List (Nat × Nat) :=
  (bodiesOf b bay 4).flatMap (fun x => (List.range (x.length / 8)).map (fun i => (fieldAt x (8 * i) 3, fieldAt x (8 * i + 4) 4)))

/-- An entry names a register the image may load, and leaves its other bits at their reset value. -/
def regEntryGood (e : Nat × Nat) : Bool :=
  e.1 % 4 == 0 && match imageMask e.1 with
    | some m =>
      let keep := ~~~(BitVec.ofNat 32 m)
      (BitVec.ofNat 32 e.2 &&& keep) == (regReset deviceBlocks e.1 &&& keep)
    | none => false

/-- The registers as an image leaves them, and nothing else. -/
def imageState (b : List Byte) (bay : Nat) : State :=
  (regEntries b bay).foldl (fun t e => t.setReg e.1 (BitVec.ofNat 32 e.2)) {}

/-- The MANIFEST of an image (R647). -/
def manifestOf (b : List Byte) (bay : Nat) : List Byte := ((bodiesOf b bay 1).head?).getD []

/-- FW_SET as R647 computes it. -/
def fwSetOf (b : List Byte) : List Byte := sha256 (((sectTable b).filter (fun x => x.type == 2)).flatMap Sect.digest)

/-- Check of R647. -/
def manifestGood (b m : List Byte) : Bool :=
  let w := fieldAt m 42 2
  m.length == 64 && fieldAt m 0 8 != 0 && (m.drop 8).take 32 == fwSetOf b && decide (fieldAt m 40 1 ≤ 1) && decide (fieldAt m 41 1 ≤ 15) &&
  (w == 0 || decide (400 ≤ w ∧ w ≤ 1100)) && decide (fieldAt m 44 4 ≤ 30000)

/-- The section counts of R646 for one bay, with no section of another type. -/
def countsGood (b : List Byte) (bay : Nat) : Bool :=
  let n := fun t => (bodiesOf b bay t).length
  (sectTable b).all (fun x => decide (1 ≤ x.type ∧ x.type ≤ 10) && (x.type != 1 || x.mask == 0xFFFF) && (x.type != 2 || decide (x.len ≤ 0x40_0000))) &&
  n 1 == 1 && n 2 == 1 && n 3 == 1 && decide (n 9 ≤ 1) && decide (n 10 ≤ 1)

/-- MC_DIE_SLOTS divides the slots as R495 has it. -/
def dieSlotsGood (t : State) : Bool :=
  let d := (List.range 4).map (fun i => (t.reg R.mcDieSlots).toNat / 256 ^ i % 256)
  d.all (fun x => x % 4 == 0) && d.sum == 160

/-- The module area is laid out as R512 and R825 have it. -/
def layoutGood (t : State) : Bool :=
  let xl := t.pair R.xlTableBase
  let hub := xl + (t.fld F.xlTableMibMib + t.fld F.tpCkptAreaCkptAreaMib) * 0x10_0000
  let chunk := t.pair R.dmaChunkBase
  let rings := ((List.range 8).map (fun n => t.pair (R.apRingBase n))).filter (· != 0)
  decide (t.pair R.mcModBase ≤ xl) && decide (hub < chunk) && decide (chunk + 0x4000_0000 ≤ 0x60_0000_0000) &&
  apart [] (rings.map (fun v => (ringBase v, 3 * ringSize v))) &&
  rings.all (fun v => decide (hub ≤ ringBase v ∧ ringBase v + 3 * ringSize v ≤ chunk))

/-- Quota blocks taken one after the other (R548). -/
def quotasGood : List (List Byte) → State → Bool
  | [], _ => true
  | r :: rest, t =>
    let p := fieldAt r 0 1
    let raw := r.drop 8
    !quotaBad 96 raw && (tfind t.disp.creating p).isNone && !t.quotaOver p (quotaOf raw) &&
      quotasGood rest { t with disp := { t.disp with creating := tset t.disp.creating p (quotaOf raw, 0) } }

/-- A RESRINGS record: its ranges, and its place within the quota of a declared partition. -/
def ringGood (quotas : List (Nat × Quota)) (r : List Byte) : Bool :=
  let lg := fieldAt r 2 1
  decide (1 ≤ fieldAt r 0 1 ∧ fieldAt r 0 1 ≤ 8) && decide (4 ≤ lg ∧ lg ≤ 16) && fieldAt r 4 8 % 4096 == 0 &&
  quotas.any (fun q => q.1 == fieldAt r 1 1 && decide (fieldAt r 4 8 + 64 * 2 ^ lg ≤ q.2.dramSize))

/-- Every field of a standing record that R59 and R97 fix, but for the schedules; what it reserves is ignored (R7). -/
def standingGood (t : State) (quotas : List (Nat × Quota)) (rings : List Nat) (r : List Byte) : Bool :=
  let p := standingPar r 0 1
  let sink := fieldAt r 9 1
  !p.hostFed && decide (p.cls ≤ 1) && p.rate == 0 && decide (fieldAt r 24 2 ≤ 2000) &&
  (sink == 0 || rings.contains sink) && !t.parBad p &&
  quotas.all (fun q => q.1 == p.part ||
    (!(p.floodEn && Nat.testBit (q.2.audio.getD p.port 0) p.floodSlot) && !(p.ebbEn && Nat.testBit (q.2.audio.getD p.port 0) p.ebbSlot)))

/-- Check CONTENT (0x08): the static checks for one bay. -/
def contentGood (b : List Byte) (bay : Nat) : Bool :=
  let t := imageState b bay
  countsGood b bay && manifestGood b (manifestOf b bay) && (bodiesOf b bay 4).all (fun x => x.length % 8 == 0) && (regEntries b bay).all regEntryGood &&
  dieSlotsGood t && layoutGood t &&
  match recordsOf b bay 5 partitionLen, recordsOf b bay 6 mapLen, recordsOf b bay 7 scheduleLen, recordsOf b bay 8 modelLen,
    recordsOf b bay 9 ringLen, recordsOf b bay 10 standingLen with
  | some ps, some ms, some _, some _, some rs, some ss =>
    let quotas := ps.map (fun r => (fieldAt r 0 1, quotaOf (r.drop 8)))
    let rings := rs.map (fun r => fieldAt r 0 1)
    quotasGood ps t && ms.all (fun r => (mapEntries (r.drop 8)).isSome) && rs.all (ringGood quotas) && decide rings.Nodup && decide (ss.length ≤ 256) &&
      ss.all (standingGood t quotas rings)
  | _, _, _, _, _, _ => false

/-! ## The checks of R653 -/

abbrev Img.empty : Nat := 1
abbrev Img.header : Nat := 2
abbrev Img.flashRead : Nat := 3
abbrev Img.key : Nat := 4
abbrev Img.signature : Nat := 5
abbrev Img.rollback : Nat := 6
abbrev Img.digest : Nat := 7
abbrev Img.content : Nat := 8
abbrev Img.skipped : Nat := 9

/-- A life-cycle state accepts images of a signer (R685). -/
def signerAccepted (lc signer : Nat) : Bool :=
  match lc with
  | 1 => signer == 0
  | 2 => true
  | 3 => signer == 1
  | 4 => signer == 0
  | _ => false

/-- The OTP digest for a signer (R648). -/
def State.signDigest (s : State) (signer : Nat) : List Byte := if signer = 0 then s.sec.makerDigest else s.sec.ownerDigest

/-- The rollback floor of a signer (R704a). -/
def State.floor (s : State) (signer : Nat) : Floor := if signer = 0 then s.sec.floorMaker else s.sec.floorOwner

/-- Check KEY: the key's digest is the one in OTP, and the signer is accepted in this life-cycle state. -/
def State.keyGood (s : State) (b : List Byte) : Bool :=
  let signer := imageSigner b
  let d := s.signDigest signer
  signerAccepted s.sec.lc signer && !d.isEmpty && sha384 ((b.drop (imageSigOff b)).take 96) == d

/-- Check SIGNATURE: over the header and the section table (R648). -/
def signatureGood (b : List Byte) : Bool :=
  p384Verify ((b.drop (imageSigOff b)).take 96) ((b.drop (imageSigOff b + 96)).take 96) (b.take (tableEnd b))

/-- The cause of the first failing check of R653, none when the image passes; `bad` says that flash reported an uncorrectable
read, `skip` that the slot is marked. -/
def State.imageCause (s : State) (b : List Byte) (bad skip : Bool) : Option Nat :=
  if (b.take 256).all (· == 0xFF) then some Img.empty
  else if !headerGood b then some Img.header
  else if bad then some Img.flashRead
  else if !s.keyGood b then some Img.key
  else if !signatureGood b then some Img.signature
  else if imageVersion b < (s.floor (imageSigner b)).value then some Img.rollback
  else if !(sectTable b).all (fun x => sha256 (x.body b) == x.digest) then some Img.digest
  else if !contentGood b s.bay then some Img.content
  else if skip then some Img.skipped
  else none

/-- The bytes of the image in a slot: its header, and the rest where the header gives a length. -/
def State.slotBytes (s : State) (slot : Nat) : List Byte :=
  let h := s.flash (slotBase slot) 256
  if h.all (· == 0xFF) then h else s.flash (slotBase slot) (min slotMax (max 256 (imageLength h)))

/-- The register of a slot. -/
def imageReg (slot : Nat) : Nat := if slot = 0 then R.hubImageA else R.hubImageB

/-- A slot holds a valid image at its last verification. -/
def State.slotValid (s : State) (slot : Nat) : Bool := (s.reg (imageReg slot)).getLsbD 31

/-- The skip flag of a slot. -/
def skipBit (slot : Nat) : Fld := if slot = 0 then F.hubBootAttemptsSkipA else F.hubBootAttemptsSkipB

/-- Keep what a verification of a slot found: VALID, TRIED, CAUSE and the version (HUB_IMAGE_A, HUB_IMAGE_A_VER). -/
def noteSlot (slot : Nat) (tried : Bool) (cause : Option Nat) (version : Nat) (s : State) : State :=
  let w := (if cause.isNone then 0x8000_0000 else 0) + (if tried then 0x4000_0000 else 0) + cause.getD 0 * 256
  let s := s.setReg (imageReg slot) (BitVec.ofNat 32 w)
  s.setPair (if slot = 0 then R.hubImageAVer else R.hubImageBVer) (if cause.isNone then version else 0)

end Sys2Proof.Machine
end

