-- ==== Sys2Proof/Machine/LhOps.lean ====
section
/-! DEFINITION. What the Lighthouse families share: its event queue, management frames, bays, the tray record (R723, R724,
R726, R741, R762). -/

namespace Sys2Proof.Machine

/-! ## The Lighthouse event queue (R762) -/

/-- Offsets of the event-queue registers within their block. -/
def evqOffsets : List Nat := [0x00, 0x04, 0x08, 0x0C, 0x10, 0x14, 0x18, 0x1C, 0x20, 0x24, 0x30, 0x34, 0x38]

/-- The state with the Lighthouse's event queue in the place of the module's: the rules of R253 to R258 are the same. -/
def lhView (s : State) : State :=
  { s with regs := evqOffsets.map (fun o => (R.evqBase + o, s.lhReg (R.lhEvqBase + o))), host := s.lh.host, time := s.lh.time }

/-- Run a rule of the module's event queue on the Lighthouse's. -/
def onLhQueue (f : State → State) (s : State) : State :=
  let v := f (lhView s)
  { s with lhRegs := evqOffsets.foldl (fun t o => tset t (R.lhEvqBase + o) (v.reg (R.evqBase + o))) s.lhRegs, mem := v.mem, lh := { s.lh with host := v.host } }

/-- The Lighthouse runs. -/
def State.lhUp (s : State) : Bool := s.lhBit F.lhStatusRunning

/-- Records the event log keeps (R725). -/
def logMax : Nat := 8388608

/-- A Lighthouse event: it goes to the event log and to the event queue (R761, R762). -/
def emitLh (code unit inst w0 w1 w2 : Nat) (s : State) : State :=
  if !s.lhUp then s
  else
    let e : Event := { code := code, sev := evSeverity code, part := none, unit := unit, inst := inst, time := s.lh.time, w0 := w0 % 2 ^ 32, w1 := w1 % 2 ^ 32, w2 := w2 % 2 ^ 32, seq := s.lhFld F.lhEvqSeqSeq }
    let log := s.lh.log ++ [e]
    onLhQueue (emit code none unit inst w0 w1 w2) { s with lh := { s.lh with log := log.drop (log.length - logMax) } }

/-- An event of the Lighthouse about a bay, or about the tray (16). -/
def emitBay (code bay w0 w1 w2 : Nat) (s : State) : State := emitLh code 0xF0 (if bay < 16 then bay else 0xFF) w0 w1 w2 s

/-! ## Bays -/

/-- What the Lighthouse keeps of a bay. -/
def State.lhBay (s : State) (b : Nat) : LhBay := tget s.lh.bays b {}

/-- Set what the Lighthouse keeps of a bay. -/
def State.setLhBay (s : State) (b : Nat) (x : LhBay) : State := { s with lh := { s.lh with bays := tset s.lh.bays b x } }

/-- The bay of the module. -/
def State.myBay (s : State) : Nat := s.fld F.hubTopoBay

/-- The bays a mask names. -/
def maskBays (m : Nat) : List Nat := (List.range 16).filter (fun b => Nat.testBit m b)

/-! ## Management frames (R723, R724) -/

/-- A frame goes out. -/
def sendFrame (f : Frame) (s : State) : State := { s with lh := { s.lh with frames := s.lh.frames ++ [f] } }

/-- A request goes out and waits for its response. -/
def askFrame (f : Frame) (s : State) : State := sendFrame f { s with lh := { s.lh with asked := s.lh.asked ++ [(f, 1)] } }

/-- A request of an operation to or from a bay has been answered. -/
def answered (fromLh : Bool) (bay op : Nat) (s : State) : State :=
  { s with lh := { s.lh with asked := s.lh.asked.filter (fun x => !(x.1.fromLh == fromLh && x.1.bay == bay && x.1.op == op)) } }

/-- What STATUS_GET answers for this module (R723). -/
def State.statusNow (s : State) (debug : Word) : BayStatus where
  boot := s.reg R.hubBootStatus
  neap := s.reg R.hubNeap
  fab := s.reg R.fabStatus
  alert := s.reg R.hubAlert
  last := s.reg R.hubBootLast
  sessions := debug
  time := s.reg R.timeStatus
  epoch := BitVec.ofNat 64 (s.pair R.fabEpoch)
  power := BitVec.ofNat 16 s.boot.powerLimit
  image := BitVec.ofNat 8 (s.fld F.hubBootStatusImage)

/-- The 64 bytes of a STATUS_GET answer. -/
def statusBytes (x : BayStatus) : List Byte :=
  [x.boot, x.neap, x.fab, x.alert, x.last, x.sessions, x.time].flatMap (fun w => leBytes 4 w.toNat) ++
    leBytes 8 x.epoch.toNat ++ leBytes 2 x.power.toNat ++ leBytes 1 x.image.toNat ++ List.replicate 25 0

/-! ## The tray record (R741) -/

/-- A tray record: epoch, firmware set, scope. -/
structure TrayRecord where
  epoch : Nat
  fw : List Byte
  scope : Nat
  deriving DecidableEq, Repr

/-- The record the Lighthouse holds; none when none has been set. -/
def State.lhRecord (s : State) : Option TrayRecord :=
  if s.lhBit F.lhRecordScopeSet then
    some { epoch := s.lhPair R.lhRecordEpoch, fw := (List.range 8).flatMap (fun i => leBytes 4 (s.lhReg (0x50 + 4 * i)).toNat), scope := s.lhFld F.lhRecordScopeScope }
  else none

/-- The 48 bytes of a record (R723). -/
def recordFrame (r : TrayRecord) : List Byte := leBytes 8 r.epoch ++ r.fw ++ leBytes 1 r.scope ++ List.replicate 7 0

end Sys2Proof.Machine
end

