-- ==== Sys2Proof/Machine/Time.lean ====
section
/-! DEFINITION. Module time, the audio clock synthesizers and port phase (R173 to R217). -/

namespace Sys2Proof.Machine

/-! ## Module time (R184 to R190) -/

/-- Codes of the model's own for the causes that Config.causeCode turns into event words (log entry 2). -/
abbrev Cause.offset : Nat := 10
abbrev Cause.reference : Nat := 11
abbrev Cause.ticks : Nat := 12

/-- A LISTEN port loses alignment while its module is UNTRUSTED, and every port's steadiness follows (R190, R198). -/
def timeState (st : Nat) (s : State) : State :=
  let s := (s.setFld F.timeStatusState st).setBit F.hubAlertTime (st == 2)
  let s := { s with timeB := { s.timeB with good := 0 } }
  let s := (List.range 8).foldl (fun s n =>
    let s := if st = 2 ∧ s.fld (F.apCtrlRole n) = 2 then s.setBit (F.apStatusAligned n) false else s
    steadySync n s) s
  if st = 2 then [0, 1, 2, 3].foldl (fun s a => acsHold 1 a s) s
  else [0, 1, 2, 3].foldl (fun s a => acsResume a s) s

/-- Enter UNTRUSTED (R185). -/
def untrust (cause : Nat) (s : State) : State :=
  if s.fld F.timeStatusState = 2 then s
  else emitM Ev.timeUntrusted 0xB 0 (s.fld F.timeOffsetNs) (Config.causeCode cause) 0 (timeState 2 s)

/-- Enter ALARM from TRUSTED (R185, R187, R189). -/
def alarm (s : State) : State :=
  if s.fld F.timeStatusState = 0 then emitM Ev.timeAlarm 0xB 0 (s.fld F.timeOffsetNs) 0 0 (timeState 1 s) else s

/-- The largest |OFFSET| since the last read. -/
def noteOffset (off : Int) (s : State) : State :=
  let s := s.setFld F.timeOffsetNs (codeOf 32 off)
  let a := min off.natAbs 0xFFFFFFFF
  if a > s.fld F.timeMaxoffNs then s.setFld F.timeMaxoffNs a else s

/-- Class the time from OFFSET (R184, R185, R186). A step is due whenever |OFFSET| exceeds 10 µs, in UNTRUSTED too (log entry 101). -/
def classify (off : Int) (s : State) : State :=
  let s := noteOffset off s
  let a := off.natAbs
  if a > 10000 then
    let s := untrust Cause.offset s
    { s with timeB := { s.timeB with stepDue := true, good := 0, slew := 0 } }
  else
    let s := { s with timeB := { s.timeB with slew := -off } }
    if a > 1000 then
      let s := alarm s
      { s with timeB := { s.timeB with good := 0 } }
    else { s with timeB := { s.timeB with good := s.timeB.good + 1 } }

/-- TIME_ALARM_CLEAR: ALARM ends after 100 good ticks (R185). -/
def alarmClear (s : State) : State :=
  if s.fld F.timeStatusState = 1 ∧ 100 ≤ s.timeB.good then
    emitM Ev.timeAlarmClear 0xB 0 (s.fld F.timeOffsetNs) 0 0 (timeState 0 s)
  else s

/-- The chunks of a port-fed stream that wait become catch-up chunks (R108): bit 17 of their flags says so. -/
def Stream.waited (x : Stream) : Stream :=
  if x.par.hostFed then x
  else { x with flags := ((x.ready ++ x.ended).map Prod.fst).foldl (fun f n =>
      let v := tget f n 0
      if Nat.testBit v 17 then f else tset f n (v + 2 ^ 17)) x.flags }

/-- TIME_TRUSTED: trust returns after 1,000 good ticks (R185). -/
def trusted (s : State) : State :=
  if s.fld F.timeStatusState = 2 ∧ 1000 ≤ s.timeB.good then
    let s := emitM Ev.timeTrusted 0xB 0 0 0 0 (timeState 0 s)
    { s with strm := { s.strm with table := s.strm.table.map (fun x => (x.1, x.2.waited)) } }
  else s

/-- The module's counter against the announced time at a tick (R184 to R187). The first announced value is taken as it
comes, without TIME_STEP (log entry 17). At the tick of a step OFFSET shows 0, and the tick is none of the 1,000 (log entry 101). -/
def measure (s : State) : State :=
  match s.timeB.next with
  | none => s
  | some ann =>
    let s := { s with timeB := { s.timeB with next := some (ann + 1000000), heard := false } }
    if !s.timeB.loaded then { s with time := ann, timeB := { s.timeB with loaded := true } }
    else if s.timeB.stepDue then
      let d : Int := (ann : Int) - s.time
      let s := { s with time := ann, timeB := { s.timeB with stepDue := false, slew := 0 } }
      emitM Ev.timeStep 0xB 0 (codeOf 32 d) 0 0 (noteOffset 0 (s.setBit F.timeStatusStepped true))
    else trusted (alarmClear (classify ((s.time : Int) - ann) s))

/-- One cycle of the 100 MHz reference: the counter adds 10 ns, or 11 or 9 ns on one cycle in 1,000 while it slews (R184). -/
def cycle (s : State) : State :=
  let b := s.timeB
  if b.slew ≠ 0 ∧ 999 ≤ b.cycle then
    let up := decide (b.slew > 0)
    { s with time := s.time + (if up then 11 else 9), timeB := { b with cycle := 0, slew := if up then b.slew - 1 else b.slew + 1 } }
  else { s with time := s.time + 10, timeB := { b with cycle := min 999 (b.cycle + 1) } }

/-- One cycle passes: for a module with power, and for the timing sequencer, whose oscillator runs from the standby supply (R177). -/
def passCycle (s : State) : State :=
  let s := if s.boot.powered then cycle s else s
  { s with lh := { s.lh with time := s.lh.time + 10 } }

/-! ## Ports and synthesizers at a tick (R132, R196 to R205) -/

/-- Each running port latches the index and time of its last FS (R132). -/
def latchSync (s : State) : State :=
  (List.range 8).foldl (fun s n =>
    let p := s.port n
    if s.bit (F.apStatusRunning n) && decide (0 < p.idx) then
      ((s.setPair (R.apSyncIdx n) p.fsIdx).setPair (R.apSyncTime n) p.fsTime).setPort n { p with latched := true } else s) s

/-- d in 10^-9 frame (R197). -/
def State.phaseOf (s : State) (n : Nat) : Int :=
  ((s.pair (R.apSyncIdx n) : Int) - s.pair (R.apdAnchorIdx n)) * 1000000000
    - ((s.pair (R.apSyncTime n) : Int) - s.pair (R.apdAnchorTime n)) * rateHz (s.fld (F.apCfgRate n))

/-- An exact quotient shown in whole units: which way it is rounded is a free value. -/
def rounded (num : Int) (den : Nat) : Int :=
  let q := num / (den : Int)
  if num % (den : Int) = 0 then q else if Config.roundUp num den then q + 1 else q

/-- Anchor a port at its latched pair (R196, R201). -/
def anchorPort (n : Nat) (s : State) : State :=
  let s := (s.setPair (R.apdAnchorIdx n) (s.pair (R.apSyncIdx n))).setPair (R.apdAnchorTime n) (s.pair (R.apSyncTime n))
  steadySync n ((s.setBit (F.apdStatusAnchored n) true).setPort n { s.port n with d := 0 })

/-- One port's phase at a tick (R196, R197). -/
def portPhase (n : Nat) (s : State) : State :=
  if !s.bit (F.apCtrlEn n) then s
  else
    let s := if !s.bit (F.apdStatusAnchored n) && s.bit (F.apStatusRunning n) && decide (0 < (s.port n).idx) && s.fld F.timeStatusState != 2
        && s.fld (F.acsStatusState (s.fld (F.apCfgAcs n))) != 1 then anchorPort n s else s
    if s.bit (F.apdStatusAnchored n) then
      let d := s.phaseOf n
      (s.setPort n { s.port n with d := d }).setReg (R.apdPhase n) (BitVec.ofNat 32 (codeOf 32 (rounded (d * 65536) 1000000000)))
    else s

/-- The pull limit of a synthesizer: at most 500,000 ppb, whatever is written while it runs (R191). -/
def State.pullLim (s : State) (a : Nat) : Int := (min 500000 (s.fld (F.acsPullLimPpb a)) : Nat)

/-- Bound a pull to the limit. -/
def clampPull (lim p : Int) : Int := if p > lim then lim else if p < -lim then -lim else p

/-- Set the pull in force. -/
def setPull (a : Nat) (p : Int) (s : State) : State := s.setFld (F.acsPullNowPpb a) (codeOf 32 p)

/-- Sign of a number. -/
def sgn (i : Int) : Int := if i > 0 then 1 else if i < 0 then -1 else 0

/-- π in units of 10^-20. -/
def piScaled : Int := 314159265358979323846

/-- The loop's terms (kp e + ki i) × 10^9 of R202 in ppb, shown in whole ppb (R191): bandwidth in 0.01 Hz, rate in Hz, d and its running sum
in 10^-9 frame. With ωn = π BW / 50 they are 2 ωn d / RATE and ωn² Σd / (1000 RATE), brought here to one denominator. -/
def loopTerm (bw hz : Nat) (d sum : Int) : Int :=
  rounded (2 * d * bw * piScaled * (50000 * 10 ^ 20) + (bw : Int) * bw * piScaled * piScaled * sum) (2500000 * 10 ^ 40 * max 1 hz)

/-- One tick of the steering loop of R202. -/
def loopTick (a : Nat) (s : State) : State :=
  let x := tget s.acs a {}
  let p := s.fld (F.acsCtrlRefPort a)
  let hz := rateHz (s.fld (F.apCfgRate p))
  let d := (s.port p).d
  let lim := s.pullLim a
  let try_ := x.pMeas - loopTerm (s.fld (F.acsBwBwChz a)) hz d (x.integ + d)
  if try_ > lim ∨ try_ < -lim then
    let s := setPull a (clampPull lim try_) s
    let s : State := { s with acs := tset s.acs a { x with integ := if sgn d ≠ sgn x.integ then x.integ + d else x.integ } }
    if s.bit (F.acsStatusAtLimit a) then s
    else emitM Ev.acsLimit 4 a (codeOf 32 (clampPull lim try_)) 0 0 (s.setBit (F.acsStatusAtLimit a) true)
  else setPull a try_ (({ s with acs := tset s.acs a { x with integ := x.integ + d } } : State).setBit (F.acsStatusAtLimit a) false)

/-- One tick of a synthesizer (R191, R200, R202). -/
def acsTick (a : Nat) (s : State) : State :=
  if !s.bit (F.acsCtrlEn a) then s
  else if s.fld (F.acsCtrlMode a) = 0 then
    if s.fld (F.acsStatusState a) = 2 then setPull a (clampPull (s.pullLim a) (signedOf 32 (s.fld (F.acsPullSetPpb a)))) s else s
  else
    let p := s.fld (F.acsCtrlRefPort a)
    if s.fld (F.acsStatusState a) = 2 then loopTick a s
    else if s.fld (F.acsStatusState a) = 1 then
      let x := tget s.acs a {}
      let able := s.bit (F.apStatusRunning p) && decide (0 < (s.port p).idx) && !s.acsHeld a
      let s := setPull a (clampPull (s.pullLim a) (signedOf 32 (s.fld (F.acsPullSetPpb a)))) s
      if !able then { s with acs := tset s.acs a { x with ticks := 0 } }
      else if x.ticks = 0 then
        { s with acs := tset s.acs a { x with ticks := 1, idx0 := s.pair (R.apSyncIdx p), time0 := s.pair (R.apSyncTime p) } }
      else { s with acs := tset s.acs a { x with ticks := min 101 (x.ticks + 1) } }
    else s

/-- The bays named as standby by the streams bound to a port (R634). -/
def State.standbys (s : State) (n : Nat) : List Nat :=
  ((s.boundTo n).filter (fun x => x.2.par.stbyValid && x.2.leased)).map (fun x => x.2.par.stbyBay) |>.eraseDups

/-- The slip decision of a port at a tick at least 500 µs before its next boundary (R205, R208, R212). The next tick comes 1 ms later, or
1.1 ms where the module makes it itself (R188), so a tick up to 1.7 ms before the boundary decides; a later one that still comes in time
decides anew. -/
def decideSlip (n : Nat) (s : State) : State :=
  let p := s.port n
  let g := s.gridFrames n
  let kb := if p.idx = 0 then g else ceilDiv p.idx g * g
  let at_ := s.frameTime n kb
  if !s.bit (F.apStatusRunning n) || !s.bit (F.apdStatusAnchored n) || s.fld (F.apStatusRoleNow n) == 2 || s.bit (F.apStatusSyncLost n)
      || s.fld F.timeStatusState == 2 || !decide (s.time + 500000 ≤ at_ ∧ at_ < s.time + 1700000) then s
  else
    let m := min 64 (p.d.natAbs / 1000000000)
    if m = 0 ∧ p.slip.isNone then s
    else
      let drop := decide (p.d > 0)
      let s := s.setPort n { p with slip := if m = 0 then none else some (drop, m, kb) }
      (s.standbys n).foldl (fun s b => unicast b (.slip n kb drop m) s) s

/-- STANDBY_SYNC of every port with standby bays, and the count of ticks without one on LISTEN ports (R190, R634). -/
def standbyTick (n : Nat) (s : State) : State :=
  let s := (s.standbys n).foldl (fun s b => unicast b (.standbySync n (s.pair (R.apSyncIdx n)) (s.pair (R.apSyncTime n)) (s.fld F.timeStatusState)) s) s
  if s.bit (F.apCtrlEn n) && s.fld (F.apCtrlRole n) == 2 then s.setPort n { s.port n with homeMiss := (s.port n).homeMiss + 1 } else s

/-- Everything a tick does besides time itself: pairs, phase, loops, slips, standby messages, the step boundary (R90, R132). -/
def tickWork (s : State) : State :=
  let s := (List.range 8).foldl (fun s n => portPhase n s) s
  let s := [0, 1, 2, 3].foldl (fun s a => acsTick a s) s
  let s := (List.range 8).foldl (fun s n => standbyTick n (decideSlip n s)) s
  settleParts (stepBoundary s)

/-- A time value message is good (R179): its fields follow. -/
def msgGood (b : List Byte) : Bool :=
  b.length == 22 && fieldAt b 0 1 == 0x5A && fieldAt b 1 1 == 0xA5 && fieldAt b 20 2 == crc16 ((b.drop 2).take 18)

/-- A bad or absent message (R187). -/
def badMessage (s : State) : State :=
  let s := (s.count F.timeErrcntMsgErr 1).setBit F.timeStatusMsgOk false
  { s with timeB := { s.timeB with bad := s.timeB.bad + 1 } }

/-- The time value message the tray sends after a tick (R179, R215). -/
def State.timeMessage (s : State) : List Byte :=
  let st := s.lhFld F.lhPtpState
  let body := leBytes 1 (s.lh.msgSeq % 256) ++ leBytes 1 ((if st = 1 then 1 else 0) + (if st = 2 then 2 else 0) + (if s.lh.lhDown then 4 else 0)) ++
    leBytes 8 ((s.lh.time / 1000000 + 1) * 1000000) ++ leBytes 8 (if s.lh.taiSet then s.lhPair R.lhTaiOffset else 0)
  [0x5A, 0xA5] ++ body ++ leBytes 2 (crc16 body)

/-- What a module does with what the line carried: anything but a whole correct message counts as bad or absent (R179, R187). -/
def takeMessage (raw : List Byte) (s : State) : State :=
  if !msgGood raw then badMessage s
  else
    let fl := fieldAt raw 3 1
    let s := ((s.setBit F.timeStatusPtpLocked (Nat.testBit fl 0)).setBit F.timeStatusPtpHoldover (Nat.testBit fl 1)).setBit F.timeStatusLhDown (Nat.testBit fl 2)
    let s := (s.setBit F.timeStatusMsgOk true).setPair R.timeTaiOffset (fieldAt raw 12 8)
    { s with timeB := { s.timeB with next := some (fieldAt raw 4 8), heard := true, bad := 0 } }

/-- TIME_MSG: the tray sends its message (R179); `line` is what the line carried to this bay where that is something else. -/
def execTimeMsg (line : Option (List Byte)) (s : State) : Host.Outcome State Fault Refusal :=
  .next (powered (takeMessage (line.getD s.timeMessage)) { s with lh := { s.lh with msgSeq := (s.lh.msgSeq + 1) % 256 } })


/-- TIME_MSG_ERROR_LIMIT (R187). -/
def execTimeMsgErrorLimit (s : State) : Host.Outcome State Fault Refusal := .next (powered (fun s => if 16 ≤ s.timeB.bad then alarm s else s) s)

/-- TICK_MISS_LIMIT (R188). -/
def execTickMissLimit (s : State) : Host.Outcome State Fault Refusal := .next (powered (fun s => if 100 ≤ s.timeB.missed then untrust Cause.ticks s else s) s)

/-- TIME_ALARM_CLEAR. -/
def execTimeAlarmClear (s : State) : Host.Outcome State Fault Refusal := .next (powered (fun s => alarmClear s) s)

/-- TIME_TRUSTED. -/
def execTimeTrusted (s : State) : Host.Outcome State Fault Refusal := .next (powered (fun s => trusted s) s)

/-- HOLDOVER_EXPIRY (R189). -/
def execHoldoverExpiry (s : State) : Host.Outcome State Fault Refusal :=
  .next (powered (fun s => if s.bit F.timeStatusHoldover then untrust Cause.reference s else s) s)

/-! ## Synthesizers (R191 to R195, R200, R201, R209, R210) -/

/-- The code of the first check of R195 a synthesizer fails. -/
def State.acsCheck (s : State) (a : Nat) : Option Nat :=
  let mode := s.fld (F.acsCtrlMode a)
  let bw := s.fld (F.acsBwBwChz a)
  let lim := s.fld (F.acsPullLimPpb a)
  if mode > 1 then some 0x01
  else if mode = 1 ∧ s.fld (F.apCfgAcs (s.fld (F.acsCtrlRefPort a))) ≠ a then some 0x02
  else if bw = 0 ∨ bw > 1000 then some 0x03
  else if lim > 500000 ∨ (signedOf 32 (s.fld (F.acsPullSetPpb a))).natAbs > lim then some 0x04
  else none

/-- A write that sets EN of a synthesizer (R195, R200): FIXED tracks PULL_SET, RING acquires from it. -/
def acsEnable (a : Nat) (s : State) : State :=
  match s.acsCheck a with
  | some c => (s.setBit (F.acsStatusCfgErr a) true).setFld (F.acsStatusErrCode a) c
  | none =>
    let s := setPull a (signedOf 32 (s.fld (F.acsPullSetPpb a))) (s.setBit (F.acsCtrlEn a) true)
    let s := { s with acs := tset s.acs a {} }
    (s.setFld (F.acsStatusState a) (if s.fld (F.acsCtrlMode a) = 1 then 1 else 2)).setBit (F.acsStatusAtLimit a) false

/-- A port attached to a synthesizer is enabled. -/
def State.acsBusy (s : State) (a : Nat) : Bool :=
  (List.range 8).any (fun n => s.bit (F.apCtrlEn n) && s.fld (F.apCfgAcs n) == a)

/-- A write of ACS_CTRL (R194, R195): ignored while an attached port is enabled or EN = 1 (log entry 18). -/
def effAcsCtrl (a : Nat) (v : Word) (s : State) : State :=
  if s.acsBusy a ∨ s.bit (F.acsCtrlEn a) then emitM Ev.acsCfgBusy 4 a (R.acsCtrl a) 0 0 s
  else
    let s := s.setReg (R.acsCtrl a) (wset (wset (wset v 31 11 0) 7 6 0) 0 0 0)
    if wfield v 0 0 = 1 then acsEnable a s else s

/-- What an MCLK output carries. -/
inductive MclkPin where
  /-- high-impedance -/
  | released
  /-- held low -/
  | low
  /-- a clock: its frequency in 10^-9 Hz times the divisor, and the divisor -/
  | running (num div : Nat)
  deriving DecidableEq, Repr

/-- ACSn_MCLK as the module drives it: high-impedance while every output is off, and in the start before Ready (R162); held low at
MCLK_DIV = 0, with a failed synthesizer, or with one that does not run (R191, R193, R209; log entry 102). -/
def State.mclk (s : State) (a : Nat) : MclkPin :=
  let div := s.fld (F.acsCtrlMclkDiv a)
  if s.outputsOff ∨ s.stage < 8 then .released
  else if div = 0 ∨ s.fld (F.acsStatusState a) = 0 ∨ s.fld (F.acsStatusState a) = 4 then .low
  else .running ((if s.fld (F.acsCtrlFreq a) = 0 then 24576000 else 22579200) * (1000000000 + signedOf 32 (s.fld (F.acsPullNowPpb a))).toNat) (2 ^ (div - 1))

/-- ACS_CTRL_WRITE. -/
def execAcsCtrlWrite (path : Path) (n : Fin 4) (v : Word) (s : State) : Host.Outcome State Fault Refusal :=
  .next (screen path (R.acsCtrl n) 0xF#4 (effAcsCtrl n v) s)

/-- ACS_ENABLE: a write of ACS_CTRL that sets EN. -/
def execAcsEnable (path : Path) (n : Fin 4) (v : Word) (s : State) : Host.Outcome State Fault Refusal :=
  .next (screen path (R.acsCtrl n) 0xF#4 (effAcsCtrl n (v ||| 1)) s)

/-- ACS_ACQUIRE_END: the measurement over 100 ticks ends (R200, R201). The error lies within the resolution of 100 ppb. -/
def execAcsAcquireEnd (n : Fin 4) (s : State) : Host.Outcome State Fault Refusal :=
  .next (powered (fun s => let x := tget s.acs n {}
    let p := s.fld (F.acsCtrlRefPort n)
    if s.fld (F.acsStatusState n) ≠ 1 ∨ x.ticks < 101 then s
    else
      let di := s.pair (R.apSyncIdx p) - x.idx0
      let dt := s.pair (R.apSyncTime p) - x.time0
      let den := max 1 (dt * rateHz (s.fld (F.apCfgRate p)))
      let meas : Int := ((di * 10 ^ 18 : Nat) : Int) / (den : Int) - 1000000000 + ((Config.freqError di dt (s.fld (F.apCfgRate p)) % 101 : Nat) : Int) - 50
      let pull := clampPull (s.pullLim n) (signedOf 32 (s.fld (F.acsPullSetPpb n)) - meas)
      let s := setPull n pull (s.setFld (F.acsFreqMeasPpb n) (codeOf 32 meas))
      let s := { s with acs := tset s.acs n { x with pMeas := pull, integ := 0, ticks := 0 } }
      let s := s.setFld (F.acsStatusState n) 2
      (List.range 8).foldl (fun s q =>
        if s.bit (F.apCtrlEn q) && s.fld (F.apCfgAcs q) == n.val && s.bit (F.apStatusRunning q) && decide (0 < (s.port q).idx) then anchorPort q s else s) s) s)

/-- A synthesizer fails (R209): its MASTER ports drive BCLK and FS low and behave as in frame-sync loss. -/
def acsFail (a : Nat) (s : State) : State :=
  if !s.bit (F.acsCtrlEn a) || s.fld (F.acsStatusState a) == 4 then s
  else
    let s := emitM Ev.acsFailed 4 a 0 0 0 (s.setFld (F.acsStatusState a) 4)
    (List.range 8).foldl (fun s n =>
      if s.bit (F.apCtrlEn n) && s.fld (F.apCfgAcs n) == a && s.fld (F.apStatusRoleNow n) == 0 && s.bit (F.apStatusRunning n) && !s.bit (F.apStatusSyncLost n)
      then syncLoss n s else s) s

/-- ACS_FAILED. -/
def execAcsFailed (n : Fin 4) (s : State) : Host.Outcome State Fault Refusal := .next (powered (oneCycle (fun s => acsFail n s)) s)

/-- ACS_RELOCK: a relock that succeeds (R210). -/
def execAcsRelock (n : Fin 4) (s : State) : Host.Outcome State Fault Refusal :=
  .next (powered (oneCycle fun s => if s.fld (F.acsStatusState n) ≠ 4 then s
    else
      let ring := s.fld (F.acsCtrlMode n) = 1
      let s := s.setFld (F.acsStatusState n) (if ring then 1 else 2)
      let s := { s with acs := tset s.acs n { tget s.acs n {} with ticks := 0 } }
      let s := emitM Ev.acsRestored 4 n 0 0 0 s
      (List.range 8).foldl (fun s q =>
        if s.bit (F.apCtrlEn q) && s.fld (F.apCfgAcs q) == n.val && s.fld (F.apStatusRoleNow q) == 0 && s.bit (F.apStatusSyncLost q) then syncRestored q s else s) s) s)

end Sys2Proof.Machine
end

