-- ==== Sys2Proof/Machine/Ends.lean ====
section
/-! DEFINITION. The end of a command and what it delivers: results, checkpoints falling due, job steps (R64, R74, R76, R248, R357, R371,
R373, R428, R565, R574); job commands (R571 to R575); host-fed chunks (R72, R463); hot sets arriving; scrubbing (R409, R410, R436,
R441, R507) and refresh demand (R502). -/

namespace Sys2Proof.Machine

/-! ## A planned transfer at its source (R628) -/

/-- The first flood chunk whose end falls at or after the cut, once it can be told: a chunk collected already, or the next one. -/
def State.firstBeyond (s : State) (x : Stream) (cut : Nat) : Option Nat :=
  match (x.ready ++ x.ended).find? (fun c => decide (cut ≤ c.2)) with
  | some (n, _) => some n
  | none =>
    if x.par.hostFed then
      let next := if x.par.cls = 0 then x.lastEnd + periodNs x.par.period else s.time
      if cut ≤ next then some x.nextIn else none
    else
      let f := max 1 (s.framesOf x.par)
      (List.range 64).find? (fun i => decide (cut ≤ s.frameTime x.par.port ((x.nextIn + i + 1) * f))) |>.map (fun i => x.nextIn + i)

/-- A part's record of a transfer is sent: its state as it stands (R628). -/
def sendPart (d : Nat) (ebb : Bool) (t : Xfer) (s : State) : State :=
  match s.stream d with
  | some x =>
    let idx := (List.range (s.partGrans x ebb)).map (fun i => s.partBase x ebb / 16384 + i)
    match s.badPages x (idx.filter (fun i => (s.granHere d x i).isNone)) with
    | b :: _ => mcFatal 1 b (noteUe b s)
    | [] => sendRecord d t.bay ebb true false (s.granBytes d x idx) s
  | none => s

/-- The source of a planned transfer goes on (R628): once ebb is idle H is fixed and the ebb part's record is sent; once the step of
chunk H - 1 has ended, the flood part's. -/
def settleXfer (d : Nat) (s : State) : State :=
  match s.stream d with
  | none => s
  | some x => match x.xfer with
    | none => s
    | some t => match t.cut with
      | none => s
      | some cut =>
        if !t.source || x.state != .migrating || 3 ≤ t.stage then s
        else
          let (t, s) := if x.par.ebbEn && !t.gotEbb then ({ t with gotEbb := true }, sendPart d true t s) else (t, s)
          let t := if t.h.isNone && x.par.floodEn then { t with h := s.firstBeyond x cut } else t
          let done := t.h.any (fun h => decide (h ≤ x.flood.next)) && !x.flood.stepping
          let (t, s) := if x.par.floodEn && !t.gotFlood && done then ({ t with gotFlood := true }, sendPart d false t s) else (t, s)
          let sent := (t.gotFlood || !x.par.floodEn) && (t.gotEbb || !x.par.ebbEn)
          s.modStream d (fun x => { x with xfer := some { t with stage := if sent then 2 else t.stage } })

/-! ## A member's step ends -/

/-- The due time of a flood chunk's result (R74): GUARANTEED streams only, and not for catch-up. -/
def Stream.dueOf (x : Stream) (cat : Bool) (end_ : Nat) : Nat :=
  if x.par.cls = 0 ∧ ¬cat then end_ + x.par.lookahead * 10000000 + x.flood.bound * 1000 else 0

/-- A result of an ELASTIC stream is complete after its deadline (R61, R64). -/
def Stream.elasticLate (x : Stream) (cat : Bool) (end_ now : Nat) : Bool :=
  x.par.cls == 1 && !cat && decide (end_ + x.par.lookahead * 10000000 + x.par.slack * 1000 < now)

/-- A part of a range: its first byte and its length are free within it (log entry 47). -/
def spanWithin (a n : Nat) (s : State) : Nat × Nat × State :=
  let o := s.freeNow % (n + 1)
  let s := s.freeNext
  (a + o, s.freeNow % (n - o + 1), s.freeNext)

/-- Where the output of a result lies and how long it is (R248): nowhere when the command wrote nothing to the partition's space; what its
one descriptor wrote, when it serves one result. Of several descriptors, or for one of several members, which part of what was written is
the result's output is the schedule's own: a free part of a free one of the ranges written. -/
def outSpan (c : Cmd) (s : State) : Nat × Nat × State :=
  match c.wrote, decide (c.members.length ≤ 1) with
  | [], _ => (0, 0, s)
  | [(a, n)], true => (a, n, s)
  | w, _ =>
    let r := w.getD (s.freeNow % w.length) (0, 0)
    spanWithin r.1 r.2 s.freeNext

/-- The flood result of chunk `r` is written (R64, R74, R248); a stream that leaves by ABORT gives none (R96). -/
def floodResult (x : Stream) (c : Cmd) (erased : Bool) (r : Nat) (s : State) : State :=
  if x.closing = some 1 then s else
  let end_ := tget x.ends r 0
  let due := x.dueOf c.catchup end_
  let late := (decide (due ≠ 0) && decide (due < s.time)) || x.elasticLate c.catchup end_ s.time
  let f := Nat.lor (tget x.flags r 0 % 128) ((if late then 1 else 0) + (if c.catchup then 4 else 0) + (if erased then 8 else 0))
  let (a, n, s) := outSpan c s
  let s := sinkResult x.sink x.par.part { kind := 2, rflags := f, handle := x.par.handle, value := r, tag := x.par.userTag, done := s.time, due := due, outAddr := a, outLen := n } s
  if !late then s
  else
    let s := s.count F.admitStatsLate 1
    if due = 0 then s else emit Ev.streamDeadlineMiss (some x.par.part) 9 0 x.par.handle r ((s.time - due) / 1000) s

/-- Keep a step's progress: chunk done, least recently stepped order, RUNNING to IDLE (R66, R92). -/
def stepDone (d : Nat) (ebb : Bool) (n : Nat) (s : State) : State :=
  let s := s.modStream d (fun x =>
    let y := x.dir ebb
    let x := x.setDir ebb { y with last := some n, next := n + 1, stepping := false }
    { x with
      stepped := some s.tide.nextStep
      state := if x.state = .running ∧ !x.flood.stepping ∧ !x.ebb.stepping then .idle else x.state })
  countStreams { s with tide := { s.tide with nextStep := s.tide.nextStep + 1 } }

/-- A checkpoint that is owed of a part whose sections the step does not release, or of one that is owed whole, begins to be read (R428,
R434). -/
def owedPart (d : Nat) (ebb bySect : Bool) (s : State) : State :=
  match s.stream d with
  | some x => if s.ckptOwed x ebb && !(x.dir ebb).ckptBusy && (!bySect || (x.dir ebb).ckptWhole) then readPart d ebb s else s
  | none => s

/-- A flood step ends. -/
def floodEnd (c : Cmd) (erased held : Bool) (m : Member) (x : Stream) (s : State) : State :=
  let w := ((s.dirSched x false).map Schedule.window).getD 0
  let r := m.chunk - w
  let real := decide (w ≤ m.chunk) && !(x.silent.any (fun k => decide (k ≤ r)))
  let s := if held || !real then s else floodResult x c erased r s
  let s := s.modStream m.desc (fun x => { x with
    ready := x.ready.filter (fun y => y.1 ≠ m.chunk)
    bells := terase x.bells m.chunk
    flags := if held || m.chunk < w then x.flags else terase x.flags r
    ends := if held || m.chunk < w then x.ends else terase x.ends r })
  stepDone m.desc false m.chunk s

/-- An ebb step ends (R68, R96, R241): its block is done when the synthesis of the block has ended, or the stream drains, or a cancel
waits; an EBB_CANCEL that waits completes. A host-fed stream's chunk is reported at once (R465). -/
def ebbEnd (c : Cmd) (erased : Bool) (last : List Nat) (m : Member) (x : Stream) (s : State) : State :=
  let stop := last.contains m.desc || x.state == .draining || !x.cancelCmd.isEmpty
  let rest := if stop then x.ebbIn.drop 1 else x.ebbIn
  let done := stop && (match rest with | b :: _ => b.newUtt | [] => true)
  let mark := fun (p : Play) => if p.chunk = m.chunk ∧ erased then { p with flags := Nat.lor p.flags 8 } else p
  let s := s.setStream m.desc { x with ebbIn := rest, plays := x.plays.map mark, cancelCmd := [] }
  let s := if done then endUtterance m.desc s else s
  let s := if x.par.hostFed then
      let (a, n, s) := outSpan c s
      giveResult x { kind := 3, rflags := if erased then 8 else 0, handle := x.par.handle, value := m.chunk, tag := x.par.userTag, done := s.time, outAddr := a, outLen := n } s
    else s
  let s := x.cancelCmd.foldl (fun s q => completeCmd q.1 q.2 St.ok 0 x.par.handle 0 s) s
  stepDone m.desc true m.chunk s

/-- A member's step ends, with the lease checked again (R76): without it nothing is delivered. -/
def memberEnd (c : Cmd) (erased : Bool) (last : List Nat) (s : State) (mh : Member × Bool) : State :=
  let (m, held) := mh
  match s.stream m.desc with
  | none => s
  | some x =>
    if !m.valid then memberIdle c.ebb m.desc s
    else if !(x.dir c.ebb).stepping then s
    else if !s.leaseGood x then s.setStream m.desc (x.setDir c.ebb { x.dir c.ebb with stepping := false })
    else
      let bySect := x.bySection && (match c.work with | .run _ _ => true | _ => false)
      let s := if c.ebb then ebbEnd c erased last m x s else floodEnd c erased held m x s
      settleXfer m.desc (owedPart m.desc c.ebb bySect s)

/-! ## A command ends -/

/-- The members of a command with the HELD flag the recurrence unit left in their table entries (R371). -/
def heldMembers (c : Cmd) (s : State) : List (Member × Bool) :=
  match tfind s.disp.scheds c.sched with
  | none => c.members.map (fun m => (m, false))
  | some h => (c.cores.zip (shares c.members)).flatMap (fun p =>
      ((List.range p.2.length).zip p.2).map (fun r => (r.2, (s.memberEntry p.1 (s.place p.1 c.part h.deps h.anchor) r.1).held)))

/-- A core leaves a command: its flags are kept, and the core is free (R293, R334, R383). -/
def leaveCore (s : State) (core : Nat) : State :=
  let s := s.setReg (R.meFlagsLast core) (s.reg (R.meFlags core))
  let s := (s.setReg (R.veFlagsMxLast core) (s.reg (R.veFlagsMx core))).setReg (R.veFlagsSpLast core) (s.reg (R.veFlagsSp core))
  let s := s.setReg (R.ruFlagsLast core) (s.reg (R.ruFlags core))
  ((s.setSeq core none).setCore core { s.coreSt core with cmd := none }).addPair (R.sqsCmds core) 1

/-- The channels forget a command. -/
def forgetCmd (id : Nat) (s : State) : State :=
  { s with dma := s.dma.map (fun (c : Nat × Chan) => (c.1, { c.2 with submitted := terase c.2.submitted id, ended := terase c.2.ended id, failed := c.2.failed.filter (· ≠ id) })) }

/-- A repetition of a job's step ends: the last one of a step with REPORT writes its JOB_RESULT, under a cancel too; a cancelled job ends
with CMD_ABORTED, whatever ended its command (R471, R571, R574, R575). -/
def repEnd (j : Nat) (c : Cmd) (erased : Bool) (s : State) : State :=
  match tfind s.disp.jobs j with
  | none => s
  | some x =>
    let put := fun (y : Job) (s : State) => { s with disp := { s.disp with jobs := tset s.disp.jobs j y } }
    if c.hostErr then endJob j (if x.cancel.isEmpty then St.hostRead else St.aborted) (put { x with running := false } s)
    else
      let x := { x with running := false, done := x.done + 1, rep := x.rep + 1 }
      match x.steps[x.step]? with
      | none => endJob j (if x.cancel.isEmpty then St.ok else St.aborted) (put x s)
      | some t =>
        let final := decide (t.reps ≤ x.rep)
        let s := if final && t.report then
            let (a, n, s) := outSpan c s
            sinkResult 0 x.part { kind := 4, rflags := if erased then 8 else 0, cmdId := x.cmdId, value := x.step, done := s.time, outAddr := a, outLen := n } s
          else s
        let x := if final then { x with step := x.step + 1, rep := 0 } else x
        if !x.cancel.isEmpty then endJob j St.aborted (put x s)
        else if x.step = x.steps.length then endJob j St.ok (put x s) else put x s

/-- The channels of a cancelled job's partition that its JOB_CANCEL aborted are not all drained: its command does not end before (R479,
R575). -/
def State.cancelDrains (s : State) (c : Cmd) : Bool := s.cancelled c && s.partAborting c.part

/-- What waits on cores, regions or hot sets is looked at again. -/
def settleCores (cores : List Nat) (s : State) : State :=
  pump (settlePins (settleParts (cores.foldl (fun s k => settleMode k s) s)))

/-- COMMAND_END: every program of the command on a core has ended, every operation has completed (R565). `last` names the members whose
ebb input has been synthesised to its end. -/
def commandEnd (core : Nat) (last : List Nat) (s : State) : State :=
  match (s.coreSt core).cmd with
  | none => s
  | some id => match tfind s.disp.cmds id with
    | none => s
    | some c =>
      if s.failStopped || !c.cores.all (fun k => ((s.engines k).seq.any Seq.ended) && s.enginesQuiet k) || !s.dmaQuiet id none || s.cancelDrains c then s
      else
        let isJob := match c.work with | .jobStep _ => true | _ => false
        let erased := c.erased || c.cores.any (fun k => s.bit (F.meFlagsErased k)) || (c.hostErr && !isJob)
        let ms := (heldMembers c s).filter (fun m => !s.tide.leavers.any (fun z => z.desc == m.1.desc && z.cmds.contains id))
        let s := forgetCmd id (c.cores.foldl leaveCore s)
        let s := endLeavers id { s with disp := { s.disp with cmds := terase s.disp.cmds id } }
        let s := match c.work with
          | .jobStep j => repEnd j c erased s
          | _ => ms.foldl (memberEnd c erased last) s
        settleCores c.cores s

/-! ## Jobs -/

/-- The steps of a job block (R571). -/
def jobSteps (b : List Byte) (n : Nat) : List JobStep :=
  (List.range n).map (fun i =>
    let o := 16 + 16 * i
    { sched := fieldAt b o 2, reps := fieldAt b (o + 2) 2, report := fieldAt b (o + 4) 1 % 2 == 1, param := fieldAt b (o + 8) 8 })

/-- A job block breaks R571. -/
def jobBad (q : Quota) (len : Nat) (b : List Byte) : Bool :=
  let mode := fieldAt b 0 1
  let cores := fieldAt b 1 1
  let n := fieldAt b 2 2
  decide (mode > 1) || !decide (1 ≤ n ∧ n ≤ 4096) || len != 16 + 16 * n || !zeros ((b.drop 4).take 12) ||
  (if mode = 1 then !decide (1 ≤ cores ∧ cores ≤ q.exclMax) else cores != 0) ||
  (List.range n).any (fun i => fieldAt b (16 + 16 * i + 2) 2 == 0 || decide (fieldAt b (16 + 16 * i + 4) 1 > 1) || !zeros ((b.drop (16 + 16 * i + 5)).take 3))

/-- A step of a job fails R572. -/
def State.stepBad (s : State) (q : Nat) (excl : Bool) (cores : Nat) (t : JobStep) : Bool :=
  match tfind s.disp.scheds t.sched with
  | some h => h.part != q || !h.kernel || (if excl then decide (cores < h.programs) else h.exclOnly || decide (2 < h.programs))
  | none => true

/-- JOB_SUBMIT. -/
def submitJob (q : Nat) (c : QCmd) (b : List Byte) (s : State) : State :=
  if jobBad (s.quota q) c.len b then completeCmd q c.id St.format 0 0 0 s
  else
    let excl := fieldAt b 0 1 == 1
    let cores := fieldAt b 1 1
    let steps := jobSteps b (fieldAt b 2 2)
    if steps.any (s.stepBad q excl cores) then completeCmd q c.id St.verify 0 0 0 s
    else
      let j := s.disp.nextJob
      let x : Job := { part := q, cmd := c.id, cmdId := c.cmdId, excl := excl, cores := cores, steps := steps, step := 0, rep := 0, done := 0, held := [], running := false, order := j, doorbell := c.doorbell, cancel := [] }
      { s with disp := { s.disp with jobs := tset s.disp.jobs j x, nextJob := j + 1 } }

/-- The channels that hold descriptors of a command abort (R479). -/
def abortFor (id : Nat) (s : State) : State :=
  ((s.dma.filter (fun c => c.2.queue.any (fun q => q.cmd == id) || c.2.run.any (fun r => r.cmd == some id))).map Prod.fst).foldl (fun s k => abortChan k s) s

/-- JOB_CANCEL (R575): ARG1 names the CMD_ID of the JOB_SUBMIT. A further one for a job that is still running waits for its end as the
first does. -/
def cancelJob (q : Nat) (c : QCmd) (s : State) : State :=
  match s.disp.jobs.find? (fun j => j.2.part == q && j.2.cmdId == c.arg1 % 0x1_0000) with
  | none => completeCmd q c.id St.handle 0 0 0 s
  | some (j, x) =>
    let s := { s with disp := { s.disp with jobs := tset s.disp.jobs j { x with cancel := x.cancel ++ [c.id] } } }
    if x.running then
      ((s.disp.cmds.filter (fun y => y.2.work == .jobStep j)).map Prod.fst).foldl (fun s id => abortFor id s) s
    else pump (endJob j St.aborted s)

/-! ## Host-fed chunks -/

/-- What the checks of a STREAM_CHUNK find when it begins (R249, R463): none when its chunk is taken. -/
def State.chunkVerdict (s : State) (q : Nat) (c : QCmd) : Option Nat :=
  match s.ownHandle q c.handle with
  | none => some St.handle
  | some (_, x) =>
    let n := x.nextIn
    if !x.leased then some St.handle
    else if x.closing.isSome ∨ (x.xfer.bind Xfer.h).any (fun h => decide (h ≤ n)) then some St.state
    else if !x.par.hostFed || c.arg1 != n || c.len != s.framesOf x.par * (if x.par.ebbEn then 4 else 2) then some St.format
    else if x.full.any (fun k => k % 4 == n % 4) then some St.resource
    else none

/-- STREAM_CHUNK begins: the slot is taken, and the bytes follow through the command mover (R463). A check that fails is answered once the
read has succeeded (R249). -/
def beginChunk (q : Nat) (c : QCmd) (s : State) : State :=
  match s.chunkVerdict q c with
  | some st => holdVerdict q c.id st s
  | none => match s.ownHandle q c.handle with
    | some (d, x) => noteTaker q c.id x.order (s.setStream d { x with nextIn := x.nextIn + 1, full := x.full ++ [x.nextIn] })
    | none => s

/-- The end of a host-fed chunk that arrives now, and whether it is late input (R72). -/
def State.chunkEnd (s : State) (x : Stream) (n : Nat) : Nat × Bool :=
  if x.par.cls ≠ 0 then (s.time, false)
  else
    let per := periodNs x.par.period
    let grid := s.time + modSub per (x.par.hostPhase * 1000) s.time
    if n = x.flood.first then (grid, false) else (max grid (x.lastEnd + per), decide (x.lastEnd + per < s.time))

/-- The data of a STREAM_CHUNK has arrived (R72, R463), or its read failed and the chunk was not accepted. Where the stream that took it has
departed, it ends with CMD_HANDLE, though its handle be held again (R490). -/
def chunkArrived (q : Nat) (c : QCmd) (d : HostRead) (s : State) : State :=
  match (s.ownHandle q c.handle).filter (fun x => c.taker == some x.2.order) with
  | none => completeCmd q c.id St.handle 0 c.handle 0 s
  | some (e, x) =>
    let n := c.arg1
    match d.bytes? with
    | none =>
      let s := s.setStream e { x with full := x.full.filter (· ≠ n), nextIn := if x.nextIn = n + 1 then n else x.nextIn }
      completeCmd q c.id St.hostRead 0 c.handle 0 s
    | some b =>
      let (t, late) := s.chunkEnd x n
      let s := s.pokeDram (s.slotAddr e x n) (b.take c.len)
      let x := if late then flagChunk n 1 x else x
      let s := s.setStream e { x with
        ready := if x.par.floodEn then (x.ready.filter (fun y => decide (y.1 < n))) ++ [(n, t)] ++ x.ready.filter (fun y => decide (n < y.1)) else x.ready
        bells := tset x.bells n c.doorbell
        lastEnd := t }
      settleXfer e (completeAt q c.id St.ok 0 c.handle 0 t s)

/-- COMMAND_DATA_ARRIVED: the data of a command of a queue that has begun. -/
def dataArrived (q cmdId : Nat) (d : HostRead) (s : State) : State :=
  match (s.queue q).cmds.find? (fun c => c.begun && c.cmdId == cmdId && (c.opcode == 0x12 || c.opcode == 0x13)) with
  | none => s
  | some c =>
    let s := asFunction (queueFn q) s
    if c.verdict.isSome then completeCmd q c.id (if d.bytes?.isNone then St.hostRead else c.verdict.getD 0) 0 c.handle 0 s
    else if c.opcode = 0x12 then chunkArrived q c d s
    else match d.bytes? with
      | some b => ebbArrived q c b s
      | none => completeCmd q c.id St.hostRead 0 c.handle 0 s

/-! ## Hot sets, zeroing -/

/-- HOT_SET_LOADED (R579): the hot set of an entry stands on a core. -/
def hotLoaded (core i : Nat) (s : State) : State :=
  match s.entry i with
  | none => s
  | some e => match e.loading.find? (fun r => r.1 == core) with
    | none => s
    | some r =>
      let s := s.setEntry i { e with loading := e.loading.filter (· ≠ r), resident := e.resident ++ [r] }
      pump (settlePins (fillHot i core r.2 s))

/-- ZEROING_DONE (R406, R407, R416). -/
def zeroingDone (z : Zeroed) (s : State) : State :=
  pump (settlePins (settleParts (match z with
    | .units core us => unitsZeroed core us s
    | .granules gs => granulesZeroed (gs.filter (fun g => s.tide.zeroing.any (fun z => z.1 == g && !s.partWriting z.2))) s)))

/-! ## Scrub and refresh -/

/-- An uncorrectable word found by the scratchpad scrub (R410). -/
def scrubWord (core : Nat) (s : State) (a : Nat) : State :=
  let w := a / 8 * 8
  match s.regionAt core w with
  | some (k, r) => if r.retained then retainedUe core k w (poisonWord core w s) else poisonWord core w s
  | none =>
    let u := w / 0x1_0000 * 0x1_0000
    unpoison core u 0x1_0000 ((s.count (F.spEccUe core) 1).zeroMem (spadPlace core + u) 0x1_0000)

/-- An uncorrectable granule found by the pool scrub (R441). -/
def scrubGranule (s : State) (a : Nat) : State :=
  let g := (a - poolBase) / 0x4000
  if s.tide.held.contains g then tpFault 1 s
  else (s.count F.tpEccUe 1).zeroMem (granAddr g) 0x4000

/-- SCRUB_PASS: a pass over an area, with what it met. A DRAM burst already known bad, from a read or an earlier pass, counts no further
(R506, R538; log entry 137). -/
def scrubPass (area : ScrubArea) (e : Ecc) (s : State) : State :=
  match area with
  | .spad n =>
    let s := (s.count (F.spScrubStatPasses n) 1).setFld (F.spScrubStatLagMs n) 0
    e.bad.foldl (scrubWord n) (s.count (F.spEccCorr n) e.corrected.length)
  | .pool =>
    let s := (s.count F.tpScrubStatPasses 1).setFld F.tpScrubStatLagMs 0
    e.bad.foldl scrubGranule (s.count F.tpEccCorr e.corrected.length)
  | .dram =>
    let s := (s.count F.mcScrubStatPasses 1).setFld F.mcScrubStatLagS 0
    (e.bad.filter (fun a => !s.mc.poison.contains (a / 64))).foldl (fun s a => noteUe a s) (applyEcc e s)

/-- SCRUB_LAG: the pass under way has run so many ms beyond its period: recorded once per pass, and the lag register follows (R436, R507).
Telemetry and flash wear work report what they missed and what is pending (R262; log entry 118). -/
def scrubLag (area : LagArea) (n : Nat) (s : State) : State :=
  let note := fun (f : Fld) (v unit : Nat) => if n = 0 then s else
    let t := s.setFld f (min v 0xFFFF)
    if s.fld f = 0 then emitM Ev.scrubLag unit 0 n 0 0 t else t
  match area with
  | .scrub (.spad k) => note (F.spScrubStatLagMs k) n (0x10 + k)
  | .scrub .pool => note F.tpScrubStatLagMs n 8
  | .scrub .dram => note F.mcScrubStatLagS (ceilDiv n 1000) 6
  | .telemetry => emitM Ev.telemetryLag 0xC 0 n 0 0 s
  | .flashWear => emitM Ev.flashWearLag 0 0 n 0 0 s

/-- REFRESH_STATUS_POLL (R502): the highest rate the devices of a controller ask for (0 base, 1 twice, 2 beyond) and their highest
temperature. -/
def refreshPoll (c rate temp : Nat) (s : State) : State :=
  let was := (tget s.mc.demand c (0, 0)).1
  let s := { s with mc := { s.mc with demand := tset s.mc.demand c (rate, temp) } }
  let s := s.setFld F.mcRefreshRate ((s.mc.demand.map (fun d => d.2.1)).foldl max 0)
  let s := s.setFld F.mcRefreshTempMax ((s.mc.demand.map (fun d => d.2.2)).foldl max 0)
  if rate = 1 ∧ was ≠ 1 then emitM Ev.thermalWarn 6 c (0x20 + c) temp 0 s
  else if rate = 2 ∧ was ≠ 2 then unitFault R.mcFault 6 Ev.thermalTrip 3 3 (emitM Ev.thermalTrip 6 c (0x20 + c) 0 0 s)
  else s

/-! ## The commands -/

/-- COMMAND_END. -/
def execCommandEnd (core : Fin 8) (last : List Nat) (s : State) : Host.Outcome State Fault Refusal := .next (commandEnd core last s)
/-- JOB_SUBMIT: `d` is what the read of the job block returned. -/
def execJobSubmit (q : Fin 65) (d : HostRead) (s : State) : Host.Outcome State Fault Refusal :=
  .next (beginCmd q 0x28 true d (fun c b s => submitJob q c b s) s)
/-- JOB_CANCEL. -/
def execJobCancel (q : Fin 65) (s : State) : Host.Outcome State Fault Refusal :=
  .next (beginCmd q 0x29 false (.ok []) (fun c _ s => cancelJob q c s) s)
/-- STREAM_CHUNK. -/
def execStreamChunk (q : Fin 65) (s : State) : Host.Outcome State Fault Refusal :=
  .next (beginCmd q 0x12 false (.ok []) (fun c _ s => beginChunk q c s) s)
/-- COMMAND_DATA_ARRIVED. -/
def execCommandDataArrived (q : Fin 65) (cmdId : Nat) (d : HostRead) (s : State) : Host.Outcome State Fault Refusal :=
  .next (dataArrived q cmdId d s)
/-- HOT_SET_LOADED. -/
def execHotSetLoaded (core : Fin 8) (entry : Fin 64) (s : State) : Host.Outcome State Fault Refusal := .next (powered (fun s => hotLoaded core entry s) s)
/-- ZEROING_DONE. -/
def execZeroingDone (z : Zeroed) (s : State) : Host.Outcome State Fault Refusal := .next (powered (fun s => zeroingDone z s) s)
/-- SCRUB_PASS. -/
def execScrubPass (area : ScrubArea) (ecc : Ecc) (s : State) : Host.Outcome State Fault Refusal := .next (powered (fun s => scrubPass area ecc s) s)
/-- SCRUB_LAG. -/
def execScrubLag (area : LagArea) (n : BitVec 32) (s : State) : Host.Outcome State Fault Refusal := .next (powered (fun s => scrubLag area n.toNat s) s)
/-- REFRESH_STATUS_POLL. -/
def execRefreshStatusPoll (c : Fin 12) (rate : Fin 3) (temp : Byte) (s : State) : Host.Outcome State Fault Refusal :=
  .next (powered (fun s => refreshPoll c rate temp.toNat s) s)

end Sys2Proof.Machine
end

