-- ==== Sys2Proof/Machine/Links.lean ====
section
/-! DEFINITION. The tray links and what a module knows of its tray: training, flits and retry, HELLO and LINK_STATE, routes, the
checkpoint target, the loss of a bay (R593 to R625, R633, R791, R792). -/

namespace Sys2Proof.Machine

/-! ## HELLO and the stage -/

/-- The HELLO this module sends on a link (R618). -/
def State.helloOf (s : State) (l : Nat) : Hello where
  bay := s.bay
  stage := s.fld F.fabStatusStage
  scope := s.fld F.errScopeScope
  time := s.fld F.timeStatusState
  uid := s.sec.uid
  epoch := s.pair R.fabEpoch
  fw := s.boot.fwSet
  link := l

/-- Send HELLO on a link. -/
def sendHello (l : Nat) (s : State) : State := sendMsg none none (some l) (.hello (s.helloOf l)) s

/-- Links past step 3 of training. -/
def State.trained (s : State) : List Nat := (List.range 6).filter (fun l => decide (2 ≤ s.fld (F.linkStatusState l)))

/-- What LINK_STATE says of this module's links. -/
def State.linkInfos (s : State) : List LinkInfo :=
  (List.range 6).map (fun l => { far := s.fld (F.linkStatusFarBay l), state := s.fld (F.linkStatusState l), width := s.fld (F.linkStatusLanes l) })

/-- Broadcast LINK_STATE (R609). -/
def sendLinkState (s : State) : State := broadcast (.linkState (s.fld F.fabStatusStage) s.linkInfos) s

/-! ## Routes (R609) -/

/-- Bays one hop beyond a set, by the link-state table. -/
def State.beyond (s : State) (bs : List Nat) : List Nat :=
  (bs ++ bs.flatMap (fun b => (tget s.fab.table b {}).up)).eraseDups

/-- Bays within `n` hops of a bay. -/
def State.ball (s : State) (b : Nat) : Nat → List Nat
  | 0 => [b]
  | n + 1 => s.beyond (s.ball b n)

/-- Hops of the shortest way to a bay by a first link, the link itself counted. -/
def State.hopsBy (s : State) (l b : Nat) : Option Nat :=
  if s.linkUp l then ((List.range 6).find? (fun n => (s.ball (s.fld (F.linkStatusFarBay l)) n).contains b)).map (· + 1) else none

/-- The first link of the shortest path to a bay: of equal paths, the lowest link. -/
def State.firstHop (s : State) (b : Nat) : Option Nat :=
  ((List.range 6).foldl (fun (best : Option (Nat × Nat)) l => match s.hopsBy l b, best with
    | some n, some (_, m) => if n < m then some (l, n) else best
    | some n, none => some (l, n)
    | none, _ => best) none).map Prod.fst

/-- A route register for eight bays from `b0`. -/
def State.routeWord (s : State) (b0 : Nat) : Word :=
  BitVec.ofNat 32 (((List.range 8).map (fun i => (if b0 + i = s.bay then 15 else (s.firstHop (b0 + i)).getD 15) * 16 ^ i)).sum)

/-- A bay can be reached. -/
def State.reaches (s : State) (b : Nat) : Bool := Nat.testBit (s.fld F.fabReachReachable) b

/-- The stage of a bay, as heard last. -/
def State.stageOf (s : State) (b : Nat) : Nat := (tget s.fab.table b {}).stage

/-- Bits of a list of bays. -/
def bayBits (bs : List Nat) : Nat := (bs.map (fun b => 2 ^ b)).sum

/-! ## The checkpoint target (R433, R434, R622) -/

/-- A bay may serve as a checkpoint target. -/
def State.mayTarget (s : State) (b : Nat) : Bool := b != s.bay && s.reaches b && s.stageOf b == 1

/-- The buddy qualifies: READY, agreeing, and reached over link 4 or its torus link. -/
def State.buddyGood (s : State) : Bool :=
  s.stageOf (Nat.xor s.bay 1) == 1 && (s.linkOpen 4 || s.linkOpen s.buddyTorus)

/-- The substitute for the buddy. -/
def State.substitute (s : State) : Option Nat :=
  ([Nat.xor s.bay 8, Nat.xor s.bay 9] ++ List.range 16).find? (fun b => s.mayTarget b)

/-- A part falls wholly due at a new target, at its current step: at once, or when the step in progress ends (R434). -/
def renewPart (d : Nat) (s : State) (ebb : Bool) : State :=
  match s.stream d with
  | none => s
  | some x =>
    let y := x.dir ebb
    let on := if ebb then x.par.ebbEn else x.par.floodEn
    if !on || x.state == .admitWait then s
    else
      let due := if y.stepping then y.next else prev64 y.next
      let s := s.setStream d (x.setDir ebb { y with ckptDue := some due, ckptSent := none, ckptStands := none, ckptRead := [], ckptBusy := false, ckptWhole := y.stepping })
      if y.stepping then s else readPart d ebb s

/-- Streams this module holds the lease of. -/
def State.leasedList (s : State) : List (Nat × Stream) := s.strm.table.filter (fun x => x.2.leased)

/-- The checkpoint target changes: every part is sent to the new one whole; the old one is freed once its records stand (R434, R625). -/
def setTarget (t : Option Nat) (s : State) : State :=
  let was := s.tide.target
  let old := match was with | some b => s.leasedList.map (fun x => (x.1, b)) | none => []
  let s := { s with tide := { s.tide with target := t, chosen := true, old := (s.tide.old ++ old).filter (fun o => some o.2 != t) } }
  let s := (s.setBit F.tpCkptTargetValid t.isSome).setFld F.tpCkptTargetBay (t.getD 0)
  let s := emitM Ev.ckptTargetChanged 8 0 (t.getD 0xFFFFFFFF) 0 0 s
  let s := if t.isSome then s.leasedList.foldl (fun s x => [false, true].foldl (renewPart x.1) s) s else s
  flightSync s

/-- The target follows the tray (R622): a buddy given up returns only after BUDDY_REQUALIFIED. The first determination is recorded
also when it finds no target (R433, DEDUCED). -/
def retarget (s : State) : State :=
  if !s.ready || s.failStopped || !serving (s.fld F.fabStatusStage) then s
  else
    let buddy := Nat.xor s.bay 1
    let good := s.buddyGood
    let lost := s.fab.buddyLost || (s.fab.buddyOk && !good)
    let t := if good ∧ (¬lost ∨ s.tide.target = some buddy) then some buddy else s.substitute
    let s := { s with fab := { s.fab with buddyOk := good, buddyLost := lost, buddyTimer := good && lost && t != some buddy } }
    if s.tide.chosen ∧ t = s.tide.target then s else setTarget t s

/-- BUDDY_REQUALIFIED: the buddy has qualified for 10 s. -/
def buddyBack (s : State) : State :=
  if s.fab.buddyTimer then retarget { s with fab := { s.fab with buddyLost := false, buddyTimer := false } } else s

/-- A checkpoint record in flight is sent again, whole, when its route has changed (R624). -/
def resendRecords (s : State) : State :=
  match s.tide.target with
  | none => s
  | some b =>
    if !s.reaches b then s
    else s.leasedList.foldl (fun s x => [false, true].foldl (fun s ebb =>
      let y := x.2.dir ebb
      if y.ckptSent.isSome && y.ckptSent != y.ckptStands && !y.ckptBusy then
        match s.fab.out.reverse.find? (fun m => m.dst == some b && (match m.body with | .ckptData false false r => fieldAt r 0 4 == x.2.par.handle && fieldAt r 42 1 == ebb.toNat | _ => false)) with
        | some m => sendMsg (some b) (some x.2.par.part) none m.body s
        | none => s
      else s) s) s

/-! ## STORE bodies from other bays (R654, R680) -/

/-- A body of an image-declared model is checked, copied, verified and kept (R577, R650). -/
def placeBody (i : Nat) (e : Entry) (digest body : List Byte) (s : State) : Option State :=
  let t : State := { s with disp := { s.disp with entries := terase s.disp.entries i } }
  if sha256 body != digest || body.length != e.bytes || !t.loadFits e then none
  else
    let ls := (s.imageOf e.part e.va e.bytes).getD []
    let s := copyImage e.part ls body s
    match s.pagesBad e.part ls with
    | a :: _ => some (mcFatal 2 a (noteUe a s))
    | [] =>
    if s.imageGood e ls then
      some { s.setEntry i { e with state := .ready } with boot := { s.boot with bodies := s.boot.bodies ++ [(e.part, e.tag, body)] } }
    else none

/-- Bodies obtained from a bay or from the Lighthouse (R654): each one still wanted is placed by its digest. -/
def obtain (bodies : List (List Byte)) (s : State) : State :=
  s.boot.stores.foldl (fun s x =>
    let e := loadEntry x.part x.load
    match s.entryByTag x.part e.tag, bodies.find? (fun b => sha256 b == x.digest) with
    | some (i, _), some b => match placeBody i e x.digest b s with
      | some t => { t with boot := { t.boot with stores := t.boot.stores.filter (· ≠ x) } }
      | none => s
    | _, _ => s) s

/-- The bay a body is read from next: the lowest-numbered READY and reachable one that has not failed to serve it. No message says which
entries a bay holds, so a bay that denies the read or gives other bytes passes the body on to the next (log entry 116). -/
def State.bodyBay (s : State) (f : StoreFetch) : Option Nat := (List.range 16).find? (fun b => s.mayTarget b && !f.tried.contains b)

/-- Ask for the next piece of a body, by READ_REQ with MODULE = 1. -/
def askPiece (f : StoreFetch) (s : State) : StoreFetch × State :=
  match f.bay, f.rest with
  | some b, (a, n) :: _ => ({ f with wait := some s.fab.nextMsg, link := (s.routeOf b).getD 15 }, unicast b (.readReq a n) s)
  | _, _ => ({ f with wait := none }, s)

/-- A body is read from its beginning, from the next bay (R654, R680). -/
def beginBody (f : StoreFetch) (s : State) : StoreFetch × State :=
  askPiece { f with bay := s.bodyBay f, got := [], rest := f.pieces, wait := none } s

/-- The bay a body is read from does not serve it: it is read again from the next. -/
def nextBody (f : StoreFetch) (s : State) : StoreFetch × State := beginBody { f with tried := f.tried ++ f.bay.toList } s

/-- Change every fetch in turn. -/
def eachFetch (k : StoreFetch → State → StoreFetch × State) (s : State) : State :=
  s.boot.fetches.foldl (fun s f =>
    let (g, s) := k f s
    { s with boot := { s.boot with fetches := s.boot.fetches.map (fun x => if x = f then g else x) } }) s

/-- Reads whose link goes down, or to whose bay no link leads any more, end with PEER_DOWN (R680); while a link retrains they wait (R604). -/
def storeSync (s : State) : State :=
  eachFetch (fun f s => match f.bay, f.wait with
    | some b, some _ =>
      let st := s.fld (F.linkStatusState f.link)
      if st == 0 || st == 5 || s.wayTo b == 7 then nextBody f s else (f, s)
    | _, _ => (f, s)) s

/-- READ_DATA for a body: the piece is kept and the next asked for, and a whole body of the right digest is placed. A bay that denies a
piece, and one whose body has another digest, passes the body on. -/
def bodyPiece (bay id : Nat) (denied : Bool) (data : List Byte) (s : State) : State :=
  eachFetch (fun f s => match f.rest with
    | (_, n) :: rest =>
      if f.bay != some bay || f.wait != some id then (f, s)
      else if denied || data.length != n then nextBody f s
      else
        let g := { f with rest := rest, got := f.got ++ data, wait := none }
        if !rest.isEmpty then askPiece g s
        else if sha256 g.got != f.model.digest then nextBody f s
        else (g, obtain [g.got] s)
    | [] => (f, s)) s

/-- Routes, reach and what hangs on them follow the links and the table (R609, R621, R622): a bay that comes within reach is told every
lease held. -/
def routeSync (s : State) : State :=
  let was := s.fld F.fabReachReachable
  let old := (s.reg R.fabRoute0, s.reg R.fabRoute1)
  let s := (s.setReg R.fabRoute0 (s.routeWord 0)).setReg R.fabRoute1 (s.routeWord 8)
  let bays := (List.range 16).filter (fun b => (s.routeOf b).isSome)
  let s := s.setFld F.fabReachReachable (bayBits bays)
  let s := s.setFld F.fabReachAgreed (bayBits ((List.range 16).filter (fun b => serving (if b = s.bay then s.fld F.fabStatusStage else s.stageOf b))))
  let fresh := bays.any (fun b => !Nat.testBit was b)
  let s := if fresh then s.leasedList.foldl (fun s x => announce x.2.par.handle x.2.epoch false s) s else s
  let s := if old ≠ (s.reg R.fabRoute0, s.reg R.fabRoute1) then resendRecords s else s
  retarget (storeSync (peerSync s))

/-- A link changed: the change is broadcast and the routes follow. -/
def linkChanged (s : State) : State := routeSync (sendLinkState s)

/-! ## The link (R595 to R606, R617) -/

/-- A link goes DOWN with a cause: what it held is lost (R609). -/
def linkDown (l cause : Nat) (s : State) : State :=
  let was := s.fld (F.linkStatusState l)
  let s := s.setReg (R.linkStatus l) (BitVec.ofNat 32 (cause * 2 ^ 24))
  let s := s.setLink l {}
  if was = 0 then s
  else
    let s := s.count (F.linkDownsDowns l) 1
    linkChanged (emitM Ev.linkDown 0xA l cause 0 0 s)

/-- LINK_TRAIN_START: a training attempt begins; `signal` says that a far end answers (R595). -/
def trainStart (l : Nat) (signal : Bool) (s : State) : State :=
  if s.bit (F.linkCtrlDisable l) || s.fld (F.linkStatusState l) != 0 then s
  else if !signal then s.setReg (R.linkStatus l) (BitVec.ofNat 32 0x01000000)
  else sendHello l ((s.setReg (R.linkStatus l) 1).setLink l {})

/-- The width R596 gives for the lanes accepted in both directions: first lane and count. -/
def widthOf (tx rx : Nat) (wide : Bool) : Option (Nat × Nat) :=
  let ok := Nat.land tx rx
  if ok = 255 ∧ wide then some (0, 8)
  else if ok % 16 = 15 then some (0, 4)
  else if ok / 16 = 15 then some (4, 4)
  else none

/-- Why a link is HELD, by the two ends' HELLOs (R617); none when it is not. A scope difference between READY ends holds it later
(R792). An end in QUARANTINE holds the link too (R43): CAUSE is then this module's own QCAUSE as a link cause, and 0 where only the far
end is in QUARANTINE and agrees (log entry 115). -/
def State.holdCause (s : State) (l : Nat) (h : Hello) : Option Nat :=
  let mine := s.helloOf l
  let cabled := wfield (s.reg R.hubTopo) ([15, 19, 23, 27, 7, 11].getD l 3) ([12, 16, 20, 24, 4, 8].getD l 0)
  if h.epoch ≠ mine.epoch then some 4
  else if h.fw ≠ mine.fw then some 5
  else if h.scope ≠ mine.scope ∧ ¬(h.stage = 1 ∧ mine.stage = 1) then some 6
  else if h.bay ≠ cabled then some 7
  else if mine.stage = 2 then some (s.fld F.fabStatusQcause + 3)
  else if h.stage = 2 then some 0
  else none

/-- The state a trained link takes by its width and its hold. -/
def linkSettle (l : Nat) (s : State) : State :=
  let lanes := s.fld (F.linkStatusLanes l)
  match (s.link l).far.bind (s.holdCause l) with
  | some c => (s.setFld (F.linkStatusState l) 5).setFld (F.linkStatusCause l) c
  | none => (s.setFld (F.linkStatusState l) (if lanes = 8 then 3 else 4)).setFld (F.linkStatusCause l) 0

/-- This module's fabric stage changes: HELLO and LINK_STATE tell it (R609, R618), and QUARANTINE holds every link that is up (R43). -/
def setStage (st : Nat) (s : State) : State :=
  let s := s.setFld F.fabStatusStage st
  let s := s.trained.foldl (fun s l => sendHello l s) s
  let s := if st = 2 then ((List.range 6).filter (fun l => s.linkUp l)).foldl (fun s l => linkSettle l s) s else s
  routeSync (sendLinkState s)

/-- Every credit of a first advertisement or of a retrain (R599, R600), by VL times 6 plus class. -/
def creditTable (cs : List Nat) : Tbl Nat := ((List.range 24).zip cs).filter (fun c => c.2 != 0)

/-- Flits of the replay buffer sent again, each with a credit of the new count. -/
def replayAll (l : Nat) (s : State) : State :=
  let x := s.link l
  let cr := x.replay.foldl (fun c f => let k := f.1 * 6 + f.2; tset c k (tget c k 0 - 1)) x.credits
  pumpLink l ((s.setLink l { x with credits := cr }).addPair (R.linkTxFlits l) x.replay.length)

/-- LINK_UP: training ends; `tx` and `rx` are the lanes accepted in each direction, `credits` the far end's advertisement. -/
def linkUpDone (l tx rx : Nat) (credits : List Nat) (s : State) : State :=
  let st := s.fld (F.linkStatusState l)
  if st ≠ 1 ∧ st ≠ 2 then s
  else
    let x := s.link l
    match widthOf tx rx x.wide with
    | none => linkDown l 2 s
    | some (first, n) =>
      let fell := s.fld (F.linkStatusLanes l) == 8 && n == 4
      let s := s.setFld (F.linkStatusLanes l) n
      let s := s.setLink l { x with lane0 := first, credits := creditTable credits, retraining := false, naks := 0, wide := n == 8, episode := false }
      let s := linkSettle l s
      let s := if x.retraining then
          (if fell then emitM Ev.linkDegraded 0xA l 4 0 0 (s.count (F.linkDownsDegrades l) 1) else s)
        else emitM Ev.linkUp 0xA l n 0 0 s
      linkChanged (if x.retraining then replayAll l s else s)

/-- A link retrains, keeping its replay buffer (R604). -/
def retrain (l : Nat) (s : State) : State :=
  if s.fld (F.linkStatusState l) < 3 then s
  else
    let s := (s.setFld (F.linkStatusState l) 1).setLink l { s.link l with retraining := true, naks := 0 }
    linkChanged s

/-- Acknowledgement up to a SEQ: the flits before it leave the replay buffer. -/
def LinkState.acked (x : LinkState) (ack : Nat) : LinkState :=
  let n := (ack + 1 + 4096 - x.ackSeq) % 4096
  if n = 0 ∨ x.replay.length < n then x
  else { x with replay := x.replay.drop n, ackSeq := (ack + 1) % 4096, naks := 0 }

/-- FLIT_RECEIVE (R598, R602): a bad flit, or one out of sequence, is discarded whole. -/
def flitIn (l : Nat) (f : Flit) (s : State) : State :=
  if s.fld (F.linkStatusState l) < 2 then s
  else
    let s := (s.addPair (R.linkFecCorr l) f.corrected).addPair (R.linkFecUncorr l) f.uncorrectable
    let x := s.link l
    if !f.crcOk || f.uncorrectable != 0 then
      (if f.crcOk then s else s.count (F.linkErrCrcErr l) 1).setLink l { x with episode := true }
    else if f.data && f.seq.val != x.rxSeq then s
    else
      let k := f.cvl.val * 6 + f.cclass.val
      let x := x.acked f.ack
      let x := { x with credits := tset x.credits k (tget x.credits k 0 + f.credit.val) }
      let x := if f.data then { x with rxSeq := (x.rxSeq + 1) % 4096, episode := false } else x
      let s := if f.data then s.addPair (R.linkRxFlits l) 1 else s
      pumpLink l (s.setLink l x)

/-- LINK_NAK_RECEIVE (R603): everything after ACK is sent again, with the credits it held. -/
def nakIn (l ack : Nat) (s : State) : State :=
  if s.fld (F.linkStatusState l) < 2 then s
  else
    let x := (s.link l).acked ack
    let s := (s.setLink l { x with naks := x.naks + 1 }).count (F.linkErrRetries l) 1
    s.addPair (R.linkTxFlits l) x.replay.length

/-- A write of LINK_CTRL (R606). -/
def effLinkCtrl (l : Nat) (v : Word) (s : State) : State :=
  let was := s.bit (F.linkCtrlDisable l)
  let s := s.setBit (F.linkCtrlDisable l) (v.getLsbD 0)
  if v.getLsbD 0 then
    (if was then s
     else
       let s := linkDown l 9 s
       s.setFld (F.linkStatusCause l) 9)
  else if v.getLsbD 1 then retrain l (s.setLink l { s.link l with wide := true })
  else s

/-! ## Receiving -/

/-- A module that receives nothing: without power, in fail-stop, where its transmitters idle and its links are down, or in Neap mode (R43, R619). -/
def State.deaf (s : State) : Bool := !s.boot.powered || s.failStopped || s.stage == 10

/-- A message that needs both ends READY has come by its link. -/
def State.hears (s : State) (m : MsgHead) : Bool := !s.deaf && s.linkOpen m.link && m.src.val != s.bay

/-- A broadcast is seen for the first time (R610). -/
def State.firstSeen (s : State) (m : MsgHead) : Bool := !(tget s.fab.seen m.src []).contains m.id.toNat

/-- Keep a broadcast's key. -/
def keepKey (m : MsgHead) (s : State) : State :=
  { s with fab := { s.fab with seen := tset s.fab.seen m.src ((m.id.toNat :: tget s.fab.seen m.src []).take 256) } }

/-- Forward a broadcast once, on every other link that carries it, below six hops. -/
def forward (m : MsgHead) (b : MsgBody) (s : State) : State :=
  let s := keepKey m s
  if 6 ≤ m.hops.val then s
  else transmit { src := m.src, dst := none, part := none, id := m.id.toNat, hops := m.hops.val + 1, via := s.linksFor none none (some m.link.val) b, body := b } s

/-- What a broadcast does, once. -/
def heard (m : MsgHead) (b : MsgBody) (k : State → State) (s : State) : State :=
  if s.hears m && s.firstSeen m then k (forward m b s) else s

/-! ## The loss of a bay (R620, R631, R633) -/

/-- The tray has failed (R633). -/
def trayFail (bay : Nat) (s : State) : State :=
  if s.fab.failedSent then s
  else
    let s := broadcast (.trayFailed bay) { s with fab := { s.fab with failedSent := true } }
    let s := emitM Ev.trayFailed 0xA 0 bay 0 0 s
    let s := (s.strm.table.map Prod.fst).foldl (fun s d => departStream d 1 s) s
    portsHiZ { setStage 3 s with pins := { s.pins with faultN := true, ready := false } }

/-- Bay X is lost: FAB_LOST shows it, its leases and links go (R620, R866). A bay that announced LEAVING is only shown. -/
def declareLost (x : Nat) (s : State) : State :=
  if s.fab.lost.contains x then s
  else
    let left := s.stageOf x == 4
    let s := s.setFld F.fabLostBays (Nat.lor (s.fld F.fabLostBays) (2 ^ x))
    let s := { s with fab := { s.fab with lost := s.fab.lost ++ [x], leases := s.fab.leases.filter (fun (e : Nat × Nat × Nat) => e.2.2 != x), table := terase s.fab.table x } }
    let s := if left then s else emitM Ev.peerFailstop 0xA 0 x 0 0 s
    let s := routeSync s
    if left then s
    else if s.bit F.errScopeScope then trayFail x s
    else { s with fab := { s.fab with remap := s.fab.remap ++ [x] } }

/-- FAILSTOP from a bay: it is lost, and the links that reach it are down (R43, R620). -/
def failstopIn (m : MsgHead) (s : State) : State :=
  let ls := (List.range 6).filter (fun l => decide (1 < s.fld (F.linkStatusState l)) && s.fld (F.linkStatusFarBay l) == m.src.val)
  ls.foldl (fun s l => linkDown l 8 s) (declareLost m.src s)

/-- PEER_ROUTE_TIMEOUT: 60 ms without a route to a bay once heard (R620). -/
def routeTimeout (b : Nat) (s : State) : State :=
  if s.ready && !s.failStopped && (tfind s.fab.table b).isSome && (s.routeOf b).isNone && b != s.bay then declareLost b s else s

/-- LINK_STATE (R609, R621): the table takes it, and a lost bay has joined again. -/
def linkStateIn (m : MsgHead) (stage : Nat) (links : List LinkInfo) (s : State) : State :=
  if s.deaf || !s.linkUp m.link || m.src.val == s.bay || !s.firstSeen m then s
  else
    let s := forward m (.linkState stage links) s
    let up := (links.filter (fun i => i.state == 3 || i.state == 4)).map LinkInfo.far
    let s := { s with fab := { s.fab with table := tset s.fab.table m.src { stage := stage, up := up }, lost := s.fab.lost.filter (· ≠ m.src.val) } }
    routeSync s

/-- HELLO (R617, R618): the far end is compared, and the link follows; its stage stands as the later word (R640). -/
def helloIn (l : Nat) (h : Hello) (s : State) : State :=
  if s.deaf || s.fld (F.linkStatusState l) == 0 then s
  else
    let s := (s.setBit (F.linkStatusFarValid l) true).setFld (F.linkStatusFarBay l) h.bay
    let differ := h.scope != s.fld F.errScopeScope && h.stage == 1 && s.fld F.fabStatusStage == 1
    let held := s.fld (F.linkStatusState l) == 5 && s.fld (F.linkStatusCause l) == 6 && differ
    let s := s.setLink l { s.link l with far := some h, scopeDiffer := differ && !held }
    let s := match tfind s.fab.table h.bay with
      | some v => { s with fab := { s.fab with table := tset s.fab.table h.bay { v with stage := h.stage } } }
      | none => s
    let s := if s.fld (F.linkStatusState l) = 1 then s.setFld (F.linkStatusState l) 2
      else if s.fld (F.linkStatusState l) = 2 ∨ held then s
      else linkSettle l s
    linkChanged s

/-- SCOPE_MISMATCH_HOLD: the difference has lasted 10 ms (R792). -/
def scopeHold (l : Nat) (s : State) : State :=
  if (s.link l).scopeDiffer && s.linkUp l then
    let s := s.setLink l { s.link l with scopeDiffer := false }
    linkChanged ((s.setFld (F.linkStatusState l) 5).setFld (F.linkStatusCause l) 6)
  else s

/-- TRAY_FAILED: it fails the tray here under scope TRAY (R633). -/
def trayFailedIn (bay : Nat) (s : State) : State := if s.bit F.errScopeScope then trayFail bay s else s

/-- SCOPE_CHANGE at the tick of the effect time (R791). -/
def scopeChange (s : State) : State :=
  if s.bit F.errScopePending && decide (s.pair R.errScopeTime ≤ s.time) then
    let v := s.fld F.errScopePendingScope
    let s := ((s.setFld F.errScopeScope v).setBit F.errScopePending false).setFld F.errScopePendingScope 0
    let s := emitM Ev.faultPolicyChanged 0xC 0 v 0 0 s
    let s := (List.range 6).foldl (fun s l => match (s.link l).far with
      | some h => let differ := h.scope != v && h.stage == 1 && s.fld F.fabStatusStage == 1
                  s.setLink l { s.link l with scopeDiffer := differ }
      | none => s) s
    s.trained.foldl (fun s l => sendHello l s) s
  else s

/-! ## The commands -/

/-- LINK_TRAIN_START. -/
def execLinkTrainStart (link : Fin 6) (signal : Bool) (s : State) : Host.Outcome State Fault Refusal := .next (powered (fun s => if s.deaf then s else trainStart link signal s) s)
/-- LINK_UP. -/
def execLinkUp (link : Fin 6) (tx rx : Byte) (credits : List Nat) (s : State) : Host.Outcome State Fault Refusal := .next (powered (fun s => linkUpDone link tx.toNat rx.toNat credits s) s)
/-- LINK_TRAIN_TIMEOUT (R595). -/
def execLinkTrainTimeout (link : Fin 6) (s : State) : Host.Outcome State Fault Refusal :=
  .next (if (s.fld (F.linkStatusState link) == 1 || s.fld (F.linkStatusState link) == 2) && !(s.link link).retraining then linkDown link 0xA s else s)
/-- LANE_FAIL: the link retrains (R605). -/
def execLaneFail (link : Fin 6) (_lane : Fin 8) (s : State) : Host.Outcome State Fault Refusal := .next (powered (fun s => retrain link s) s)
/-- FLIT_RECEIVE. -/
def execFlitReceive (link : Fin 6) (f : Flit) (s : State) : Host.Outcome State Fault Refusal := .next (powered (fun s => flitIn link f s) s)
/-- LINK_NAK_RECEIVE. -/
def execLinkNakReceive (link : Fin 6) (ack : Fin 4096) (s : State) : Host.Outcome State Fault Refusal := .next (powered (fun s => nakIn link ack s) s)
/-- LINK_RETRAIN_LIMIT (R604). -/
def execLinkRetrainLimit (link : Fin 6) (s : State) : Host.Outcome State Fault Refusal :=
  .next (if 8 ≤ (s.link link).naks then retrain link s else s)
/-- LINK_RETRAIN_TIMEOUT (R604). -/
def execLinkRetrainTimeout (link : Fin 6) (s : State) : Host.Outcome State Fault Refusal :=
  .next (if (s.link link).retraining then linkDown link 3 s else s)
/-- LINK_RETRAIN: a write of LINK_CTRL with RETRAIN set. -/
def execLinkRetrain (path : Path) (link : Fin 6) (v : Word) (s : State) : Host.Outcome State Fault Refusal :=
  .next (screen path (R.linkCtrl link) 0xF#4 (effLinkCtrl link (v ||| 2)) s)
/-- LINK_DISABLE: a write of LINK_CTRL with DISABLE set. -/
def execLinkDisable (path : Path) (link : Fin 6) (v : Word) (s : State) : Host.Outcome State Fault Refusal :=
  .next (screen path (R.linkCtrl link) 0xF#4 (effLinkCtrl link (v ||| 1)) s)
/-- HELLO. -/
def execHello (link : Fin 6) (h : Hello) (s : State) : Host.Outcome State Fault Refusal := .next (powered (fun s => helloIn link h s) s)
/-- LINK_STATE. -/
def execLinkState (m : MsgHead) (stage : Fin 5) (links : List LinkInfo) (s : State) : Host.Outcome State Fault Refusal := .next (powered (fun s => linkStateIn m stage links s) s)
/-- LINK_STATE_PERIODIC. -/
def execLinkStatePeriodic (s : State) : Host.Outcome State Fault Refusal := .next (powered (fun s => sendLinkState s) s)
/-- FAILSTOP. -/
def execFailstop (m : MsgHead) (cause : BitVec 16) (s : State) : Host.Outcome State Fault Refusal :=
  .next (heard m (.failstop cause.toNat) (failstopIn m) s)
/-- PEER_ROUTE_TIMEOUT. -/
def execPeerRouteTimeout (bay : Fin 16) (s : State) : Host.Outcome State Fault Refusal := .next (powered (fun s => routeTimeout bay s) s)
/-- BUDDY_REQUALIFIED. -/
def execBuddyRequalified (s : State) : Host.Outcome State Fault Refusal := .next (powered (fun s => buddyBack s) s)
/-- TRAY_FAILED. -/
def execTrayFailed (m : MsgHead) (bay : Fin 16) (s : State) : Host.Outcome State Fault Refusal :=
  .next (heard m (.trayFailed bay) (trayFailedIn bay) s)
/-- MESSAGE_DISCARD: a message of an unknown type is counted (R608). -/
def execMessageDiscard (link : Fin 6) (s : State) : Host.Outcome State Fault Refusal :=
  .next (if s.linkUp link && !s.deaf then s.count (F.linkErrCrcErr link) 1 else s)
/-- SCOPE_CHANGE. -/
def execScopeChange (s : State) : Host.Outcome State Fault Refusal := .next (powered (fun s => scopeChange s) s)
/-- SCOPE_MISMATCH_HOLD. -/
def execScopeMismatchHold (link : Fin 6) (s : State) : Host.Outcome State Fault Refusal := .next (powered (fun s => scopeHold link s) s)

end Sys2Proof.Machine
end

