-- ==== Sys2Proof/Machine/Transfer.lean ====
section
/-! DEFINITION. How a stream's lease moves: LEASE, the planned transfer at both ends, checkpoint records received and acknowledged, and the
remap after a loss (R77 to R80, R110, R430, R432, R624 to R632, R866). -/

namespace Sys2Proof.Machine

/-! ## LEASE (R78, R79, R866) -/

/-- A stream dropped for a transfer that ends at its source counts it out. -/
def dropMoved (d epoch bay : Nat) (x : Stream) (s : State) : State :=
  let s := if (x.xfer.map Xfer.source).getD false && x.state == .migrating then s.count F.fabMigOut 1 else s
  dropStream d epoch bay s

/-- Records of a lost bay that a new owner has taken over are of no more use. -/
def dropRecords (handle epoch : Nat) (s : State) : State :=
  { s with tide := { s.tide with area := s.tide.area.filter (fun r => !(r.handle == handle && decide (r.epoch < epoch) && (s.fab.lost.contains r.srcBay || r.srcBay == s.bay))) } }

/-- A lease another module announces meets a stream of this module's table, in any state (R66): the higher epoch keeps it; of two that hold
it at one epoch, the lower bay. -/
def leaseMeets (handle epoch bay : Nat) (s : State) : State :=
  match s.findHandle handle with
  | none => s
  | some (d, x) =>
    if x.epoch < epoch then dropMoved d epoch bay x s
    else if !x.leased then s
    else if x.epoch = epoch ∧ bay ≠ s.bay then
      let s := emit Ev.streamLeaseConflict (some x.par.part) 9 0 handle epoch bay s
      if bay < s.bay then dropMoved d epoch bay x s else s
    else s

/-- LEASE received. -/
def leaseIn (handle epoch bay : Nat) (released : Bool) (s : State) : State :=
  let s := noteLease handle epoch bay released s
  if released then s
  else
    let s := { s with fab := { s.fab with offers := s.fab.offers.filter (fun o => !(o.remap && o.handle == handle && decide (o.epoch < epoch))) } }
    dropRecords handle epoch (leaseMeets handle epoch bay s)

/-! ## The source of a planned transfer (R626, R628, R630) -/

/-- Bytes of EBB_INPUT queued for a stream. -/
def Stream.ebbQueued (x : Stream) : Nat := (x.ebbIn.map (fun b => b.data.length)).sum

/-- The digest of a named schedule, of the container as installed (R627). -/
def State.digestOf (s : State) (id : Nat) : List Byte := sha256 (((tfind s.disp.scheds id).map Schedule.body).getD [])

/-- STREAM_TRANSFER (R626): `standbyOk` says that the target's standby port meets R157 with ALIGNED = 1. -/
def transferStart (q : Nat) (standbyOk : Bool) (c : QCmd) (s : State) : State :=
  match (if q = adminQ then s.findHandle c.handle else s.ownHandle q c.handle) with
  | none => completeCmd q c.id St.handle 0 c.handle 0 s
  | some (d, x) =>
    let t := c.arg0 % 16
    if !(x.state == .idle || x.state == .running) || x.epoch == 0xFFFFFFFF || x.xfer.isSome || t == s.bay || s.stageOf t != 1 || !s.reaches t then
      completeCmd q c.id St.state 0 c.handle 0 s
    else if !x.par.hostFed && !(x.par.stbyValid && x.par.stbyBay == t && standbyOk) then completeCmd q c.id St.state 0 c.handle 0 s
    else if 0x100000 < x.ebbQueued then completeCmd q c.id St.resource 0 c.handle 0 s
    else
      let ds := (if x.par.floodEn then [s.digestOf x.par.floodSched] else []) ++ (if x.par.ebbEn then [s.digestOf x.par.ebbSched] else [])
      let s := s.setStream d { x with xfer := some { source := true, bay := t, offered := true, stage := 0, gotFlood := false, gotEbb := false, epoch := x.epoch, cmd := some (q, c.id), remap := false } }
      unicast t (.xferOffer x.par.handle x.epoch x.raw ds (prev64 x.nextIn)) s

/-- Ebb is idle: no input queued or in synthesis, no ebb chunk left unplayed (R628). -/
def State.ebbIdle (s : State) (x : Stream) : Bool :=
  x.ebbIn.isEmpty && !x.ebb.stepping && (x.par.hostFed || !x.par.ebbEn || decide (x.playTo ≤ (s.port x.par.port).idx))

/-- Ebb is idle at a transfer source: H is the first chunk that ends 4 ms on, or later. -/
def ebbIdleNow (d : Nat) (s : State) : State :=
  match s.stream d with
  | none => s
  | some x => match x.xfer with
    | some t =>
      if t.source && x.state == .migrating && t.stage == 1 && t.cut.isNone && s.ebbIdle x then
        settleXfer d (s.setStream d { x with xfer := some { t with cut := some (s.time + 4000000) } })
      else s
    | none => s

/-- The stream whose transfer from here a bay's message names. -/
def State.xferSource (s : State) (handle bay : Nat) : Option (Nat × Stream × Xfer) :=
  match s.findHandle handle with
  | some (d, x) => match x.xfer with
    | some t => if t.source && t.bay == bay then some (d, x, t) else none
    | none => none
  | none => none

/-- The STREAM_TRANSFER of a transfer completes. -/
def endTransfer (t : Xfer) (status reason handle : Nat) (s : State) : State :=
  match t.cmd with
  | some (q, id) => completeCmd q id status reason handle 0 s
  | none => s

/-- XFER_ACCEPT (R628). A stream that has begun to close since the offer is not transferred. -/
def xferAccepted (handle bay : Nat) (s : State) : State :=
  match s.xferSource handle bay with
  | none => s
  | some (d, x, t) =>
    if t.stage ≠ 0 then s
    else if x.state = .idle ∨ x.state = .running then
      ebbIdleNow d (countStreams (s.setStream d { x with state := .migrating, xfer := some { t with stage := 1 } }))
    else
      let s := unicast bay (.xferAbort handle) (s.setStream d { x with xfer := none })
      endTransfer t St.state 0 handle s

/-- The source keeps the lease after all (R630): the stream is IDLE at its old epoch, whatever step is still in progress (R66), and a
DRAIN held for it proceeds (R96). -/
def keepLease (d : Nat) (x : Stream) (t : Xfer) (s : State) : State :=
  let s := countStreams (s.setStream d { x with state := .idle, xfer := none })
  let s := endTransfer t St.state 0 x.par.handle s
  if x.closing = some 0 then drainStream d s else s

/-- XFER_REFUSE (R627, R630). -/
def xferRefused (handle bay reason : Nat) (s : State) : State :=
  match s.xferSource handle bay with
  | none => s
  | some (d, x, t) =>
    if t.stage = 0 then endTransfer t St.refused reason handle (s.setStream d { x with xfer := none })
    else keepLease d x t s

/-- The source abandons a transfer (R628, R630). -/
def sendAbort (d : Nat) (x : Stream) (t : Xfer) (s : State) : State :=
  unicast t.bay (.xferAbort x.par.handle) (s.setStream d { x with xfer := some { t with stage := 4 } })

/-- A source's timer, when the transfer is where it counts. -/
def sourceTimer (d : Nat) (ok : Xfer → Bool) (k : Stream → Xfer → State → State) (s : State) : State :=
  match s.stream d with
  | none => s
  | some x => match x.xfer with
    | some t => if t.source && x.state == .migrating && ok t then k x t s else s
    | none => s

/-! ## The taking module (R110, R627, R629, R632) -/

/-- A schedule installed for a partition with a digest, for a direction. -/
def State.byDigest (s : State) (part : Nat) (ebb : Bool) (dg : List Byte) : Option Nat :=
  (s.disp.scheds.find? (fun h => h.2.part == part && !h.2.kernel && h.2.ebb == ebb && sha256 h.2.body == dg)).map Prod.fst

/-- The parameter block of an offer with this module's schedules: by digest for a transfer; a checkpoint record carries no digest, so a
remap takes them by their identifiers. None when one is not installed. -/
def State.offerPar (s : State) (o : Offer) : Option StreamPar :=
  let p := parOf o.params
  if o.remap then (if s.schedBad p then none else some p)
  else
    let f := if p.floodEn then s.byDigest p.part false (o.digests.headD []) else some p.floodSched
    let e := if p.ebbEn then s.byDigest p.part true ((o.digests.drop p.floodEn.toNat).headD []) else some p.ebbSched
    match f, e with
    | some f, some e => some { p with floodSched := f, ebbSched := e }
    | _, _ => none

/-- Forget an offer. -/
def dropOffer (o : Offer) (s : State) : State := { s with fab := { s.fab with offers := s.fab.offers.filter (· ≠ o) } }

/-- The record a CKPT_DATA carries, when its length, HDR_CRC and BODY_CRC are right; reserved fields are ignored (R7). -/
def parseRecord (b : List Byte) : Option CkptRecord :=
  let n := fieldAt b 40 2
  if b.length = 128 + 16384 * n ∧ fieldAt b 60 4 = crc32c (b.take 60) ∧ fieldAt b 44 4 = crc32c (b.drop 64) then
    some { handle := fieldAt b 0 4, ebb := flagBit (fieldAt b 42 1) 0, slot := 0, seq := fieldAt b 24 8, epoch := fieldAt b 4 4, chunk := fieldAt b 8 8, seed := fieldAt b 16 8, time := fieldAt b 32 8, srcBay := fieldAt b 43 1 % 16, params := (b.drop 64).take 64, body := b.drop 128, valid := true }
  else none

/-- Where the checkpoint area lies: behind the translation tables (R512, R825). -/
def State.ckptArea (s : State) : Nat := s.pair R.xlTableBase + s.fld F.xlTableMibMib * 0x10_0000

/-- The record a slot of the checkpoint area holds, as DRAM has it: none when its sums no longer fit, or DRAM is in error there (R430). -/
def State.slotRecord (s : State) (r : CkptRecord) : Option CkptRecord :=
  let n := 128 + r.body.length
  if !(s.badIn r.at_ n).isEmpty then none
  else (parseRecord (s.peek r.at_ n)).map (fun y => { y with slot := r.slot, transfer := r.transfer, at_ := r.at_ })

/-- The standing record of a part held here (R430): valid, of the highest CKPT_SEQ. -/
def State.standingRec (s : State) (handle : Nat) (ebb : Bool) : Option CkptRecord :=
  ((s.tide.area.filter (fun r => r.valid && r.handle == handle && r.ebb == ebb)).filterMap s.slotRecord).foldl (fun (b : Option CkptRecord) r => match b with
    | some x => if x.seq < r.seq then some r else some x
    | none => some r) none

/-- A body goes into a stream's granules from an allocation index on. -/
def loadBody (x : Stream) (base : Nat) (body : List Byte) (s : State) : State :=
  (List.range (body.length / 16384)).foldl (fun s i => match tfind x.grans (base + i) with
    | some g => s.poke (granAddr g) ((body.drop (16384 * i)).take 16384)
    | none => s) s

/-- The chunks of a port-fed stream from `n` on that have ended in the LISTEN ring, with their ends. -/
def State.landedChunks (s : State) (x : Stream) (n : Nat) : List (Nat × Nat) :=
  let f := max 1 (s.framesOf x.par)
  (List.range ((s.port x.par.port).landed / f - n)).map (fun i => (n + i, s.frameTime x.par.port ((n + i + 1) * f)))

/-- The ends of the `w` chunks before chunk `n` of a stream that is taken, whose results look-ahead still withholds (R74, R371): those of
a port-fed stream lie on its grid; of a host-fed one the record says nothing, and each is free (log entry 125). -/
def State.pastEnds (s : State) (x : Stream) (n w : Nat) : Tbl Nat × State :=
  let f := max 1 (s.framesOf x.par)
  (List.range (min w n)).foldl (fun a i =>
    let k := n - 1 - i
    if x.par.hostFed then (tset a.1 k a.2.freeNow, a.2.freeNext) else (tset a.1 k (a.2.frameTime x.par.port ((k + 1) * f)), a.2)) ([], s)

/-- A direction resumes after a record. -/
def resumeDir (y : Dirn) (r : Option CkptRecord) : Dirn :=
  match r with
  | some r => { y with next := (r.chunk + 1) % 2 ^ 64, first := (r.chunk + 1) % 2 ^ 64, last := if r.chunk + 1 = 2 ^ 64 then none else some r.chunk, ckptSeq := r.seq }
  | none => { y with next := 0, first := 0 }

/-- A port-fed stream's ebb slot starts without a cut on its new owner's port (R170). -/
def freshCut (p : StreamPar) (s : State) : State :=
  if p.hostFed || !p.ebbEn then s else clearCuts p.port (BitVec.ofNat 32 (2 ^ p.ebbSlot)) s

/-- A stream is taken with its records (R629, R632): epoch, state, LEASE, the event, chunks that wait, a full checkpoint to this module's
own target; a DRAIN held for it proceeds (R96). -/
def commit (d : Nat) (remap : Bool) (epoch : Nat) (s : State) : State :=
  match s.stream d with
  | none => s
  | some x =>
    let h := x.par.handle
    let rf := s.standingRec h false
    let re := s.standingRec h true
    let s := loadBody x 0 ((rf.map CkptRecord.body).getD []) s
    let s := loadBody x (s.partBase x true / 16384) ((re.map CkptRecord.body).getD []) s
    let f := resumeDir x.flood rf
    let e := resumeDir x.ebb re
    let next := if x.par.floodEn then f.next else e.next
    let ended := if x.par.hostFed then [] else s.landedChunks x next
    let w := if x.par.floodEn then ((s.dirSched x false).map Schedule.window).getD 0 else 0
    let (ends, s) := s.pastEnds x f.next w
    let seed := match rf, re with | some r, _ => r.seed | none, some r => r.seed | none, none => x.seed
    let s := s.setStream d { x with
      state := .idle, epoch := epoch, xfer := none, seed := seed, flood := f, ebb := e, ends := ends
      nextIn := next + ended.length, ended := ended
      lastEnd := (ended.getLast?.map Prod.snd).getD s.time
      driveAt := s.time + 100000 }
    let s := { s with tide := { s.tide with area := s.tide.area.filter (fun r => r.handle != h) } }
    let s := announce h epoch false (countStreams (followStream x.par (freshCut x.par s)))
    let s := if remap then emit Ev.streamRemapped (some x.par.part) 9 0 h epoch s.bay (s.count F.fabRemapRemapped 1)
      else emit Ev.streamMigrated (some x.par.part) 9 0 h epoch s.bay (s.count F.fabMigIn 1)
    let s := if epoch = 0xFFFFFFFF then emit Ev.streamLeaseSaturated (some x.par.part) 9 0 h 0 0 s else s
    let past := fun (lim b : Nat) => decide (lim ≠ 0 ∧ lim < b)
    let s := if x.par.cls ≠ 0 then s
      else if (x.par.floodEn && x.flood.seat.isNone) || (x.par.ebbEn && x.ebb.seat.isNone) then emit Ev.streamBoundDegraded (some x.par.part) 9 0 h 0xFFFFFFFF 0xFFFFFFFF s
      else if past x.par.fLimit x.flood.bound || past x.par.eLimit x.ebb.bound then emit Ev.streamBoundDegraded (some x.par.part) 9 0 h x.flood.bound x.ebb.bound s
      else s
    let s := if s.tide.target.isSome then [false, true].foldl (renewPart d) s else s
    if x.closing = some 0 then drainStream d s else s

/-- Both records of a transfer stand at the target: it commits. -/
def tryCommit (d : Nat) (s : State) : State :=
  match s.stream d with
  | none => s
  | some x => match x.xfer with
    | some t =>
      if !t.source && !t.remap && x.state == .migrating && (t.gotFlood || !x.par.floodEn) && (t.gotEbb || !x.par.ebbEn) then commit d false (x.epoch + 1) s else s
    | none => s

/-- The target refuses an offer (R627), or a remap ends FAILED (R632): with a descriptor when one may be had. -/
def failRemap (o : Offer) (cause : Nat) (s : State) : State :=
  let p := parOf o.params
  let s := (dropOffer o s).count F.fabRemapFailed 1
  let room := s.freeDesc.isSome && (match tfind s.disp.parts p.part with | some q => decide ((s.streamsOf p.part).length < q.quota.descriptors) | none => false)
  let s := emit Ev.streamFailed (some p.part) 9 0 o.handle cause 0 s
  if cause = 3 ∨ !room then s
  else
    let (d, s) := accept p .failed o.epoch 0 none (none, none) (some 0) s
    s.modStream d (fun x => { x with flood := { x.flood with seat := none }, ebb := { x.ebb with seat := none } })

/-- An offer is refused with a reason of R88: a transfer answers XFER_REFUSE; a remap fails with its cause. -/
def refuseOffer (o : Offer) (reason : Nat) (s : State) : State :=
  if o.remap then failRemap o (if reason = 0x06 then 2 else if reason = 0x0E then 4 else if reason = 0x09 ∨ reason = 0x0A ∨ reason = 0x01 then 1 else 3) s
  else unicast o.src (.xferRefuse o.handle reason) (dropOffer o s)

/-- A port-fed stream is taken by remap only with a valid standby on this module (R160, R632). ALIGNED is taken as it was when the home
bay was lost: R634 has cleared it by the time the wait of R631 is over (log entry 123). -/
def State.noAudio (s : State) (o : Offer) (p : StreamPar) : Bool :=
  o.remap && !p.hostFed && !(p.stbyValid && p.stbyBay == s.bay && s.bit (F.apCtrlEn p.port) && s.fld (F.apCtrlRole p.port) == 2 &&
    (s.bit (F.apStatusAligned p.port) || (s.port p.port).lostHome == some o.src))

/-- An admitted offer becomes a stream in MIGRATING with its seats and granules (R627); a remap commits at once (R632). -/
def takeOffer (o : Offer) (p : StreamPar) (plan : Option Cand × Option Cand) (s : State) : State :=
  let (d, s) := accept p .migrating o.epoch 0 none plan (some 0) (dropOffer o s)
  let s := takeAllocation d s
  let s := s.modStream d (fun x => { x with nextIn := (o.last + 1) % 2 ^ 64, xfer := some { source := false, bay := o.src, offered := true, stage := 1, gotFlood := false, gotEbb := false, epoch := o.epoch, cmd := none, remap := o.remap } })
  let s := followStream p (handLanes p s)
  if o.remap then commit d true (o.epoch + 1) s
  else unicast o.src (.xferAccept o.handle ((plan.1.map Cand.bound).getD 0) ((plan.2.map Cand.bound).getD 0)) (countStreams s)

/-- One offer at a step boundary: the checks of R88 (the bounds' limits do not refuse, R110), the plan, then granules, which are waited for. -/
def tryOffer (s : State) (o : Offer) : State :=
  let bad := parOf o.params
  if o.remap && o.epoch == 0xFFFFFFFF then failRemap o 5 s
  else if s.noAudio o bad then failRemap o 1 s
  else match s.offerPar o with
    | none => refuseOffer o (if s.parBad bad then 0x01 else 0x06) s
    | some p =>
      match s.admitCheck p .taken with
      | some r => refuseOffer o r s
      | none =>
        let plan := match s.admitPlan p false with
          | .ok x => some x
          | .error _ => if o.remap then some (none, none) else none
        match plan with
        | none => refuseOffer o 0x0C s
        | some plan =>
          if s.roomFor p.part p.granules && (p.cls != 0 || decide (p.granules ≤ s.pagesFree p.part)) then takeOffer o p plan s
          else
            let since := o.since.getD s.time
            if o.remap ∧ since + p.slack * 1000 ≤ s.time then failRemap o 4 s
            else
              let s := makeRoom p.part p.granules s
              { s with fab := { s.fab with offers := s.fab.offers.map (fun y => if y = o then { o with since := some since } else y) } }

/-- A GUARANTEED stream that was taken without seats takes them at a boundary at which they are free (R632). -/
def reseat (s : State) (dx : Nat × Stream) : State :=
  let (d, x) := dx
  if x.par.cls ≠ 0 || !x.leased || x.state == .admitWait || !((x.par.floodEn && x.flood.seat.isNone) || (x.par.ebbEn && x.ebb.seat.isNone)) then s
  else match s.admitPlan x.par false with
    | .error _ => s
    | .ok plan =>
      let take := fun (c : Option Cand) (id : Nat) (ebb : Bool) (s : State) => match c, s.schedFor x.par.part id ebb with
        | some c, some sch => let (i, s) := takeSeat id sch d c s; (some i, s)
        | _, _ => (none, s)
      let (fi, s) := if x.flood.seat.isSome then (x.flood.seat, s) else take plan.1 x.par.floodSched false s
      let (ei, s) := if x.ebb.seat.isSome then (x.ebb.seat, s) else take plan.2 x.par.ebbSched true s
      let bf := (plan.1.map Cand.bound).getD x.flood.bound
      let be := (plan.2.map Cand.bound).getD x.ebb.bound
      let s := s.modStream d (fun x => { x with flood := { x.flood with seat := fi, bound := bf }, ebb := { x.ebb with seat := ei, bound := be } })
      emit Ev.streamBoundDegraded (some x.par.part) 9 0 x.par.handle bf be s

/-- XFER_OFFER is kept until the next step boundary (R627). -/
def offerIn (src part handle epoch : Nat) (params : List Byte) (digests : List (List Byte)) (last : Nat) (s : State) : State :=
  if s.fab.offers.any (fun o => o.handle == handle) then s
  else { s with fab := { s.fab with offers := s.fab.offers ++ [{ remap := false, src := src, part := part, handle := handle, epoch := epoch, params := params, digests := digests, last := last }] } }

/-- XFER_OFFER_TIMEOUT: granules were short for 100 ms (R627). -/
def offerTimeout (handle : Nat) (s : State) : State :=
  match s.fab.offers.find? (fun o => o.handle == handle && !o.remap && o.since.isSome) with
  | some o => refuseOffer o 0x0E s
  | none => s

/-- XFER_ABORT (R630): an uncommitted target discards what it has, and the closes that wait for the stream end with it (log entry 110); a
committed one announces its lease again. -/
def xferAborted (handle src : Nat) (s : State) : State :=
  let s := { s with fab := { s.fab with offers := s.fab.offers.filter (fun o => !(o.handle == handle && o.src == src && !o.remap)) } }
  match s.findHandle handle with
  | none => unicast src (.xferRefuse handle 0) s
  | some (d, x) =>
    if x.leased then announce handle x.epoch false s
    else match x.xfer with
      | some t =>
        if t.bay ≠ src then s
        else
          let s := { s with tide := { s.tide with area := s.tide.area.filter (fun r => !(r.handle == handle && r.transfer)) } }
          let s := emit Ev.streamClosed (some x.par.part) 9 0 handle 2 0 (removeStream d s)
          unicast src (.xferRefuse handle 0) (endClose x (if x.closing = some 0 then St.handle else St.ok) s)
      | none => s

/-! ## Checkpoint records (R429 to R432, R624, R625) -/

/-- Bytes of the area that records take. -/
def State.areaUsed (s : State) : Nat := (s.tide.area.map (fun r => 128 + r.body.length)).sum

/-- A record's EPOCH is behind the standing record's: it is discarded (R430). -/
def State.staleRec (s : State) (r : CkptRecord) : Bool := (s.standingRec r.handle r.ebb).any (fun w => decide (r.epoch < w.epoch))

/-- A record as its bytes (R429). -/
def recordBytes (r : CkptRecord) : List Byte :=
  let tail := r.params ++ r.body
  let head := leBytes 4 r.handle ++ leBytes 4 r.epoch ++ leBytes 8 r.chunk ++ leBytes 8 r.seed ++ leBytes 8 r.seq ++ leBytes 8 r.time ++
    leBytes 2 (r.body.length / 16384) ++ leBytes 1 r.ebb.toNat ++ leBytes 1 r.srcBay ++ leBytes 4 (crc32c tail) ++ List.replicate 12 0
  head ++ leBytes 4 (crc32c head) ++ tail

/-- The lowest room for `n` bytes in the checkpoint area beside slots (which one is the model's choice, log entry 124). -/
def State.areaRoom (s : State) (slots : List CkptRecord) (n : Nat) : Option Nat :=
  let ends := slots.map (fun x => x.at_ + 128 + x.body.length)
  ((s.ckptArea :: ends).mergeSort (· ≤ ·)).find? (fun a => decide (s.ckptArea ≤ a ∧ a + n ≤ s.ckptArea + s.fld F.tpCkptAreaCkptAreaMib * 2 ^ 20) &&
    slots.all (fun x => !rangesMeet a n x.at_ (128 + x.body.length)))

/-- A record is written to DRAM, body first and header last, in the slot that does not hold the standing one; none when the area has no
room or the epoch is behind (R430, R432). -/
def storeRecord (r : CkptRecord) (s : State) : Option State :=
  let was := s.standingRec r.handle r.ebb
  let slot := match was with | some w => 1 - w.slot | none => 0
  let rest := s.tide.area.filter (fun x => !(x.handle == r.handle && x.ebb == r.ebb && x.slot == slot))
  if s.staleRec r then none
  else match s.areaRoom rest (128 + r.body.length) with
    | none => none
    | some a =>
      let b := recordBytes r
      some { (s.pokeDram (a + 128) (b.drop 128)).pokeDram a (b.take 128) with tide := { s.tide with area := rest ++ [{ r with slot := slot, at_ := a }] } }

/-- A part of a transfer has come: with both parts standing the target commits. -/
def partArrived (r : CkptRecord) (s : State) : State :=
  match s.findHandle r.handle with
  | some (d, x) => match x.xfer with
    | some t =>
      if t.source || t.remap || x.state != .migrating then s
      else tryCommit d (s.setStream d { x with xfer := some { t with gotFlood := t.gotFlood || !r.ebb, gotEbb := t.gotEbb || r.ebb } })
    | none => s
  | none => s

/-- This module is to take a lost bay's stream: it is admitted at the next step boundary (R631, R632). -/
def remapOffer (handle : Nat) (s : State) : State :=
  match (match s.standingRec handle false with | some r => some r | none => s.standingRec handle true) with
  | none => s
  | some r =>
    let p := parOf r.params
    if s.fab.offers.any (fun o => o.handle == handle) || (s.findHandle handle).any (fun x => x.2.leased) then s
    else
      let last := ((s.standingRec handle false).map CkptRecord.chunk).getD 0xFFFF_FFFF_FFFF_FFFF
      { s with fab := { s.fab with offers := s.fab.offers ++ [{ remap := true, src := r.srcBay, part := p.part, handle := handle, epoch := r.epoch, params := r.params, digests := [], last := last }] } }

/-- The parts of a stream that a record's parameter block enables all stand here. -/
def State.partsStand (s : State) (r : CkptRecord) : Bool :=
  let p := parOf r.params
  (!p.floodEn || (s.standingRec r.handle false).isSome) && (!p.ebbEn || (s.standingRec r.handle true).isSome)

/-- A record without a slot waits for one, in place of an older one of its part (R432). -/
def refuseRec (r : CkptRecord) (x : RefusedRec) (s : State) : State :=
  { s with tide := { s.tide with refused := s.tide.refused.filter (fun y => !(y.src == x.src && fieldAt y.bytes 0 4 == r.handle && flagBit (fieldAt y.bytes 42 1) 0 == r.ebb)) ++ [x] } }

/-- CKPT_DATA (R430, R432, R624): stored, acknowledged; a record whose check sums fail, or whose epoch is behind, is discarded, and one
without a slot is refused. -/
def ckptIn (src part : Nat) (transfer remap : Bool) (b : List Byte) (s : State) : State :=
  match parseRecord b with
  | none => s
  | some r => match storeRecord { r with transfer := transfer } s with
    | none => if s.staleRec r then s else refuseRec r { src := src, part := part, transfer := transfer, remap := remap, bytes := b } s
    | some s =>
      let s := sendMsg (some src) (some part) none (.ckptAck r.handle r.ebb r.seq) s
      if transfer then partArrived r s
      else if remap ∧ s.partsStand r then remapOffer r.handle s
      else s

/-- Slots may have freed: the records that wait for one are written in the order they came (R432). -/
def retryRecords (s : State) : State :=
  s.tide.refused.foldl (fun s x => ckptIn x.src x.part x.transfer x.remap x.bytes s) { s with tide := { s.tide with refused := [] } }

/-- What a step boundary does for streams that come from other modules, and for transfers under way. -/
def boundaryOffers (s : State) : State :=
  if !s.ready || s.failStopped || s.fld F.fabStatusStage == 3 then s
  else
    let s := s.fab.offers.foldl tryOffer s
    let s := s.strm.table.foldl reseat s
    retryRecords ((s.strm.table.map Prod.fst).foldl (fun s d => settleXfer d s) s)

/-- CKPT_ACK (R624): the record stands; former targets are freed once every part's does (R625). -/
def ckptAcked (src handle : Nat) (ebb : Bool) (seq : Nat) (s : State) : State :=
  match s.findHandle handle with
  | none => s
  | some (d, x) =>
    let y := x.dir ebb
    if s.tide.target ≠ some src ∨ seq ≠ y.ckptLast then s
    else
      let s := s.setStream d (x.setDir ebb { y with ckptStands := y.ckptSent })
      let stands := fun (x : Stream) => [false, true].all (fun e => let z := x.dir e; z.ckptSent == z.ckptStands && !z.ckptBusy)
      match s.stream d with
      | some z =>
        if !stands z then flightSync s
        else
          let s := (s.tide.old.filter (fun o => o.1 == d)).foldl (fun s o => unicast o.2 (.ckptFree handle) s) s
          flightSync { s with tide := { s.tide with old := s.tide.old.filter (fun o => o.1 != d) } }
      | none => s

/-- CKPT_FREE: the stream's slots are freed, and a record of it that waits for one is of no more use; a LEAVING module whose area is empty
is released (R625, R799). -/
def ckptFreed (handle : Nat) (s : State) : State :=
  let s := { s with tide := { s.tide with area := s.tide.area.filter (fun r => r.handle != handle), refused := s.tide.refused.filter (fun y => fieldAt y.bytes 0 4 != handle) } }
  if s.fld F.fabStatusStage = 4 ∧ s.tide.area.isEmpty then s.setBit F.errSvcStatusReleased true else s

/-! ## Remap (R631) -/

/-- The bay a LEAVING module hands a lost bay's stream to when the standby of R631 does not serve: the lowest READY one it reaches (R800). -/
def State.leavingBay (s : State) : Option Nat := (List.range 16).find? (fun b => b != s.bay && s.stageOf b == 1 && s.reaches b)

/-- The parts of a stream go to a bay that is to take it. -/
def sendRemap (bay part : Nat) (rs : List CkptRecord) (s : State) : State :=
  rs.foldl (fun s r => sendMsg (some bay) (some part) none (.ckptData false true (recordBytes r)) s) s

/-- One stream of a lost bay: dropped when its lease has gone higher, sent to its standby, or taken here (R631). A LEAVING module
takes none: it sends them on and frees the slots (R800). -/
def remapOne (s : State) (handle : Nat) : State :=
  let rs := (s.standingRec handle false).toList ++ (s.standingRec handle true).toList
  match rs with
  | [] => s
  | r :: _ =>
    let p := parOf r.params
    let stby := !p.hostFed && p.stbyValid && p.stbyBay != s.bay && s.stageOf p.stbyBay == 1 && s.reaches p.stbyBay
    if (match tfind s.fab.leases handle with | some (e, _) => decide (r.epoch < e) | none => false) then s
    else if s.fld F.fabStatusStage = 4 then
      match (if stby then some p.stbyBay else s.leavingBay) with
      | some b => ckptFreed handle (sendRemap b p.part rs s)
      | none => s
    else if stby then sendRemap p.stbyBay p.part rs s
    else remapOffer handle s

/-- REMAP_WAIT_END: 20 ms after the loss of a bay (R631). -/
def remapEnd (bay : Nat) (s : State) : State :=
  if !s.fab.remap.contains bay then s
  else
    let s := { s with fab := { s.fab with remap := s.fab.remap.filter (· ≠ bay) } }
    (((s.tide.area.filter (fun r => r.valid && r.srcBay == bay)).map CkptRecord.handle).eraseDups).foldl remapOne s

/-! ## The commands -/

/-- LEASE. -/
def execLease (m : MsgHead) (handle epoch : Word) (bay : Fin 16) (released : Bool) (s : State) : Host.Outcome State Fault Refusal :=
  .next (heard m (.lease handle.toNat epoch.toNat bay released) (fun s => retryRecords (leaseIn handle.toNat epoch.toNat bay released s)) s)
/-- XFER_OFFER. -/
def execXferOffer (m : MsgHead) (handle epoch : Word) (params : List Byte) (digests : List (List Byte)) (last : BitVec 64) (s : State) : Host.Outcome State Fault Refusal :=
  .next (if s.hears m then offerIn m.src ((m.part.map Fin.val).getD (parOf params).part) handle.toNat epoch.toNat params digests last.toNat s else s)
/-- XFER_OFFER_TIMEOUT. -/
def execXferOfferTimeout (handle : Word) (s : State) : Host.Outcome State Fault Refusal := .next (offerTimeout handle.toNat s)
/-- XFER_ACCEPT: the bounds it carries are the target's. -/
def execXferAccept (m : MsgHead) (handle _bf _be : Word) (s : State) : Host.Outcome State Fault Refusal :=
  .next (if s.hears m then xferAccepted handle.toNat m.src s else s)
/-- EBB_IDLE. -/
def execEbbIdle (desc : Fin 4096) (s : State) : Host.Outcome State Fault Refusal := .next (ebbIdleNow desc s)
/-- XFER_EBB_TIMEOUT (R628). -/
def execXferEbbTimeout (desc : Fin 4096) (s : State) : Host.Outcome State Fault Refusal :=
  .next (sourceTimer desc (fun t => t.stage == 1 && t.cut.isNone) (sendAbort desc) s)
/-- XFER_REFUSE. -/
def execXferRefuse (m : MsgHead) (handle : Word) (reason : Byte) (s : State) : Host.Outcome State Fault Refusal :=
  .next (if s.hears m then xferRefused handle.toNat m.src reason.toNat s else s)
/-- XFER_ABORT. -/
def execXferAbort (m : MsgHead) (handle : Word) (s : State) : Host.Outcome State Fault Refusal :=
  .next (if s.hears m then retryRecords (xferAborted handle.toNat m.src s) else s)
/-- XFER_LEASE_TIMEOUT: 500 ms after the last record (R630). -/
def execXferLeaseTimeout (desc : Fin 4096) (s : State) : Host.Outcome State Fault Refusal :=
  .next (sourceTimer desc (fun t => t.stage == 2) (sendAbort desc) s)
/-- XFER_REPLY_TIMEOUT: a further 500 ms (R630). -/
def execXferReplyTimeout (desc : Fin 4096) (s : State) : Host.Outcome State Fault Refusal :=
  .next (sourceTimer desc (fun t => t.stage == 4) (keepLease desc) s)
/-- CKPT_DATA. -/
def execCkptData (m : MsgHead) (transfer remap : Bool) (record : List Byte) (s : State) : Host.Outcome State Fault Refusal :=
  .next (if s.hears m then (let t := ckptIn m.src ((m.part.map Fin.val).getD 0) transfer remap record s
    if t.tide.area.length < s.tide.area.length then retryRecords t else t) else s)
/-- CKPT_ACK. -/
def execCkptAck (m : MsgHead) (handle : Word) (ebb : Bool) (seq : BitVec 64) (s : State) : Host.Outcome State Fault Refusal :=
  .next (if s.hears m then ckptAcked m.src handle.toNat ebb seq.toNat s else s)
/-- CKPT_FREE. -/
def execCkptFree (m : MsgHead) (handle : Word) (s : State) : Host.Outcome State Fault Refusal :=
  .next (if s.hears m then retryRecords (ckptFreed handle.toNat s) else s)
/-- REMAP_WAIT_END. -/
def execRemapWaitEnd (bay : Fin 16) (s : State) : Host.Outcome State Fault Refusal := .next (powered (fun s => retryRecords (remapEnd bay s)) s)
/-- STREAM_TRANSFER. -/
def execStreamTransfer (q : Fin 65) (standbyOk : Bool) (s : State) : Host.Outcome State Fault Refusal :=
  .next (beginCmd q 0x87 false (.ok []) (fun c _ s => transferStart q standbyOk c s) s)

end Sys2Proof.Machine
end

