-- ==== Sys2Proof/Machine/Peer.lean ====
section
/-! DEFINITION. Peer memory accesses (R612 to R614, R641), standby messages (R159, R190, R208, R634), the clock monitor (R176, R189) and the
tray tick (R90, R132, R184 to R190). -/

namespace Sys2Proof.Machine

/-! ## Peer memory (R612, R613) -/

/-- The receiver accepts an access (R613): of an ACTIVE partition within its DRAM quota here, or of the module below MC_MOD_BASE. -/
def State.peerGood (s : State) (part : Option Nat) (a n : Nat) : Bool :=
  match part with
  | some p => match tfind s.disp.parts p with
    | some q => q.state == .active && decide (q.quota.dramBase ≤ a ∧ a + n ≤ q.quota.dramBase + q.quota.dramSize)
    | none => false
  | none => inDram a && decide (a + n ≤ s.pair R.mcModBase)

/-- An answer to a peer, in the partition's name when it asked so. -/
def answer (m : MsgHead) (b : MsgBody) (s : State) : State := sendMsg (some m.src.val) (m.part.map Fin.val) none b s

/-- The bytes a WRITE writes: FRL blocks are expanded (R614). -/
def expanded (fmt : Nat) (data : List Byte) : List Byte :=
  if fmt = 0 then data
  else (List.range (data.length / frlSize (fmt + 1))).flatMap (fun i => frlDecodeBytes (fmt + 1) ((data.drop (frlSize (fmt + 1) * i)).take (frlSize (fmt + 1))))

/-- WRITE received. -/
def peerWrite (m : MsgHead) (a fmt : Nat) (data : List Byte) (s : State) : State :=
  let bs := expanded fmt data
  if s.peerGood (m.part.map Fin.val) a bs.length then answer m (.writeAck m.id.toNat false) (s.pokeDram a bs)
  else answer m (.writeAck m.id.toNat true) (s.count F.fabPeerDeniedCount 1)

/-- READ_REQ received. Data with an uncorrectable error is not given. -/
def peerRead (m : MsgHead) (a n : Nat) (s : State) : State :=
  if s.peerGood (m.part.map Fin.val) a n then
    match s.badIn a n with
    | [] => answer m (.readData false (s.peek a n)) s
    | b :: _ => answer m (.readData true []) (noteUe b s)
  else answer m (.readData true []) (s.count F.fabPeerDeniedCount 1)

/-- The channel that waits for an answer of a bay. -/
def State.waiter (s : State) (bay id : Nat) (read : Bool) : Option (Nat × PeerWait) :=
  (s.dma.find? (fun c => c.2.waits.any (fun w => w.id == id && w.bay == bay && w.read == read))).bind (fun c =>
    (c.2.waits.find? (fun w => w.id == id && w.bay == bay && w.read == read)).map (fun w => (c.1, w)))

/-- A wait is over. -/
def dropWait (c : Nat) (w : PeerWait) (s : State) : State :=
  s.setChan c { s.chan c with waits := (s.chan c).waits.filter (· ≠ w) }

/-- A peer denied an access: the descriptor that made it, when it still runs, ends with PEER_DOWN, the bytes not arrived (R613, R641). -/
def peerDenied (c : Nat) (w : PeerWait) (s : State) : State :=
  let s := dropWait c w s
  match (s.chan c).run with
  | some r => if w.own then
      settleAbort c (s.setChan c { s.chan c with run := some { r with status := if r.status = 0 then 7 else r.status, moved := r.moved - w.len } })
    else s
  | none => s

/-- WRITE_ACK received. -/
def writeAcked (bay id : Nat) (denied : Bool) (s : State) : State :=
  match s.waiter bay id false with
  | none => s
  | some (c, w) => if denied then peerDenied c w s else settleAbort c (dropWait c w s)

/-- Data a peer gives for member `m` of a MEMBER_OUT, from byte `o` of its chunk: into its lane at the frames it plays at (R465). -/
def memberGot (d : Desc) (r : DmaRun) (m o : Nat) (data : List Byte) (s : State) : State :=
  match s.findHandle (memberEntry s r.core d.members m).1, tfind r.plays m with
  | some (_, x), some t => putEbb x t o data s
  | _, _ => s

/-- READ_DATA received: the bytes go where the pattern puts them. -/
def readArrived (bay id : Nat) (denied : Bool) (data : List Byte) (s : State) : State :=
  match s.waiter bay id true with
  | none => s
  | some (c, w) =>
    if denied || data.length != w.len then peerDenied c w s
    else match (s.chan c).run with
      | none => dropWait c w s
      | some r =>
        let d := descOf r.raw
        let run := w.at_ / max 1 d.c0
        let o := w.at_ % max 1 d.c0
        if d.op = 4 then settleAbort c (memberGot d r run o data (dropWait c w s)) else
        let segs := sideSegs (addrOf d.dst + run % max 1 d.c1 * d.ds1 + run / max 1 d.c1 * d.ds2) d.circDst d.dstLog o w.len
        settleAbort c (putSegs (s.who c r.cmd) d.dst 0 segs w.at_ data (dropWait c w s)).2

/-! ## Standby messages -/

/-- A LISTEN port takes a new index for its frames, those it has made and slipped included, and its levels follow. A pending ring commit
keeps its k_b, and the frames already landed stay where they lie (log entry 109). -/
def shiftPort (n : Nat) (by_ : Int) (s : State) : State :=
  let sh := fun (k : Nat) => ((k : Int) + by_).toNat
  let p := s.port n
  let s := s.setPort n { p with idx := sh p.idx, fsIdx := sh p.fsIdx, landed := sh p.landed, fetched := none, slip := none
                                virtuals := p.virtuals.map sh, slipped := p.slipped.map (fun x => (sh x.1, x.2)) }
  apTides n ((s.setPair (R.apIdx n) (sh (s.pair (R.apIdx n)))).setPair (R.apSyncIdx n) (sh (s.pair (R.apSyncIdx n))))

/-- How far a home port's pair says this port's index is off: the home index less this port's index of the frame at the same time (R159). -/
def State.indexOff (s : State) (n idx time : Nat) : Int :=
  let hz : Int := rateHz (s.fld (F.apCfgRate n))
  let frames := (((time : Int) - s.pair (R.apSyncTime n)) * hz * 2 + 1000000000) / 2000000000
  (idx : Int) - (s.pair (R.apSyncIdx n) : Int) - frames

/-- STANDBY_SYNC (R159, R190, R634). -/
def standbySync (bay n idx time st : Nat) (s : State) : State :=
  let p := s.port n
  if !s.bit (F.apCtrlEn n) || s.fld (F.apCtrlRole n) != 2 || p.homeBay.any (fun b => decide (b < bay)) then s
  else
    let s := s.setPort n { p with homeBay := some bay, homeTime := st, homeMiss := 0 }
    if st == 2 then s.setBit (F.apStatusAligned n) false
    else if s.fld F.timeStatusState == 2 || !s.bit (F.apStatusRunning n) || p.idx == 0 || !p.latched then s
    else
      let off := s.indexOff n idx time
      let s := if off = 0 then s else shiftPort n off s
      (s.setPort n { s.port n with lostHome := none }).setBit (F.apStatusAligned n) true

/-- STANDBY_SYNC_TIMEOUT: ten ticks without one (R634). The bay the port was aligned to is kept for a remap (R160). -/
def standbyLost (n : Nat) (s : State) : State :=
  let p := s.port n
  if 10 ≤ p.homeMiss then
    (s.setPort n { p with homeBay := none, lostHome := if s.bit (F.apStatusAligned n) then p.homeBay else p.lostHome }).setBit (F.apStatusAligned n) false
  else s

/-- SLIP: applied at the same boundary; too late, the port is no longer aligned (R208). One of no frames takes the decision back. -/
def slipIn (bay n kb m : Nat) (drop : Bool) (s : State) : State :=
  let p := s.port n
  if !s.bit (F.apCtrlEn n) || s.fld (F.apCtrlRole n) != 2 || p.homeBay != some bay then s
  else if p.idx ≤ kb then s.setPort n { p with slip := if m = 0 then none else some (drop, m, kb) }
  else s.setBit (F.apStatusAligned n) false

/-! ## The clock monitor (R176) -/

/-- The bit of CLK_STATUS of a domain. -/
def clockBit : ClockDomain → Nat
  | .core n => n
  | .hub => 4
  | .state => 5
  | .mem => 6
  | .pcie => 7
  | .link n => 8 + n
  | .aud n => 14 + n
  | .time => 18

/-- CLOCK_MONITOR_FLAG: what it sets off falls in one cycle (R266). -/
def clockFlag (d : ClockDomain) (s : State) : State :=
  let s := s.setReg R.clkStatus (s.reg R.clkStatus ||| BitVec.ofNat 32 (2 ^ (clockBit d)))
  match d with
  | .link n => linkDown n 1 s
  | .aud n => oneCycle (fun s => acsFail n s) s
  | .time =>
    if s.bit F.timeStatusHoldover then s
    else alarm (emitM Ev.timeRefLost 0xB 0 0 0 0 ((s.setBit F.timeStatusHoldover true).setBit F.timeStatusRefOk false))
  | _ => failStop 0 0xB (clockBit d + 1) s

/-! ## The tick -/

/-- Everything a tick does beside module time, with what the fabric has waiting for a step boundary. -/
def tickAll (s : State) : State := boundaryOffers (tickWork s)

/-- TRAY_TICK: `ref` says that TIME_REF is sound; it ends holdover (R189). -/
def execTrayTick (ref : Bool) (s : State) : Host.Outcome State Fault Refusal :=
  .next (powered (oneCycle fun s => let s := latchSync s
    let s := (s.setBit F.timeStatusTickOk true).setBit F.timeStatusRefOk ref
    let s := { s with timeB := { s.timeB with missed := 0 } }
    let s := if ref then s.setBit F.timeStatusHoldover false else s
    tickAll (measure s)) s)

/-- TICK_MISS: the module makes the tick itself (R188). It breaks a run of ticks with |OFFSET| of at most 1 µs (DESIGN CHOICE: R185 classes at
each tick and says nothing of one the module makes; log entry 132). -/
def execTickMiss (s : State) : Host.Outcome State Fault Refusal :=
  .next (powered (oneCycle fun s => let s := latchSync s
    let s := (s.count F.timeErrcntTickMiss 1).setBit F.timeStatusTickOk false
    let s := { s with timeB := { s.timeB with missed := s.timeB.missed + 1, good := 0, next := s.timeB.next.map (· + 1000000) } }
    tickAll s) s)

/-! ## The commands -/

/-- WRITE. -/
def execWrite (m : MsgHead) (addr : BitVec 64) (fmt : Fin 3) (data : List Byte) (s : State) : Host.Outcome State Fault Refusal :=
  .next (if s.hears m then peerWrite m addr.toNat fmt data s else s)
/-- WRITE_ACK. -/
def execWriteAck (m : MsgHead) (id : Word) (denied : Bool) (s : State) : Host.Outcome State Fault Refusal :=
  .next (if s.hears m then writeAcked m.src id.toNat denied s else s)
/-- READ_REQ. -/
def execReadReq (m : MsgHead) (addr : BitVec 64) (len : Nat) (ecc : Ecc) (s : State) : Host.Outcome State Fault Refusal :=
  .next (if s.hears m then peerRead m addr.toNat len (applyEcc ecc s) else s)
/-- READ_DATA, with the MSG_ID of the request it answers. -/
def execReadData (m : MsgHead) (id : Word) (denied : Bool) (data : List Byte) (s : State) : Host.Outcome State Fault Refusal :=
  .next (if s.hears m then bodyPiece m.src id.toNat denied data (readArrived m.src id.toNat denied data s) else s)
/-- STANDBY_SYNC. -/
def execStandbySync (m : MsgHead) (port : Fin 8) (idx time : BitVec 64) (state : Fin 4) (s : State) : Host.Outcome State Fault Refusal :=
  .next (if s.hears m then standbySync m.src port idx.toNat time.toNat state s else s)
/-- STANDBY_SYNC_TIMEOUT. -/
def execStandbySyncTimeout (port : Fin 8) (s : State) : Host.Outcome State Fault Refusal := .next (powered (fun s => standbyLost port s) s)
/-- SLIP. -/
def execSlip (m : MsgHead) (port : Fin 8) (kb : BitVec 64) (drop : Bool) (frames : Fin 65) (s : State) : Host.Outcome State Fault Refusal :=
  .next (if s.hears m then slipIn m.src port kb.toNat frames drop s else s)
/-- CLOCK_MONITOR_FLAG. -/
def execClockMonitorFlag (d : ClockDomain) (s : State) : Host.Outcome State Fault Refusal := .next (powered (fun s => clockFlag d s) s)

end Sys2Proof.Machine
end

