-- ==== Sys2Proof/Machine/Boot.lean ====
section
/-! DEFINITION. Starting a module: restarts, the seven stages, joining the tray, Ready, the boot attempt counter
(R615, R616, R652 to R668, R691, R693, R704, R708). -/

namespace Sys2Proof.Machine

/-! ## What a start finds (R658, R697, R704) -/

/-- A persistent key at a start: S is R, and the key is locked when no counter above S could be burned. -/
def keyAtStart (k : Key) : Key :=
  { k with ctr := k.reserve, locked := k.present && (k.left == 0 || k.reserve == counterMax), fails := 0, refusing := false }

/-- The security block at a start: OTP as it stands, the volatile store empty. -/
def secStart (x : Sec) : Sec :=
  { x with maker := keyAtStart x.maker, owner := keyAtStart x.owner, pkeys := [], challenge := [], session := false, sessionPort := 0, wrong := 0,
           lockout := false, drbg := 0 }

/-! ## Burns that a loss of power cut short (R682, R683, R715) -/

/-- A step the table of R686 lists. -/
def stepListed (lc target : Nat) : Bool :=
  match lc with
  | 1 => target == 2 || target == 5
  | 2 => target == 3 || target == 4 || target == 5
  | 3 => target == 4 || target == 5
  | 4 => target == 5
  | _ => false

/-- The greater of two numbers of copies. -/
def atLeast (a b : Fin 4) : Fin 4 := if a < b then b else a

/-- Burn copies of the bit of a state: a burned copy never returns to 0. -/
def burnBits (target : Nat) (copies : Fin 4) (x : Sec) : Sec :=
  let b := x.bits
  match target with
  | 1 => { x with bits := { b with maker := atLeast b.maker copies } }
  | 2 => { x with bits := { b with owner := atLeast b.owner copies } }
  | 3 => { x with bits := { b with field := atLeast b.field copies } }
  | 4 => { x with bits := { b with ret := atLeast b.ret copies } }
  | 5 => { x with bits := { b with scrap := atLeast b.scrap copies } }
  | _ => x

/-- What a step to RETURN or SCRAP destroys (R690). -/
def destroyKeys (target : Nat) (x : Sec) : Sec :=
  if target < 4 then x
  else
    let x := { x with owner := { left := 0 }, ownerGen := 0, signGen := 0, ownerDigest := [], floorOwner := { left := 0 }, pkeys := [] }
    if target = 5 then { x with maker := { left := 0 }, makerDigest := [] } else x

/-- A generation of the owner root key, and one of the signing-key digest, remains (R700). -/
def Sec.rootLeft (x : Sec) : Bool := decide (x.ownerGen + x.ownerVoid < 8)
/-- See `Sec.rootLeft`. -/
def Sec.digestLeft (x : Sec) : Bool := decide (x.signGen + x.signVoid < 4)

/-- The state lets a next generation be installed where `gen` of them are (R700): in OWNER and FIELD, and the first in MAKER. -/
def Sec.mayInstall (x : Sec) (gen : Nat) : Bool := decide (x.lc = 2 ∨ x.lc = 3) || (x.lc == 1 && gen == 0)

/-- What a burn that 54 V cut short leaves in OTP: a burn that no command could have begun leaves nothing (log entry 117). -/
def tear (t : TornBurn) (x : Sec) : Sec :=
  match t with
  | .state target copies => if (x.lc = 0 ∧ target = 1) ∨ stepListed x.lc target then burnBits target copies x else x
  | .reserve false => if x.maker.present then { x with maker := { x.maker with left := x.maker.left - 1 } } else x
  | .reserve true => if x.owner.present then { x with owner := { x.owner with left := x.owner.left - 1 } } else x
  | .floor false => { x with floorMaker := { x.floorMaker with left := x.floorMaker.left - 1 } }
  | .floor true => { x with floorOwner := { x.floorOwner with left := x.floorOwner.left - 1 } }
  | .rootKey valid k =>
    if !x.rootLeft || !x.mayInstall x.ownerGen then x
    else if valid then { x with owner := { present := true, bytes := k.take 32 }, ownerGen := x.ownerGen + 1, ownerPrev := if x.owner.present then some x.owner else none }
    else { x with ownerVoid := x.ownerVoid + 1 }
  | .signDigest valid d =>
    if !x.digestLeft || !x.mayInstall x.signGen then x
    else if valid then { x with ownerDigest := d.take 48, signGen := x.signGen + 1, digestPrev := x.ownerDigest }
    else { x with signVoid := x.signVoid + 1 }

/-- The remaining copies of a bit with one or two of them burned are burned. -/
def wholeBit (n : Fin 4) : Fin 4 := if n = 0 then 0 else 3

/-- What stage 1 mends in OTP: a state bit is completed, and with it what the step to its state destroys (R683, R690); a previous generation is
destroyed (R715). -/
def mendOtp (x : Sec) : Sec :=
  let b := x.bits
  let x := { x with bits := { maker := wholeBit b.maker, owner := wholeBit b.owner, field := wholeBit b.field, ret := wholeBit b.ret, scrap := wholeBit b.scrap },
                    ownerPrev := none, digestPrev := [] }
  destroyKeys x.lc x

/-- Draw a debug challenge of 32 fresh bytes (R695, R706). -/
def drawChallenge (s : State) : State :=
  { s with sec := { s.sec with challenge := (List.range 32).map (fun i => Config.freeByte (s.free + i)), drbg := s.sec.drbg + 1 }, free := s.free + 32 }

/-- Host memory and flash outlast a restart of the module. -/
def outside (a : Nat) : Bool := inHost a || decide (flashPlace ≤ a)

/-- What is left when the module has no power, or is reset: what lies outside it, the straps, OTP and flash. -/
def bareModule (s : State) : State :=
  { State.reset with
    regs := [(R.hubTopo, s.reg R.hubTopo)], lhRegs := s.lhRegs, mem := s.mem.filter (fun c => outside c.1), sec := secStart s.sec, fab := { out := s.fab.out },
    free := s.free, pending := s.pending, lh := s.lh, bw := s.bw, boot := { powered := s.boot.powered } }

/-- A restart (R658): everything but the always-on registers, PCIe with its configuration space, and DRAM until it is zeroed. -/
def restartState (s : State) : State :=
  let t : State := { bareModule s with
    mem := s.mem.filter (fun c => outside c.1 || inDram c.1), boot := { stops := s.boot.stops },
    host := { vectors := s.host.vectors.map (fun v => (v.1, { v.2 with unsignalled := 0 })), msi := s.host.msi, vfEnable := s.host.vfEnable } }
  let t := (t.setReg R.hubBootAttempts (s.reg R.hubBootAttempts)).setReg R.hubBootLast (s.reg R.hubBootLast)
  let t := (t.setReg R.errFsLast (s.reg R.errFsLast)).setReg R.errFsTotal (s.reg R.errFsTotal)
  (t.setFld F.errFsStatusCount24h (s.fld F.errFsStatusCount24h)).setFld F.hubBootStatusStarts (satAdd (s.fld F.hubBootStatusStarts) 1 0xFFFF)

/-- The straps of a bay (R31, R50). -/
def topoWord (b : Nat) : Word :=
  let row := b / 4
  let col := b % 4
  BitVec.ofNat 32 (b + Nat.xor b 1 * 2 ^ 4 + Nat.xor b 8 * 2 ^ 8 + (b + 12) % 16 * 2 ^ 12 + (row * 4 + (col + 1) % 4) * 2 ^ 16 + (b + 4) % 16 * 2 ^ 20 +
    (row * 4 + (col + 3) % 4) * 2 ^ 24)

/-- 54 V leaves the module: all but OTP, flash and straps is lost (R660, R802). -/
def powerOff (s : State) : State := { bareModule s with boot := { powered := false } }

/-- 54 V reaches the bay: the always-on domain starts from its reset values, and OTP holds what the burn left that the loss of power cut short. -/
def powerOn (bay : Nat) (torn : Option TornBurn) (s : State) : State :=
  let x := match torn with | some t => tear t s.sec | none => s.sec
  let t : State := { powerOff { s with sec := x } with boot := {} }
  (t.setReg R.hubTopo (topoWord bay)).setFld F.hubBootStatusStarts 1

/-! ## Stage 7 and Ready (R654 to R657) -/

/-- A stage of the start begins. -/
def atStage (n : Nat) (s : State) : State := s.setFld F.hubBootStatusStage n

/-- An image declares the model of a partition and tag. -/
def storeFor (part tag : Nat) (x : StoreModel) : Bool := x.part == part && fieldAt x.load 0 2 == tag

/-- What the reads of an entry's body ask for: its leaves, at most 4,096 bytes at a time (R612, R654). -/
def State.bodyPieces (s : State) (e : Entry) : List (Nat × Nat) :=
  ((s.imageOf e.part e.va e.bytes).getD []).flatMap (fun l =>
    let n := s.leafCoded e.part l
    (List.range (ceilDiv n 4096)).map (fun i => (l.base + 4096 * i, min 4096 (n - 4096 * i))))

/-- Models to fetch take their entries, and the reads of their bodies are prepared (R654). -/
def takeStores (s : State) : State :=
  s.boot.stores.foldl (fun s x =>
    match takeEntry x.part s with
    | (some i, s) =>
      let e := loadEntry x.part x.load
      { s.setEntry i e with boot := { s.boot with fetches := s.boot.fetches ++ [{ model := x, pieces := s.bodyPieces e }] } }
    | (none, s) => s) s

/-- Stage 7 begins. -/
def settleStart (s : State) : State := eachFetch beginBody (takeStores (atStage 7 s))

/-- Every model entry is READY. -/
def State.modelsReady (s : State) : Bool := s.boot.stores.isEmpty && s.disp.entries.all (fun e => e.2.state == .ready)

/-- Every port the image enables is steady, or has refused its enable (R655). -/
def State.portsSteady (s : State) : Bool :=
  s.boot.imagePorts.all (fun n => decide (16 ≤ n) || s.bit (F.apdStatusSteady n) || !s.bit (F.apCtrlEn n))

/-- Ready (R656): RWL fields are locked from here on (R19). The UNIT of its event is log entry 92's. -/
def becomeReady (s : State) : State :=
  let s := atStage 8 (s.setPair R.hubReadyTime s.time)
  let s := { s with pins := { s.pins with ready := true }, boot := { s.boot with readySince := s.time, stable := false, restartDue := false, locked := true, fetches := [] } }
  let s := s.setFld F.hubBootAttemptsStableS 0
  retarget (emitM Ev.moduleReady 0 0 (s.fld F.hubBootStatusImage) 0 0 s)

/-! ## Stage 6: joining (R615, R616) -/

/-- This module's own values. -/
def State.ownRecord (s : State) : TrayRecord := { epoch := s.pair R.fabEpoch, fw := s.boot.fwSet, scope := s.fld F.errScopeScope }

/-- Why this module disagrees with a record: 1 EPOCH, 2 FW_SET, 3 SCOPE. -/
def State.disagrees (s : State) (r : TrayRecord) : Option Nat :=
  let m := s.ownRecord
  if m.epoch ≠ r.epoch then some 1 else if m.fw ≠ r.fw then some 2 else if m.scope ≠ r.scope then some 3 else none

/-- QUARANTINE (R616, R663). -/
def quarantine (cause : Nat) (s : State) : State :=
  let s := (((s.setFld F.hubBootLastReason Neap.epoch).setFld F.hubBootLastStage 6).setFld F.hubBootLastImage (s.fld F.hubBootStatusImage)).setFld F.hubBootLastDetail 0
  let s := setStage 2 ((atStage 9 s).setFld F.fabStatusQcause cause)
  let s := portsHiZ { s with pins := { s.pins with faultN := true, ready := false } }
  emitM Ev.moduleQuarantine 0xA 0 cause 0 0 s

/-- The tray record is compared (R616): `src` says that it came from a peer. -/
def joinTray (src : Bool) (r : TrayRecord) (s : State) : State :=
  let s := (s.setPair R.fabTrayEpoch r.epoch).setBit F.fabStatusRecordSrc src
  match s.disagrees r with
  | some c => quarantine c s
  | none => settleStart (setStage 1 s)

/-- A peer's record by its HELLO. -/
def helloRecord (h : Hello) : TrayRecord := { epoch := h.epoch, fw := h.fw, scope := h.scope }

/-- HELLOs heard, by bay. -/
def State.hellos (s : State) : List Hello := (List.range 6).filterMap (fun l => (s.link l).far)

/-- The record R615 takes without the Lighthouse: of the lowest-numbered reachable READY bay, else of the lowest JOINING bay
known, this one included. A bay heard of only at a distance shows no record of its own. -/
def State.peerRecord (s : State) : TrayRecord :=
  let lowest := fun (hs : List Hello) => hs.foldl (fun (b : Option Hello) h => match b with | some x => if h.bay < x.bay then some h else some x | none => some h) none
  match lowest (s.hellos.filter (fun h => h.stage == 1)) with
  | some h => helloRecord h
  | none => match lowest (s.hellos.filter (fun h => h.stage == 0 && decide (h.bay < s.bay))) with
    | some h => helloRecord h
    | none => s.ownRecord

/-- The record is asked of the Lighthouse (R615). -/
def joinStart (s : State) : State := askFrame { fromLh := false, bay := s.myBay, op := 7 } (atStage 6 s)

/-! ## Stages 4 and 5 -/

/-- Go on with a list of records while none is refused. -/
def takeAll (k : List Byte → State → Option State) : List (List Byte) → State → Bool × State
  | [], s => (true, s)
  | r :: rest, s => match k r s with
    | some t => takeAll k rest t
    | none => (false, s)

/-- A PARTITIONS record (R548, R549). -/
def bootPartition (r : List Byte) (s : State) : Option State :=
  let p := fieldAt r 0 1
  let q := quotaOf (r.drop 8)
  if (s.partition p).isSome || quotaBad 96 (r.drop 8) || s.quotaOver p q || decide (q.channels > s.freeChannels.length) then none else activate p q s

/-- A MAPS record (R516, R517). -/
def bootMap (r : List Byte) (s : State) : Option State :=
  let p := fieldAt r 0 1
  if (s.partition p).isNone then none
  else match mappingBlock p (r.drop 8) s with
    | .ok t => some t
    | .error _ => none

/-- The entries an image declares stand as READY for the check of its schedules, which are installed first. -/
def declared (ms : List (List Byte)) (s : State) : State :=
  { s with disp := { s.disp with entries := s.disp.entries ++ ((List.range ms.length).zip ms).map (fun x =>
      (64 + x.1, { loadEntry (fieldAt x.2 0 1) ((x.2.drop 48).take 64) with state := .ready })) } }

/-- A SCHEDULES record (R568, R651). -/
def bootSchedule (ms : List (List Byte)) (r : List Byte) (s : State) : Option State :=
  let p := fieldAt r 0 1
  let n := fieldAt r 4 4
  let b := (r.drop 8).take n
  let v := declared ms s
  if (s.partition p).isNone || (verify p n b v).isSome then none
  else match s.freeSched with
    | none => none
    | some i =>
      let x := scheduleOf v p b
      some { s with disp := { s.disp with scheds := tset s.disp.scheds i x, tags := (noteTags p x.deps v).disp.tags } }

/-- A MODELS record (R577, R650): an INLINE body is loaded, a STORE model waits for stage 7. -/
def bootModel (r : List Byte) (s : State) : Option State :=
  let p := fieldAt r 0 1
  let load := (r.drop 48).take 64
  let digest := (r.drop 16).take 32
  let e := loadEntry p load
  if (s.partition p).isNone || (s.entryByTag p e.tag).isSome || s.boot.stores.any (storeFor p e.tag) then none
  else if fieldAt r 1 1 = 1 then some { s with boot := { s.boot with stores := s.boot.stores ++ [{ part := p, digest := digest, load := load }] } }
  else match takeEntry p s with
    | (none, _) => none
    | (some i, s) => placeBody i e digest ((r.drop 112).take (fieldAt r 8 8)) s

/-- A RESRINGS record. -/
def bootRing (r : List Byte) (s : State) : Option State :=
  let n := fieldAt r 0 1 - 1
  let p := fieldAt r 1 1
  match s.partition p with
  | none => none
  | some x =>
    let s := ((s.setBit (F.iringCfgValid n) true).setFld (F.iringCfgPartition n) p).setFld (F.iringCfgLog2 n) (fieldAt r 2 1)
    some { s with boot := { s.boot with rings := tset s.boot.rings (n + 1) (p, x.quota.dramBase + fieldAt r 4 8) } }

/-- A standing record is kept (R97). -/
def bootStanding (r : List Byte) (s : State) : Option State :=
  let g := s.pair R.fabEpoch % 65536
  let x : Standing := { index := fieldAt r 0 1, par := standingPar r s.bay (if g = 0 then 1 else g), sink := fieldAt r 9 1, raw := r }
  some { s with strm := { s.strm with standing := s.strm.standing ++ [x] } }

/-- The EN bits of synthesizers and then of ports (R652); a refused enable shows in the unit's own status. -/
def bootEnable (s : State) : State :=
  let s := (List.range 4).foldl (fun s a => if s.boot.imagePorts.contains (16 + a) then effAcsCtrl a (s.reg (R.acsCtrl a) ||| 1) s else s) s
  (List.range 8).foldl (fun s n => if s.boot.imagePorts.contains n then effApCtrl n (s.reg (R.apCtrl n) ||| 1) s else s) s

/-- Stage 5: training starts on all six links (R595). -/
def stage5 (env : StartEnv) (s : State) : State :=
  let s := atStage 5 s
  if !env.links then startFail Neap.link 0 s
  else
    let s := (List.range 6).foldl (fun s l => trainStart l true s) s
    if env.stall = some 5 then s else joinStart s

/-- The records of stage 4, type by type, in the order of R652. -/
def stage4Load (b : List Byte) (s : State) : Bool × State :=
  let get := fun t len => (recordsOf b s.bay t len).getD []
  let ms := get 8 modelLen
  let passes : List ((List Byte → State → Option State) × List (List Byte)) :=
    [(bootPartition, get 5 partitionLen), (bootMap, get 6 mapLen), (bootSchedule ms, get 7 scheduleLen), (bootModel, ms), (bootRing, get 9 ringLen),
     (bootStanding, get 10 standingLen)]
  passes.foldl (fun a p => if a.1 then takeAll p.1 p.2 a.2 else a) (true, s)

/-- Stage 4: DRAM is trained and zeroed, and what the image declares is set up. The pool's registers show the granules it has (R443). -/
def stage4 (env : StartEnv) (b : List Byte) (s : State) : State :=
  let s := atStage 4 s
  if !env.dram then startFail Neap.dram 0 s
  else
    let s := poolSync { s with mem := s.mem.filter (fun c => outside c.1) }
    if env.stall = some 4 then s
    else match stage4Load b s with
      | (false, s) => startFail Neap.image 0 s
      | (true, s) => stage5 env (bootEnable s)

/-! ## Stages 1 to 3 -/

/-- A REGS entry applies (R649, R652): EN bits of synthesizers and ports wait for stage 4; core modes take effect; the entry of
RING_BASE_NEXT_HI commits the pair, as a write does (R142). -/
def bootReg (s : State) (e : Nat × Nat) : State :=
  let w := BitVec.ofNat 32 e.2
  let unit : Option Nat := match (List.range 8).find? (fun n => R.apCtrl n == e.1) with
    | some n => some n
    | none => ((List.range 4).find? (fun a => R.acsCtrl a == e.1)).map (· + 16)
  match unit with
  | some u =>
    let rest := s.boot.imagePorts.filter (· ≠ u)
    { s.setReg e.1 (w &&& ~~~1#32) with boot := { s.boot with imagePorts := if w.getLsbD 0 then rest ++ [u] else rest } }
  | none =>
    if R.dispCore0 ≤ e.1 ∧ e.1 < R.dispCore0 + 32 then
      let n := (e.1 - R.dispCore0) / 4
      { s with disp := { s.disp with cores := tset s.disp.cores n { tget s.disp.cores n {} with excl := w.getLsbD 31 } } }
    else match (List.range 8).find? (fun n => R.apRingBaseNext n + 4 == e.1) with
      | some n => effRingNext n (w ++ s.reg (R.apRingBaseNext n)) s
      | none => s.setReg e.1 w

/-- Stage 3: the manifest and the registers apply, and the firmware starts. -/
def stage3 (env : StartEnv) (b : List Byte) (s : State) : State :=
  let s := atStage 3 s
  if env.stall = some 3 then s
  else
    let m := manifestOf b s.bay
    let lim := fieldAt m 41 1
    let pw := fieldAt m 42 2
    let ms := fieldAt m 44 4
    let s := if lim = 0 then s else s.setFld F.hubBootAttemptsLimit lim
    let s := (s.setPair R.fabEpoch (fieldAt m 0 8)).setFld F.errScopeScope (fieldAt m 40 1)
    let s := (List.range 8).foldl (fun s i => s.setReg (R.fabFwSet0 + 4 * i) (BitVec.ofNat 32 (fieldAt m (8 + 4 * i) 4))) s
    let s := { s with boot := { s.boot with fwSet := (m.drop 8).take 32, settleMs := if ms = 0 then 5000 else ms, powerLimit := if pw = 0 then 1050 else pw },
                      pins := { s.pins with heartbeat := true } }
    stage4 env b ((regEntries b s.bay).foldl bootReg s)

/-- One slot is tried in stage 2. -/
def trySlot (env : StartEnv) (slot : Nat) (s : State) : Option Nat × State :=
  let b := s.slotBytes slot
  let bad := env.badFlash.any (fun o => decide (slotBase slot ≤ o ∧ o < slotBase slot + b.length))
  let c := s.imageCause b bad (s.bit (skipBit slot))
  (c, noteSlot slot true c (imageVersion b) s)

/-- Stage 2 fails (R652, R676): the last image tried is named. -/
def noImage (causes : List Nat) (s : State) : State :=
  startFail (if causes ≠ [] ∧ causes.all (· == Img.key) then Neap.security else Neap.image) (causes.getLast?.getD Img.skipped) s

/-- Stage 2: image A and then image B (R653). -/
def stage2 (env : StartEnv) (s : State) : State :=
  let s := atStage 2 s
  if env.stall = some 2 then s
  else if s.bit F.hubBootAttemptsSkipA && s.bit F.hubBootAttemptsSkipB then noImage [] s
  else match trySlot env 0 s with
    | (none, s) => stage3 env (s.slotBytes 0) s
    | (some a, s) =>
      let s := s.setFld F.hubBootStatusImage 1
      match trySlot env 1 s with
      | (none, s) => stage3 env (s.slotBytes 1) (emitM Ev.imageFallback 0 0 a 0 0 s)
      | (some c, s) => noImage [a, c] s

/-- The first start in RETURN erases every slot that is owner-signed or does not verify (R691). -/
def returnErase (s : State) : State :=
  if s.sec.lc ≠ 4 ∨ s.sec.returnDone then s
  else
    let s := [0, 1].foldl (fun s slot =>
      let b := s.slotBytes slot
      if imageSigner b = 1 ∨ (s.imageCause b false false).isSome then eraseFlash (slotBase slot) slotMax s else s) s
    { s with sec := { s.sec with returnDone := true } }

/-- Stage 1 (R652, R660, R683, R693, R715): the counter applies before a start refused for heat, so that such a start counts. -/
def stage1 (env : StartEnv) (s : State) : State :=
  let s := { s with sec := mendOtp s.sec }
  let s := drawChallenge ((atStage 1 s).setFld F.hubRevCarrierRev s.sec.carrierRev)
  if s.sec.lc = 5 then startFail Neap.security 0 (eraseFlash 0 (2 * slotMax) s)
  else if !env.otpGood then startFail Neap.security 0 s
  else if s.fld F.hubBootAttemptsLimit ≤ s.fld F.hubBootAttemptsCount then enterNeap (s.fld F.hubBootLastReason) s
  else
    let s := s.setFld F.hubBootAttemptsCount (satAdd (s.fld F.hubBootAttemptsCount) 1 15)
    if env.hot then startFail Neap.thermal 0 s
    else if env.stall = some 1 then s
    else stage2 env (returnErase s)

/-! ## The boot attempt counter (R661, R705) -/

/-- COUNT and the skip flags clear. -/
def clearAttempts (s : State) : State := ((s.setFld F.hubBootAttemptsCount 0).setBit F.hubBootAttemptsSkipA false).setBit F.hubBootAttemptsSkipB false

/-- The rollback floor advances to the lower version of two valid images of one signer (R705). -/
def advanceFloor (s : State) : State :=
  let signer := fun slot => fieldAt (s.flash (slotBase slot) 8) 6 1
  if s.slotValid 0 && s.slotValid 1 && signer 0 == signer 1 then
    let f := s.floor (signer 0)
    let v := min (s.pair R.hubImageAVer) (s.pair R.hubImageBVer)
    if f.value < v ∧ 0 < f.left then
      let f : Floor := { value := v, left := f.left - 1 }
      if signer 0 = 0 then { s with sec := { s.sec with floorMaker := f } } else { s with sec := { s.sec with floorOwner := f } }
    else s
  else s

/-- BOOT_STABLE: 600 s in Ready with no fail-stop. -/
def bootStable (s : State) : State :=
  if s.ready && !s.failStopped && !s.boot.stable && decide (s.boot.readySince + 600000000000 ≤ s.time) then
    let s := (clearAttempts s).setFld F.hubBootAttemptsStableS 600
    advanceFloor { s with boot := { s.boot with stable := true } }
  else s

/-- A module in one of these states restarts when HUB_BOOT_CTRL.RESTART is written (R659). -/
def State.mayRestart (s : State) : Bool := s.stage == 9 || s.stage == 10 || s.fld F.fabStatusStage == 3 || s.failStopped

/-- HUB_BOOT_CTRL (R659, R661, R668). RESTART reads 1 from a write that is accepted until the restart; CLEAR acts at once and reads 0 again; a RESTART
that R659 ignores sets nothing (R9; log entry 97). -/
def effBootCtrl (v : Word) (s : State) : State :=
  let s := if v.getLsbD 1 then clearAttempts s else s
  if v.getLsbD 0 && s.mayRestart then { s.setBit F.hubBootCtrlRestart true with boot := { s.boot with restartDue := true } } else s

/-! ## The commands -/

/-- BAY_POWER_APPLIED (R50, R660). -/
def execBayPowerApplied (bay : Fin 16) (env : StartEnv) (s : State) : Host.Outcome State Fault Refusal := .next (stage1 env (powerOn bay env.torn s))

/-- MODULE_RESTART: a restart that is due runs (R658, R659). -/
def execModuleRestart (env : StartEnv) (s : State) : Host.Outcome State Fault Refusal :=
  .next (if s.boot.restartDue && s.boot.powered then stage1 env (restartState s) else s)

/-- The reason a stage that exceeds its limit fails with (R652, R667). -/
def execStartStageTimeout (s : State) : Host.Outcome State Fault Refusal :=
  .next (if decide (1 ≤ s.stage ∧ s.stage ≤ 5) && s.boot.powered && !s.boot.restartDue then startFail Neap.watchdog 0 s else s)

/-- START_LIMIT_TIMEOUT: 300 s. -/
def execStartLimitTimeout (s : State) : Host.Outcome State Fault Refusal :=
  .next (if decide (1 ≤ s.stage ∧ s.stage ≤ 7) && s.boot.powered && !s.boot.restartDue then startFail Neap.watchdog 0 s else s)

/-- TRAY_RECORD_TIMEOUT: no answer of the Lighthouse within 10 s (R615). -/
def execTrayRecordTimeout (s : State) : Host.Outcome State Fault Refusal :=
  .next (if s.stage = 6 ∧ ¬s.boot.restartDue then joinTray true s.peerRecord (answered false s.myBay 7 s) else s)

/-- MODULE_READY: `bodies` are the model bodies obtained from the Lighthouse since (R654, R655). -/
def execModuleReady (bodies : List (List Byte)) (s : State) : Host.Outcome State Fault Refusal :=
  .next (if s.stage ≠ 7 ∨ s.boot.restartDue then s
    else
      let s := obtain bodies s
      if s.modelsReady && s.fld F.timeStatusState != 2 && s.portsSteady then becomeReady s else s)

/-- SETTLE_TIMEOUT (R654, R655). -/
def execSettleTimeout (s : State) : Host.Outcome State Fault Refusal :=
  .next (if s.stage ≠ 7 ∨ s.boot.restartDue then s else if s.modelsReady then becomeReady s else startFail Neap.image 0 s)

/-- BOOT_STABLE. -/
def execBootStable (s : State) : Host.Outcome State Fault Refusal := .next (bootStable s)

/-- HUB_BOOT_RESTART: RESTART, with CLEAR beside it when `clear`. -/
def execHubBootRestart (path : Path) (clear : Bool) (s : State) : Host.Outcome State Fault Refusal :=
  .next (screen path R.hubBootCtrl 0xF#4 (effBootCtrl (if clear then 3 else 1)) s)

/-- HUB_BOOT_CLEAR. -/
def execHubBootClear (path : Path) (s : State) : Host.Outcome State Fault Refusal := .next (screen path R.hubBootCtrl 0xF#4 (effBootCtrl 2) s)

/-- FW_WATCHDOG_EXPIRY: the firmware runs from stage 3 on, except in Neap mode (R786). -/
def execFwWatchdogExpiry (s : State) : Host.Outcome State Fault Refusal :=
  .next (if s.pins.heartbeat && !s.boot.restartDue then failStop 0 0 1 s else s)

end Sys2Proof.Machine
end

