-- ==== Sys2Proof/Machine/Service.lean ====
section
/-! DEFINITION. Function-level resets (R225, R226), image updates (R669 to R675, R746), faults the hardware detects and their release
(R782 to R790), the fault policy (R791) and leaving the tray (R798, R799). -/

namespace Sys2Proof.Machine

/-! ## Function-level resets -/

/-- The commands whose descriptors a channel is about to drop end at their next DMA_WAIT, as after an error (R471; log entry 27). -/
def failOn (c : Nat) (s : State) : State :=
  let x := s.chan c
  let ids := x.queue.map QDesc.cmd ++ (x.run.bind DmaRun.cmd).toList
  let s := s.setChan c { x with failed := x.failed ++ ids.filter (fun i => !x.failed.contains i) }
  { s with disp := { s.disp with cmds := s.disp.cmds.map (fun y => (y.1, if ids.contains y.1 then { y.2 with hostErr := true } else y.2)) } }

/-- The jobs of a partition end, and the commands they have running; their cores are free (R561). -/
def dropJobs (p : Nat) (s : State) : State :=
  let jobs := (s.disp.jobs.filter (fun x => x.2.part == p)).map Prod.fst
  let gone := (s.disp.cmds.filter (fun x => match x.2.work with | .jobStep j => jobs.contains j | _ => false)).map Prod.fst
  let s := gone.foldl (fun s i => forgetCmd i s) s
  { s with disp := { s.disp with
      cmds := s.disp.cmds.filter (fun x => !gone.contains x.1)
      jobs := s.disp.jobs.filter (fun x => x.2.part != p)
      placed := s.disp.placed.filter (fun x => match x.work with | .job j => !jobs.contains j | _ => true)
      cores := s.disp.cores.map (fun (c : Nat × CoreState) => (c.1, { c.2 with cmd := c.2.cmd.filter (fun i => !gone.contains i), job := c.2.job.filter (fun i => !jobs.contains i) })) } }

/-- A VF FLR (R225): queues reset without records, jobs ended, host-opened streams closed as by ABORT, channels aborted. -/
def vfReset (p : Nat) (s : State) : State :=
  let s := settleModes (dropJobs p (flrQueue p s))
  let host := (s.streamsOf p).filter (fun x => x.2.standing.isNone)
  let s := host.foldl (fun s x => s.modStream x.1 (fun y => { y with closing := some 1 })) s
  let s := (s.channelsOf p).foldl (fun s c => abortChan c (failOn c s)) s
  settleParts (emit Ev.vfReset (some p) 1 p p host.length 0 s)

/-- A reset of PF0 (R226), with the power state it leaves (R218). A hot reset or a loss of the link trains the link again. -/
def pf0Reset (kind : Pf0Reset) (link : PcieLink) (s : State) : State :=
  let s := (s.disp.parts.map Prod.fst).foldl (fun s p => vfReset p s) s
  let s := flrQueue adminQ s
  let s := setD3hot (decide (kind = .d3hot)) (effEvqCfg (wset (s.reg R.evqCfg) 8 8 0) s)
  let s := if kind = .hotReset ∨ kind = .linkDown then trainPcie link s else s
  if kind = .flr then { s with host := { s.host with vfEnable := false } } else s

/-! ## Writing a slot (R670, R671) -/

/-- The erase of an image's extent. -/
def eraseExtent (slot n : Nat) (s : State) : State := eraseFlash (slotBase slot) (max 1 (ceilDiv n sector) * sector) s

/-- What a slot is after a write: its last verification, under R653. -/
def verifySlot (slot : Nat) (s : State) : Option Nat × State :=
  let b := s.slotBytes slot
  let c := s.imageCause b false false
  (c, noteSlot slot ((s.reg (imageReg slot)).getLsbD 30) c (imageVersion b) s)

/-- The slot is written whole and verified: its skip flag clears and the update is recorded (R671). -/
def slotWritten (slot : Nat) (s : State) : State :=
  let s := s.setBit (skipBit slot) false
  emitM Ev.imageUpdated 0 0 slot (imageVersion (s.slotBytes slot)) 0 s

/-- Steps 3 to 5 of R671: all but the first sector, the read-back, then the first sector and the whole slot. `ok` says that flash holds
what was programmed. The answer is whether the slot verified. -/
def programSlot (slot : Nat) (bytes digest : List Byte) (ok : Bool) (s : State) : Bool × State :=
  let s := programFlash (slotBase slot + sector) (bytes.drop sector) s
  if sha256 bytes != digest || !ok then (false, (verifySlot slot s).2)
  else
    let (c, s) := verifySlot slot (programFlash (slotBase slot) (bytes.take sector) s)
    if c.isNone then (true, slotWritten slot s) else (false, s)

/-- HUB_FLASH while a writer is at work. -/
def flashBusy (writer percent : Nat) (s : State) : State := s.setReg R.hubFlash (BitVec.ofNat 32 (2 ^ 31 + writer * 2 ^ 28 + percent))

/-- HUB_FLASH with no writer, its last percentage kept. -/
def flashIdle (s : State) : State := (s.setBit F.hubFlashBusy false).setFld F.hubFlashWriter 0

/-! ## IMAGE_UPDATE -/

/-- The descriptor breaks R669. -/
def updateBad (len : Nat) (d : List Byte) : Bool :=
  let n := fieldAt d 16 4
  len != 64 || decide (fieldAt d 0 1 > 1) || decide (fieldAt d 1 1 > 1) || !zeros ((d.drop 2).take 6) || fieldAt d 8 8 % 4096 != 0 ||
  !decide (256 ≤ n ∧ n ≤ slotMax) || !zeros ((d.drop 20).take 4) || !zeros ((d.drop 56).take 8)

/-- The status that refuses an update before the erase (R670, R692). -/
def State.updateCheck (s : State) (len : Nat) (d : List Byte) (image : HostRead) : Option Nat :=
  if updateBad len d then some St.format
  else if s.sec.lc ≠ 4 ∧ (¬s.slotValid (1 - fieldAt d 0 1) ∨ s.bit F.hubFlashBusy) then some St.state
  else match image.bytes? with
    | none => some St.hostRead
    | some b =>
      let b := b.take (fieldAt d 16 4)
      if sha256 b != (d.drop 24).take 32 || (s.imageCause b false false).isSome then some St.verify else none

/-- The update itself, once its checks have passed. -/
def writeImage (c : QCmd) (d : List Byte) (again : HostRead) (ok : Bool) (s : State) : State :=
  let slot := fieldAt d 0 1
  let n := fieldAt d 16 4
  let was := s.reg R.hubFlash
  let s := eraseExtent slot n s
  match again.bytes? with
  | none => completeCmd adminQ c.id St.hostRead 0 0 0 (verifySlot slot s).2
  | some b =>
    let (good, s) := programSlot slot (b.take n) ((d.drop 24).take 32) ok s
    let s := if was.getLsbD 31 then s else flashIdle (flashBusy 1 (if good then 100 else 0) s)
    if !good then completeCmd adminQ c.id St.verify 0 0 0 s
    else
      let s := completeCmd adminQ c.id St.ok 0 0 0 s
      if fieldAt d 1 1 = 1 ∧ s.mayRestart then { s with boot := { s.boot with restartDue := true } } else s

/-- IMAGE_UPDATE: `d` is the descriptor, `image` and `again` what the two reads of the image return, `flashOk` whether flash holds what
was programmed. -/
def execImageUpdate (q : Fin 65) (d image again : HostRead) (flashOk : Bool) (s : State) : Host.Outcome State Fault Refusal :=
  .next (beginCmd q 0x84 true d (fun c b s =>
    match s.updateCheck c.len b image with
    | some st => completeCmd q c.id st 0 0 0 s
    | none => writeImage c b again flashOk s) s)

/-! ## FAULT_POLICY_SET (R791) -/

/-- A bay stands declared lost that has neither rejoined nor announced LEAVING. -/
def State.anyLost (s : State) : Bool := s.fab.lost.any (fun b => s.stageOf b != 4)

/-- FAULT_POLICY_SET. -/
def execFaultPolicySet (q : Fin 65) (d : HostRead) (s : State) : Host.Outcome State Fault Refusal :=
  .next (beginCmd q 0x85 true d (fun c _ s =>
    let scope := c.arg0 % 2
    let t := c.arg1
    if t % 1000000 ≠ 0 ∨ t < s.time + 100000000 ∨ s.time + 60000000000 < t then completeCmd q c.id St.format 0 0 0 s
    else if !s.ready || s.failStopped || (scope == 1 && s.anyLost) then completeCmd q c.id St.state 0 0 0 s
    else completeCmd q c.id St.ok 0 0 0 (((s.setFld F.errScopePendingScope scope).setBit F.errScopePending true).setPair R.errScopeTime t)) s)

/-! ## Faults (R782) -/

/-- A fault that the hardware detects: its unit's FAULT register latches, and the module fail-stops or its start fails. -/
def hwFault (f : HwFault) (s : State) : State :=
  match f with
  | .me n c => meFault n c.toNat s
  | .ve n c => veFault n c.toNat s
  | .ru n c => ruFault n c.toNat s
  | .sp n c => spFault n c.toNat s
  | .pool c => tpFault c.toNat s
  | .dma c => dmaFault c.toNat s
  | .fabric c => unitFault R.fabFault 0xA 0 c.toNat c.toNat s
  | .security c => unitFault R.secFault 2 0 c.toNat c.toNat s
  | .memorySlots => unitFault R.mcFault 6 0 4 4 s
  | .hubParity => failStop 0 0 2 s

/-- FAIL_STOP. -/
def execFailStop (f : HwFault) (s : State) : Host.Outcome State Fault Refusal := .next (powered (fun s => hwFault f s) s)

/-! ## Release (R788 to R790) -/

/-- The cause of the fail-stop is marked 'After cooling'. -/
def State.heatCause (s : State) : Bool := s.fld F.errFsCauseEvent == 0x0D03

/-- R788 allows a release; `hot` says that a point of R729 it names is still in alarm. -/
def State.releasable (s : State) (hot : Bool) : Bool :=
  s.failStopped && !s.bit F.errScopeScope && s.fld F.errFsCauseEvent != 0x0204 && decide (s.fld F.errFsStatusCount24h < 3) && !(s.heatCause && hot)

/-- The FAULT registers of every unit. -/
def faultRegs : List Nat :=
  [R.secFault, R.dmaFault, R.mcFault, R.xlFault, R.tpFault, R.fabFault] ++
  (List.range 8).flatMap (fun n => [R.meFault n, R.veFault n, R.ruFault n, R.spFault n])

/-- Every on-chip memory of the compute dies and the state die is zeroed, with the chunk input and the checkpoint area; what stood there
is gone (R592, R708, R789). -/
def zeroDies (s : State) : State :=
  let s := s.zeroMem poolBase 0x1000_0000
  let s := (List.range 8).foldl (fun s n => s.zeroMem (spadPlace n) (2 ^ 25)) s
  let s := s.zeroDram (s.pair R.dmaChunkBase) 0x4000_0000
  let s := s.zeroDram s.ckptArea (s.fld F.tpCkptAreaCkptAreaMib * 2 ^ 20)
  let s := (List.range 8).foldl (fun s n => wipeCore n s) s
  poolSync { s with
    eng := []
    tide := { nextStep := s.tide.nextStep }
    dma := s.dma.map (fun (c : Nat × Chan) => (c.1, { c.2 with submitted := [], ended := [], tlb := [] }))
    disp := { s.disp with
      cores := s.disp.cores.map (fun c => (c.1, { excl := c.2.excl }))
      entries := s.disp.entries.map (fun e => (e.1, { e.2 with resident := [], loading := [], cmd := none })) } }

/-- Every stream descriptor, seat, page and run is released; one STREAM_CLOSED per handle. -/
def releaseStreams (s : State) : State :=
  let gone := s.strm.table
  let s := countStreams { s with strm := { s.strm with table := [], cohorts := [], standingOpened := false } }
  let s := (List.range 8).foldl (fun s n => portSync n s) s
  gone.foldl (fun s x => emit Ev.streamClosed (some x.2.par.part) 9 0 x.2.par.handle 2 0 s) s

/-- The record a released module compares with: the Lighthouse's, else a peer's (R615, R789; log entry 28). -/
def State.releaseRecord (s : State) : TrayRecord :=
  match (if s.lhUp then s.lhRecord else none) with
  | some r => r
  | none => s.peerRecord

/-- Partition queues fetch again, with the EN state they had. -/
def resumeQueues (s : State) : State := (s.host.queues.map Prod.fst).foldl (fun s q => issueFetch q s) s

/-- The release goes through (R789). -/
def release (c : QCmd) (s : State) : State :=
  let r := s.releaseRecord
  let s := (s.setReg R.errBist 0xC000_0000)
  let s := releaseStreams (zeroDies s)
  let s := (faultRegs.foldl (fun s o => s.setReg o 0) s).setBit F.errFsStatusActive false
  let s := { s with pins := { s.pins with faultN := false } }
  let s := (List.range 6).foldl (fun s l => trainStart l true (s.setReg (R.linkStatus l) 0)) s
  match s.disagrees r with
  | some k => completeCmd adminQ c.id St.state 0 0 0 (quarantine k (s.setPair R.fabTrayEpoch r.epoch))
  | none =>
    let s := { s with pins := { s.pins with ready := true }, boot := { s.boot with readySince := s.time, stable := false } }
    let s := emitM Ev.failstopReleased 0xC 0 0 0 0 s
    resumeQueues (retarget (completeCmd adminQ c.id St.ok 0 0 0 s))

/-- FAILSTOP_RELEASE: how its built-in test ends, and whether a point R788 names is still in alarm. -/
def execFailstopRelease (q : Fin 65) (d : HostRead) (test : ReleaseTest) (hot : Bool) (s : State) : Host.Outcome State Fault Refusal :=
  .next (beginCmd q 0x86 true d (fun c _ s =>
    if !s.releasable hot then completeCmd q c.id St.state 0 0 0 s
    else match test with
      | .unitFails u => completeCmd q c.id St.verify 0 0 0 (s.setReg R.errBist (BitVec.ofNat 32 (0x8000_0000 + u.toNat * 256)))
      | .newFault => completeCmd q c.id St.verify 0 0 0 (s.count F.errFsTotalFurther 1)
      | .pass => release c s) s)

/-- FAILSTOP_AGE_OUT: the oldest counted fail-stop is more than 86,400 s old by the MGMT clock, and is counted no more (R790; log
entry 29). -/
def execFailstopAgeOut (s : State) : Host.Outcome State Fault Refusal :=
  .next (let keep := s.boot.stops.drop 1
    if s.boot.stops.isEmpty then s
    else ({ s with boot := { s.boot with stops := keep } } : State).setFld F.errFsStatusCount24h (min 255 keep.length))

/-! ## LEAVE (R798, R799) -/

/-- ERR_SVC_CTRL.LEAVE from PF0. LEAVE reads 1 from an accepted write until a restart; one that is ignored leaves it (R9; log entry 97). -/
def effLeave (s : State) : State :=
  let err := if !s.ready || s.failStopped || s.fld F.fabStatusStage != 1 then 3
    else if !s.strm.table.isEmpty then 1
    else if !s.disp.jobs.isEmpty || !s.strm.cohorts.isEmpty then 2
    else 0
  let s := s.setFld F.errSvcStatusErr err
  if err ≠ 0 then s
  else
    let s := setStage 4 (((s.setBit F.errSvcCtrlLeave true).setBit F.errSvcStatusLeaving true).setBit F.errSvcStatusReleased s.tide.area.isEmpty)
    { s with pins := { s.pins with ready := false } }

/-- LEAVE. The module accepts it only from PF0; a write by the embedded hub controller is ignored. -/
def execLeave (path : Path) (s : State) : Host.Outcome State Fault Refusal :=
  .next (screen path R.errSvcCtrl 0xF#4 (fun s => if path = .pf0 then effLeave s else s) s)

/-! ## The resets -/

/-- VF_FLR. -/
def execVfFlr (p : Fin 64) (s : State) : Host.Outcome State Fault Refusal := .next (powered (fun s => vfReset p s) s)

/-- PF0_RESET. -/
def execPf0Reset (kind : Pf0Reset) (s : State) (link : PcieLink := {}) : Host.Outcome State Fault Refusal := .next (powered (fun s => pf0Reset kind link s) s)

end Sys2Proof.Machine
end

