-- ==== Sys2Proof/Machine/Security.lean ====
section
/-! DEFINITION. Keys, life-cycle steps, debug sessions, provisioning and the generator (R681 to R707). -/

namespace Sys2Proof.Machine

/-! ## KEY_INSTALL (R700 to R703) -/

/-- A text in ASCII. -/
def ascii (t : String) : List Byte := t.toList.map (fun c => BitVec.ofNat 8 c.toNat)

/-- A TARGET that the authorising key may install in the current state (R700). -/
def State.targetGood (s : State) (target : Nat) : Bool :=
  if target = 1 then s.sec.mayInstall s.sec.ownerGen
  else if target = 2 then s.sec.mayInstall s.sec.signGen
  else decide (0x10 ≤ target ∧ target < 0x50)

/-- The content of a wrapped key block, opened under an authorising key with an identifier; none where R702 refuses it. `partLow` is the
first TARGET whose COUNTER_START may differ from 0. -/
def openBlock (key : List Byte) (uid : Nat) (digest : Bool) (partLow : Nat) (b : List Byte) : Option (List Byte) :=
  let target := fieldAt b 0 1
  let wrap := hmacSha256 key (ascii "LMTX-WRAP" ++ leBytes 8 uid ++ leBytes 1 target)
  match gcmOpen wrap ((b.drop 16).take 12) (b.take 32) ((b.drop 32).take 48) ((b.drop 80).take 16) with
  | none => none
  | some x =>
    if !zeros ((b.drop 1).take 7) || !zeros ((b.drop 28).take 4) || (decide (target < partLow) && fieldAt b 8 8 != 0) then none
    else if digest then some x
    else if !zeros (x.drop 32) || zeros (x.take 32) then none
    else some (x.take 32)

/-- Install what a block held (R703). -/
def installKey (target start : Nat) (x : List Byte) (s : State) : State :=
  if target = 1 then { s with sec := { s.sec with owner := { present := true, bytes := x }, ownerGen := s.sec.ownerGen + 1 } }
  else if target = 2 then { s with sec := { s.sec with ownerDigest := x, signGen := s.sec.signGen + 1 } }
  else { s with sec := { s.sec with pkeys := tset s.sec.pkeys (target - 0x10) { present := true, bytes := x, ctr := start } } }

/-- KEY_INSTALL opens its block. -/
def keyInstall (c : QCmd) (b : List Byte) (s : State) : State :=
  let target := fieldAt b 0 1
  if c.len ≠ 96 then completeCmd adminQ c.id St.format 0 0 0 s
  else if !s.targetGood target then completeCmd adminQ c.id St.verify 0 0 0 s
  else match openBlock (s.key c.keySlot).bytes s.sec.uid (target == 2) 0x10 b with
    | none => completeCmd adminQ c.id St.verify 0 0 0 s
    | some x =>
      if (target = 1 ∧ !s.sec.rootLeft) ∨ (target = 2 ∧ !s.sec.digestLeft) then completeCmd adminQ c.id St.resource 0 0 0 s
      else if 0x10 ≤ target ∧ (s.partition (target - 0x10)).map Partition.state ≠ some .active then completeCmd adminQ c.id St.state 0 0 0 s
      else completeCmd adminQ c.id St.ok 0 0 0 (emit Ev.keyInstalled (keyPart target) 2 0 target 0 0 (installKey target (fieldAt b 8 8) x s))

/-- KEY_INSTALL. -/
def execKeyInstall (q : Fin 65) (d : HostRead) (s : State) : Host.Outcome State Fault Refusal :=
  .next (beginCmd q 0x82 true d (fun c b s => keyInstall c b s) s)

/-! ## LIFECYCLE_STEP (R686 to R690) -/

/-- The precondition of a step (R686). -/
def State.stepReady (s : State) (target : Nat) : Bool :=
  if target = 2 then s.sec.ownerGen == 1 && s.sec.signGen == 1
  else if target = 3 then [0, 1].any (fun slot => s.slotValid slot && imageSigner (s.flash (slotBase slot) 8) == 1)
  else true

/-- The owner's return authorisation is right (R689). -/
def State.returnGood (s : State) (counter : Nat) (b : List Byte) : Bool :=
  let key := b.take 96
  !s.sec.ownerDigest.isEmpty && sha384 key == s.sec.ownerDigest &&
  p384Verify key ((b.drop 96).take 96) (ascii "LMTX-RETURN" ++ leBytes 8 s.sec.uid ++ leBytes 8 counter)

/-- The debug session is open or closed; HUB_ALERT.DEBUG follows. -/
def setSession (on : Bool) (port : Nat) (s : State) : State :=
  ({ s with sec := { s.sec with session := on, sessionPort := port } } : State).setBit F.hubAlertDebug on

/-- A state bit is burned: the step takes effect (R688, R690, R716). -/
def burnState (target : Nat) (s : State) : State :=
  let old := s.sec.lc
  let s := setSession false 0 { s with sec := burnBits target 3 (destroyKeys target s.sec) }
  emitM Ev.lifecycleStep 2 0 old target 0 s

/-- LIFECYCLE_STEP once its key is checked. -/
def lifecycleStep (c : QCmd) (b : List Byte) (s : State) : State :=
  let target := c.arg0 % 256
  let done := fun (st : Nat) (s : State) => completeCmd adminQ c.id st 0 0 0 s
  if c.arg0 / 256 ≠ 0 ∨ (target = 4 ∧ stepListed s.sec.lc 4 ∧ c.len ≠ 192) then done St.format s
  else if !stepListed s.sec.lc target || !s.stepReady target then done St.state s
  else if target = 4 ∧ ¬s.returnGood c.counter b then done St.verify s
  else
    let s := done St.ok (burnState target s)
    if 4 ≤ target ∧ s.ready then failStop Ev.lifecycleStep 2 4 s else s

/-- LIFECYCLE_STEP. -/
def execLifecycleStep (q : Fin 65) (d : HostRead) (s : State) : Host.Outcome State Fault Refusal :=
  .next (beginCmd q 0x83 true d (fun c b s => lifecycleStep c b s) s)

/-! ## Debug sessions (R694 to R696) -/

/-- SEC_DEBUG. -/
def State.secDebug (s : State) : Word :=
  let always := s.sec.lc == 0 || s.sec.lc == 1 || (s.sec.lc == 4 && s.sec.returnDone)
  let by_ := fun p => always || (s.sec.lc == 2 && s.sec.session && s.sec.sessionPort == p)
  BitVec.ofNat 32 ((by_ 0).toNat + 2 * (by_ 1).toNat + 4 * (s.sec.lc == 2).toNat + 8 * s.sec.session.toNat + 16 * s.sec.lockout.toNat)

/-- The response as it stands in SEC_DBG_RESP0 to 7. -/
def State.response (s : State) : List Byte := (List.range 8).flatMap (fun i => leBytes 4 (s.reg (R.secDbgResp0 + 4 * i)).toNat)

/-- A write of SEC_DBG_RESP7 submits the response. -/
def effDebugResp (jtag : Bool) (v : Word) (s : State) : State :=
  let s := s.setReg R.secDbgResp7 v
  if s.sec.lockout then s
  else
    let good := s.sec.lc == 2 && s.response == hmacSha256 s.sec.owner.bytes (ascii "LMTX-DEBUG" ++ leBytes 8 s.sec.uid ++ s.sec.challenge)
    let s := drawChallenge s
    if s.sec.lc ≠ 2 then s
    else if good then
      let port := if jtag then 0 else 1
      emitM Ev.debugSession 2 0 port 0 0 (setSession true port { s with sec := { s.sec with wrong := 0 } })
    else { s with sec := { s.sec with wrong := s.sec.wrong + 1, lockout := decide (16 ≤ s.sec.wrong + 1) } }

/-- DEBUG_RESPONSE: written through IEEE 1149.1 or the debug port. -/
def execDebugResponse (jtag : Bool) (v : Word) (s : State) : Host.Outcome State Fault Refusal :=
  .next (screen .debug R.secDbgResp7 0xF#4 (effDebugResp jtag v) s)

/-! ## Provisioning and the generator (R687, R706) -/

/-- Burn bytes over bytes: a bit of OTP never returns to 0. -/
def burnBytes (old new : List Byte) : List Byte := (List.range new.length).map (fun i => old.getD i 0 ||| new.getD i 0)

/-- The provisioning interface in RAW. -/
def provision (item : OtpItem) (x : Sec) : Sec :=
  match item with
  | .uid v => { x with uid := Nat.lor x.uid v.toNat }
  | .makerKey k => { x with maker := { x.maker with present := true, bytes := burnBytes x.maker.bytes (k.take 32) } }
  | .makerDigest d => { x with makerDigest := burnBytes x.makerDigest (d.take 48) }
  | .burnMaker => burnBits 1 3 x

/-- SEC_OTP_PROG: ignored in every state but RAW. -/
def execSecOtpProg (item : OtpItem) (s : State) : Host.Outcome State Fault Refusal :=
  .next (if s.sec.lc = 0 ∧ s.boot.powered then { s with sec := provision item s.sec } else s)

/-- DRBG_RESEED. -/
def execDrbgReseed (s : State) : Host.Outcome State Fault Refusal := .next (powered (fun s => { s with sec := { s.sec with drbg := 0 } }) s)

end Sys2Proof.Machine
end

