-- ==== Sys2Proof/Machine/Power.lean ====
section
/-! DEFINITION. Temperature and power: warn and trip points, withholding (R677, R835 to R839, R852). -/

namespace Sys2Proof.Machine

/-- The sensor codes of R838. -/
def sensorCodes : List Nat := [0x00, 0x01, 0x10, 0x11, 0x12, 0x13] ++ (List.range 12).map (· + 0x20) ++ [0x30, 0x31, 0x32]

/-- What waits because work was withheld is looked at again once nothing is. -/
def resumeWork (s : State) : State := if s.withheld then s else pump (settlePins s)

/-- THERMAL_WARN: recorded once for a sensor (R839). -/
def thermalWarn (sensor temp : Nat) (s : State) : State :=
  if s.boot.warm.contains sensor || !sensorCodes.contains sensor || !s.boot.powered then s
  else
    let s := { s with boot := { s.boot with warm := s.boot.warm ++ [sensor] } }
    emitM Ev.thermalWarn 0xC 0 sensor temp 0 (s.setBit F.hubAlertThermal true)

/-- THERMAL_WARN_END. -/
def thermalWarnEnd (sensor : Nat) (s : State) : State :=
  if !s.boot.warm.contains sensor then s
  else
    let s := { s with boot := { s.boot with warm := s.boot.warm.filter (· ≠ sensor) } }
    resumeWork (s.setBit F.hubAlertThermal (!s.boot.warm.isEmpty))

/-- THERMAL_TRIP: THERMTRIP_N asserts, until power is removed, and the module fail-stops, or its start fails (R677, R782, R839). -/
def thermalTrip (sensor : Nat) (s : State) : State :=
  if !sensorCodes.contains sensor || !s.boot.powered then s
  else
    let s := emitM Ev.thermalTrip 0xC 0 sensor 0 0 { s with pins := { s.pins with thermtripN := true } }
    if s.stage ≤ 7 then (if s.boot.restartDue then s else startFail Neap.thermal 0 s) else failStop Ev.thermalTrip 0xC 2 s

/-- POWER_EVALUATION: the average over the last millisecond, in W (R836). -/
def powerEvaluation (avg : Nat) (s : State) : State :=
  if !s.boot.powered then s
  else if s.boot.powerLimit * 98 < avg * 100 then
    if s.bit F.hubAlertPower then s else emitM Ev.powerLimit 0xC 0 avg 0 0 (s.setBit F.hubAlertPower true)
  else if avg * 100 < s.boot.powerLimit * 95 ∧ s.bit F.hubAlertPower then resumeWork (s.setBit F.hubAlertPower false)
  else s

/-- THERMAL_WARN. -/
def execThermalWarn (sensor : Byte) (temp : BitVec 16) (s : State) : Host.Outcome State Fault Refusal := .next (thermalWarn sensor.toNat temp.toNat s)
/-- THERMAL_WARN_END. -/
def execThermalWarnEnd (sensor : Byte) (s : State) : Host.Outcome State Fault Refusal := .next (thermalWarnEnd sensor.toNat s)
/-- THERMAL_TRIP. -/
def execThermalTrip (sensor : Byte) (s : State) : Host.Outcome State Fault Refusal := .next (thermalTrip sensor.toNat s)
/-- POWER_EVALUATION. -/
def execPowerEvaluation (avg : BitVec 16) (s : State) : Host.Outcome State Fault Refusal := .next (powerEvaluation avg.toNat s)

end Sys2Proof.Machine
end

