-- ==== Sys2Proof/Machine/Mgmt.lean ====
section
/-! DEFINITION. The management link at the module's end: status, hashes, and the re-flash of its slots (R722 to R724, R744, R746). -/

namespace Sys2Proof.Machine

/-- The answer codes of R723. -/
abbrev Mg.ok : Nat := 0
abbrev Mg.refused : Nat := 1
abbrev Mg.busy : Nat := 2
abbrev Mg.badArg : Nat := 3
abbrev Mg.notFound : Nat := 4
abbrev Mg.flashErr : Nat := 5

/-- The module of this bay answers a request: a module without power does not. -/
def answerFrame (op tag status : Nat) (body : List Byte) (s : State) : State :=
  if s.boot.powered then sendFrame { fromLh := false, bay := s.myBay, op := op + 0x80, tag := tag, status := status, body := body } s else s

/-- What STATUS_GET answers now. -/
def State.report (s : State) : BayStatus := s.statusNow s.secDebug

/-- What HASH_GET answers for a slot: the digest is over the slot's LENGTH bytes. -/
def State.slotHash (s : State) (slot : Nat) : SlotHash where
  valid := s.slotValid slot
  version := BitVec.ofNat 64 (imageVersion (s.flash (slotBase slot) 256))
  digest := sha256 (s.slotBytes slot)

/-- The 48 bytes of a HASH_GET answer. -/
def hashBytes (h : SlotHash) : List Byte := leBytes 1 h.valid.toNat ++ List.replicate 7 0 ++ leBytes 8 h.version.toNat ++ h.digest

/-- REG_WRITE at the module (R724): only HUB_BOOT_CTRL; any other is refused, after the conditions of R865 that stand before the path. The
answer's status beside the state. -/
def mgmtWrite (off : Nat) (v : Word) (s : State) : Nat × State :=
  if off = R.hubBootCtrl then (Mg.ok, effBootCtrl v s)
  else (Mg.refused, screen .mgmt off 0xF#4 id s)

/-! ## Re-flash (R746) -/

/-- REFLASH_BEGIN: answered BUSY while flash is being written. -/
def reflashBegin (slot len : Nat) (digest : List Byte) (s : State) : Nat × State :=
  if s.bit F.hubFlashBusy then (Mg.busy, s)
  else if 1 < slot ∨ len < 256 ∨ slotMax < len then (Mg.badArg, s)
  else (Mg.ok, flashBusy 2 0 { s with boot := { s.boot with reflash := some { slot := slot, len := len, digest := digest } } })

/-- The re-flash is over. -/
def reflashOver (s : State) : State := flashIdle { s with boot := { s.boot with reflash := none } }

/-- The first pass is complete: the image is checked, and the slot erased (R671). -/
def firstPass (r : Reflash) (s : State) : Nat × State :=
  if sha256 r.data != r.digest || (s.imageCause r.data false false).isSome then (Mg.refused, reflashOver s)
  else (Mg.ok, eraseExtent r.slot r.len { s with boot := { s.boot with reflash := some { r with second := true, data := [] } } })

/-- The second pass is complete: the slot is programmed and verified. -/
def secondPass (r : Reflash) (ok : Bool) (s : State) : Nat × State :=
  let (good, s) := programSlot r.slot r.data r.digest ok s
  (if good then Mg.ok else Mg.flashErr, reflashOver (if good then s.setFld F.hubFlashPercent 100 else s))

/-- REFLASH_DATA: bytes in ascending order; `ok` says that flash holds what is programmed at the end. -/
def reflashData (bytes : List Byte) (ok : Bool) (s : State) : Nat × State :=
  match s.boot.reflash with
  | none => (Mg.refused, s)
  | some r =>
    if bytes.isEmpty || decide (4096 < bytes.length) || decide (r.len < r.data.length + bytes.length) then (Mg.badArg, s)
    else
      let r := { r with data := r.data ++ bytes }
      if r.data.length < r.len then
        (Mg.ok, flashBusy 2 (if r.second then r.data.length * 100 / r.len else 0) { s with boot := { s.boot with reflash := some r } })
      else if r.second then secondPass r ok s
      else firstPass r s

/-- No REFLASH_DATA for 5 s: the write is abandoned as a failure; a slot already erased does not verify. -/
def reflashAbandon (s : State) : State :=
  match s.boot.reflash with
  | none => s
  | some r => reflashOver (if r.second then (verifySlot r.slot s).2 else s)

end Sys2Proof.Machine
end

