-- ==== Sys2Proof/Machine/Lighthouse.lean ====
section
/-! DEFINITION. The Lighthouse and its bays: switches, signals, slot hashes, re-flash, and what it does on its own (R726 to R728, R737 to
R740, R744 to R747, R755 to R757, R771 to R779, R801, R802). -/

namespace Sys2Proof.Machine

/-! ## Policy and silence (R753, R755, R757) -/

/-- A byte of the policy block. -/
def State.policyByte (s : State) (i : Nat) : Nat := wfield (s.lhReg (R.lhPolicy0 + i / 4 * 4)) (8 * (i % 4) + 7) (8 * (i % 4))

/-- Two bytes of the policy block. -/
def State.policyHalf (s : State) (i : Nat) : Nat := s.policyByte i + 256 * s.policyByte (i + 1)

/-- An action governed by a setting is taken now: 2 ALWAYS, 1 SILENT while both are silent. -/
def State.allowed (s : State) (mode : Nat) : Bool := mode == 2 || (mode == 1 && s.lhBit F.lhStatusHostSilent && s.lhBit F.lhStatusRackSilent)

/-- A row of R756 no longer waits at a bay. -/
def covered (bay : Nat) (rows : List Nat) (s : State) : State :=
  s.setLhBay bay { s.lhBay bay with waiting := (s.lhBay bay).waiting.filter (fun r => !rows.contains r) }

/-- A governed action: taken at once, or recorded as pending once. -/
def governed (mode row bay : Nat) (k : State → State) (s : State) : State :=
  if s.allowed mode then k (covered bay [row] s)
  else if mode ≠ 1 ∨ (s.lhBay bay).waiting.contains row then s
  else emitBay Ev.lhActionPending bay row 0 0 (s.setLhBay bay { s.lhBay bay with waiting := (s.lhBay bay).waiting ++ [row] })

/-! ## Completion of a command (R749, R760) -/

/-- The completion record of a Lighthouse command. -/
def lhRecordOf (c : LhCmd) (status value time : Nat) : List Byte :=
  ({ kind := 1, status := status, cmdId := fieldAt c.raw 2 2, value := value, done := time } : Result).bytes false

/-- The opcodes the Lighthouse implements (R751). -/
def lhOpcodes : List Nat := [0x00, 0x61, 0x88, 0x89, 0x8A, 0x8B, 0x8C, 0x8D, 0x8E, 0x8F]

/-- A command of the Lighthouse as a command record. -/
def LhCmd.cmd (c : LhCmd) : QCmd := { id := 0, slot := 0, raw := c.raw, doorbell := 0, begun := false }

/-- Checks 1 to 3 of R245, or the checks of a plain command, at the Lighthouse. -/
def lhForm (c : QCmd) : Option Nat :=
  let listed := lhOpcodes.contains c.opcode
  if bitsOf c.flags 7 3 ≠ 0 then some St.format
  else if !c.isCritical then (if listed then none else some St.opcode)
  else if (c.critical ∧ (fieldAt c.raw 73 7 ≠ 0 ∨ c.raw.length < 128)) ∨ c.len > 4096 then some St.format
  else if c.critical ≠ decide (0x80 ≤ c.opcode ∧ c.opcode ≤ 0xBF) then some St.critical
  else if listed then none
  else some St.opcode

/-- The command at the head leaves with its record: at MB_RESP with vector 0, or through Redfish. -/
def lhFinish (status value : Nat) (s : State) : State :=
  match s.lh.queue with
  | [] => s
  | c :: rest =>
    let r := lhRecordOf c status value s.lh.time
    let s := { s with lh := { s.lh with queue := rest, held := none } }
    if c.rack then { s with lh := { s.lh with returned := s.lh.returned ++ [r] } }
    else
      let s := (List.range 16).foldl (fun s i => s.setLhReg (R.mbResp0 + 4 * i) (BitVec.ofNat 32 (fieldAt r (4 * i) 4))) s
      onLhQueue (fireVector 0 0) ((s.setLhBit F.mbStatusDone true).setLhBit F.mbStatusBusy false)

/-- Commands at the head that no row takes are refused: their opcode is not implemented. The first number is fuel. -/
def lhAdvance : Nat → State → State
  | 0, s => s
  | n + 1, s =>
    match s.lh.queue with
    | [] => s
    | c :: _ =>
      if s.lh.held.isSome || lhOpcodes.contains c.cmd.opcode then s
      else lhAdvance n (lhFinish ((lhForm c.cmd).getD St.opcode) 0 s)

/-- The command at the head completes, and the next one stands at the head. -/
def lhComplete (status value : Nat) (s : State) : State :=
  let s := lhFinish status value s
  lhAdvance s.lh.queue.length s

/-- A CYCLE completes once no bay it named is off for its 2 s. -/
def cycleOver (s : State) : State :=
  match s.lh.held, s.lh.queue.head? with
  | some v, some c =>
    if c.cmd.opcode = 0x88 ∧ ¬s.lh.bays.any (fun (x : Nat × LhBay) => x.2.cycling == some 0) then lhComplete St.ok v s else s
  | _, _ => s

/-! ## Re-flash at the Lighthouse's end (R745 to R747) -/

/-- Nanoseconds of an hour. -/
def hourNs : Nat := 3600000000000

/-- Re-flashes of a bay begun within the last hour. -/
def State.triesNow (s : State) (bay : Nat) : Nat := ((s.lhBay bay).tries.filter (fun t => decide (s.lh.time < t + hourNs))).length

/-- A status is of the bay's own module as it stands, or as last reported. -/
def State.statusOf (s : State) (bay : Nat) : Option BayStatus := if bay = s.myBay then some s.report else (s.lhBay bay).status

/-- A slot of a bay holds a valid image, as far as is known. -/
def State.slotGood (s : State) (bay slot : Nat) : Bool :=
  if bay = s.myBay then s.slotValid slot else ((tfind (s.lhBay bay).hashes slot).map SlotHash.valid).getD false

/-- A slot of a bay is classed MATCH. -/
def State.slotMatch (s : State) (bay slot : Nat) : Bool := Nat.testBit (s.lhFld (F.lhBayStateMatch bay)) slot

/-- The slot in use, by a status. -/
def usedSlot (st : BayStatus) : Nat := wfield st.boot 4 4

/-- The slot a bay with FAULT_N asserted is to be written in (R745). -/
def State.faultSlot (s : State) (bay : Nat) (st : BayStatus) : Option Nat :=
  let stage := wfield st.boot 3 0
  let q := wfield st.fab F.fabStatusQcause.hi F.fabStatusQcause.lo
  if stage = 10 ∧ wfield st.neap 7 0 = Neap.image then some (if s.slotGood bay 0 then 1 else 0)
  else if stage = 9 ∧ (q = 1 ∨ q = 2) then some (usedSlot st)
  else none

/-- The slot of a Ready module that is to be written: known, not MATCH and not in use. -/
def State.readySlot (s : State) (bay : Nat) (st : BayStatus) : Option Nat :=
  if wfield st.boot 3 0 = 8 ∧ ¬(s.lhBay bay).faulted then
    [0, 1].find? (fun i => i != usedSlot st && !s.slotMatch bay i && (tfind (s.lhBay bay).hashes i).isSome)
  else none

/-- A re-flash is started. -/
def startJob (bay slot : Nat) (restart cmd : Bool) (s : State) : State :=
  let s := s.setLhBay bay { s.lhBay bay with job := some { slot := slot, image := s.lh.current, restart := restart, cmd := cmd } }
  let s := (s.setLhFld (F.lhBayStateReflash bay) 1).setLhFld (F.lhBayReflashPercent bay) 0
  emitBay Ev.lhReflashStart bay slot 0 0 s

/-- The Lighthouse starts a re-flash on its own, within the limits of R747. -/
def autoFlash (bay slot : Nat) (restart : Bool) (s : State) : State :=
  let x := s.lhBay bay
  if x.job.isSome || decide (3 ≤ x.fails) || decide (3 ≤ s.triesNow bay) || s.lh.current.isEmpty then s else startJob bay slot restart false s

/-- A re-flash ends: how LH_BAY_REFLASH shows it, 2 done, 3 failed. -/
def finishJob (bay code : Nat) (s : State) : State :=
  (s.setLhBay bay { s.lhBay bay with job := none }).setLhFld (F.lhBayStateReflash bay) code

/-- LH_REFLASH completes as failed: the manual states no status for it, so it is a free one, not 0. -/
def completeFailed (s : State) : State := lhComplete (1 + s.freeNow % 15) 0 s.freeNext

/-- A re-flash ends with REFLASH_FAILED. -/
def flashLost (bay : Nat) (j : FlashJob) (word : Nat) (s : State) : State :=
  let s := emitBay Ev.lhReflashFailed bay j.slot word 0 (finishJob bay 3 s)
  if j.cmd then completeFailed s else s

/-- An attempt failed: a commanded one ends; of the Lighthouse's own, three end it. -/
def flashFailed (bay : Nat) (j : FlashJob) (status : Nat) (s : State) : State :=
  if j.cmd then flashLost bay j status s
  else
    let n := (s.lhBay bay).fails + 1
    let s := s.setLhBay bay { s.lhBay bay with fails := n, job := some { j with begun := false, second := false, sent := 0, busy := false } }
    if 3 ≤ n ∨ 3 ≤ s.triesNow bay then flashLost bay j 0xFF s else s

/-- The slot is written and verified. -/
def flashDone (bay : Nat) (j : FlashJob) (s : State) : State :=
  let s := s.setLhBay bay { s.lhBay bay with fails := 0 }
  let s := emitBay Ev.lhReflashDone bay j.slot (imageVersion j.image) 0 ((finishJob bay 2 s).setLhFld (F.lhBayReflashPercent bay) 100)
  let s := if j.restart then
      let s := sendFrame { fromLh := true, bay := bay, op := 2, arg := R.hubBootCtrl, body := leBytes 4 3 } s
      if bay = s.myBay then effBootCtrl 3 s else s
    else s
  if j.cmd then lhComplete St.ok 0 s else s

/-- At most four re-flashes run at once, begun in ascending order of bays. -/
def State.mayBegin (s : State) (bay : Nat) : Bool :=
  let jobs := s.lh.bays.filterMap (fun x => x.2.job.map (fun j => (x.1, j)))
  decide ((jobs.filter (fun x => x.2.begun)).length < 4) && !jobs.any (fun x => decide (x.1 < bay) && !x.2.begun && !x.2.busy)

/-- REFLASH_BEGIN is sent: `answer` is what another bay answers. -/
def sendBegin (bay answer : Nat) (s : State) : State :=
  match (s.lhBay bay).job with
  | none => s
  | some j =>
    if !s.lhUp || j.begun || !s.mayBegin bay || (bay == s.myBay && !s.boot.powered) then s
    else
      let digest := sha256 j.image
      let s := sendFrame { fromLh := true, bay := bay, op := 5, arg := j.slot, body := leBytes 4 j.image.length ++ digest } s
      let r := if bay = s.myBay then reflashBegin j.slot j.image.length digest s else (answer, s)
      let s := if bay = s.myBay then answerFrame 5 0 r.1 [] r.2 else r.2
      if r.1 = Mg.ok then
        let s := s.setLhBay bay { s.lhBay bay with job := some { j with begun := true, busy := false }, tries := (s.lhBay bay).tries ++ [s.lh.time] }
        s.setLhFld (F.lhBayReflashAttempts bay) (min 255 (s.triesNow bay))
      else if r.1 = Mg.busy then s.setLhBay bay { s.lhBay bay with job := some { j with busy := true } }
      else flashFailed bay j r.1 s

/-- The next bytes of a pass are sent. -/
def sendData (bay len : Nat) (ok : Bool) (answer : Nat) (s : State) : State :=
  match (s.lhBay bay).job with
  | none => s
  | some j =>
    let bytes := (j.image.drop j.sent).take (min len 4096)
    if !s.lhUp || !j.begun || bytes.isEmpty || (bay == s.myBay && !s.boot.powered) then s
    else
      let s := sendFrame { fromLh := true, bay := bay, op := 6, arg := j.sent, body := bytes } s
      let r := if bay = s.myBay then reflashData bytes ok s else (answer, s)
      let s := if bay = s.myBay then answerFrame 6 0 r.1 [] r.2 else r.2
      let n := j.sent + bytes.length
      if r.1 ≠ Mg.ok then flashFailed bay j r.1 s
      else if n < j.image.length then
        (s.setLhBay bay { s.lhBay bay with job := some { j with sent := n } }).setLhFld (F.lhBayReflashPercent bay) (if j.second then n * 100 / j.image.length else 0)
      else if j.second then flashDone bay j s
      else s.setLhBay bay { s.lhBay bay with job := some { j with second := true, sent := 0 } }

/-! ## Switches (R738 to R740) -/

/-- The points of a module, which are not VALID while its bay has no power (R729). -/
def clearPoints (bay : Nat) (s : State) : State := (List.range 16).foldl (fun s i => s.setLhReg (R.lhPt (bay * 20 + 3 + i)) 0) s

/-- A bay has no power any more: what the Lighthouse shows of its module ends. -/
def darkBay (bay : Nat) (s : State) : State :=
  let s := clearPoints bay (s.setLhReg (R.lhBayState bay) (s.lhReg (R.lhBayState bay) &&& 0xC000FF03#32))
  let s := if bay = s.myBay then powerOff s else s
  s.setLhBay bay { s.lhBay bay with hbLost := false, faulted := false, status := none, hashes := [] }

/-- A re-flash under way in a bay without power is lost (R773, R777): the manual states no STATUS for it, so it is a free one. -/
def loseJob (bay : Nat) (s : State) : State :=
  match (s.lhBay bay).job with
  | some j => flashLost bay j (s.freeNow % 256) s.freeNext
  | none => s

/-- A bay's switch opens, with the cause BAY_POWER shows; a re-flash under way there is lost. -/
def openSwitch (bay cause : Nat) (s : State) : State :=
  if !s.lhBit (F.lhBayStatePowered bay) then (if bay == s.myBay && s.boot.powered then powerOff s else s)
  else loseJob bay (emitBay Ev.lhBayPower bay 0 cause 0 (darkBay bay s))

/-- Input power is lost: no bay has power, and no switch has opened (R767, R834, R856). -/
def inputLost (s : State) : State :=
  let s := if s.boot.powered && !s.lhBit (F.lhBayStatePowered s.myBay) then powerOff s else s
  (List.range 16).foldl (fun s b => if s.lhBit (F.lhBayStatePowered b) then loseJob b (darkBay b s) else s) s

/-- A switch may close (R739, R774). -/
def State.mayClose (s : State) (bay : Nat) : Bool := (s.lhBay bay).steady && !s.bw.tripped && !(bay == s.myBay && s.pins.thermtripN)

/-- A bay's switch closes, where R739 allows. -/
def closeSwitch (bay cause : Nat) (s : State) : State :=
  if s.lhBit (F.lhBayStatePowered bay) || !s.mayClose bay then s
  else
    let s := s.setLhBay bay { s.lhBay bay with manual := false, cycling := none }
    emitBay Ev.lhBayPower bay 1 cause 0 ((s.setLhBit (F.lhBayStatePowered bay) true).setLhBit (F.lhBayStateThermtrip bay) false)

/-- A bay is powered off for 2 s. -/
def cycleBay (bay cause : Nat) (s : State) : State :=
  if s.lhBit (F.lhBayStatePowered bay) then
    let s := openSwitch bay cause s
    covered bay [2] (s.setLhBay bay { s.lhBay bay with cycling := some cause })
  else s

/-! ## Status and hashes -/

/-- A status is kept: its stage shows, and a debug session that has opened is recorded (R761). -/
def noteStatus (bay : Nat) (st : BayStatus) (s : State) : State :=
  let was := ((s.lhBay bay).status.map (fun x => x.sessions.getLsbD 3)).getD false
  let s := s.setLhBay bay { s.lhBay bay with status := some st }
  let s := s.setLhFld (F.lhBayStateStage bay) (wfield st.boot 3 0)
  if st.sessions.getLsbD 3 && !was then emitBay Ev.lhDebugOpen bay (if st.sessions.getLsbD 1 then 1 else 0) 0 0 s else s

/-- A slot is classed against the golden image; one that is VALID and not MATCH is recorded, and re-flashed where R756 has it. -/
def noteHash (bay slot : Nat) (h : SlotHash) (s : State) : State :=
  let good := h.valid && !s.lh.current.isEmpty && h.digest == sha256 s.lh.current
  let m := s.lhFld (F.lhBayStateMatch bay)
  let s := s.setLhFld (F.lhBayStateMatch bay) (if good then Nat.lor m (2 ^ slot) else if Nat.testBit m slot then m - 2 ^ slot else m)
  let s := s.setLhBay bay { s.lhBay bay with hashes := tset (s.lhBay bay).hashes slot h }
  if !h.valid || good then s
  else
    let s := emitBay Ev.lhHashMismatch bay slot h.version.toNat 0 s
    match s.statusOf bay with
    | some st => if s.readySlot bay st = some slot then governed (s.policyByte 0) 4 bay (autoFlash bay slot false) s else s
    | none => s

/-- The slots of a powered bay are hashed: this module's as they stand, another's as reported. -/
def hashBay (hashes : List BayHash) (bay : Nat) (s : State) : State :=
  if !s.lhBit (F.lhBayStatePowered bay) then s
  else if bay = s.myBay then (if s.boot.powered then [0, 1].foldl (fun s i => noteHash bay i (s.slotHash i) s) s else s)
  else (hashes.filter (fun h => h.bay.val == bay)).foldl (fun s h => noteHash bay h.slot h.hash s) s

/-- The status of a bay that reports: this module's as it stands. -/
def State.heardStatus (s : State) (bay : Nat) (st : BayStatus) : BayStatus := if bay = s.myBay then s.report else st

/-! ## Signals (R726 to R728, R756) -/

/-- A bay whose signals are sampled: the Lighthouse runs and the bay has power. -/
def State.watched (s : State) (bay : Nat) : Bool := s.lhUp && s.lhBit (F.lhBayStatePowered bay) && (bay != s.myBay || s.boot.powered)

/-- What a FAULT_N that R745 re-flashes leads to. -/
def faultFlash (bay : Nat) (s : State) : State :=
  match s.statusOf bay with
  | some st => match s.faultSlot bay st with
    | some slot => autoFlash bay slot true s
    | none => s
  | none => s

/-- MODULE_FAULT. -/
def moduleFault (bay : Nat) (st : BayStatus) (s : State) : State :=
  if !s.watched bay || (bay == s.myBay && !s.pins.faultN) then s
  else
    let st := s.heardStatus bay st
    let s := noteStatus bay st ((s.setLhBay bay { s.lhBay bay with faulted := true }).setLhBit (F.lhBayStateFault bay) true)
    let s := emitBay Ev.lhModuleFault bay st.boot.toNat st.neap.toNat st.fab.toNat s
    if (s.faultSlot bay st).isSome then governed (s.policyByte 0) 3 bay (faultFlash bay) s else s

/-- MODULE_ALERT. -/
def moduleAlert (bay : Nat) (st : BayStatus) (s : State) : State :=
  let st := s.heardStatus bay st
  if !s.watched bay || st.alert == 0 then s
  else emitBay Ev.lhModuleAlert bay st.alert.toNat 0 0 (noteStatus bay st (s.setLhBit (F.lhBayStateAlert bay) true))

/-- HEARTBEAT_LOST: once per episode. -/
def heartbeatLost (bay : Nat) (s : State) : State :=
  if !s.watched bay || (s.lhBay bay).hbLost || (bay == s.myBay && !s.pins.ready) then s
  else emitBay Ev.lhHeartbeatLost bay 0 0 0 ((s.setLhBay bay { s.lhBay bay with hbLost := true }).setLhBit (F.lhBayStateHbOk bay) false)

/-- FAULT_N of a bay is asserted. -/
def State.faultNow (s : State) (bay : Nat) : Bool := if bay = s.myBay then s.pins.faultN else (s.lhBay bay).faulted

/-- HB_RESTART_TIMEOUT: never on a bay with FAULT_N asserted (R776). -/
def hbRestart (bay : Nat) (s : State) : State :=
  if !s.watched bay || !(s.lhBay bay).hbLost || s.faultNow bay then s
  else governed (s.policyByte 1) 2 bay (cycleBay bay 4) s

/-- SILENCE_BEGIN: what waits for silence at a bay is done. -/
def takePending (s : State) (bay : Nat) : State :=
  (s.lhBay bay).waiting.foldl (fun s row =>
    let s := covered bay [row] s
    if row = 2 then (if (s.lhBay bay).hbLost && !s.faultNow bay then cycleBay bay 4 s else s)
    else if row = 3 then faultFlash bay s
    else match s.statusOf bay with
      | some st => match s.readySlot bay st with
        | some slot => autoFlash bay slot false s
        | none => s
      | none => s) s

/-- The host, the rack manager, or both have become silent. -/
def silenceBegin (host rack : Bool) (s : State) : State :=
  if !s.lhUp then s
  else
    let s := if host then s.setLhBit F.lhStatusHostSilent true else s
    let s := if rack then s.setLhBit F.lhStatusRackSilent true else s
    if s.allowed 1 then (List.range 16).foldl takePending s else s

/-! ## Presence (R738, R739, R777, R802) -/

/-- BAY_PRESENCE_CHANGE: the backplane opens the switch of a bay whose presence pin deasserts, and DPC contains its port, whether or not
the Lighthouse runs. -/
def presenceChange (bay : Nat) (present : Bool) (s : State) : State :=
  if s.lhBit (F.lhBayStatePresent bay) == present && !(!present && bay == s.myBay && s.boot.powered) then s
  else
    let s := s.setLhBit (F.lhBayStatePresent bay) present
    let s := emitBay Ev.lhBayPresent bay present.toNat 0 0 s
    if present then s.setLhBay bay { s.lhBay bay with steady := false, manual := false, cycling := none, fails := 0, waiting := [] }
    else cycleOver (openSwitch bay 5 (containPort bay <| (s.setLhBay bay { s.lhBay bay with steady := false, cycling := none }).setLhBit (F.lhBayStateSeated bay) false))

/-- BAY_STABLE: presence and seating have stood for 5 s. -/
def bayStable (bay : Nat) (s : State) : State :=
  if !s.lhUp || !s.lhBit (F.lhBayStatePresent bay) || (s.lhBay bay).steady then s
  else
    let s := (s.setLhBay bay { s.lhBay bay with steady := true }).setLhBit (F.lhBayStateSeated bay) true
    if s.policyByte 2 = 1 ∧ ¬(s.lhBay bay).manual ∧ (s.lhBay bay).cycling.isNone then closeSwitch bay 1 s else s

/-- THERMTRIP_OPEN. -/
def thermtripOpen (bay : Nat) (s : State) : State :=
  if (!s.lhBit (F.lhBayStatePowered bay) && !(bay == s.myBay && s.boot.powered)) || (bay == s.myBay && !s.pins.thermtripN) then s
  else
    let s := emitBay Ev.lhThermtrip bay 0 0 0 (s.setLhBay bay { s.lhBay bay with manual := true })
    (openSwitch bay 2 s).setLhBit (F.lhBayStateThermtrip bay) true

/-! ## The Lighthouse's own start and stop (R721, R736, R737) -/

/-- The reset of the mailbox and the event queue: what the mailbox had waiting is gone, its vectors too. -/
def lhFunctionReset (s : State) : State :=
  { s with
    lhRegs := s.lhRegs.filter (fun r => !decide (0x1000 ≤ r.1 ∧ r.1 < 0x1140) && !decide (0x2000 ≤ r.1 ∧ r.1 < 0x2040))
    lh := { s.lh with
      queue := s.lh.queue.filter LhCmd.rack
      held := if (s.lh.queue.head?.map LhCmd.rack).getD false then s.lh.held else none
      bays := s.lh.bays.map (fun (x : Nat × LhBay) => (x.1, { x.2 with job := x.2.job.map (fun j => { j with cmd := j.cmd && (s.lh.queue.head?.map LhCmd.rack).getD false }) }))
      host := { ownUnit := 0xF0, ownInst := 0xFF } } }

/-- Registers that hold what the backplane or the configuration region keeps when the Lighthouse stops. -/
def lhKept (off : Nat) : Bool := decide (0x04 ≤ off ∧ off < 0x10) || decide (0x20 ≤ off ∧ off < 0x90) || off == 0x10

/-- The firmware level of the Lighthouse. -/
def State.lhLevel (s : State) : Nat := wfield (s.lhReg R.lhRev) 15 0

/-- LH_START: every latch is adopted, volatile state begins afresh, each bay's state is rebuilt, and flash is verified. -/
def lhStart (reports : List BayReport) (hashes : List BayHash) (s : State) : State :=
  let wd := s.lhBit F.lhStatusWdExpired
  let bayBits := (List.range 16).map (fun b => (R.lhBayState b, s.lhReg (R.lhBayState b) &&& 0xE0000000#32))
  let s := lhFunctionReset { s with lh := { s.lh with queue := [], held := none } }
  let s := { s with
    lhRegs := s.lhRegs.filter (fun r => lhKept r.1)
    lh := { s.lh with
      staging := none, ms := [], secs := [], trayHigh := false, failed := [], settling := [], asked := s.lh.asked.filter (fun a => !a.1.fromLh), grace := false, lhDown := false, fwUsed := s.lh.fwNext
      bays := s.lh.bays.map (fun (x : Nat × LhBay) => (x.1, { manual := x.2.manual, tries := x.2.tries })) } }
  let s := bayBits.foldl (fun s r => s.setLhReg r.1 r.2) s
  let s := if s.boot.powered then ((s.setLhBit (F.lhBayStatePresent s.myBay) true).setLhBit (F.lhBayStateSeated s.myBay) true).setLhBit (F.lhBayStatePowered s.myBay) true else s
  let s := ((s.setLhBit F.lhStatusRunning true).setLhBit F.lhStatusHostSilent false).setLhBit F.lhStatusRackSilent false
  let s := emitLh Ev.lhStarted 0xF0 0xFF s.lhLevel wd.toNat 0 s
  let s := if s.bw.tripped && !s.bw.seen then
      emitLh Ev.bwTrip 0xF1 0xFF s.bw.atTrip 0xFFFFFFFF 0 { s with bw := { s.bw with seen := true } }
    else s
  let s := (reports.filter (fun r => r.bay.val != s.myBay && s.lhBit (F.lhBayStatePowered r.bay))).foldl (fun s r => noteStatus r.bay r.status s) s
  let s := if s.boot.powered then noteStatus s.myBay s.report s else s
  (List.range 16).foldl (fun s b => hashBay hashes b s) s

/-- LH_WATCHDOG_EXPIRY: the Lighthouse has not strobed for 2 s, so it is not running. -/
def lhWatchdog (s : State) : State :=
  let s := (s.setLhBit F.lhStatusWdExpired true).setLhBit F.lhStatusRunning false
  { s with lh := { s.lh with pumps := 100, fans := 100, override := true, lhDown := true } }

/-- TRAY_POWER_APPLIED: tray time begins at 0 (R177); no bay has power, no Lighthouse runs, and Breakwater drives again what it has not
tripped. -/
def trayPower (s : State) : State :=
  let s := (List.range 16).foldl (fun s b => s.setLhReg (R.lhBayState b) 0) s
  let s := if s.boot.powered then powerOff s else s
  let s := lhFunctionReset { s with lh := { s.lh with queue := [], held := none } }
  let s := { s with
    lhRegs := s.lhRegs.filter (fun r => lhKept r.1)
    lh := { s.lh with
      time := 0, taiSet := false, steer := 0, steerAt := 0, steerTo := 0, lhDown := true, override := true, pumps := 100, fans := 100, staging := none, ms := [], secs := [],
      trayHigh := false, failed := [], settling := [], asked := [], grace := false, bays := s.lh.bays.map (fun (x : Nat × LhBay) => (x.1, { manual := x.2.manual })) }
    bw := { s.bw with supply := true, isolated := s.bw.tripped, valves := !s.bw.tripped } }
  (((s.setLhBit F.lhStatusRunning false).setLhFld F.lhPtpState 0).setLhPair R.lhTaiOffset 0).setLhBit F.lhStatusWdExpired false

/-! ## The commands -/

/-- STATUS_GET: the module answers, and the Lighthouse keeps what it hears. -/
def execStatusGet (tag : Byte) (s : State) : Host.Outcome State Fault Refusal :=
  .next (let s := answerFrame 3 tag.toNat Mg.ok (statusBytes s.report) s
    if s.watched s.myBay then noteStatus s.myBay s.report s else s)
/-- HASH_GET. -/
def execHashGet (tag slot : Byte) (s : State) : Host.Outcome State Fault Refusal :=
  .next (if 1 < slot.toNat then answerFrame 4 tag.toNat Mg.badArg [] s
    else
      let h := s.slotHash slot.toNat
      let s := answerFrame 4 tag.toNat Mg.ok (hashBytes h) s
      if s.watched s.myBay then noteHash s.myBay slot.toNat h (noteStatus s.myBay s.report s) else s)
/-- REFLASH_BEGIN. -/
def execReflashBegin (bay : Fin 16) (answer : Fin 6) (s : State) : Host.Outcome State Fault Refusal := .next (sendBegin bay answer s)
/-- REFLASH_DATA. -/
def execReflashData (bay : Fin 16) (len : Nat) (flashOk : Bool) (answer : Fin 6) (s : State) : Host.Outcome State Fault Refusal := .next (sendData bay len flashOk answer s)
/-- REFLASH_ABANDON: at the module; a Lighthouse that still counts the re-flash as under way counts the attempt as failed. -/
def execReflashAbandon (s : State) : Host.Outcome State Fault Refusal :=
  .next (if s.boot.reflash.isNone then s
    else
      let s := reflashAbandon s
      match (s.lhBay s.myBay).job with
      | some j => if s.lhUp && j.begun then flashFailed s.myBay j Mg.flashErr s else s
      | none => s)
/-- REFLASH_RETRY: every 10 s after BUSY. -/
def execReflashRetry (bay : Fin 16) (answer : Fin 6) (s : State) : Host.Outcome State Fault Refusal :=
  .next (if ((s.lhBay bay).job.map FlashJob.busy).getD false then sendBegin bay answer s else s)
/-- REFLASH_BUSY_LIMIT. -/
def execReflashBusyLimit (bay : Fin 16) (s : State) : Host.Outcome State Fault Refusal :=
  .next (match (s.lhBay bay).job with
    | some j => if s.lhUp && j.busy then flashLost bay j 0xFF s else s
    | none => s)
/-- MODULE_FAULT. -/
def execModuleFault (bay : Fin 16) (status : BayStatus) (s : State) : Host.Outcome State Fault Refusal := .next (moduleFault bay status s)
/-- MODULE_ALERT. -/
def execModuleAlert (bay : Fin 16) (status : BayStatus) (s : State) : Host.Outcome State Fault Refusal := .next (moduleAlert bay status s)
/-- HEARTBEAT_LOST. -/
def execHeartbeatLost (bay : Fin 16) (s : State) : Host.Outcome State Fault Refusal := .next (heartbeatLost bay s)
/-- HB_RESTART_TIMEOUT. -/
def execHbRestartTimeout (bay : Fin 16) (s : State) : Host.Outcome State Fault Refusal := .next (hbRestart bay s)
/-- BAY_PRESENCE_CHANGE. -/
def execBayPresenceChange (bay : Fin 16) (present : Bool) (s : State) : Host.Outcome State Fault Refusal := .next (presenceChange bay present s)
/-- BAY_STABLE. -/
def execBayStable (bay : Fin 16) (s : State) : Host.Outcome State Fault Refusal := .next (bayStable bay s)
/-- THERMTRIP_OPEN. -/
def execThermtripOpen (bay : Fin 16) (s : State) : Host.Outcome State Fault Refusal := .next (thermtripOpen bay s)
/-- VERIFY_PERIOD: never when the period is 0 (R753). -/
def execVerifyPeriod (hashes : List BayHash) (s : State) : Host.Outcome State Fault Refusal :=
  .next (if !s.lhUp || s.policyHalf 10 == 0 then s else (List.range 16).foldl (fun s b => hashBay hashes b s) s)
/-- SILENCE_BEGIN. -/
def execSilenceBegin (host rack : Bool) (s : State) : Host.Outcome State Fault Refusal := .next (silenceBegin host rack s)
/-- CYCLE_POWER_ON: a bay that R739 does not allow to close joins the refused ones. -/
def execCyclePowerOn (bay : Fin 16) (s : State) : Host.Outcome State Fault Refusal :=
  .next (match (s.lhBay bay).cycling with
    | some cause =>
      if s.lhUp then
        let s := s.setLhBay bay { s.lhBay bay with cycling := none }
        if s.mayClose bay then cycleOver (closeSwitch bay cause s)
        else cycleOver { s with lh := { s.lh with held := s.lh.held.map (fun v => if cause = 0 then Nat.lor v (2 ^ bay.val) else v) } }
      else s
    | none => s)
/-- LH_FLR. -/
def execLhFlr (s : State) : Host.Outcome State Fault Refusal := .next (lhFunctionReset s)
/-- LH_START. -/
def execLhStart (reports : List BayReport) (hashes : List BayHash) (s : State) : Host.Outcome State Fault Refusal := .next (lhStart reports hashes s)
/-- LH_WATCHDOG_EXPIRY. -/
def execLhWatchdogExpiry (s : State) : Host.Outcome State Fault Refusal := .next (lhWatchdog s)
/-- TRAY_POWER_APPLIED. -/
def execTrayPowerApplied (s : State) : Host.Outcome State Fault Refusal := .next (trayPower s)

/-- RECORD_GET: the Lighthouse answers a bay's module; this one goes on with its start (R615, R741). -/
def execRecordGet (bay : Fin 16) (s : State) : Host.Outcome State Fault Refusal :=
  .next (if !s.lhUp then s
    else
      let r := s.lhRecord
      let s := sendFrame { fromLh := true, bay := bay, op := 0x87, status := (if r.isSome then Mg.ok else Mg.notFound), body := (r.map recordFrame).getD [] } s
      if bay.val ≠ s.myBay ∨ ¬s.boot.powered then s
      else
        let s := answered false bay 7 s
        if s.stage ≠ 6 ∨ s.boot.restartDue then s
        else match r with
          | some r => joinTray false r s
          | none => joinTray true s.peerRecord s)
/-- STORE_READ: at most 4,096 bytes of a stored body (R723, R748). -/
def execStoreRead (bay : Fin 16) (off : Nat) (digest : List Byte) (len : Nat) (s : State) : Host.Outcome State Fault Refusal :=
  .next (if !s.lhUp then s
    else
      let body := (s.lh.models.find? (fun m => m.1 == digest)).map Prod.snd
      let status := match body with
        | none => Mg.notFound
        | some b => if 4096 < len ∨ b.length < off + len then Mg.badArg else Mg.ok
      let out := if status = Mg.ok then ((body.getD []).drop off).take len else []
      sendFrame { fromLh := true, bay := bay, op := 0x88, arg := off, status := status, body := out } s)
/-- MGMT_RETRY_TIMEOUT: a frame unanswered for 100 ms is sent again; after three attempts the far end is unreachable (R724). -/
def execMgmtRetryTimeout (fromLh : Bool) (bay : Fin 16) (op : Byte) (s : State) : Host.Outcome State Fault Refusal :=
  .next (match s.lh.asked.find? (fun a => a.1.fromLh == fromLh && a.1.bay == bay.val && a.1.op == op.toNat) with
    | none => s
    | some (f, n) =>
      let s := answered fromLh bay op.toNat s
      if 3 ≤ n then s else sendFrame f { s with lh := { s.lh with asked := s.lh.asked ++ [(f, n + 1)] } })

end Sys2Proof.Machine
end

