-- ==== Sys2Proof/Machine/LhCmds.lean ====
section
/-! DEFINITION. The Lighthouse's command set, its mailbox, and what the rack manager sends (R742, R743, R748 to R755, R758 to R760). -/

namespace Sys2Proof.Machine

/-! ## The checks (R245 to R247, R750, R751) -/

/-- Where the Lighthouse's key slots stand among the keys. -/
def lhSlot (slot : Nat) : Nat := 0x100 + slot

/-- The KEY_SLOT is filled and permitted: the host key through the mailbox, the rack key through Redfish, and the maker key for
LH_KEY_INSTALL through the mailbox. -/
def lhKeyPermitted (rack : Bool) (c : QCmd) (s : State) : Bool :=
  let slot := c.keySlot
  (if rack then slot == 2 else slot == 1 || (slot == 0 && c.opcode == 0x8F)) && (s.key (lhSlot slot)).present

/-- The HMAC message, LH_UID in the place of the module's UID (R750). -/
def lhMessage (c : QCmd) (data : List Byte) (s : State) : List Byte :=
  c.raw.take 80 ++ (c.raw.drop 96).take 32 ++ leBytes 8 (s.lhPair R.lhUid) ++ (if c.len = 0 then [] else data.take c.len)

/-- A CMD_AUTH failure at the Lighthouse is counted (R247). -/
def lhAuthFail (c : QCmd) (s : State) : State :=
  let k := s.key (lhSlot c.keySlot)
  s.setKey (lhSlot c.keySlot) { k with fails := satAdd k.fails 1 31, refusing := decide (k.fails + 1 ≥ 16) }

/-- LH_AUTH_FAIL. -/
def lhFailEvent (c : QCmd) (s : State) : State := emitBay Ev.lhAuthFail 16 c.keySlot c.opcode 0 s

/-- Checks 4 to 7, and the counter written to the journal. -/
def lhKeyCheck (rack : Bool) (c : QCmd) (d : Option (List Byte)) (s : State) : Option Nat × State :=
  let k := s.key (lhSlot c.keySlot)
  if !lhKeyPermitted rack c s then (some St.keySlot, s)
  else if k.locked || k.refusing then (some St.keyLocked, s)
  else if c.counter ≤ k.ctr then (some St.counter, lhFailEvent c s)
  else if c.len ≠ 0 && d.isNone then (some St.hostRead, s)
  else if (hmacSha256 k.bytes (lhMessage c (d.getD []) s)).take 16 != c.checkBytes then (some St.auth, lhFailEvent c (lhAuthFail c s))
  else (none, s.setKey (lhSlot c.keySlot) { k with ctr := c.counter, fails := 0, locked := c.counter == counterMax })

/-- The bytes at ADDR: what came with the request through Redfish, or what the read of host memory returned. -/
def lhData (x : LhCmd) (d : HostRead) : Option (List Byte) :=
  if x.rack then (if x.data.length < x.cmd.len then none else some x.data) else d.bytes?

/-- The command at the head, when it is the one a row names: it is checked, and refused with the first failing status, or its effect `k`
runs with the data at ADDR. -/
def lhBegin (mine : QCmd → List Byte → Bool) (d : HostRead) (k : QCmd → List Byte → State → State) (s : State) : State :=
  match s.lh.queue with
  | [] => s
  | x :: _ =>
    let c := x.cmd
    let b := lhData x d
    if !s.lhUp || s.lh.held.isSome || !mine c (b.getD []) then s
    else match lhForm c with
      | some st => lhComplete st 0 s
      | none =>
        if c.isCritical then
          match lhKeyCheck x.rack c b s with
          | (some st, s) => lhComplete st 0 s
          | (none, s) => k c (b.getD []) s
        else k c (b.getD []) s

/-- A row of one opcode. -/
def isOp (op : Nat) (c : QCmd) (_ : List Byte) : Bool := c.opcode == op

/-- A row of one action of LH_BAY_POWER; the reserved action goes with OFF. -/
def isPower (action : Nat) (c : QCmd) (_ : List Byte) : Bool :=
  let a := bitsOf c.arg0 17 16
  c.opcode == 0x88 && (a == action || (a == 3 && action == 0))

/-- A row of one kind of LH_STORE_WRITE; other kinds, and a descriptor that cannot be read, go with GOLDEN. -/
def isKind (kind : Nat) (c : QCmd) (b : List Byte) : Bool :=
  let k := fieldAt b 0 1
  c.opcode == 0x8D && (if b.length < 64 then kind == 0 else k == kind || (decide (3 < k) && kind == 0))

/-! ## Bays (R740, R751, R774) -/

/-- READY of a bay, as the Lighthouse samples it: this module's pin, another's as `ready` has it. -/
def State.bayReady (s : State) (ready : BitVec 16) (b : Nat) : Bool :=
  s.lhBit (F.lhBayStatePowered b) && (if b = s.myBay then s.pins.ready else Nat.testBit ready.toNat b)

/-- The bays an OFF or a CYCLE refuses (R740). -/
def refusedBays (c : QCmd) (ready : BitVec 16) (s : State) : List Nat :=
  (maskBays c.arg0).filter (fun b => s.bayReady ready b && !Nat.testBit c.arg0 18)

/-- A list of bays as a mask. -/
def bayMask (bs : List Nat) : Nat := (bs.map (fun b => 2 ^ b)).sum

/-- LH_BAY_POWER OFF. -/
def bayPowerOff (ready : BitVec 16) (c : QCmd) (s : State) : State :=
  if bitsOf c.arg0 17 16 = 3 then lhComplete St.format 0 s
  else
    let no := refusedBays c ready s
    let s := ((maskBays c.arg0).filter (fun b => !no.contains b)).foldl (fun s b => openSwitch b 0 (s.setLhBay b { s.lhBay b with cycling := none })) s
    lhComplete St.ok (bayMask no) s

/-- LH_BAY_POWER ON: bays without power whose switch may not close are refused. -/
def bayPowerOn (c : QCmd) (s : State) : State :=
  let no := (maskBays c.arg0).filter (fun b => !s.lhBit (F.lhBayStatePowered b) && !s.mayClose b)
  let s := ((maskBays c.arg0).filter (fun b => !no.contains b)).foldl (fun s b => closeSwitch b 0 s) s
  lhComplete St.ok (bayMask no) s

/-- LH_BAY_POWER CYCLE: it completes when the last bay is on again. -/
def bayPowerCycle (ready : BitVec 16) (c : QCmd) (s : State) : State :=
  let no := refusedBays c ready s
  let s := ((maskBays c.arg0).filter (fun b => !no.contains b)).foldl (fun s b =>
    let s := cycleBay b 0 s
    s.setLhBay b { s.lhBay b with cycling := some 0 }) s
  cycleOver { s with lh := { s.lh with held := some (bayMask no) } }

/-- LH_MODULE_RESTART of this module: a LEAVING one restarts too (R801). -/
def restartMine (v : Word) (s : State) : State :=
  let s := effBootCtrl v s
  if s.fld F.fabStatusStage = 4 then { s with boot := { s.boot with restartDue := true } } else s

/-- LH_MODULE_RESTART: the bays where R659 does not allow it are this module's as it stands and, of others, those `barred` names. -/
def moduleRestart (barred : BitVec 16) (c : QCmd) (s : State) : State :=
  let v : Word := if Nat.testBit c.arg0 16 then 3 else 1
  let on := (maskBays c.arg0).filter (fun b => s.lhBit (F.lhBayStatePowered b))
  let no := (maskBays c.arg0).filter (fun b =>
    !on.contains b || (if b = s.myBay then !s.boot.powered || !(s.mayRestart || s.fld F.fabStatusStage == 4) else Nat.testBit barred.toNat b))
  let s := on.foldl (fun s b => sendFrame { fromLh := true, bay := b, op := 2, arg := R.hubBootCtrl, body := leBytes 4 v.toNat } s) s
  let s := if on.contains s.myBay && s.boot.powered then restartMine v s else s
  lhComplete St.ok (bayMask no) s

/-- The slot a re-flash by R745 writes, as the bay's module stands. -/
def State.slotFor (s : State) (bay : Nat) : Option Nat :=
  match s.statusOf bay with
  | some st => (s.faultSlot bay st).or (s.readySlot bay st)
  | none => none

/-- A slot is in use: a module that is Ready runs from it. -/
def State.slotInUse (s : State) (bay slot : Nat) : Bool :=
  match s.statusOf bay with
  | some st => wfield st.boot 3 0 == 8 && usedSlot st == slot
  | none => false

/-- LH_REFLASH. -/
def lhReflash (c : QCmd) (s : State) : State :=
  let bay := c.arg0 % 16
  let which := bitsOf c.arg0 5 4
  let slot := if which = 2 then s.slotFor bay else some which
  if which = 3 then lhComplete St.format 0 s
  else if !s.lhBit (F.lhBayStatePowered bay) || (s.lhBay bay).job.isSome || s.lh.current.isEmpty then lhComplete St.state 0 s
  else match slot with
    | none => lhComplete St.state 0 s
    | some i =>
      if s.slotInUse bay i then lhComplete St.state 0 s
      else
        let s := startJob bay i (Nat.testBit c.arg0 8) true (covered bay [3, 4] s)
        { s with lh := { s.lh with held := some 0 } }

/-- A byte of the policy block is set. -/
def setPolicyByte (i v : Nat) (s : State) : State :=
  let r := R.lhPolicy0 + i / 4 * 4
  s.setLhReg r (wset (s.lhReg r) (8 * (i % 4) + 7) (8 * (i % 4)) v)

/-- LH_SHUTDOWN: it completes when every switch is open. -/
def lhShutdown (c : QCmd) (s : State) : State :=
  if 600000 < c.arg1 then lhComplete St.format 0 s
  else
    let s := setPolicyByte 2 0 s
    { s with lh := { s.lh with grace := true, held := some 0 } }

/-- The grace period is over: every bay switch opens. -/
def graceEnd (s : State) : State :=
  if !s.lhUp || !s.lh.grace then s
  else
    let s : State := { s with lh := { s.lh with grace := false } }
    let s := (List.range 16).foldl (fun s b => openSwitch b 0 (s.setLhBay b { s.lhBay b with cycling := none })) s
    if s.lh.held.isSome then lhComplete St.ok 0 s else s

/-! ## The tray record (R742) -/

/-- CONFIG_EPOCH and FW_SET of the CURRENT golden image. -/
def goldenRecord (b : List Byte) : Nat × List Byte :=
  let m := manifestOf b 0
  (fieldAt m 0 8, (m.drop 8).take 32)

/-- LH_RECORD_SET. -/
def recordSet (c : QCmd) (b : List Byte) (s : State) : State :=
  let epoch := fieldAt b 0 8
  let fw := (b.drop 8).take 32
  if c.len ≠ 48 then lhComplete St.format 0 s
  else if (match s.lhRecord with | some r => decide (epoch < r.epoch) | none => false) || s.lh.current.isEmpty ||
      goldenRecord s.lh.current != (epoch, fw) || decide (1 < fieldAt b 40 1) then lhComplete St.verify 0 s
  else
    let s := s.setLhPair R.lhRecordEpoch epoch
    let s := (List.range 8).foldl (fun s i => s.setLhReg (R.lhRecordFw0 + 4 * i) (BitVec.ofNat 32 (fieldAt fw (4 * i) 4))) s
    let s := (s.setLhFld F.lhRecordScopeScope (fieldAt b 40 1)).setLhBit F.lhRecordScopeSet true
    lhComplete St.ok 0 (emitBay Ev.lhRecordChanged 16 (epoch % 2 ^ 32) (epoch / 2 ^ 32) 0 s)

/-! ## The stores (R743, R748, R752) -/

/-- A descriptor of LH_STORE_WRITE breaks R752; reserved bytes are ignored (R7). -/
def storeBad (c : QCmd) (b : List Byte) : Bool :=
  let kind := fieldAt b 0 1
  let n := fieldAt b 16 8
  c.len != 64 || decide (3 < kind) || fieldAt b 8 8 % 4096 != 0 ||
  ((kind == 0 || kind == 2) && decide (slotMax < n)) || (kind == 3 && n != 0)

/-- The bytes a store command writes: from the staging buffer, which it empties, or from host memory. -/
def storeContent (b : List Byte) (content : HostRead) (s : State) : Option (List Byte) × State :=
  let n := fieldAt b 16 8
  if fieldAt b 8 8 = 0 then (s.lh.staging.bind (fun x => if x.length < n then none else some (x.take n)), { s with lh := { s.lh with staging := none } })
  else (content.bytes?.map (fun x => x.take n), s)

/-- DIGEST of a descriptor. -/
def storeDigest (b : List Byte) : List Byte := (b.drop 24).take 32

/-- A store command once its form is checked: its bytes are read and held against DIGEST, and `k` stores them. -/
def storeWrite (c : QCmd) (b : List Byte) (content : HostRead) (k : List Byte → State → State) (s : State) : State :=
  if storeBad c b then lhComplete St.format 0 s
  else match storeContent b content s with
    | (none, s) => lhComplete St.hostRead 0 s
    | (some x, s) =>
      if x.length ≠ fieldAt b 16 8 ∨ sha256 x ≠ storeDigest b then lhComplete St.verify 0 s
      else k x s

/-- The store is written. -/
def stored (kind : Nat) (s : State) : State := lhComplete St.ok 0 (emitBay Ev.lhStoreWritten 16 kind 0 0 s)

/-- The checks of a golden image: R644 to R647 and the section digests. -/
def goldenGood (x : List Byte) : Bool :=
  headerGood x && imageLength x == x.length && (List.range 16).all (countsGood x) && manifestGood x (manifestOf x 0) &&
  (sectTable x).all (fun t => sha256 (t.body x) == t.digest)

/-- Kind GOLDEN (R743). -/
def storeGolden (x : List Byte) (s : State) : State :=
  if !goldenGood x then lhComplete St.verify 0 s
  else stored 0 { s with lh := { s.lh with previous := s.lh.current, current := x } }

/-- Bytes of the model store (R725). -/
def modelStoreBytes : Nat := 6848 * 2 ^ 20

/-- Kind MODEL (R748). -/
def storeModel (x : List Byte) (s : State) : State :=
  let d := sha256 x
  let rest := s.lh.models.filter (fun m => m.1 != d)
  if modelStoreBytes < (rest.map (fun m => m.2.length)).sum + x.length then lhComplete St.resource 0 s
  else stored 1 { s with lh := { s.lh with models := rest ++ [(d, x)] } }

/-- Kind LIGHTHOUSE_FW (R752): the slot the Lighthouse did not start from. -/
def storeFw (x : List Byte) (s : State) : State :=
  stored 2 (if s.lh.fwUsed = 0 then { s with lh := { s.lh with fwB := x, fwNext := 1 } } else { s with lh := { s.lh with fwA := x, fwNext := 0 } })

/-- The golden image names a model body. -/
def namesBody (image d : List Byte) : Bool :=
  !image.isEmpty && (List.range 16).any (fun bay => ((recordsOf image bay 8 modelLen).getD []).any (fun r => (r.drop 16).take 32 == d))

/-- Kind MODEL_DELETE (R752). -/
def modelDelete (c : QCmd) (b : List Byte) (s : State) : State :=
  let d := storeDigest b
  if storeBad c b then lhComplete St.format 0 s
  else if namesBody s.lh.current d || !s.lh.models.any (fun m => m.1 == d) then lhComplete St.state 0 s
  else stored 3 { s with lh := { s.lh with models := s.lh.models.filter (fun m => m.1 != d) } }

/-! ## Policy and keys (R750, R753) -/

/-- A policy block holds only the values of R753; reserved bytes are ignored (R7). -/
def policyGood (b : List Byte) : Bool :=
  let v := fun i => fieldAt b i 1
  let h := fun i => fieldAt b i 2
  decide (v 0 ≤ 2) && decide (v 1 ≤ 2) && decide (v 2 ≤ 1) && decide (v 3 ≤ 2) && decide (30 ≤ v 4 ∧ v 4 ≤ 100) &&
  decide (5 ≤ h 6 ∧ h 6 ≤ 3600) && decide (5 ≤ h 8 ∧ h 8 ≤ 3600) && decide (h 10 ≤ 720) && decide (350 ≤ h 12 ∧ h 12 ≤ 600) &&
  decide (h 14 ≤ 127)

/-- LH_POLICY_SET. -/
def policySet (c : QCmd) (b : List Byte) (s : State) : State :=
  if c.len ≠ 32 || !policyGood b then lhComplete St.format 0 s
  else
    let s := (List.range 8).foldl (fun s i => s.setLhReg (R.lhPolicy0 + 4 * i) (BitVec.ofNat 32 (fieldAt b (4 * i) 4))) s
    lhComplete St.ok 0 (s.setLhFld F.lhPtpDomain (fieldAt b 14 2))

/-- LH_KEY_INSTALL: an empty slot under the maker key, a filled one only under its own. -/
def lhKeyInstall (c : QCmd) (b : List Byte) (s : State) : State :=
  let target := fieldAt b 0 1
  let under := if (s.key (lhSlot target)).present then target else 0
  if c.len ≠ 96 then lhComplete St.format 0 s
  else if (target ≠ 1 ∧ target ≠ 2) ∨ c.keySlot ≠ under then lhComplete St.verify 0 s
  else match openBlock (s.key (lhSlot c.keySlot)).bytes (s.lhPair R.lhUid) false 0x10 b with
    | none => lhComplete St.verify 0 s
    | some x => lhComplete St.ok 0 (s.setKey (lhSlot target) { present := true, bytes := x })

/-! ## Mailbox and rack network (R749, R755, R759, R760) -/

/-- A command comes in at the end of the queue. -/
def lhTake (c : LhCmd) (s : State) : State :=
  let s : State := { s with lh := { s.lh with queue := s.lh.queue ++ [c] } }
  lhAdvance s.lh.queue.length s

/-- The bytes that stand at MB_REQ: 128 of a critical command, else 64. -/
def mailboxBytes (s : State) : List Byte :=
  let words := fun n => (List.range n).flatMap (fun i => leBytes 4 (s.lhReg (R.mbReq0 + 4 * i)).toNat)
  if bitsOf (s.lhReg R.mbReq0).toNat 8 8 = 1 then words 32 else words 16

/-- A write of MB_DOORBELL. -/
def mailboxBell (v : Word) (s : State) : State :=
  if !s.lhUp then s
  else
    let s := s.setLhBit F.lhStatusHostSilent false
    if !v.getLsbD 0 then s
    else if s.lhBit F.mbStatusBusy then s.setLhBit F.mbStatusDbErr true
    else lhTake { raw := mailboxBytes s, rack := false, data := [] } (s.setLhBit F.mbStatusBusy true)

/-- A Redfish request is answered. -/
def httpAnswer (a : HttpAnswer) (s : State) : State := { s with lh := { s.lh with answers := s.lh.answers ++ [a] } }

/-- An authenticated Redfish request has come: the rack manager is not silent. -/
def rackHeard (s : State) : State := s.setLhBit F.lhStatusRackSilent false

/-- Iardo.Command. -/
def iardo (raw data : List Byte) (s : State) : State :=
  if !s.lhUp then s
  else
    let s := rackHeard s
    if (raw.length ≠ 64 ∧ raw.length ≠ 128) ∨ 4096 < data.length then httpAnswer .refused s
    else lhTake { raw := raw, rack := true, data := data } (httpAnswer .served s)

/-- An upload to the staging buffer. -/
def upload (bytes : List Byte) (s : State) : State :=
  if !s.lhUp then s
  else
    let s := rackHeard s
    if slotMax < bytes.length then httpAnswer .refused s
    else httpAnswer .served { s with lh := { s.lh with staging := some bytes } }

/-! ## The commands -/

/-- LH_NOP. -/
def execLhNop (d : HostRead) (s : State) : Host.Outcome State Fault Refusal := .next (lhBegin (isOp 0x00) d (fun _ _ s => lhComplete St.ok 0 s) s)
/-- LH_VERIFY: it completes when every hash is in. -/
def execLhVerify (d : HostRead) (hashes : List BayHash) (s : State) : Host.Outcome State Fault Refusal :=
  .next (lhBegin (isOp 0x61) d (fun c _ s => lhComplete St.ok 0 ((maskBays c.arg0).foldl (fun s b => hashBay hashes b s) s)) s)
/-- LH_BAY_POWER, action OFF. -/
def execLhBayPowerOff (d : HostRead) (ready : BitVec 16) (s : State) : Host.Outcome State Fault Refusal :=
  .next (lhBegin (isPower 0) d (fun c _ s => bayPowerOff ready c s) s)
/-- LH_BAY_POWER, action ON. -/
def execLhBayPowerOn (d : HostRead) (s : State) : Host.Outcome State Fault Refusal := .next (lhBegin (isPower 1) d (fun c _ s => bayPowerOn c s) s)
/-- LH_BAY_POWER, action CYCLE. -/
def execLhBayPowerCycle (d : HostRead) (ready : BitVec 16) (s : State) : Host.Outcome State Fault Refusal :=
  .next (lhBegin (isPower 2) d (fun c _ s => bayPowerCycle ready c s) s)
/-- LH_MODULE_RESTART. -/
def execLhModuleRestart (d : HostRead) (barred : BitVec 16) (s : State) : Host.Outcome State Fault Refusal :=
  .next (lhBegin (isOp 0x89) d (fun c _ s => moduleRestart barred c s) s)
/-- LH_REFLASH. -/
def execLhReflash (d : HostRead) (s : State) : Host.Outcome State Fault Refusal := .next (lhBegin (isOp 0x8A) d (fun c _ s => lhReflash c s) s)
/-- LH_SHUTDOWN. -/
def execLhShutdown (d : HostRead) (s : State) : Host.Outcome State Fault Refusal := .next (lhBegin (isOp 0x8B) d (fun c _ s => lhShutdown c s) s)
/-- LH_RECORD_SET. -/
def execLhRecordSet (d : HostRead) (s : State) : Host.Outcome State Fault Refusal := .next (lhBegin (isOp 0x8C) d recordSet s)
/-- LH_STORE_WRITE, kind GOLDEN. -/
def execLhStoreWriteGolden (d content : HostRead) (s : State) : Host.Outcome State Fault Refusal :=
  .next (lhBegin (isKind 0) d (fun c b s => storeWrite c b content storeGolden s) s)
/-- LH_STORE_WRITE, kind MODEL. -/
def execLhStoreWriteModel (d content : HostRead) (s : State) : Host.Outcome State Fault Refusal :=
  .next (lhBegin (isKind 1) d (fun c b s => storeWrite c b content storeModel s) s)
/-- LH_STORE_WRITE, kind LIGHTHOUSE_FW. -/
def execLhStoreWriteFw (d content : HostRead) (s : State) : Host.Outcome State Fault Refusal :=
  .next (lhBegin (isKind 2) d (fun c b s => storeWrite c b content storeFw s) s)
/-- LH_STORE_WRITE, kind MODEL_DELETE. -/
def execModelDelete (d : HostRead) (s : State) : Host.Outcome State Fault Refusal := .next (lhBegin (isKind 3) d modelDelete s)
/-- LH_POLICY_SET. -/
def execLhPolicySet (d : HostRead) (s : State) : Host.Outcome State Fault Refusal := .next (lhBegin (isOp 0x8E) d policySet s)
/-- LH_KEY_INSTALL. -/
def execLhKeyInstall (d : HostRead) (s : State) : Host.Outcome State Fault Refusal := .next (lhBegin (isOp 0x8F) d lhKeyInstall s)
/-- LH_HOST_PING: any value. -/
def execLhHostPing (_v : Word) (s : State) : Host.Outcome State Fault Refusal :=
  .next (if s.lhUp then s.setLhBit F.lhStatusHostSilent false else s)
/-- MB_DOORBELL. -/
def execMbDoorbell (v : Word) (s : State) : Host.Outcome State Fault Refusal := .next (mailboxBell v s)
/-- SHUTDOWN_GRACE_END. -/
def execShutdownGraceEnd (s : State) : Host.Outcome State Fault Refusal := .next (graceEnd s)
/-- IARDO_COMMAND. -/
def execIardoCommand (raw data : List Byte) (s : State) : Host.Outcome State Fault Refusal := .next (iardo raw data s)
/-- STAGING_UPLOAD. -/
def execStagingUpload (bytes : List Byte) (s : State) : Host.Outcome State Fault Refusal := .next (upload bytes s)

end Sys2Proof.Machine
end

