-- ==== Sys2Proof/Machine/LhSense.lean ====
section
/-! DEFINITION. What the Lighthouse senses and steers: points and their alarms, power reports, cooling, tray time's reference
(R180 to R183, R729 to R736, R759, R806, R807). -/

namespace Sys2Proof.Machine

/-! ## Points (R729 to R731) -/

/-- A signed 16-bit value. -/
def signed16 (v : BitVec 16) : Int := v.toInt

/-- Temperatures, which leave alarm by 1.0 °C. -/
def isTemp (p : Nat) : Bool :=
  if p < 320 then [3, 4, 7, 8, 9, 10, 11, 12, 13, 14, 15, 18].contains (p % 20)
  else [326, 327, 351, 352, 353, 354, 356, 357, 358, 359].contains p

/-- A low or a high limit in whole units, in thousandths. -/
def lowAt (v : Int) : Option Int × Option Int := (some (v * 1000), none)
def highAt (v : Int) : Option Int × Option Int := (none, some (v * 1000))
def between (a b : Int) : Option Int × Option Int := (some (a * 1000), some (b * 1000))

/-- The default limits of a bay point (R729), low and high, in thousandths of its unit. -/
def bayLimits (i : Nat) : Option Int × Option Int :=
  match i with
  | 0 => between 4800 5800
  | 1 => highAt 2800
  | 2 => highAt 1400
  | 4 => highAt 600
  | 5 => lowAt 80
  | 6 => highAt 150
  | 7 => highAt 950
  | 8 => highAt 1000
  | 9 => highAt 1000
  | 10 => highAt 1000
  | 11 => highAt 1000
  | 12 => highAt 950
  | 13 => highAt 850
  | 14 => highAt 1100
  | 15 => highAt 1100
  | 16 => lowAt 600
  | 17 => (some ((Config.standbyNominal : Int) * 950), some ((Config.standbyNominal : Int) * 1050))
  | 18 => highAt 850
  | 19 => lowAt 1000
  | _ => (none, none)

/-- The pump or fan whose speed a tray point shows. -/
def speedUnit (p : Nat) : Option Nat :=
  if 333 ≤ p ∧ p < 339 ∧ (p - 333) % 2 = 0 then some ((p - 333) / 2)
  else if 339 ≤ p ∧ p < 351 ∧ (p - 339) % 2 = 0 then some (16 + (p - 339) / 2)
  else none

/-- Bays with power. -/
def State.poweredBays (s : State) : Nat := ((List.range 16).filter (fun b => s.lhBit (F.lhBayStatePowered b))).length

/-- The command of a pump or a fan in percent: the watchdog's override stands above it (R736). -/
def State.speedCmd (s : State) (u : Nat) : Nat := if s.lh.override then 100 else if u < 16 then s.lh.pumps else s.lh.fans

/-- The default limits of a tray point (R730), in thousandths of its unit. -/
def State.trayLimits (s : State) (p : Nat) : Option Int × Option Int :=
  match speedUnit p with
  | some u => (some (3 * s.speedCmd u * Config.fullSpeed u : Nat), none)
  | none =>
    if p = 322 then highAt 20000
    else if p = 326 then between 200 400
    else if p = 330 then lowAt (200 * s.poweredBays : Nat)
    else (none, none)

/-- The limits of a point: those the rack manager has set, else the defaults (R731). -/
def State.limitsOf (s : State) (p : Nat) : Option Int × Option Int :=
  let d := if p < 320 then bayLimits (p % 20) else s.trayLimits p
  match tfind s.lh.limits p with
  | some (lo, hi) => ((lo.map (fun x => x * 1000)).or d.1, (hi.map (fun x => x * 1000)).or d.2)
  | none => d

/-- How far within a limit a point leaves alarm, in thousandths. -/
def margin (p : Nat) (limit : Int) : Int := if isTemp p then 10000 else limit.natAbs * 2 / 100

/-- A point is outside its limits. -/
def pastLimit (lim : Option Int × Option Int) (v : Int) : Bool :=
  (lim.1.map (fun l => decide (v * 1000 < l))).getD false || (lim.2.map (fun h => decide (h < v * 1000))).getD false

/-- A point is back within its limits by the margin. -/
def backWithin (p : Nat) (lim : Option Int × Option Int) (v : Int) : Bool :=
  (lim.1.map (fun l => decide (l + margin p l ≤ v * 1000))).getD true && (lim.2.map (fun h => decide (v * 1000 ≤ h - margin p h))).getD true

/-- A point enters or leaves alarm by its value. -/
def alarmPoint (p : Nat) (v : Int) (s : State) : State :=
  let was := s.lhBit (F.lhPtAlarm p)
  let lim := s.limitsOf p
  let now := pastLimit lim v || (was && !backWithin p lim v)
  let s := s.setLhBit (F.lhPtAlarm p) now
  if now == was then s else emitBay Ev.lhPointAlarm (if p < 320 then p / 20 else 16) p (v % 2 ^ 32).toNat now.toNat s

/-- A point is sampled. -/
def notePoint (p : Nat) (v : Int) (s : State) : State :=
  alarmPoint p v ((s.setLhBit (F.lhPtValid p) true).setLhFld (F.lhPtValue p) (v % 65536).toNat)

/-- The value a point's register holds. -/
def State.pointNow (s : State) (p : Nat) : Int := signed16 (BitVec.ofNat 16 (s.lhFld (F.lhPtValue p)))

/-- A point comes from its bay's module (R729). -/
def ofModule (p : Nat) : Bool := decide (p < 320 ∧ 3 ≤ p % 20 ∧ p % 20 ≤ 18)

/-- What a sample of a point reads: Breakwater's state and the valve command are this model's own (R730). -/
def State.sampled (s : State) (p : Nat) (v : Int) : Int :=
  if p = 366 then (s.bw.tripped.toNat : Int) else if p = 367 then (s.lh.valveCmd.toNat : Int) else v

/-- Coolant supply above 40.0 °C: pumps and fans run at full speed (R756). -/
def State.supplyHot (s : State) : Bool := s.lhBit (F.lhPtValid 326) && decide (400 < s.pointNow 326)

/-- POINT_SAMPLE: points 2 of a bay and 322 show P_1ms and change with it. -/
def pointSample (p : Nat) (v : Int) (s : State) : State :=
  if !s.lhUp || (ofModule p && !s.lhBit (F.lhBayStatePowered (p / 20))) || (decide (p < 320) && p % 20 == 2) || p == 322 then s
  else
    let s := notePoint p (s.sampled p v) s
    if p = 326 ∧ s.supplyHot then { s with lh := { s.lh with pumps := 100, fans := 100, override := false } } else s

/-- The rack manager sets limits: a point that has a value is held against them at once. -/
def setLimits (p : Nat) (low high : Option Int) (s : State) : State :=
  let s : State := { s with lh := { s.lh with limits := tset s.lh.limits p (low, high) } }
  if s.lhBit (F.lhPtValid p) then alarmPoint p (s.pointNow p) s else s

/-! ## Power reports (R732, R733) -/

/-- A quotient in whole units; how it is wholeUnits is open. -/
def wholeUnits (num den : Nat) : Nat := num / den + (if num % den = 0 then 0 else (Config.roundUp num den).toNat)

/-- The point that shows P_1ms of a row. -/
def powerPoint (r : Nat) : Nat := if r < 16 then r * 20 + 2 else 322

/-- A millisecond of one row ends. -/
def powerMs (r : Nat) (xs : List (BitVec 16)) (s : State) : State :=
  if xs.isEmpty then s
  else
    let p := wholeUnits (xs.map (fun (x : BitVec 16) => x.toNat)).sum xs.length
    notePoint (powerPoint r) p { s with lh := { s.lh with ms := tset s.lh.ms r (tget s.lh.ms r [] ++ [p]) } }

/-- The last bound a row's AVG_1S may reach without POWER_HIGH, in hundredths of W; none while the module's limit is not known. -/
def State.powerBound (s : State) (r : Nat) : Option Nat :=
  if r = 16 then some 2000000
  else (s.statusOf r).map (fun st => st.power.toNat * 105)

/-- POWER_HIGH is recorded once per episode. -/
def powerHigh (r avg : Nat) (s : State) : State :=
  let high := ((s.powerBound r).map (fun b => decide (b < avg * 100))).getD false
  let was := if r = 16 then s.lh.trayHigh else (s.lhBay r).high
  let s := if r = 16 then { s with lh := { s.lh with trayHigh := high } } else s.setLhBay r { s.lhBay r with high := high }
  if high && !was then emitBay Ev.lhPowerHigh r r avg 0 s else s

/-- A second of one row ends: a whole one has 1,000 values. -/
def powerRow (r : Nat) (s : State) : State :=
  let ms := tget s.lh.ms r []
  let s : State := { s with lh := { s.lh with ms := tset s.lh.ms r [] } }
  if ms.length ≠ 1000 then s
  else
    let secs := ((ms.sum, ms.foldl max 0) :: tget s.lh.secs r []).take 60
    let s : State := { s with lh := { s.lh with secs := tset s.lh.secs r secs } }
    let avg := wholeUnits ms.sum 1000
    let s := (s.setLhFld (F.lhPwr1sAvg r) avg).setLhFld (F.lhPwr1sPeak r) (ms.foldl max 0)
    let s := (s.setLhFld (F.lhPwr60sAvg r) (wholeUnits (secs.map Prod.fst).sum (1000 * secs.length))).setLhFld (F.lhPwr60sPeak r) ((secs.map Prod.snd).foldl max 0)
    powerHigh r avg s

/-! ## Cooling (R734, R736, R806, R807) -/

/-- Units of one kind: pumps below 16. -/
def sameKind (pump : Bool) (u : Nat) : Bool := pump == decide (u < 16)

/-- A unit of a kind is failed, or has not held its speed since it was inserted. -/
def State.degraded (s : State) (pump : Bool) : Bool := s.lh.failed.any (sameKind pump) || s.lh.settling.any (sameKind pump)

/-- The limit of AUTO is reached: a coolant outlet at its target, or an air outlet at 45.0 °C. -/
def State.limitReached (s : State) (pump : Bool) : Bool :=
  if pump then (List.range 16).any (fun b => s.lhBit (F.lhPtValid (b * 20 + 4)) && decide ((s.policyHalf 12 : Int) ≤ s.pointNow (b * 20 + 4)))
  else [353, 354].any (fun p => s.lhBit (F.lhPtValid p) && decide (450 ≤ s.pointNow p))

/-- A command of one kind: what AUTO computes from the points is open, between the least it may command and 100 %. -/
def State.coolCmd (s : State) (pump : Bool) : Nat :=
  let fixed := max 30 (min 100 (s.policyByte 4))
  let auto := fun least => least + s.freeNow % (101 - least)
  if s.degraded pump || s.supplyHot || s.policyByte 3 == 1 || decide (2 ≤ (s.lh.failed.filter (· < 16)).length) then 100
  else if s.policyByte 3 = 2 then (if s.limitReached pump then auto fixed else fixed)
  else auto 30

/-- COOLING_UPDATE: `pumpsHeld` and `fansHeld` say that every unit of the kind has held 30 % of its speed for 30 s. -/
def coolingUpdate (pumpsHeld fansHeld : Bool) (s : State) : State :=
  if !s.lhUp then s
  else
    let keep := fun (u : Nat) => if u < 16 then !pumpsHeld else !fansHeld
    let s : State := { s with lh := { s.lh with failed := s.lh.failed.filter keep, settling := s.lh.settling.filter keep } }
    let s := ({ s with lh := { s.lh with pumps := s.coolCmd true } } : State).freeNext
    ({ s with lh := { s.lh with fans := s.coolCmd false, override := false } } : State).freeNext

/-- The units there are. -/
def isUnit (u : Nat) : Bool := decide (u < 3) || decide (16 ≤ u ∧ u < 22)

/-- COOLING_UNIT_FAIL: the others of its kind are commanded to 100 %. -/
def unitFails (u : Nat) (s : State) : State :=
  if !s.lhUp || !isUnit u || s.lh.failed.contains u then s
  else
    let s := { s with lh := { s.lh with
      failed := s.lh.failed ++ [u], settling := s.lh.settling.filter (· != u)
      pumps := if u < 16 then 100 else s.lh.pumps, fans := if u < 16 then s.lh.fans else 100 } }
    emitBay Ev.lhCoolingDegraded 16 u 0 0 s

/-- COOLING_UNIT_INSERT: it takes the common command of its kind, and its speed is watched until it has held. -/
def unitInserted (u : Nat) (s : State) : State :=
  if !s.lhUp || !s.lh.failed.contains u then s
  else { s with lh := { s.lh with failed := s.lh.failed.filter (· != u), settling := s.lh.settling ++ [u] } }

/-! ## PTP (R181 to R183) -/

/-- The steering word within ±50 ppm. -/
def steering (v : Int) : Int := max (-50000) (min 50000 v)

/-- The steering in force: it has moved toward the word the servo asked for last by at most 0.1 ppm a second, 1 ppb in 10 ms (R181). -/
def State.steering (s : State) : Int :=
  let r : Int := ((s.lh.time - s.lh.steerAt) / 10000000 : Nat)
  max (s.lh.steer - r) (min (s.lh.steer + r) s.lh.steerTo)

/-- The servo asks for a steering word; the time toward the next ppb of a move under way is kept. -/
def steerFor (v : Int) (s : State) : State :=
  let now := s.steering
  let at_ := if now = s.lh.steerTo then s.lh.time else s.lh.steerAt + (now - s.lh.steer).natAbs * 10000000
  { s with lh := { s.lh with steer := now, steerAt := at_, steerTo := steering v } }

/-- The difference of two 64-bit offsets as a magnitude. -/
def offsetGap (a b : Nat) : Nat := (BitVec.ofNat 64 a - BitVec.ofNat 64 b).toInt.natAbs

/-- PTP_LOCK: the first lock sets TAI_OFFSET; a later re-lock that differs by more than 1 ms sets it anew. -/
def ptpLock (tai : Nat) (steer : Int) (s : State) : State :=
  if !s.lhUp then s
  else
    let again := s.lhFld F.lhPtpState ≠ 1
    let s := steerFor steer s
    let s :=
      if !s.lh.taiSet then ({ s with lh := { s.lh with taiSet := true } } : State).setLhPair R.lhTaiOffset tai
      else if again ∧ 1000000 < offsetGap tai (s.lhPair R.lhTaiOffset) then
        emitBay Ev.lhTaiChanged 16 (tai % 2 ^ 32) (tai / 2 ^ 32) 0 (s.setLhPair R.lhTaiOffset tai)
      else s
    if again then emitBay Ev.lhPtpState 16 1 0 0 (s.setLhFld F.lhPtpState 1) else s

/-- PTP_LOSS: the oscillator stays at its last steering. -/
def ptpLoss (s : State) : State :=
  if s.lhUp ∧ s.lhFld F.lhPtpState = 1 then emitBay Ev.lhPtpState 16 2 0 0 ((steerFor s.steering s).setLhFld F.lhPtpState 2) else s

/-! ## Redfish (R759) -/

/-- A Redfish request: a write of a property is refused but for thresholds, network settings, accounts and certificates. -/
def redfish (authentic : Bool) (r : Redfish) (s : State) : State :=
  if !s.lhUp then s
  else if !authentic then httpAnswer .denied s
  else
    let s := rackHeard s
    match r with
    | .read known => httpAnswer (if known then .served else .notFound) s
    | .property known => httpAnswer (if known then .refused else .notFound) s
    | .threshold p low high => httpAnswer .served (setLimits p low high s)
    | .settings => httpAnswer .served s

/-! ## The commands -/

/-- POINT_SAMPLE. -/
def execPointSample (point : Fin 368) (value : BitVec 16) (s : State) : Host.Outcome State Fault Refusal := .next (pointSample point (signed16 value) s)
/-- POWER_SAMPLE_1MS: the samples of the millisecond by row, the tray's last. -/
def execPowerSample1ms (samples : List (List (BitVec 16))) (s : State) : Host.Outcome State Fault Refusal :=
  .next (if s.lhUp then (List.range 17).foldl (fun s r => powerMs r (samples.getD r []) s) s else s)
/-- POWER_REPORT_1S. -/
def execPowerReport1s (s : State) : Host.Outcome State Fault Refusal :=
  .next (if s.lhUp then (List.range 17).foldl (fun s r => powerRow r s) s else s)
/-- COOLING_UPDATE. -/
def execCoolingUpdate (pumpsHeld fansHeld : Bool) (s : State) : Host.Outcome State Fault Refusal := .next (coolingUpdate pumpsHeld fansHeld s)
/-- COOLING_UNIT_FAIL. -/
def execCoolingUnitFail (unit : Fin 22) (s : State) : Host.Outcome State Fault Refusal := .next (unitFails unit s)
/-- COOLING_UNIT_INSERT. -/
def execCoolingUnitInsert (unit : Fin 22) (s : State) : Host.Outcome State Fault Refusal := .next (unitInserted unit s)
/-- PTP_LOCK: the offset and the steering word the servo computes. -/
def execPtpLock (tai : BitVec 64) (steer : BitVec 32) (s : State) : Host.Outcome State Fault Refusal := .next (ptpLock tai.toNat steer.toInt s)
/-- PTP_LOSS. -/
def execPtpLoss (s : State) : Host.Outcome State Fault Refusal := .next (ptpLoss s)
/-- REDFISH_REQUEST. -/
def execRedfishRequest (authentic : Bool) (r : Redfish) (s : State) : Host.Outcome State Fault Refusal := .next (redfish authentic r s)

end Sys2Proof.Machine
end

