-- ==== Sys2Proof/Machine/Breakwater.lean ====
section
/-! DEFINITION. Breakwater, the leak-protection circuit (R764 to R770, R774, R775), and loss of input power (R834). -/

namespace Sys2Proof.Machine

/-- An event about Breakwater, which the Lighthouse records (R762). -/
def emitBw (code w0 w1 : Nat) (s : State) : State := emitLh code 0xF1 0xFF w0 w1 0 s

/-- Zones as a mask. -/
def zoneMask (zs : List Nat) : Nat := ((List.range 20).filter zs.contains).foldl (fun m z => m + 2 ^ z) 0

/-- A zone reads wet for the first time. -/
def bwWet (zone : Nat) (s : State) : State :=
  if !s.bw.supply then s
  else { s with bw := { s.bw with wet := if s.bw.wet.contains zone then s.bw.wet else s.bw.wet ++ [zone], faults := s.bw.faults.filter (· != zone) } }

/-- Every bay switch opens with a cause, and stays open until LH_BAY_POWER. -/
def openAll (cause : Nat) (s : State) : State :=
  (List.range 16).foldl (fun s b =>
    if s.lhBit (F.lhBayStatePowered b) || (b == s.myBay && s.boot.powered) then openSwitch b cause (s.setLhBay b { s.lhBay b with manual := true }) else s) s

/-- A leak is confirmed: TRIPPED latches, every switch opens, pumps stop, the isolation opens and the valves close; the Lighthouse
records it when it reads it. `us` is the time from the first detection until the isolation stands open. -/
def bwTrip (us : Nat) (s : State) : State :=
  if !s.bw.supply || s.bw.tripped || s.bw.wet.isEmpty then s
  else
    let m := zoneMask s.bw.wet
    let s := { s with bw := { s.bw with tripped := true, isolated := true, valves := false, stopped := true, atTrip := m, seen := s.lhUp } }
    emitBw Ev.bwTrip m us (openAll 3 s)

/-- A wet reading ends before its confirmation. -/
def bwGlitch (zone : Nat) (s : State) : State :=
  if !s.bw.wet.contains zone then s
  else emitBw Ev.bwGlitch zone 0 { s with bw := { s.bw with wet := s.bw.wet.filter (· != zone) } }

/-- A zone reads as a sensor fault: it never trips. -/
def bwSensor (zone : Nat) (s : State) : State :=
  if !s.bw.supply || s.bw.faults.contains zone then s
  else emitBw Ev.bwSensorFault zone 0 { s with bw := { s.bw with faults := s.bw.faults ++ [zone] } }

/-- Failures of one channel that stand newly are recorded. -/
def testEvents (channel : Nat) (was now : List Nat) (s : State) : State :=
  (now.filter (fun z => !was.contains z)).foldl (fun s z => emitBw Ev.bwSelftestFail z channel s) s

/-- The channels are tested. -/
def bwTest (a b : List Nat) (s : State) : State :=
  if !s.bw.supply then s
  else
    let x := s.bw
    testEvents 1 x.testB b (testEvents 0 x.testA a { s with bw := { x with testA := a, testB := b } })

/-- BW_RESET, held for 3 s with every zone dry for 60 s. -/
def bwReset (s : State) : State :=
  if !s.bw.supply || !s.bw.tripped then s
  else emitBw Ev.bwReset 0 0 { s with bw := { s.bw with tripped := false, wet := [], faults := [], isolated := false, valves := true, stopped := false } }

/-- Breakwater loses its supply: the isolation opens and the valves close by spring return. -/
def bwSupplyLoss (s : State) : State :=
  if !s.bw.supply then s
  else
    inputLost { s with bw := { s.bw with supply := false, isolated := true, valves := false } }

/-! ## The commands -/

/-- BW_WET. -/
def execBwWet (zone : Fin 20) (s : State) : Host.Outcome State Fault Refusal := .next (bwWet zone s)
/-- BW_TRIP. -/
def execBwTrip (us : Word) (s : State) : Host.Outcome State Fault Refusal := .next (bwTrip us.toNat s)
/-- BW_GLITCH. -/
def execBwGlitch (zone : Fin 20) (s : State) : Host.Outcome State Fault Refusal := .next (bwGlitch zone s)
/-- BW_SENSOR_FAULT. -/
def execBwSensorFault (zone : Fin 20) (s : State) : Host.Outcome State Fault Refusal := .next (bwSensor zone s)
/-- BW_SELFTEST: the zones whose channel fails its test. -/
def execBwSelftest (failA failB : List (Fin 20)) (s : State) : Host.Outcome State Fault Refusal :=
  .next (bwTest (failA.map (fun (z : Fin 20) => z.val)) (failB.map (fun (z : Fin 20) => z.val)) s)
/-- BW_RESET. -/
def execBwReset (s : State) : Host.Outcome State Fault Refusal := .next (bwReset s)
/-- BW_SUPPLY_LOSS. -/
def execBwSupplyLoss (s : State) : Host.Outcome State Fault Refusal := .next (bwSupplyLoss s)
/-- BUSBAR_DIP: every module loses its power, until its bay is powered again. -/
def execBusbarDip (s : State) : Host.Outcome State Fault Refusal := .next (inputLost s)

end Sys2Proof.Machine
end

