-- ==== Sys2Proof/Machine/Views.lean ====
section
/-! DEFINITION. What registers show that is held elsewhere in the state: the stream window, the dispatcher, the security block, the
sequencer, and what the Lighthouse shows live (R81, R111, R203, R401, R406, R546, R547, R558, R562 to R566, R576 to R583, R685, R694 to R706, R788, R799). -/

namespace Sys2Proof.Machine

/-- A register word from its fields: value and lowest bit. -/
def word (fs : List (Nat × Nat)) : Word := BitVec.ofNat 32 (fs.map (fun f => f.1 * 2 ^ f.2)).sum

/-- A half of a 64-bit value. -/
def half (v : Nat) (hi : Bool) : Word := BitVec.ofNat 32 (if hi then v / 2 ^ 32 else v)

/-! ## The stream window (R111, R223) -/

/-- The descriptor that STREAM_SEL of a path names; through a VF only its own partition's. -/
def State.selected (s : State) (p : Path) : Option (Nat × Stream) :=
  (s.findHandle (s.sel p R.streamSel).toNat).filter (fun x => match p with | .vf n => x.2.par.part == n.val | _ => true)

/-- Die and first slice of the run a direction has its seat in. -/
def State.runAt (s : State) (d : Dirn) : Nat × Nat :=
  match d.seat.bind (tfind s.strm.cohorts) with
  | some c => (c.die, c.offset)
  | none => (0, 0)

/-- A STREAM_* register at an offset of the window. -/
def State.streamWord (s : State) (p : Path) (o : Nat) : Word :=
  match s.selected p with
  | none => 0
  | some (d, x) =>
    if o = 0x04 then word [(1, 31), (x.state.code, 28), (x.par.cls, 26), (x.par.floodEn.toNat, 25), (x.par.ebbEn.toNat, 24), (x.par.part, 18), (d, 0)]
    else if o = 0x08 then BitVec.ofNat 32 x.epoch
    else if o = 0x0C then BitVec.ofNat 32 (if x.par.cls = 0 ∧ x.par.floodEn then x.flood.bound else 0)
    else if o = 0x10 then BitVec.ofNat 32 (if x.par.cls = 0 ∧ x.par.ebbEn then x.ebb.bound else 0)
    else if o = 0x14 then word [((s.runAt x.flood).1, 26), ((s.runAt x.flood).2, 14), ((s.runAt x.ebb).1, 12), ((s.runAt x.ebb).2, 0)]
    else if o = 0x18 ∨ o = 0x1C then half (x.flood.last.getD 0) (o == 0x1C)
    else if o = 0x20 then word [(x.resident.toNat, 24), (x.par.granules, 0)]
    else half x.seed (o == 0x12C)

/-- PLAN_DIE of a die: 0, its reset value, while the compute dies have no power (R111, R708; log entry 6). -/
def State.planWord (s : State) (d : Nat) : Word :=
  if !s.answers (0x100_0000 + 0x20_0000 * d) then 0 else word [((s.eligible d).toNat, 31), (s.largestFree d, 16), (s.freeSlices d, 0)]

/-! ## The dispatcher -/

/-- The state code of R546. -/
def partCode (x : Option PState) : Nat :=
  match x with
  | none => 0
  | some .active => 1
  | some .destroying => 2

/-- The state code of DISP_CACHE_ENTRY. -/
def entryCode (x : EState) : Nat :=
  match x with
  | .loading => 1
  | .ready => 2
  | .reloading => 3
  | .broken => 4

/-- The registers of the partition selected. -/
def State.partWord (s : State) (p o : Nat) : Word :=
  let x := s.partition p
  let q := s.quota p
  if o = 0x14 then word [((s.channelsOf p).head?.getD 0, 24), ((s.channelsOf p).length, 16), (partCode (x.map Partition.state), 0)]
  else if o < 0xA0 then BitVec.ofNat 32 (fieldAt q.raw (o - 0x40) 4)
  else if o = 0xA0 then word [(s.partGranules p, 16), ((s.streamsOf p).length, 0)]
  else if o = 0xA4 then
    word [((s.disp.jobs.filter (fun j => j.2.part == p && !j.2.running)).length, 24), ((s.entriesOf p).length, 16), ((s.pagesUsed p).length / 128, 0)]
  else
    let n := (o - 0xB0) / 4
    word [(s.unitsHeld p n, 16), ((x.map (fun y => y.remain.getD n 0)).getD 0, 0)]

/-- DISP_CORE of a core. -/
def State.coreWord (s : State) (n : Nat) : Word :=
  let c := s.coreSt n
  let run := c.cmd.bind (tfind s.disp.cmds)
  word [(c.excl.toNat, 31), (run.isSome.toNat, 30), (c.changing.isSome.toNat, 29), (c.job.isSome.toNat, 28), ((run.map Cmd.part).getD c.lastPart, 16), ((run.map Cmd.sched).getD 0, 0)]

/-- RET_UNITS and FREE_UNITS of a core. -/
def State.spadWord (s : State) (n : Nat) : Word :=
  let c := s.coreSt n
  word [(((c.regions.filter (fun r => r.2.retained)).map (fun r => r.2.units)).sum, 16), (c.freeUnits, 0)]

/-- Cores as a mask. -/
def coreMask (cs : List Nat) : Nat := ((List.range 8).filter cs.contains).foldl (fun m c => m + 2 ^ c) 0

/-- The registers of the model-cache entry selected. -/
def State.entryWord (s : State) (i o : Nat) : Word :=
  match s.entry i with
  | none => 0
  | some e =>
    if o = 0x204 then
      word [(1, 31), (entryCode e.state, 28), (e.pinned.toNat, 27), ((s.entryHeld e).toNat, 26), ((s.entryInUse e).toNat, 25), (e.part, 16), (e.tag, 0)]
    else if o = 0x208 then word [(coreMask (e.resident.map Prod.fst), 24), (e.pinMask, 16), (e.hotUnits, 0)]
    else half e.lru (o == 0x210)

/-- The registers of the schedule selected. -/
def State.schedWord (s : State) (i o : Nat) : Word :=
  match tfind s.disp.scheds i with
  | none => 0
  | some h =>
    if o = 0x304 then word [(1, 31), (h.kernel.toNat, 30), (h.ebb.toNat, 29), (h.programs - 1, 26), (h.part, 16), (h.k, 0)]
    else BitVec.ofNat 32 h.wcet

/-- A register of the dispatcher block; none where the register file holds it. -/
def State.dispWord (s : State) (p : Path) (o : Nat) : Option Word :=
  let sel := fun (off : Nat) => (s.sel p off).toNat
  if o = 0x14 ∨ (0x40 ≤ o ∧ o < 0xD0) then some (s.partWord (sel R.dispPartSel) o)
  else if 0x100 ≤ o ∧ o < 0x120 then some (s.coreWord ((o - 0x100) / 4))
  else if 0x120 ≤ o ∧ o < 0x140 then some (s.spadWord ((o - 0x120) / 4))
  else if 0x140 ≤ o ∧ o < 0x160 then some (BitVec.ofNat 32 (2 ^ 20 - s.progBytes (s.coreSt ((o - 0x140) / 4)).store))
  else if 0x204 ≤ o ∧ o < 0x214 then some (s.entryWord (sel R.dispCacheSel) o)
  else if o = 0x304 ∨ o = 0x308 then some (s.schedWord (sel R.dispSchedSel) o)
  else if o = 0x320 then some (word [((s.disp.jobs.filter (fun j => !j.2.running)).length, 16), ((s.disp.jobs.filter (fun j => j.2.running)).length, 0)])
  else none

/-! ## Security -/

/-- A mask over the partition keys. -/
def State.pkeyMask (s : State) (f : Key → Bool) : Nat := ((List.range 64).filter (fun p => f (tget s.sec.pkeys p {}))).foldl (fun m p => m + 2 ^ p) 0

/-- The key that SEC_KEY_SEL of a path names. -/
def State.selKey (s : State) (p : Path) : Option (Nat × Key) :=
  let k := (s.sel p R.secKeySel).toNat
  if k ≤ 1 ∨ (0x10 ≤ k ∧ k < 0x50) then some (k, s.key k) else none

/-- A register of the security block; none where the register file holds it. No debug path reads a counter reserve (R694). -/
def State.secWord (s : State) (p : Path) (o : Nat) : Option Word :=
  let x := s.sec
  let k := s.selKey p
  if o = 0x00 then some (word [(x.returnDone.toNat, 31), (x.lc, 0)])
  else if o = 0x08 ∨ o = 0x0C then some (half x.uid (o == 0x0C))
  else if o = 0x10 then some (word [(x.maker.present.toNat, 31), (x.maker.locked.toNat, 30), (x.owner.locked.toNat, 29), (x.signGen, 8), (x.ownerGen, 0)])
  else if o = 0x18 ∨ o = 0x1C then some (half (s.pkeyMask Key.present) (o == 0x1C))
  else if o = 0x20 ∨ o = 0x24 then some (half (s.pkeyMask Key.locked) (o == 0x24))
  else if o = 0x30 ∨ o = 0x34 then some (half ((k.map (fun y => y.2.ctr)).getD 0) (o == 0x34))
  else if o = 0x38 ∨ o = 0x3C then some (if p = .debug then 0 else half ((k.map (fun y => y.2.reserve)).getD 0) (o == 0x3C))
  else if o = 0x40 then
    some (match k with
      | some (i, y) => word [(y.locked.toNat, 31), (y.refusing.toNat, 30), (y.fails, 16), (if i ≤ 1 then y.left else 0, 0)]
      | none => 0)
  else if o = 0x48 ∨ o = 0x4C then some (half x.floorMaker.value (o == 0x4C))
  else if o = 0x50 ∨ o = 0x54 then some (half x.floorOwner.value (o == 0x54))
  else if o = 0x58 then some (word [(x.floorOwner.left, 8), (x.floorMaker.left, 0)])
  else if o = 0x60 then some s.secDebug
  else if 0x80 ≤ o ∧ o < 0xA0 then some (BitVec.ofNat 32 (fieldAt x.challenge (o - 0x80) 4))
  else none

/-! ## Cores -/

/-- The scratchpad region SP_REGION_SEL of a path names on a core. -/
def State.regionWord (s : State) (p : Path) (n : Nat) : Word :=
  match tfind (s.coreSt n).regions (s.sel p (R.spRegionSel n)).toNat with
  | none => 0
  | some r => word [(1, 31), (r.retained.toNat, 30), (r.part, 24), (r.base, 15), (r.units, 5)]

/-- SQ_STATUS of a core: what the sequencer is held by. -/
def State.sqWord (s : State) (n : Nat) : Word :=
  let run := (s.coreSt n).cmd.bind (tfind s.disp.cmds)
  let next := (s.nextRec n).map (fun x => x.2.2.2)
  let part := (run.map Cmd.part).getD 0
  let dma := match next with
    | some (.wait ch k) => !((s.partChannel part ch).any (fun c => decide (k ≤ tget (s.chan c).ended ((s.coreSt n).cmd.getD 0) 0)))
    | some (.submit ch _) => (s.partChannel part ch).any (fun c => decide (32 ≤ (s.chan c).queue.length))
    | _ => false
  let sync := match next with
    | some .barrier => true
    | some (.ve r) => r.op == 0x27
    | some (.ru r) => r.op == 0x38
    | _ => false
  let peer := ((s.engines n).seq.bind Seq.peer).isSome
  word [(run.isSome.toNat, 31), (dma.toNat, 30), ((peer && run.isSome).toNat, 29), (sync.toNat, 28), (part, 16), ((run.map Cmd.sched).getD 0, 0)]

/-- SQ_POS of a core. -/
def State.posWord (s : State) (n : Nat) : Word :=
  match (s.engines n).seq with
  | some q => word [(q.prog, 24), (q.loops.length, 20), (q.pos, 0)]
  | none => 0

/-- A register of a core block; none where the register file holds it. -/
def State.coreBlock (s : State) (p : Path) (n o : Nat) : Option Word :=
  if o = 0x3_000C then some (s.regionWord p n)
  else if o = 0x3_0018 then some (BitVec.ofNat 32 (s.coreSt n).zeroing.length)
  else if o = 0x4_0000 then some (s.sqWord n)
  else if o = 0x4_0004 then some (s.posWord n)
  else none

/-! ## The device region -/

/-- A point of the Lighthouse that R788 names stands in alarm at this module's bay. -/
def State.stillHot (s : State) : Bool := [7, 8, 9, 10, 11, 12, 13, 14, 15, 18].any (fun i => s.lhBit (F.lhPtAlarm (s.myBay * 20 + i)))

/-- The selectors that each path holds for itself (R824). -/
def isSelector (off : Nat) : Bool :=
  off == R.streamSel || off == R.dispPartSel || off == R.dispCacheSel || off == R.dispSchedSel || off == R.secKeySel || (List.range 8).any (fun n => off == R.spRegionSel n)

/-- A register that shows what is held elsewhere; none where the register file holds it. -/
def State.shown (s : State) (p : Path) (off : Nat) : Option Word :=
  if isSelector off then some (s.sel p off)
  else
    let u := unitOf off
    let o := off % 2 ^ 20
    if u = 0 then
      (if off = R.hubBootAttempts ∧ s.ready ∧ ¬s.failStopped ∧ ¬s.boot.stable then
        some (wset (s.reg off) 31 16 (min 600 ((s.time - s.boot.readySince) / 1000000000)))
      else none)
    else if u = 2 then s.secWord p o
    else if u = 6 then
      (if 0x1000 ≤ o ∧ o % 0x100 = 0 then some (if 4 ≤ s.stage ∧ s.stage ≤ 9 then 0xF1 else 0) else none)
    else if u = 9 then
      (if o < 0x80000 then s.dispWord p o
      else if o < 0x80024 ∨ o = 0x80128 ∨ o = 0x8012C then some (s.streamWord p (o - 0x80000))
      else if 0x80200 ≤ o ∧ o < 0x80210 then some (s.planWord ((o - 0x80200) / 4))
      else none)
    else if u = 0xB then (if o < 8 then some (half s.time (o == 4)) else none)
    else if u = 0xC then
      (if off = R.errFsStatus then some (wset (s.reg off) 30 30 (s.releasable s.stillHot).toNat)
      else if off = R.errSvcStatus then some (wset (s.reg off) 15 0 (min 0xFFFF ((s.tide.area.filter CkptRecord.valid).map (fun r => (r.handle, r.ebb))).eraseDups.length))
      else none)
    else if 0x10 ≤ u ∧ u < 0x18 then s.coreBlock p (u - 0x10) o
    else none

/-- The live value of a register: what a read returns beside the latch of R11. -/
def State.live (s : State) (p : Path) (off : Nat) : Word :=
  match findReg deviceBlocks off with
  | none => 0
  | some r => r.readable ((s.shown p off).getD (s.reg off))

/-! ## The Lighthouse BAR -/

/-- LH_BAY_STATE of this module's bay, its signals as they stand (R726, R727). -/
def State.myBayWord (s : State) : Word :=
  let w := s.lhReg (R.lhBayState s.myBay)
  if !s.lhUp || !s.lhBit (F.lhBayStatePowered s.myBay) || !s.boot.powered then w
  else
    let x := s.lhBay s.myBay
    wset (wset (wset (wset (wset w 28 28 s.pins.faultN.toNat) 27 27 s.pins.thermtripN.toNat) 26 26 (s.reg R.hubAlert != 0).toNat) 25 25 s.pins.ready.toNat)
      24 24 (s.pins.heartbeat && !x.hbLost).toNat

/-- The live value of a register of the Lighthouse BAR. -/
def State.lhLive (s : State) (off : Nat) : Word :=
  match findReg lighthouseBlocks off with
  | none => 0
  | some r =>
    let w :=
      if off = R.lhBayState s.myBay then s.myBayWord
      else if off = R.lhBwStatus then word [(s.bw.tripped.toNat, 31), (zoneMask s.bw.wet, 0)]
      else if off = R.lhBwFaults then BitVec.ofNat 32 (zoneMask s.bw.faults)
      else if off = R.lhBwTest then BitVec.ofNat 32 (zoneMask s.bw.testA)
      else if off = R.lhBwTestB then BitVec.ofNat 32 (zoneMask s.bw.testB)
      else s.lhReg off
    r.readable w

end Sys2Proof.Machine
end

