-- ==== Sys2Proof/Machine/RegAccess.lean ====
section
/-! DEFINITION. Register accesses that no row of their own covers: reads with their latches, writes by access code and by each register's
own rule, staged pairs, memory requests to the BARs, and the management link's register operations (R8 to R25, R111, R221, R222, R227,
R229, R253, R466, R706, R721 to R724, R821 to R828, R865). -/

namespace Sys2Proof.Machine

/-! ## Reads -/

/-- What a read of a module that has no power returns: nothing answers on the bus (R25). -/
abbrev noAnswer : Word := 0xFFFFFFFF
/-- What a block that is powered off reads as (R25). -/
abbrev offAnswer : Word := 0xFFFF0000

/-- A path may read the register at an offset (R223, R694, R823): SEC_DBG is for the debug paths and the hub, and a debug path reads only while it is
open. -/
def State.mayRead (s : State) (p : Path) (off : Nat) : Bool :=
  match p with
  | .hub => true
  | .debug => if isDbgReg off then s.debugAuth else s.debugOpen
  | _ => inWindow p off && !isDbgReg off

/-- A value is taken out of a latch. -/
def popLatch (p : Path) (lo : Nat) (s : State) : State := s.setPath p { s.pathState p with latch := terase (s.pathState p).latch lo }

/-- A register is read: the value returned, and the state after (R9, R11, R12, R23, R706). -/
def readReg (p : Path) (off : Nat) (r : RegDef) (s : State) : Word × State :=
  match r.kind with
  | .lo =>
    (s.live p off, s.setPath p { s.pathState p with latch := tset (s.pathState p).latch off (s.live p (off + 4)) })
  | .hi =>
    match tfind (s.pathState p).latch (off - 4) with
    | some w => (w, popLatch p (off - 4) s)
    | none => (s.live p off, s)
  | .one =>
    if off = R.secRng then (BitVec.ofNat 32 s.freeNow, { s.freeNext with sec := { s.sec with drbg := s.sec.drbg + 1 } })
    else (s.live p off, if r.fields.any (fun f => f.acc == .rc) then s.setReg off (r.afterRead (s.reg off)) else s)

/-- One 32-bit read of the device region on a path. -/
def readWord (p : Path) (off : Nat) (s : State) : Word × State :=
  if !s.boot.powered then (noAnswer, s)
  else if !implemented off || !inWindow p off then (0, s)
  else if !s.answers off then (offAnswer, emitM Ev.regPoweredOff (unitOf off) (instOf off) off 0 0 s)
  else match findReg deviceBlocks off with
    | none => (0, s)
    | some r => if !s.mayRead p off then (0, s) else readReg p off r s

/-! ## Writes -/

/-- The fields of a register take a written word by their access codes (R9). -/
def plainWrite (off : Nat) (r : RegDef) (v : Word) (s : State) : State := s.setReg off (r.written (s.reg off) v)

/-- A register of a queue page (R227, R229, R233, R236). -/
def writeQueue (off : Nat) (r : RegDef) (v : Word) (s : State) : State :=
  let q := pageQueue off
  let o := off % 0x1000
  if o = 0x0C then effSqTail q v s
  else if o = 0x24 then effRqHead q v s
  else if o = 0x30 then (if v.getLsbD 1 then effQueueReset q s else if v.getLsbD 0 then effQueueEnable q s else effQueueDisable q s)
  else if o = 0x08 ∨ o = 0x20 then effQueueCfg q (plainWrite off r v) s
  else plainWrite off r v s

/-- A register of the event queue (R253, R259, R267). -/
def writeEvq (off : Nat) (r : RegDef) (v : Word) (s : State) : State :=
  if off = R.evqCfg then effEvqCfg v s
  else if off = R.evqHead then effEvqHead v s
  else if off = R.evqStatus then
    let s := s.setReg off (r.written (s.reg off) (wset v 1 1 0))
    if v.getLsbD 1 then effEvqLostClear s else s
  else plainWrite off r v s

/-- A register of an audio port (R122, R138, R141). -/
def writePort (off : Nat) (r : RegDef) (v : Word) (s : State) : State :=
  let n := (off - 0x300000) / 0x1000
  let o := off % 0x1000
  if o = 0x00 then effApCtrl n v s
  else if o = 0x04 then effApCfg n .cfg v s
  else if o = 0x08 then effApCfg n .frame v s
  else if o = 0x0C then effApCfg n .floodMask v s
  else if o = 0x10 then effApCfg n .ebbMask v s
  else if o = 0x8C then effVadSoft n v s
  else if o = 0x90 then effApCut n v s
  else plainWrite off r v s

/-- A register of a module DMA channel (R466, R477). -/
def writeDma (off : Nat) (r : RegDef) (v : Word) (s : State) : State :=
  let c := (off - 0x500000) / 0x400
  let o := off % 0x400
  if o = 0x04 then
    (if v.getLsbD 1 then abortChan c s
     else if v.getLsbD 0 then effDmaEnable c s
     else dmaSync c (s.setBit (F.dmaChCtrlEn c) false))
  else if o = 0x1C then effDmaTail c v s
  else if o = 0x18 then (if s.bit (F.dmaChCtrlEn c) then s else dmaSync c (plainWrite off r v s))
  else plainWrite off r v s

/-- The tidemark a CFG register belongs to. -/
def markAt (off : Nat) : Option Mark :=
  let marks := (List.finRange 8).flatMap (fun n => [Mark.apFlood n, .apEbb n, .iring n]) ++ (List.finRange 64).map Mark.dma ++ [.pool, .evq]
  marks.find? (fun m => markOff m == off)

/-- The effect of a write by the unit a register belongs to. -/
def writeUnit (p : Path) (off : Nat) (r : RegDef) (v : Word) (s : State) : State :=
  let u := unitOf off
  if u = 0 then (if off = R.hubBootCtrl then effBootCtrl v s else plainWrite off r v s)
  else if u = 1 then (if off < 0x180000 then writeQueue off r v s else writeEvq off r v s)
  else if u = 2 then
    (if off = R.secDbgResp7 then effDebugResp false v s
     else if 0x2000A0 ≤ off ∧ off < 0x2000BC then s.setReg off v
     else plainWrite off r v s)
  else if u = 3 then writePort off r v s
  else if u = 4 then (if off < 0x401000 ∧ off % 0x100 = 0 then effAcsCtrl ((off - 0x400000) / 0x100) v s else plainWrite off r v s)
  else if u = 5 then (if off < 0x510000 then writeDma off r v s else plainWrite off r v s)
  else if u = 9 then
    (if 0x980400 ≤ off ∧ off % 0x20 = 0 then iringTide ((off - 0x980400) / 0x20) (plainWrite off r v s) else plainWrite off r v s)
  else if u = 0xA then (if off < 0xA10000 ∧ off % 0x100 = 0 then effLinkCtrl ((off - 0xA00000) / 0x100) v s else plainWrite off r v s)
  else if off = R.errSvcCtrl then (if v.getLsbD 0 && p == .pf0 then effLeave s else s)
  else plainWrite off r v s

/-- A write that has passed the screen, by the rule of its register. -/
def effWrite (p : Path) (off : Nat) (r : RegDef) (v : Word) (s : State) : State :=
  if isSelector off then s.setPath p { s.pathState p with sel := tset (s.pathState p).sel off (r.written (s.sel p off) v) }
  else match markAt off with
    | some m => markNotify m (tmConfig off v s)
    | none => match markAt (off - 4) with
      | some m => if v.getLsbD 31 then markNotify m (tmRearm (off - 4) s) else s
      | none => writeUnit p off r v s

/-- A 64-bit value is committed as one update (R13, R14), by the rule of its register. -/
def commitPair (lo : Nat) (v : Nat) (s : State) : State :=
  match findReg deviceBlocks lo, findReg deviceBlocks (lo + 4) with
  | some a, some b =>
    let plain := fun (s : State) => plainWrite (lo + 4) b (half v true) (plainWrite lo a (half v false) s)
    let u := unitOf lo
    if u = 1 ∧ lo < 0x180000 then effQueueCfg (pageQueue lo) plain s
    else if lo = R.evqBase then (if s.bit F.evqCfgEn then s else plain s)
    else if u = 3 ∧ lo % 0x1000 = 0x20 then effRingNext ((lo - 0x300000) / 0x1000) (BitVec.ofNat 64 v) s
    else if u = 5 ∧ lo < 0x510000 ∧ s.bit (F.dmaChCtrlEn ((lo - 0x500000) / 0x400)) then s
    else plain s
  | _, _ => s

/-- A write of a register of any kind that has passed the screen: LO is staged, HI commits, any other takes effect. -/
def writeReg (p : Path) (off : Nat) (r : RegDef) (v : Word) (s : State) : State :=
  match r.kind with
  | .lo => s.setPath p { s.pathState p with staged := tset (s.pathState p).staged off v }
  | .hi =>
    let lo := off - 4
    let low := (tfind (s.pathState p).staged lo).getD (s.reg lo)
    commitPair lo (low.toNat + 2 ^ 32 * v.toNat) (dropStaged p lo s)
  | .one => effWrite p off r v s

/-- One 32-bit write of the device region on a path. -/
def writeWord (p : Path) (off : Nat) (be : BitVec 4) (v : Word) (s : State) : State :=
  screen p off be (fun s => match findReg deviceBlocks off with
    | some r => writeReg p off r v s
    | none => s) s

/-! ## The Lighthouse BAR (R721, R749, R755, R762, R826) -/

/-- What the host's path to the Lighthouse holds for 64-bit values. -/
def lhPath : Nat := 68

/-- One 32-bit read of the Lighthouse BAR; a Lighthouse that does not run answers nothing. -/
def lhRead (off : Nat) (s : State) : Word × State :=
  if !s.lhUp then (noAnswer, s)
  else match findReg lighthouseBlocks off with
    | none => (0, s)
    | some r =>
      let x := tget s.paths lhPath {}
      match r.kind with
      | .lo => (s.lhLive off, { s with paths := tset s.paths lhPath { x with latch := tset x.latch off (s.lhLive (off + 4)) } })
      | .hi => match tfind x.latch (off - 4) with
        | some w => (w, { s with paths := tset s.paths lhPath { x with latch := terase x.latch (off - 4) } })
        | none => (s.lhLive off, s)
      | .one => (s.lhLive off, if r.fields.any (fun f => f.acc == .rc) then s.setLhReg off (r.afterRead (s.lhReg off)) else s)

/-- A write of the Lighthouse's event-queue block: the rules of the module's, without tidemark events, which R763 does not list. -/
def lhWriteEvq (o : Nat) (r : RegDef) (v : Word) (s : State) : State :=
  let off := R.evqBase + o
  if o = 0x30 then (tmConfig off v s).2
  else if o = 0x34 then (if v.getLsbD 31 then (tmRearm off s).2 else s)
  else writeEvq off r v s

/-- A write of one register of the Lighthouse BAR. -/
def lhWriteReg (off : Nat) (r : RegDef) (v : Word) (s : State) : State :=
  let x := tget s.paths lhPath {}
  match r.kind with
  | .lo => { s with paths := tset s.paths lhPath { x with staged := tset x.staged off v } }
  | .hi =>
    let low := (tfind x.staged (off - 4)).getD (s.lhReg (off - 4))
    let s := { s with paths := tset s.paths lhPath { x with staged := terase x.staged (off - 4) } }
    if off = R.lhEvqBase + 4 then onLhQueue (commitPair R.evqBase (low.toNat + 2 ^ 32 * v.toNat)) s else s
  | .one =>
    if off = R.lhHostPing then s.setLhBit F.lhStatusHostSilent false
    else if off = R.mbDoorbell then mailboxBell v s
    else if 0x2000 ≤ off ∧ off < 0x2040 then onLhQueue (lhWriteEvq (off - 0x2000) r v) s
    else s.setLhReg off (r.written (s.lhReg off) v)

/-- One 32-bit write of the Lighthouse BAR. -/
def lhWrite (off : Nat) (v : Word) (s : State) : State :=
  if !s.lhUp then s
  else match findReg lighthouseBlocks off with
    | none => s
    | some r => lhWriteReg off r v s

/-! ## MSI-X tables (R221, R252, R721; log entry 5) -/

/-- A vector of the module or of the Lighthouse. -/
def State.vectorOf (s : State) (lh : Bool) (fn v : Nat) : Vector := tget (if lh then s.lh.host else s.host).vectors (vectorKey fn v) {}

/-- Change a vector of the module or of the Lighthouse. -/
def setVector (lh : Bool) (fn v : Nat) (x : Vector) (s : State) : State :=
  if lh then { s with lh := { s.lh with host := { s.lh.host with vectors := tset s.lh.host.vectors (vectorKey fn v) x } } }
  else { s with host := { s.host with vectors := tset s.host.vectors (vectorKey fn v) x } }

/-- The vectors of a function: four of PF0, one of a VF, three of the Lighthouse. -/
def vectorCount (lh : Bool) (fn : Nat) : Nat := if lh then 3 else if fn = 0 then 4 else 1

/-- A word of a BAR2. -/
def tableRead (lh : Bool) (fn pba off : Nat) (s : State) : Word :=
  let n := vectorCount lh fn
  if off = pba then BitVec.ofNat 32 (((List.range n).filter (fun v => (s.vectorOf lh fn v).pending)).map (fun v => 2 ^ v)).sum
  else if off < 16 * n then
    let x := s.vectorOf lh fn (off / 16)
    match off % 16 / 4 with
    | 0 => BitVec.ofNat 32 x.addr
    | 1 => BitVec.ofNat 32 (x.addr / 2 ^ 32)
    | 2 => BitVec.ofNat 32 x.data
    | _ => BitVec.ofNat 32 x.masked.toNat
  else 0

/-- A write of a word of a BAR2: the table, not the PBA; clearing a mask bit unmasks the vector. -/
def tableWrite (lh : Bool) (fn off : Nat) (w : Word) (s : State) : State :=
  if off < 16 * vectorCount lh fn then
    let v := off / 16
    let x := s.vectorOf lh fn v
    match off % 16 / 4 with
    | 0 => setVector lh fn v { x with addr := x.addr / 2 ^ 32 * 2 ^ 32 + w.toNat / 4 * 4 } s
    | 1 => setVector lh fn v { x with addr := x.addr % 2 ^ 32 + w.toNat * 2 ^ 32 } s
    | 2 => setVector lh fn v { x with data := w.toNat } s
    | _ =>
      if w.getLsbD 0 then setVector lh fn v { x with masked := true } s
      else if x.masked then (if lh then onLhQueue (unmask fn v) s else unmask fn v s)
      else s
  else s

/-! ## Memory requests (R221, R222, R822, R827, R828) -/

/-- A word read of a BAR; a VF reaches only what its window holds. -/
def barRead (bar : Bar) (off : Nat) (s : State) : Word × State :=
  match bar with
  | .pf0Bar0 => readWord .pf0 off s
  | .vfBar0 n => match pathOffset (.vf n) off with
    | some o => readWord (.vf n) o s
    | none => (if s.boot.powered then 0 else noAnswer, s)
  | .lhBar0 => lhRead off s
  | .pf0Bar2 => (if s.boot.powered then tableRead false 0 0x8000 off s else noAnswer, s)
  | .vfBar2 n => (if s.boot.powered then tableRead false (n.val + 1) 0x2000 off s else noAnswer, s)
  | .lhBar2 => (if s.lhUp then tableRead true 0 0x2000 off s else noAnswer, s)

/-- A word write of a BAR. -/
def barWrite (bar : Bar) (off : Nat) (w : Word) (s : State) : State :=
  match bar with
  | .pf0Bar0 => writeWord .pf0 off 0xF#4 w s
  | .vfBar0 n => match pathOffset (.vf n) off with
    | some o => writeWord (.vf n) o 0xF#4 w s
    | none => s
  | .lhBar0 => lhWrite off w s
  | .pf0Bar2 => powered (tableWrite false 0 off w) s
  | .vfBar2 n => powered (tableWrite false (n.val + 1) off w) s
  | .lhBar2 => if s.lhUp then tableWrite true 0 off w s else s

/-- Words read one after the other, in ascending order. -/
def readWords (f : Nat → State → Word × State) : Nat → Nat → State → List Word × State
  | 0, _, s => ([], s)
  | n + 1, off, s =>
    let r := f off s
    let rest := readWords f n (off + 4) r.2
    (r.1 :: rest.1, rest.2)

/-- Words written one after the other, in ascending order. -/
def writeWords (f : Nat → Word → State → State) : List Word → Nat → State → State
  | [], _, s => s
  | w :: ws, off, s => writeWords f ws (off + 4) (f off w s)

/-- How the last access ended, and what it returned. -/
def noteAccess (data : List Word) (aborted : Bool) (s : State) : State := { s with host := { s.host with readData := data, completerAbort := aborted } }

/-- A request of more than 16 words, or one that crosses a 64-byte boundary. -/
def tooWide (off words : Nat) : Bool := decide (16 < words) || decide (64 < off % 64 + 4 * words)

/-- The function of the module a BAR belongs to, none for the Lighthouse's. -/
def barFunction : Bar → Option Nat
  | .pf0Bar0 => some 0
  | .pf0Bar2 => some 0
  | .vfBar0 n => some (n.val + 1)
  | .vfBar2 n => some (n.val + 1)
  | .lhBar0 => none
  | .lhBar2 => none

/-- A memory request to a BAR: `data` is what a write carries. A Completer Abort is logged in the function's AER (R218). -/
def barRequest (bar : Bar) (off words : Nat) (data : Option (List Word)) (s : State) : State :=
  let bar0 := match bar with | .pf0Bar0 => true | .vfBar0 _ => true | .lhBar0 => true | _ => false
  let off := off / 4 * 4
  if bar0 && tooWide off words then noteAccess [] true ((barFunction bar).toList.foldl (fun s fn => noteAer fn s) s)
  else match data with
    | some ws => noteAccess [] false (writeWords (barWrite bar) (ws.take words) off s)
    | none =>
      let r := readWords (barRead bar) words off s
      noteAccess r.1 false r.2

/-! ## The commands -/

/-- A path's offset of the device region, unless a register of another kind stands there. -/
def regOf (p : Path) (off : Nat) (k : RegKind) : Option Nat :=
  (pathOffset p off).filter (fun o => (findReg deviceBlocks o).all (fun r => r.kind == k))

/-- A read on a path of a register of a kind; an offset that holds none reads as R16 has it. -/
def readKind (p : Path) (off : Nat) (k : RegKind) (s : State) : State :=
  match regOf p off k with
  | some o => let r := readWord p o s; noteAccess [r.1] false r.2
  | none => noteAccess [if s.boot.powered then 0 else noAnswer] false s

/-- A write on a path of a register of a kind. -/
def writeKind (p : Path) (off : Nat) (k : RegKind) (be : BitVec 4) (v : Word) (s : State) : State :=
  match regOf p off k with
  | some o => writeWord p o be v s
  | none => s

/-- REGISTER_WRITE. -/
def execRegisterWrite (path : Path) (off : Nat) (be : BitVec 4) (v : Word) (s : State) : Host.Outcome State Fault Refusal := .next (writeKind path off .one be v s)
/-- LO_READ. -/
def execLoRead (path : Path) (off : Nat) (s : State) : Host.Outcome State Fault Refusal := .next (readKind path off .lo s)
/-- HI_READ. -/
def execHiRead (path : Path) (off : Nat) (s : State) : Host.Outcome State Fault Refusal := .next (readKind path off .hi s)
/-- LO_WRITE. -/
def execLoWrite (path : Path) (off : Nat) (be : BitVec 4) (v : Word) (s : State) : Host.Outcome State Fault Refusal := .next (writeKind path off .lo be v s)
/-- HI_WRITE. -/
def execHiWrite (path : Path) (off : Nat) (be : BitVec 4) (v : Word) (s : State) : Host.Outcome State Fault Refusal := .next (writeKind path off .hi be v s)
/-- RC_READ: a read of a register that is no half of a 64-bit value. -/
def execRcRead (path : Path) (off : Nat) (s : State) : Host.Outcome State Fault Refusal := .next (readKind path off .one s)
/-- BAR_REQUEST. -/
def execBarRequest (bar : Bar) (off words : Nat) (data : Option (List Word)) (s : State) : Host.Outcome State Fault Refusal := .next (barRequest bar off words data s)
/-- SEC_RNG_READ. -/
def execSecRngRead (path : Path) (s : State) : Host.Outcome State Fault Refusal :=
  .next (let r := readWord path R.secRng s; noteAccess [r.1] false r.2)
/-- REG_READ: 4 to 256 bytes of registers, as read on the management path. -/
def execRegRead (tag : Byte) (off len : Nat) (s : State) : Host.Outcome State Fault Refusal :=
  .next (if !s.boot.powered then s
    else if len < 4 ∨ 256 < len ∨ len % 4 ≠ 0 ∨ off % 4 ≠ 0 then answerFrame 1 tag.toNat Mg.badArg [] s
    else
      let r := readWords (readWord .mgmt) (len / 4) off s
      answerFrame 1 tag.toNat Mg.ok (r.1.flatMap (fun w => leBytes 4 w.toNat)) r.2)
/-- REG_WRITE. -/
def execRegWrite (tag : Byte) (off : Nat) (v : Word) (s : State) : Host.Outcome State Fault Refusal :=
  .next (powered (fun s => let r := mgmtWrite off v s; answerFrame 2 tag.toNat r.1 [] r.2) s)

end Sys2Proof.Machine
end

