-- ==== Sys2Proof/Machine/Dispatch.lean ====
section
/-! DEFINITION. One arm per command: a direct call of its meaning. -/

namespace Sys2Proof.Machine

def exec (i : Instr) (s : State) : Host.Outcome State Fault Refusal :=
  match i with
  | .registerWrite path off be v => Sys2Proof.Machine.execRegisterWrite path off be v s
  | .loRead path off => Sys2Proof.Machine.execLoRead path off s
  | .hiRead path off => Sys2Proof.Machine.execHiRead path off s
  | .loWrite path off be v => Sys2Proof.Machine.execLoWrite path off be v s
  | .hiWrite path off be v => Sys2Proof.Machine.execHiWrite path off be v s
  | .rcRead path off => Sys2Proof.Machine.execRcRead path off s
  | .barRequest bar off words data => Sys2Proof.Machine.execBarRequest bar off words data s
  | .sqTailDoorbell path q v => Sys2Proof.Machine.execSqTailDoorbell path q v s
  | .commandFetch q r => Sys2Proof.Machine.execCommandFetch q r s
  | .rqHeadWrite path q v => Sys2Proof.Machine.execRqHeadWrite path q v s
  | .queueEnable path q => Sys2Proof.Machine.execQueueEnable path q s
  | .queueDisable path q => Sys2Proof.Machine.execQueueDisable path q s
  | .queueReset path q => Sys2Proof.Machine.execQueueReset path q s
  | .queueCfgWrite path q which v => Sys2Proof.Machine.execQueueCfgWrite path q which v s
  | .evqCfgWrite path v => Sys2Proof.Machine.execEvqCfgWrite path v s
  | .evqHeadWrite path v => Sys2Proof.Machine.execEvqHeadWrite path v s
  | .evqLostClear path => Sys2Proof.Machine.execEvqLostClear path s
  | .msixModerationTimer fn vec => Sys2Proof.Machine.execMsixModerationTimer fn vec s
  | .msixUnmask fn vec => Sys2Proof.Machine.execMsixUnmask fn vec s
  | .vfFlr p => Sys2Proof.Machine.execVfFlr p s
  | .pf0Reset kind link => Sys2Proof.Machine.execPf0Reset kind s link
  | .keyRefusalEnd slot => Sys2Proof.Machine.execKeyRefusalEnd slot s
  | .nop q => Sys2Proof.Machine.execNop q s
  | .streamOpen q d => Sys2Proof.Machine.execStreamOpen q d s
  | .streamCloseDrain q => Sys2Proof.Machine.execStreamCloseDrain q s
  | .streamCloseAbort q => Sys2Proof.Machine.execStreamCloseAbort q s
  | .streamChunk q => Sys2Proof.Machine.execStreamChunk q s
  | .commandDataArrived q cmdId d => Sys2Proof.Machine.execCommandDataArrived q cmdId d s
  | .ebbInput q => Sys2Proof.Machine.execEbbInput q s
  | .ebbCancel q => Sys2Proof.Machine.execEbbCancel q s
  | .streamStandingRetry q => Sys2Proof.Machine.execStreamStandingRetry q s
  | .schedInstall q d => Sys2Proof.Machine.execSchedInstall q d s
  | .schedRemove q => Sys2Proof.Machine.execSchedRemove q s
  | .tableInstallMapping q d => Sys2Proof.Machine.execTableInstallMapping q d s
  | .tableInstallActivation q d => Sys2Proof.Machine.execTableInstallActivation q d s
  | .modelLoad q d copy ecc => Sys2Proof.Machine.execModelLoad q d copy s ecc
  | .modelPin q => Sys2Proof.Machine.execModelPin q s
  | .modelUnpin q => Sys2Proof.Machine.execModelUnpin q s
  | .jobSubmit q d => Sys2Proof.Machine.execJobSubmit q d s
  | .jobCancel q => Sys2Proof.Machine.execJobCancel q s
  | .partitionSet d => Sys2Proof.Machine.execPartitionSet d s
  | .coreModeSet => Sys2Proof.Machine.execCoreModeSet s
  | .partitionCreate d => Sys2Proof.Machine.execPartitionCreate d s
  | .partitionDestroy d => Sys2Proof.Machine.execPartitionDestroy d s
  | .keyInstall q d => Sys2Proof.Machine.execKeyInstall q d s
  | .lifecycleStep q d => Sys2Proof.Machine.execLifecycleStep q d s
  | .imageUpdate q d image again flashOk => Sys2Proof.Machine.execImageUpdate q d image again flashOk s
  | .faultPolicySet q d => Sys2Proof.Machine.execFaultPolicySet q d s
  | .failstopRelease q d test hot => Sys2Proof.Machine.execFailstopRelease q d test hot s
  | .streamTransfer q standbyOk => Sys2Proof.Machine.execStreamTransfer q standbyOk s
  | .sqLoop core => Sys2Proof.Machine.execSqLoop core s
  | .sqEndloop core => Sys2Proof.Machine.execSqEndloop core s
  | .sqBarrier core => Sys2Proof.Machine.execSqBarrier core s
  | .sqPeer core => Sys2Proof.Machine.execSqPeer core s
  | .sqEnd core => Sys2Proof.Machine.execSqEnd core s
  | .commandEnd core last => Sys2Proof.Machine.execCommandEnd core last s
  | .dmaSubmit core => Sys2Proof.Machine.execDmaSubmit core s
  | .dmaWait core => Sys2Proof.Machine.execDmaWait core s
  | .meLoad core u => Sys2Proof.Machine.execMeLoad core u s
  | .meLoadDone core => Sys2Proof.Machine.execMeLoadDone core s
  | .meStream core u => Sys2Proof.Machine.execMeStream core u s
  | .meDrain core u => Sys2Proof.Machine.execMeDrain core u s
  | .meClear core u => Sys2Proof.Machine.execMeClear core u s
  | .veChain core u => Sys2Proof.Machine.execVeChain core u s
  | .veEprog core u => Sys2Proof.Machine.execVeEprog core u s
  | .veBcast core u => Sys2Proof.Machine.execVeBcast core u s
  | .veTload core u => Sys2Proof.Machine.execVeTload core u s
  | .veSetvl core u => Sys2Proof.Machine.execVeSetvl core u s
  | .veSync core => Sys2Proof.Machine.execVeSync core s
  | .veNop core u => Sys2Proof.Machine.execVeNop core u s
  | .mov core u => Sys2Proof.Machine.execMov core u s
  | .add core u => Sys2Proof.Machine.execAdd core u s
  | .sub core u => Sys2Proof.Machine.execSub core u s
  | .mul core u => Sys2Proof.Machine.execMul core u s
  | .fma core u => Sys2Proof.Machine.execFma core u s
  | .div core u => Sys2Proof.Machine.execDiv core u s
  | .sqrt core u => Sys2Proof.Machine.execSqrt core u s
  | .min core u => Sys2Proof.Machine.execMin core u s
  | .max core u => Sys2Proof.Machine.execMax core u s
  | .abs core u => Sys2Proof.Machine.execAbs core u s
  | .neg core u => Sys2Proof.Machine.execNeg core u s
  | .act core u => Sys2Proof.Machine.execAct core u s
  | .cmp core u => Sys2Proof.Machine.execCmp core u s
  | .sel core u => Sys2Proof.Machine.execSel core u s
  | .rint core u => Sys2Proof.Machine.execRint core u s
  | .cvti core u => Sys2Proof.Machine.execCvti core u s
  | .cvtf core u => Sys2Proof.Machine.execCvtf core u s
  | .rnd core u => Sys2Proof.Machine.execRnd core u s
  | .pand core u => Sys2Proof.Machine.execPand core u s
  | .por core u => Sys2Proof.Machine.execPor core u s
  | .pxor core u => Sys2Proof.Machine.execPxor core u s
  | .pnot core u => Sys2Proof.Machine.execPnot core u s
  | .pset core u => Sys2Proof.Machine.execPset core u s
  | .vld core u => Sys2Proof.Machine.execVld core u s
  | .vst core u => Sys2Proof.Machine.execVst core u s
  | .vbrow core u => Sys2Proof.Machine.execVbrow core u s
  | .vbcol core u => Sys2Proof.Machine.execVbcol core u s
  | .vidx core u => Sys2Proof.Machine.execVidx core u s
  | .rsum core u => Sys2Proof.Machine.execRsum core u s
  | .rmax core u => Sys2Proof.Machine.execRmax core u s
  | .rmin core u => Sys2Proof.Machine.execRmin core u s
  | .ruSload core u => Sys2Proof.Machine.execRuSload core u s
  | .ruSstore core u => Sys2Proof.Machine.execRuSstore core u s
  | .ruGate core u => Sys2Proof.Machine.execRuGate core u s
  | .ruScan core u => Sys2Proof.Machine.execRuScan core u s
  | .ruToep core u => Sys2Proof.Machine.execRuToep core u s
  | .ruRingGather core u => Sys2Proof.Machine.execRuRingGather core u s
  | .ruRingAppend core u => Sys2Proof.Machine.execRuRingAppend core u s
  | .ruTload core u => Sys2Proof.Machine.execRuTload core u s
  | .ruSync core => Sys2Proof.Machine.execRuSync core s
  | .copy c fetch ext bursts ecc => Sys2Proof.Machine.execCopy c fetch ext bursts ecc s
  | .fill c fetch bursts ecc => Sys2Proof.Machine.execFill c fetch bursts s ecc
  | .memberIn c ecc fetch => Sys2Proof.Machine.execMemberIn c ecc s fetch
  | .memberOut c ecc fetch ext => Sys2Proof.Machine.execMemberOut c s ecc fetch ext
  | .dmaTailDoorbell path c v => Sys2Proof.Machine.execDmaTailDoorbell path c v s
  | .dmaChEnable path c => Sys2Proof.Machine.execDmaChEnable path c s
  | .dmaDescEnd c ext ecc => Sys2Proof.Machine.execDmaDescEnd c ext ecc s
  | .dmaAbort path c => Sys2Proof.Machine.execDmaAbort path c s
  | .dmaDrained c => Sys2Proof.Machine.execDmaDrained c s
  | .translationWalk c va write ecc => Sys2Proof.Machine.execTranslationWalk c va write ecc s
  | .runDispatch cohort => Sys2Proof.Machine.execRunDispatch cohort s
  | .unreservedDispatch core => Sys2Proof.Machine.execUnreservedDispatch core s
  | .exclusiveJobStart => Sys2Proof.Machine.execExclusiveJobStart s
  | .budgetRefill => Sys2Proof.Machine.execBudgetRefill s
  | .sectionFetchStart t => Sys2Proof.Machine.execSectionFetchStart t s
  | .swapInDone t ecc => Sys2Proof.Machine.execSwapInDone t ecc s
  | .sectionRelease cohort sect => Sys2Proof.Machine.execSectionRelease cohort sect s
  | .sectionWritebackDone cohort sect => Sys2Proof.Machine.execSectionWritebackDone cohort sect s
  | .ckptReadDone t ecc => Sys2Proof.Machine.execCkptReadDone t ecc s
  | .swapEvict => Sys2Proof.Machine.execSwapEvict s
  | .swapOutDone desc => Sys2Proof.Machine.execSwapOutDone desc s
  | .planMiss cohort sect => Sys2Proof.Machine.execPlanMiss cohort sect s
  | .zeroingDone z => Sys2Proof.Machine.execZeroingDone z s
  | .zeroLag w => Sys2Proof.Machine.execZeroLag w s
  | .scrubPass area ecc => Sys2Proof.Machine.execScrubPass area ecc s
  | .scrubLag area n => Sys2Proof.Machine.execScrubLag area n s
  | .frameZeroDone frame => Sys2Proof.Machine.execFrameZeroDone frame s
  | .hotSetLoaded core entry => Sys2Proof.Machine.execHotSetLoaded core entry s
  | .modelReload e copy => Sys2Proof.Machine.execModelReload e copy s
  | .modelReloadRetry e copy => Sys2Proof.Machine.execModelReloadRetry e copy s
  | .refreshStatusPoll c rate temp => Sys2Proof.Machine.execRefreshStatusPoll c rate temp s
  | .apEnable path n v => Sys2Proof.Machine.execApEnable path n v s
  | .apDisable path n v => Sys2Proof.Machine.execApDisable path n v s
  | .apCfgWrite path n which v => Sys2Proof.Machine.execApCfgWrite path n which v s
  | .apMasterCheckEnd n active => Sys2Proof.Machine.execApMasterCheckEnd n active s
  | .apEbbFetch n ecc => Sys2Proof.Machine.execApEbbFetch n ecc s
  | .apFrameBegin n => Sys2Proof.Machine.execApFrameBegin n s
  | .apFloodLand n samples => Sys2Proof.Machine.execApFloodLand n samples s
  | .vadFlagLower n slot => Sys2Proof.Machine.execVadFlagLower n slot s
  | .portChunkCopy desc ecc => Sys2Proof.Machine.execPortChunkCopy desc ecc s
  | .apRingBaseNextWrite path n v => Sys2Proof.Machine.execApRingBaseNextWrite path n v s
  | .apRingCommit n => Sys2Proof.Machine.execApRingCommit n s
  | .apOldRingRelease n => Sys2Proof.Machine.execApOldRingRelease n s
  | .apSyncLoss n => Sys2Proof.Machine.execApSyncLoss n s
  | .apVirtualFrame n => Sys2Proof.Machine.execApVirtualFrame n s
  | .apSyncRestore n => Sys2Proof.Machine.execApSyncRestore n s
  | .apTakeover n => Sys2Proof.Machine.execApTakeover n s
  | .apSlip n => Sys2Proof.Machine.execApSlip n s
  | .tidemarkRearm path mark => Sys2Proof.Machine.execTidemarkRearm path mark s
  | .tidemarkCfgWrite path mark v => Sys2Proof.Machine.execTidemarkCfgWrite path mark v s
  | .trayTick ref => Sys2Proof.Machine.execTrayTick ref s
  | .timeMsg line => Sys2Proof.Machine.execTimeMsg line s
  | .timeMsgErrorLimit => Sys2Proof.Machine.execTimeMsgErrorLimit s
  | .tickMiss => Sys2Proof.Machine.execTickMiss s
  | .tickMissLimit => Sys2Proof.Machine.execTickMissLimit s
  | .timeAlarmClear => Sys2Proof.Machine.execTimeAlarmClear s
  | .timeTrusted => Sys2Proof.Machine.execTimeTrusted s
  | .clockMonitorFlag d => Sys2Proof.Machine.execClockMonitorFlag d s
  | .holdoverExpiry => Sys2Proof.Machine.execHoldoverExpiry s
  | .acsCtrlWrite path n v => Sys2Proof.Machine.execAcsCtrlWrite path n v s
  | .acsEnable path n v => Sys2Proof.Machine.execAcsEnable path n v s
  | .acsAcquireEnd n => Sys2Proof.Machine.execAcsAcquireEnd n s
  | .acsFailed n => Sys2Proof.Machine.execAcsFailed n s
  | .acsRelock n => Sys2Proof.Machine.execAcsRelock n s
  | .admitSlackExpiry desc => Sys2Proof.Machine.execAdmitSlackExpiry desc s
  | .linkTrainStart link signal => Sys2Proof.Machine.execLinkTrainStart link signal s
  | .linkUp link tx rx credits => Sys2Proof.Machine.execLinkUp link tx rx credits s
  | .linkTrainTimeout link => Sys2Proof.Machine.execLinkTrainTimeout link s
  | .laneFail link lane => Sys2Proof.Machine.execLaneFail link lane s
  | .flitReceive link f => Sys2Proof.Machine.execFlitReceive link f s
  | .linkNakReceive link ack => Sys2Proof.Machine.execLinkNakReceive link ack s
  | .linkRetrainLimit link => Sys2Proof.Machine.execLinkRetrainLimit link s
  | .linkRetrainTimeout link => Sys2Proof.Machine.execLinkRetrainTimeout link s
  | .linkRetrain path link v => Sys2Proof.Machine.execLinkRetrain path link v s
  | .linkDisable path link v => Sys2Proof.Machine.execLinkDisable path link v s
  | .hello link h => Sys2Proof.Machine.execHello link h s
  | .linkState m stage links => Sys2Proof.Machine.execLinkState m stage links s
  | .linkStatePeriodic => Sys2Proof.Machine.execLinkStatePeriodic s
  | .failstop m cause => Sys2Proof.Machine.execFailstop m cause s
  | .peerRouteTimeout bay => Sys2Proof.Machine.execPeerRouteTimeout bay s
  | .lease m handle epoch bay released => Sys2Proof.Machine.execLease m handle epoch bay released s
  | .xferOffer m handle epoch params digests last => Sys2Proof.Machine.execXferOffer m handle epoch params digests last s
  | .xferOfferTimeout handle => Sys2Proof.Machine.execXferOfferTimeout handle s
  | .xferAccept m handle bf be => Sys2Proof.Machine.execXferAccept m handle bf be s
  | .ebbIdle desc => Sys2Proof.Machine.execEbbIdle desc s
  | .xferEbbTimeout desc => Sys2Proof.Machine.execXferEbbTimeout desc s
  | .xferRefuse m handle reason => Sys2Proof.Machine.execXferRefuse m handle reason s
  | .xferAbort m handle => Sys2Proof.Machine.execXferAbort m handle s
  | .xferLeaseTimeout desc => Sys2Proof.Machine.execXferLeaseTimeout desc s
  | .xferReplyTimeout desc => Sys2Proof.Machine.execXferReplyTimeout desc s
  | .ckptData m transfer remap record => Sys2Proof.Machine.execCkptData m transfer remap record s
  | .ckptAck m handle ebb seq => Sys2Proof.Machine.execCkptAck m handle ebb seq s
  | .ckptFree m handle => Sys2Proof.Machine.execCkptFree m handle s
  | .buddyRequalified => Sys2Proof.Machine.execBuddyRequalified s
  | .standbySync m port idx time state => Sys2Proof.Machine.execStandbySync m port idx time state s
  | .standbySyncTimeout port => Sys2Proof.Machine.execStandbySyncTimeout port s
  | .slip m port kb drop frames => Sys2Proof.Machine.execSlip m port kb drop frames s
  | .trayFailed m bay => Sys2Proof.Machine.execTrayFailed m bay s
  | .write m addr fmt data => Sys2Proof.Machine.execWrite m addr fmt data s
  | .writeAck m id denied => Sys2Proof.Machine.execWriteAck m id denied s
  | .readReq m addr len ecc => Sys2Proof.Machine.execReadReq m addr len ecc s
  | .readData m id denied data => Sys2Proof.Machine.execReadData m id denied data s
  | .messageDiscard link => Sys2Proof.Machine.execMessageDiscard link s
  | .remapWaitEnd bay => Sys2Proof.Machine.execRemapWaitEnd bay s
  | .trayRecordTimeout => Sys2Proof.Machine.execTrayRecordTimeout s
  | .scopeChange => Sys2Proof.Machine.execScopeChange s
  | .scopeMismatchHold link => Sys2Proof.Machine.execScopeMismatchHold link s
  | .regRead tag off len => Sys2Proof.Machine.execRegRead tag off len s
  | .regWrite tag off v => Sys2Proof.Machine.execRegWrite tag off v s
  | .statusGet tag => Sys2Proof.Machine.execStatusGet tag s
  | .hashGet tag slot => Sys2Proof.Machine.execHashGet tag slot s
  | .reflashBegin bay answer => Sys2Proof.Machine.execReflashBegin bay answer s
  | .reflashData bay len flashOk answer => Sys2Proof.Machine.execReflashData bay len flashOk answer s
  | .reflashAbandon => Sys2Proof.Machine.execReflashAbandon s
  | .recordGet bay => Sys2Proof.Machine.execRecordGet bay s
  | .storeRead bay off digest len => Sys2Proof.Machine.execStoreRead bay off digest len s
  | .mgmtRetryTimeout fromLh bay op => Sys2Proof.Machine.execMgmtRetryTimeout fromLh bay op s
  | .bayPowerApplied bay env => Sys2Proof.Machine.execBayPowerApplied bay env s
  | .moduleRestart env => Sys2Proof.Machine.execModuleRestart env s
  | .startStageTimeout => Sys2Proof.Machine.execStartStageTimeout s
  | .startLimitTimeout => Sys2Proof.Machine.execStartLimitTimeout s
  | .moduleReady bodies => Sys2Proof.Machine.execModuleReady bodies s
  | .settleTimeout => Sys2Proof.Machine.execSettleTimeout s
  | .bootStable => Sys2Proof.Machine.execBootStable s
  | .hubBootRestart path clear => Sys2Proof.Machine.execHubBootRestart path clear s
  | .hubBootClear path => Sys2Proof.Machine.execHubBootClear path s
  | .fwWatchdogExpiry => Sys2Proof.Machine.execFwWatchdogExpiry s
  | .debugResponse jtag v => Sys2Proof.Machine.execDebugResponse jtag v s
  | .secOtpProg item => Sys2Proof.Machine.execSecOtpProg item s
  | .secRngRead path => Sys2Proof.Machine.execSecRngRead path s
  | .drbgReseed => Sys2Proof.Machine.execDrbgReseed s
  | .failStop f => Sys2Proof.Machine.execFailStop f s
  | .failstopAgeOut => Sys2Proof.Machine.execFailstopAgeOut s
  | .leave path => Sys2Proof.Machine.execLeave path s
  | .thermalWarn sensor temp => Sys2Proof.Machine.execThermalWarn sensor temp s
  | .thermalTrip sensor => Sys2Proof.Machine.execThermalTrip sensor s
  | .powerEvaluation avg => Sys2Proof.Machine.execPowerEvaluation avg s
  | .busbarDip => Sys2Proof.Machine.execBusbarDip s
  | .lhNop d => Sys2Proof.Machine.execLhNop d s
  | .lhVerify d hashes => Sys2Proof.Machine.execLhVerify d hashes s
  | .lhBayPowerOff d ready => Sys2Proof.Machine.execLhBayPowerOff d ready s
  | .lhBayPowerOn d => Sys2Proof.Machine.execLhBayPowerOn d s
  | .lhBayPowerCycle d ready => Sys2Proof.Machine.execLhBayPowerCycle d ready s
  | .lhModuleRestart d barred => Sys2Proof.Machine.execLhModuleRestart d barred s
  | .lhReflash d => Sys2Proof.Machine.execLhReflash d s
  | .lhShutdown d => Sys2Proof.Machine.execLhShutdown d s
  | .lhRecordSet d => Sys2Proof.Machine.execLhRecordSet d s
  | .lhStoreWriteGolden d content => Sys2Proof.Machine.execLhStoreWriteGolden d content s
  | .lhStoreWriteModel d content => Sys2Proof.Machine.execLhStoreWriteModel d content s
  | .lhStoreWriteFw d content => Sys2Proof.Machine.execLhStoreWriteFw d content s
  | .modelDelete d => Sys2Proof.Machine.execModelDelete d s
  | .lhPolicySet d => Sys2Proof.Machine.execLhPolicySet d s
  | .lhKeyInstall d => Sys2Proof.Machine.execLhKeyInstall d s
  | .lhHostPing v => Sys2Proof.Machine.execLhHostPing v s
  | .lhFlr => Sys2Proof.Machine.execLhFlr s
  | .lhStart reports hashes => Sys2Proof.Machine.execLhStart reports hashes s
  | .lhWatchdogExpiry => Sys2Proof.Machine.execLhWatchdogExpiry s
  | .pointSample point value => Sys2Proof.Machine.execPointSample point value s
  | .powerSample1ms samples => Sys2Proof.Machine.execPowerSample1ms samples s
  | .powerReport1s => Sys2Proof.Machine.execPowerReport1s s
  | .coolingUpdate pumpsHeld fansHeld => Sys2Proof.Machine.execCoolingUpdate pumpsHeld fansHeld s
  | .coolingUnitFail unit => Sys2Proof.Machine.execCoolingUnitFail unit s
  | .moduleFault bay status => Sys2Proof.Machine.execModuleFault bay status s
  | .moduleAlert bay status => Sys2Proof.Machine.execModuleAlert bay status s
  | .heartbeatLost bay => Sys2Proof.Machine.execHeartbeatLost bay s
  | .hbRestartTimeout bay => Sys2Proof.Machine.execHbRestartTimeout bay s
  | .bayPresenceChange bay present => Sys2Proof.Machine.execBayPresenceChange bay present s
  | .bayStable bay => Sys2Proof.Machine.execBayStable bay s
  | .thermtripOpen bay => Sys2Proof.Machine.execThermtripOpen bay s
  | .verifyPeriod hashes => Sys2Proof.Machine.execVerifyPeriod hashes s
  | .reflashRetry bay answer => Sys2Proof.Machine.execReflashRetry bay answer s
  | .reflashBusyLimit bay => Sys2Proof.Machine.execReflashBusyLimit bay s
  | .silenceBegin host rack => Sys2Proof.Machine.execSilenceBegin host rack s
  | .redfishRequest authentic r => Sys2Proof.Machine.execRedfishRequest authentic r s
  | .iardoCommand raw data => Sys2Proof.Machine.execIardoCommand raw data s
  | .stagingUpload bytes => Sys2Proof.Machine.execStagingUpload bytes s
  | .ptpLock tai steer => Sys2Proof.Machine.execPtpLock tai steer s
  | .ptpLoss => Sys2Proof.Machine.execPtpLoss s
  | .bwWet zone => Sys2Proof.Machine.execBwWet zone s
  | .bwTrip us => Sys2Proof.Machine.execBwTrip us s
  | .bwGlitch zone => Sys2Proof.Machine.execBwGlitch zone s
  | .bwSensorFault zone => Sys2Proof.Machine.execBwSensorFault zone s
  | .bwSelftest failA failB => Sys2Proof.Machine.execBwSelftest failA failB s
  | .bwReset => Sys2Proof.Machine.execBwReset s
  | .bwSupplyLoss => Sys2Proof.Machine.execBwSupplyLoss s
  | .thermalWarnEnd sensor => Sys2Proof.Machine.execThermalWarnEnd sensor s
  | .mbDoorbell v => Sys2Proof.Machine.execMbDoorbell v s
  | .shutdownGraceEnd => Sys2Proof.Machine.execShutdownGraceEnd s
  | .cyclePowerOn bay => Sys2Proof.Machine.execCyclePowerOn bay s
  | .trayPowerApplied => Sys2Proof.Machine.execTrayPowerApplied s
  | .coolingUnitInsert unit => Sys2Proof.Machine.execCoolingUnitInsert unit s

end Sys2Proof.Machine
end

