-- ==== Sys2Proof/Machine/Step.lean ====
section
/-! DEFINITION. One step of the block: the command at the front of the queue, or one reference cycle of time. -/

namespace Sys2Proof.Machine

/-- With nothing waiting, one cycle of the 100 MHz time reference passes (R184, log entry 4). What falls due in that time is a
command of its own. -/
def idle (s : State) : State := passCycle s

/-- Take the command at the front of the queue and run it on the state with the rest of the queue; idle when none waits. -/
def step (s : State) : Host.Outcome State Fault Refusal :=
  match s.pending with
  | [] => .next (idle s)
  | c :: rest => exec c { s with pending := rest }

/-- The state with the command a table word spells in front of its queue: unchanged, since no word spells one. -/
def State.withFetchWord (s : State) (nbits w : Nat) : State :=
  match decodeTableWord nbits w with
  | some c => { s with pending := c :: s.pending }
  | none => s

end Sys2Proof.Machine
end

