-- ==== Sys2Proof/Safety.lean ====
section
/-! DEFINITION. What the statements about the machine are made of: the invariant of every step, what a register access meets, a
command that is next on its queue and passes the checks before its own, and what an operation leaves alone. -/

namespace Sys2Proof.Machine

/-- The invariant every step keeps: memory stands in its one canonical form. -/
def State.Inv (s : State) : Prop := Memory.wf s.mem = true

/-! ## Register accesses -/

/-- A register stands at a device-region offset and has no field that is locked now (R19). -/
def State.unlocked (s : State) (off : Nat) : Bool := (findReg deviceBlocks off).any (fun r => !(s.boot.locked && r.fields.any (fun f => f.acc == .rwl)))

/-- A whole-word write of the register at a device-region offset on a path meets no condition of R865. -/
def State.passes (s : State) (p : Path) (off : Nat) : Bool := s.boot.powered && implemented off && inWindow p off && s.answers off && s.mayWrite p off && s.unlocked off

/-- A read of a register on a path is answered with its value. -/
def State.reads (s : State) (p : Path) (off : Nat) : Bool := s.boot.powered && implemented off && inWindow p off && s.answers off && s.mayRead p off

/-- No two fields of a register meet, and each lies within the word. -/
def RegDef.apart (r : RegDef) : Bool :=
  r.fields.all (fun f => decide (f.lo ≤ f.hi) && decide (f.hi < 32)) && decide (r.fields.Pairwise (fun f g => f.hi < g.lo ∨ g.hi < f.lo))

/-- A register whose write is no more than its access codes: no selector, no tidemark, and no rule of its own. -/
def plainAt (off : Nat) : Bool :=
  !isSelector off && (markAt off).isNone && (markAt (off - 4)).isNone && off != R.hubBootCtrl && off != R.errSvcCtrl &&
    [0, 6, 7, 8, 0xB, 0xC].contains (unitOf off)

/-! ## Commands on a queue -/

/-- A command is next on a queue, has an opcode, and passes the checks of a plain command (R249). -/
def State.takes (s : State) (q op : Nat) (c : QCmd) : Prop := s.nextCmd q = some c ∧ c.opcode = op ∧ c.isCritical = false ∧ plainCheck q c s = none

/-- The state in which a command that has begun is carried out: it is marked begun, and a read of its data is made for its function (R220). -/
def State.begins (s : State) (q : Nat) (c : QCmd) (reads : Bool) : State := markBegun q c.id (if reads then asFunction (queueFn q) s else s)

/-- A critical command is next on a queue, has an opcode, and passes the checks of R245 with the data its ADDR read returned; `t` is the
state after them, with the counter stored. -/
def State.takesCritical (s : State) (q op : Nat) (c : QCmd) (reads : Bool) (d : HostRead) (t : State) : Prop :=
  s.nextCmd q = some c ∧ c.opcode = op ∧ checkCmd q c reads d (s.begins q c reads) = (none, t)

/-- The command at the head of the Lighthouse's queue is of a kind and passes the checks of R749 with its data `b`; `t` is the state after
them. -/
def State.lhTakes (s : State) (mine : QCmd → List Byte → Bool) (d : HostRead) (c : QCmd) (b : List Byte) (t : State) : Prop :=
  s.lhUp = true ∧ s.lh.held = none ∧ ∃ x rest, s.lh.queue = x :: rest ∧ c = x.cmd ∧ b = (lhData x d).getD [] ∧ mine c b = true ∧ lhForm c = none ∧
    (if c.isCritical then lhKeyCheck x.rack c (lhData x d) s = (none, t) else t = s)

/-- Nothing of the machine changed but registers, memory and the host interface. -/
def State.sameBut (s t : State) : Prop := t = { s with regs := t.regs, mem := t.mem, host := t.host }

/-- Every register outside a list reads as before. -/
def State.onlyRegs (s t : State) (os : List Nat) : Prop := ∀ o, o ∉ os → t.reg o = s.reg o

/-- Every scratchpad range lies in regions of the partition a core runs for and holds no damaged word (R405, R410). -/
def State.fits (s : State) (core : Nat) (rs : List (Nat × Nat)) : Prop :=
  ∀ r ∈ rs, s.spadOk core (s.running core).2 r.1 r.2 = true ∧ s.poisonIn core r.1 r.2 = []

/-- Every scratchpad range may be written by the partition a core runs for, and no write clears a damaged word (R402, R405, R410). -/
def State.fitsOut (s : State) (core : Nat) (rs : List (Nat × Nat)) : Prop :=
  ∀ r ∈ rs, s.spadWritable core (s.running core).2 r.1 r.2 = true ∧ s.poisonIn core r.1 r.2 = []

/-- Lane `l` of the current beat is active for a register-mode record (R316). -/
def State.laneOn (s : State) (core : Nat) (r : VeRec) (l : Nat) : Bool :=
  decide (s.fld (F.veStatusBeat core) * 512 + l < s.fld (F.veVlenVlen core)) && (!r.usePred || ((s.engines core).ve.pred r.pred).getD l false)

/-- The core's sequencer stands at a register-mode record on the idle SP channel, `r` with its offsets absolute; its instruction word is `w`. -/
def State.regMode (s : State) (core : Nat) (q : Seq) (r : VeRec) (w : VInstr) : Prop :=
  (s.engines core).ve.mx = [] ∧ (s.engines core).ve.sp = [] ∧ r.op = 0x23 ∧ r.sp = true ∧ w = decodeV r.cfg ∧
    ∃ i c r', s.nextRec core = some (i, c, q, .ve r') ∧ r = r'.reloc (s.placer c core)

/-- What every register-mode instruction leaves: the sequencer past it, the beat counted, BEAT moved on with NEXTBEAT, `f` added to the SP
channel's flags, and nothing else but memory, vector and predicate registers changed. -/
def State.afterReg (s t : State) (core : Nat) (q : Seq) (r : VeRec) (f : Fl) : Prop :=
  (t.engines core).seq = some { q with pos := q.pos + 64 } ∧ t.pair (R.veBeatsSp core) = (s.pair (R.veBeatsSp core) + 1) % 2 ^ 64 ∧
    t.fld (F.veStatusBeat core) = (s.fld (F.veStatusBeat core) + r.nextbeat.toNat) % 65536 ∧
    t.reg (R.veFlagsSp core) = s.reg (R.veFlagsSp core) ||| BitVec.ofNat 32 f.veMask ∧
    s.onlyRegs t [R.veStatus core, R.veFlagsSp core, R.veBeatsSp core, R.veBeatsSp core + 4] ∧
    (t.engines core).ve = { (s.engines core).ve with regs := (t.engines core).ve.regs, preds := (t.engines core).ve.preds, ticket := (s.engines core).ve.ticket + 1 } ∧
    (∀ k, k ≠ core → t.engines k = s.engines k) ∧ t = { s with regs := t.regs, mem := t.mem, eng := t.eng }

/-- The flags of the active lanes of a result. -/
def State.laneFlags (s : State) (core : Nat) (r : VeRec) (f : Nat → Nat × Fl) : Fl :=
  (List.range 512).foldl (fun a l => if s.laneOn core r l then a.or (f l).2 else a) {}

/-- Vector register `d` holds `f` in every active lane, zero or what it held in the others by POLICY, and no other register changed. -/
def State.lanes (s t : State) (core : Nat) (q : Seq) (r : VeRec) (d : Nat) (f : Nat → Nat × Fl) : Prop :=
  (∀ l, l < 512 → ((t.engines core).ve.reg d).getD l 0 =
      if s.laneOn core r l then (f l).1 else if r.zero then 0 else ((s.engines core).ve.reg d).getD l 0) ∧
    (∀ k, k ≠ d → (t.engines core).ve.reg k = (s.engines core).ve.reg k) ∧ (t.engines core).ve.preds = (s.engines core).ve.preds ∧ t.mem = s.mem ∧
    s.afterReg t core q r (s.laneFlags core r f)

/-- The same of predicate register `d`; no flag is raised. -/
def State.preds (s t : State) (core : Nat) (q : Seq) (r : VeRec) (d : Nat) (f : Nat → Bool) : Prop :=
  (∀ l, l < 512 → ((t.engines core).ve.pred d).getD l false =
      if s.laneOn core r l then f l else if r.zero then false else ((s.engines core).ve.pred d).getD l false) ∧
    (∀ k, k % 8 ≠ d % 8 → (t.engines core).ve.pred k = (s.engines core).ve.pred k) ∧ (t.engines core).ve.regs = (s.engines core).ve.regs ∧ t.mem = s.mem ∧
    s.afterReg t core q r {}

/-- The core's sequencer stands at a vector record, and nothing waits on either channel; `r` has its offsets absolute. -/
def State.vecAt (s : State) (core : Nat) (q : Seq) (r : VeRec) : Prop :=
  (s.engines core).ve.mx = [] ∧ (s.engines core).ve.sp = [] ∧ ∃ i c r', s.nextRec core = some (i, c, q, .ve r') ∧ r = r'.reloc (s.placer c core)

/-- The sequencer has moved past a vector record that took its ticket. -/
def State.vecPast (s : State) (core : Nat) (q : Seq) : State :=
  s.setEngines core { s.engines core with ve := { (s.engines core).ve with ticket := (s.engines core).ve.ticket + 1 }, seq := some { q with pos := q.pos + 64 } }

/-- The core's sequencer stands at a recurrence record; `r` has its offsets absolute. -/
def State.ruAt (s : State) (core : Nat) (q : Seq) (r : RuRec) : Prop :=
  ∃ i c r', s.nextRec core = some (i, c, q, .ru r') ∧ r = r'.reloc (s.placer c core)

/-- What an operation of the recurrence unit leaves beside its own effect: the sequencer past it, RUn_STATUS as the waiting gates have it, the
other engines and cores as they were, and no register changed but RUn_STATUS and those of `os`. -/
def State.afterRu (s t : State) (core : Nat) (q : Seq) (os : List Nat) : Prop :=
  (t.engines core).seq = some { q with pos := q.pos + 64 } ∧ t.bit (F.ruStatusBusy core) = !(t.engines core).ru.gates.isEmpty ∧
    t.bit (F.ruStatusGateWaiting core) = !(t.engines core).ru.gates.isEmpty ∧ (t.engines core).me = (s.engines core).me ∧
    (t.engines core).ve = (s.engines core).ve ∧ (∀ k, k ≠ core → t.engines k = s.engines k) ∧ s.onlyRegs t (R.ruStatus core :: os) ∧
    t = { s with regs := t.regs, mem := t.mem, eng := t.eng }

/-- A member-table entry names a stream of the running command, whose bytes from `o` on stand in the pool if the member is valid. -/
def State.holds (s : State) (core : Nat) (m : MemberRow) (x : Stream) (o n : Nat) : Prop :=
  s.tokenStream core m = some x ∧ (m.valid = true → x.inPoolRange o n = true)

/-- No DRAM error was met. -/
def noErrors : Ecc := { corrected := [], bad := [], link := [] }

/-- Channel `c` starts descriptor `e` of operation `op` now, as `r`; `u` is the state after its fetch, and `z` the one with it running and its
checks to be made (R405, R466, R467). -/
def State.dmaStarts (s : State) (c op : Nat) (fetch : HostRead) (r : DmaRun) (e : Desc) (u z : State) : Prop :=
  s.boot.powered = true ∧ s.failStopped = false ∧ (s.chan c).run = none ∧ descAccess c s = (none, u) ∧ ∃ d r0, nextDesc c fetch s = some (d, r0) ∧
    d.bytes? ≠ none ∧ e = descOf r0.raw ∧ e.op = op ∧ r = { r0 with total := e.total } ∧ z = dmaSync c ((u.setChan c { u.chan c with
      queue := (u.chan c).queue.drop (if u.bit (F.dmaChOwnerModule c) then 0 else 1), run := some r, toHost := false, block := none }).setBit (F.dmaChStatusDrained c) false)

/-- Every byte of DRAM outside a range reads as before. -/
def State.sameDram (s t : State) (a n : Nat) : Prop := ∀ x, x < dramEnd → (x < a ∨ a + n ≤ x) → memGet t.mem x = memGet s.mem x

/-- Every byte of memory reads as before. -/
def State.sameMem (s t : State) : Prop := ∀ a, memGet t.mem a = memGet s.mem a

/-- A link that has left its width to train again: TRAINING, its replay buffer kept (R604). -/
def retrainOf (l : Nat) (s : State) : State := (s.setFld (F.linkStatusState l) 1).setLink l { s.link l with retraining := true, naks := 0 }

end Sys2Proof.Machine
end

