-- ==== Sys2Proof/Certificates/Slice0/Obligations.lean ====
section
/-! DEFINITION. The statements about the machine. -/

open Sys2Proof Sys2Proof.Machine


/-! ## The block as a whole -/

/-- A step of a state with a command in front runs exactly that command on the state with the rest of the queue. With none waiting one cycle of the
100 MHz time reference passes (log entry 4, the model's choice). -/
def Obligations.StepRunsFront : Prop :=
  (∀ (c : Instr) (rest : List Instr) (s : State), s.pending = c :: rest → step s = exec c { s with pending := rest }) ∧
  (∀ s : State, s.pending = [] → step s = .next (idle s))

/-- Every step keeps the one canonical form of memory and takes exactly the command in front off the queue; no step stops the machine. -/
def Obligations.StepKeepsInv : Prop :=
  (∀ s t : State, step s = .next t → s.Inv → t.Inv ∧ t.pending = s.pending.tail) ∧ (∀ s : State, ∃ t, step s = .next t)

/-- No step takes the life cycle back, clears RETURN_DONE once it is set, or lowers the maker rollback floor. -/
def Obligations.SecurityOneWay : Prop :=
  ∀ s t : State, step s = .next t →
    s.sec.lc ≤ t.sec.lc ∧ (s.sec.returnDone = true → t.sec.returnDone = true) ∧ s.sec.floorMaker.value ≤ t.sec.floorMaker.value

/-- At reset every register field of both register maps reads its reset value (for a field loaded from the image, zero: log entry 1, the model's
choice), the event queue has recorded nothing, no start has been counted against the limit of three, no stream, partition or job exists, no byte of
memory is listed, no command waits, and the invariant holds. -/
def Obligations.ResetValues : Prop :=
  (∀ (off : Nat) (r : RegDef), findReg deviceBlocks off = some r → r.apart = true → ∀ f ∈ r.fields,
    wfield (State.reset.reg off) f.hi f.lo = f.rst % 2 ^ (f.hi + 1 - f.lo)) ∧
  (∀ (off : Nat) (r : RegDef), findReg lighthouseBlocks off = some r → r.apart = true → ∀ f ∈ r.fields,
    wfield (State.reset.lhReg off) f.hi f.lo = f.rst % 2 ^ (f.hi + 1 - f.lo)) ∧
  State.reset.Inv ∧ State.reset.pending = [] ∧ State.reset.fld F.evqSeqSeq = 0 ∧ State.reset.fld F.hubBootAttemptsCount = 0 ∧
  State.reset.fld F.hubBootAttemptsLimit = 3 ∧ State.reset.fld F.hubBootStatusStage = 1 ∧ State.reset.ready = false ∧ State.reset.failStopped = false ∧
  State.reset.host.backlog = [] ∧ State.reset.strm.table = [] ∧ State.reset.disp.parts = [] ∧ State.reset.disp.jobs = [] ∧
  State.reset.mem = []

/-! ## Register accesses -/

/-- R865: a register write is turned away by the first condition it meets, with that condition's event; one that meets none reaches the register's
own rule; a reserved word of an implemented span is screened the same way, and a write of it that passes has no effect. -/
def Obligations.RegisterWriteScreen : Prop :=
  ∀ (p : Path) (off o : Nat) (be : BitVec 4) (v : Word) (s : State) (k : RegKind) (c : Instr), s.boot.powered = true →
    (k, c) ∈ [(RegKind.one, Instr.registerWrite p off be v), (RegKind.lo, Instr.loWrite p off be v), (RegKind.hi, Instr.hiWrite p off be v)] →
    ((pathOffset p off = none ∨ (pathOffset p off = some o ∧ (implemented o = false ∨ inWindow p o = false))) → exec c s = .next s) ∧
    (pathOffset p off = some o → implemented o = true → inWindow p o = true →
      (s.answers o = false → (∀ r, findReg deviceBlocks o = some r → r.kind = k) → exec c s = .next (emitM Ev.regPoweredOff (unitOf o) (instOf o) o 0 0 s)) ∧
      (s.answers o = true → findReg deviceBlocks o = none →
        (s.mayWrite p o = false → exec c s = .next (emitM Ev.regPathDenied (unitOf o) (instOf o) o p.code 0 s)) ∧
        (s.mayWrite p o = true → be ≠ 0xF#4 → exec c s = .next (emitM Ev.regPartialWrite (unitOf o) (instOf o) o be.toNat 0 s)) ∧
        (s.mayWrite p o = true → be = 0xF#4 → exec c s = .next s)) ∧
      ∀ r, findReg deviceBlocks o = some r → r.kind = k → s.answers o = true →
        (s.mayWrite p o = false → exec c s = .next (emitM Ev.regPathDenied (unitOf o) (instOf o) o p.code 0 s)) ∧
        (s.mayWrite p o = true → be ≠ 0xF#4 → exec c s = .next (emitM Ev.regPartialWrite (unitOf o) (instOf o) o be.toNat 0 s)) ∧
        (s.mayWrite p o = true → be = 0xF#4 → s.unlocked o = false → exec c s = .next (emitM Ev.regLockedWrite (unitOf o) (instOf o) o 0 0 s)) ∧
        (s.passes p o = true → be = 0xF#4 → exec c s = .next (writeReg p o r v s)))

/-- R9: what a write leaves in a field of each access code, over every register whose fields lie apart. -/
def Obligations.AccessCodes : Prop :=
  ∀ (r : RegDef) (f : FieldDef) (old v : Word), r.apart = true → f ∈ r.fields →
    wfield (r.written old v) f.hi f.lo = (match f.acc with
      | .rw => wfield v f.hi f.lo
      | .rwl => wfield v f.hi f.lo
      | .w1c => wfield (old &&& ~~~v) f.hi f.lo
      | .w1s => wfield (old ||| v) f.hi f.lo
      | _ => wfield old f.hi f.lo) ∧
    wfield (r.afterRead old) f.hi f.lo = (if f.acc = .rc then 0 else wfield old f.hi f.lo)

/-- A write that passes the screen and reaches a register without a rule of its own leaves that register as its access codes have it, and everything
else as it was (R9, R16). Completes: REGISTER_WRITE. -/
def Obligations.PlainWriteFrame : Prop :=
  ∀ (p : Path) (off o : Nat) (v : Word) (s : State) (r : RegDef), pathOffset p off = some o → findReg deviceBlocks o = some r → r.kind = .one →
    s.passes p o = true → plainAt o = true →
    ∃ t, exec (.registerWrite p off 0xF#4 v) s = .next t ∧ t.reg o = r.written (s.reg o) v ∧ (∀ o', o' ≠ o → t.reg o' = s.reg o') ∧
      s.sameBut t ∧ s.sameMem t ∧ t.host = s.host

/-- R11, R15: a read of LO returns the low half and latches the high half on its own path; no other path, register or byte changes. R11, R12, R22: a
read of HI returns the latched half and empties the latch, or the live half when none is latched. Completes: LO_READ, HI_READ. -/
def Obligations.SplitReads : Prop :=
  (∀ (p : Path) (off o : Nat) (s : State) (r : RegDef), pathOffset p off = some o → findReg deviceBlocks o = some r → r.kind = .lo → s.reads p o = true →
    ∃ t, exec (.loRead p off) s = .next t ∧ t.host.readData = [s.live p o] ∧ tfind (t.pathState p).latch o = some (s.live p (o + 4)) ∧
      (∀ q : Path, q.code ≠ p.code → t.pathState q = s.pathState q) ∧ t.regs = s.regs ∧ t.mem = s.mem) ∧
  (∀ (p : Path) (off o : Nat) (s : State) (r : RegDef), pathOffset p off = some o → findReg deviceBlocks o = some r → r.kind = .hi → s.reads p o = true →
    (∀ w, tfind (s.pathState p).latch (o - 4) = some w →
      ∃ t, exec (.hiRead p off) s = .next t ∧ t.host.readData = [w] ∧ tfind (t.pathState p).latch (o - 4) = none ∧ t.regs = s.regs ∧ t.mem = s.mem) ∧
    (tfind (s.pathState p).latch (o - 4) = none →
      ∃ t, exec (.hiRead p off) s = .next t ∧ t.host.readData = [s.live p o] ∧ t.regs = s.regs ∧ t.paths = s.paths ∧ t.mem = s.mem))

/-- R13, R14, R15: a write of LO is staged on its path and changes no register; a write of HI commits it, or the current LO, as one value. R13, R24:
committing a 64-bit value without a rule of its own writes both halves as one update, each by its access codes, and no other register. Completes: LO_WRITE, HI_WRITE. -/
def Obligations.SplitWrites : Prop :=
  (∀ (p : Path) (off o : Nat) (v : Word) (s : State) (r : RegDef), pathOffset p off = some o → findReg deviceBlocks o = some r → s.passes p o = true →
    (r.kind = .lo → ∃ t, exec (.loWrite p off 0xF#4 v) s = .next t ∧ tfind (t.pathState p).staged o = some v ∧ t.regs = s.regs ∧
      (∀ q : Path, q.code ≠ p.code → t.pathState q = s.pathState q)) ∧
    (r.kind = .hi → ∃ t, exec (.hiWrite p off 0xF#4 v) s =
        .next (commitPair (o - 4) (((tfind (s.pathState p).staged (o - 4)).getD (s.reg (o - 4))).toNat + 2 ^ 32 * v.toNat) t) ∧
      t.regs = s.regs ∧ tfind (t.pathState p).staged (o - 4) = none ∧ (∀ q : Path, q.code ≠ p.code → t.pathState q = s.pathState q))) ∧
  (∀ (lo v : Nat) (s : State) (a b : RegDef), findReg deviceBlocks lo = some a → findReg deviceBlocks (lo + 4) = some b → plainAt lo = true →
    (commitPair lo v s).reg lo = a.written (s.reg lo) (half v false) ∧ (commitPair lo v s).reg (lo + 4) = b.written (s.reg (lo + 4)) (half v true) ∧
    ∀ o, o ≠ lo → o ≠ lo + 4 → (commitPair lo v s).reg o = s.reg o)

/-- R9, R12, R706: a read of a register that is no half returns its live value and clears its RC fields; SEC_RNG returns a fresh free value each
time. R822, R218: a request longer than 16 words, or one that crosses a 64-byte boundary, ends in Completer Abort, logged in the function's AER, with
no other effect; a request of one word in a BAR0 is one access on the requester's path. Completes: RC_READ, SEC_RNG_READ,
BAR_REQUEST. -/
def Obligations.ReadsAndRequests : Prop :=
  (∀ (p : Path) (off o : Nat) (s : State) (r : RegDef), pathOffset p off = some o → findReg deviceBlocks o = some r → r.kind = .one → s.reads p o = true →
    (o ≠ R.secRng → ∃ t, exec (.rcRead p off) s = .next t ∧ t.host.readData = [s.live p o] ∧
      (r.fields.any (fun f => f.acc == .rc) = true → t.reg o = r.afterRead (s.reg o)) ∧
      (r.fields.any (fun f => f.acc == .rc) = false → t.reg o = s.reg o) ∧ (∀ o', o' ≠ o → t.reg o' = s.reg o') ∧ t.mem = s.mem) ∧
    (s.reads p R.secRng = true → ∃ t, exec (.secRngRead p) s = .next t ∧ t.host.readData = [BitVec.ofNat 32 s.freeNow] ∧ t.free = s.free + 1 ∧
      t.sec.drbg = s.sec.drbg + 1 ∧ t.regs = s.regs ∧ t.mem = s.mem)) ∧
  (∀ (off words : Nat) (data : Option (List Word)) (w : Word) (s : State),
    (16 < words ∨ 64 < off / 4 * 4 % 64 + 4 * words →
      ∃ t, exec (.barRequest .pf0Bar0 off words data) s = .next t ∧ t.host.completerAbort = true ∧ t = { s with host := t.host, pcie := t.pcie } ∧
        t.host = { s.host with readData := [], completerAbort := true } ∧ 0 ∈ t.pcie.aer) ∧
    (off % 4 = 0 → ∃ t, exec (.barRequest .pf0Bar0 off 1 none) s = .next t ∧ t.host.readData = [(readWord .pf0 off s).1] ∧ t.host.completerAbort = false ∧
      t.regs = (readWord .pf0 off s).2.regs) ∧
    (off % 4 = 0 → ∃ t, exec (.barRequest .pf0Bar0 off 1 (some [w])) s = .next t ∧ t.regs = (writeWord .pf0 off 0xF#4 w s).regs ∧
      t.host.completerAbort = false))

/-- R724: the management link answers a register read with the words as its path reads them, and a write of any register but HUB_BOOT_CTRL with
REFUSED and, where its implemented block answers, REG_PATH_DENIED. Completes: REG_READ, REG_WRITE. -/
def Obligations.ManagementRegisters : Prop :=
  ∀ (tag : Byte) (off : Nat) (v : Word) (s : State), s.boot.powered = true → off % 4 = 0 →
    (∃ t, exec (.regRead tag off 4) s = .next t ∧ t.lh.frames = (readWord .mgmt off s).2.lh.frames ++
      [{ fromLh := false, bay := (readWord .mgmt off s).2.myBay, op := 0x81, tag := tag.toNat, status := 0, body := leBytes 4 (readWord .mgmt off s).1.toNat }]) ∧
    (off ≠ R.hubBootCtrl → ∃ t, exec (.regWrite tag off v) s = .next t ∧
      t.lh.frames = s.lh.frames ++ [{ fromLh := false, bay := s.myBay, op := 0x82, tag := tag.toNat, status := Mg.refused, body := [] }] ∧
      (implemented off = false → t = { s with lh := t.lh }) ∧
      (implemented off = true → s.answers off = true →
        t = { emitM Ev.regPathDenied (unitOf off) (instOf off) off Path.mgmt.code 0 s with lh := t.lh })) ∧
    (∃ t, exec (.regWrite tag R.hubBootCtrl v) s = .next t ∧
      t.lh.frames = s.lh.frames ++ [{ fromLh := false, bay := s.myBay, op := 0x82, tag := tag.toNat, status := 0, body := [] }] ∧
      (v.getLsbD 0 = true → s.mayRestart = true → t.boot.restartDue = true))

/-! ## Queues, the event queue and interrupt vectors -/

/-- R229, R233: a doorbell while EN is 0, or at the current tail, does nothing; one out of range sets DB_ERR and records DOORBELL_RANGE; any other
replaces the tail and notes its tray time. RQ_HEAD moves only along the span from itself forward to RQ_TAIL. R227, R236, R250: what setting and
clearing EN, RESET, and a write of a ring's base or size leave in a queue's page and record. Completes: SQ_TAIL_DOORBELL, RQ_HEAD_WRITE,
QUEUE_ENABLE, QUEUE_DISABLE, QUEUE_RESET, QUEUE_CFG_WRITE. -/
def Obligations.Queues : Prop :=
  (∀ (p : Path) (q : Fin 65) (v : Word) (s : State),
    (s.passes p (R.sqTail (page q)) = true →
      (s.bit (F.qCtrlEn (page q)) = false → exec (.sqTailDoorbell p q v) s = .next s) ∧
      (s.bit (F.qCtrlEn (page q)) = true →
        (s.sqSize q ≤ wfield v 15 0 → exec (.sqTailDoorbell p q v) s =
          .next (emit Ev.doorbellRange (qPart q) 1 q (wfield v 15 0) 0 0 (s.setBit (F.qStatusDbErr (page q)) true))) ∧
        (wfield v 15 0 < s.sqSize q → wfield v 15 0 = s.fld (F.sqTailTail (page q)) → exec (.sqTailDoorbell p q v) s = .next s) ∧
        (wfield v 15 0 < s.sqSize q → wfield v 15 0 ≠ s.fld (F.sqTailTail (page q)) →
          ∃ t, exec (.sqTailDoorbell p q v) s = .next t ∧ t.fld (F.sqTailTail (page q)) = wfield v 15 0 ∧
            (t.queue q).bells = (s.queue q).bells ++ [(wfield v 15 0, s.time)] ∧ (t.queue q).cmds = (s.queue q).cmds ∧
            s.onlyRegs t [R.sqTail (page q)] ∧ s.sameBut t ∧ s.sameMem t))) ∧
    (s.passes p (R.rqHead (page q)) = true →
      ∀ sized inside : Prop, (sized ↔ 4 ≤ s.fld (F.rqCfgLog2 (page q)) ∧ s.fld (F.rqCfgLog2 (page q)) ≤ 16) →
        (inside ↔ sized ∧ wfield v 15 0 < s.rqSize q ∧ ((wfield v 15 0 : Int) - s.fld (F.rqHeadHead (page q))) % s.rqSize q
          ≤ ((s.fld (F.rqTailTail (page q)) : Int) - s.fld (F.rqHeadHead (page q))) % s.rqSize q) →
      (wfield v 15 0 = s.fld (F.rqHeadHead (page q)) → (¬sized ∨ wfield v 15 0 < s.rqSize q) → exec (.rqHeadWrite p q v) s = .next s) ∧
      (wfield v 15 0 ≠ s.fld (F.rqHeadHead (page q)) → inside → ∃ t, exec (.rqHeadWrite p q v) s = .next t ∧
        t.fld (F.rqHeadHead (page q)) = wfield v 15 0 ∧ s.onlyRegs t [R.rqHead (page q)] ∧ s.sameBut t ∧ s.sameMem t) ∧
      (¬(wfield v 15 0 = s.fld (F.rqHeadHead (page q)) ∧ (¬sized ∨ wfield v 15 0 < s.rqSize q)) → ¬inside →
        exec (.rqHeadWrite p q v) s = .next (s.setBit (F.qStatusDbErr (page q)) true)))) ∧
  (∀ (p : Path) (q : Fin 65) (which : QueueCfg) (v : Dword) (s : State),
    (s.passes p (R.qCtrl (page q)) = true →
      (s.bit (F.qCtrlEn (page q)) = false →
        (s.queueOwner q = true → 4 ≤ s.fld (F.sqCfgLog2 (page q)) → s.fld (F.sqCfgLog2 (page q)) ≤ 16 → 4 ≤ s.fld (F.rqCfgLog2 (page q)) →
            s.fld (F.rqCfgLog2 (page q)) ≤ 16 →
          ∃ t, exec (.queueEnable p q) s = .next t ∧ t.bit (F.qCtrlEn (page q)) = true ∧ t.bit (F.qStatusRunning (page q)) = true ∧
            t.bit (F.qStatusIdle (page q)) = false ∧ (t.queue q).phase = (s.queue q).phase ∧
            s.onlyRegs t [R.qCtrl (page q), R.qStatus (page q), R.qCount (page q)] ∧ s.sameBut t ∧ s.sameMem t) ∧
        (¬(s.queueOwner q = true ∧ 4 ≤ s.fld (F.sqCfgLog2 (page q)) ∧ s.fld (F.sqCfgLog2 (page q)) ≤ 16 ∧ 4 ≤ s.fld (F.rqCfgLog2 (page q)) ∧
            s.fld (F.rqCfgLog2 (page q)) ≤ 16) →
          exec (.queueEnable p q) s = .next (s.setBit (F.qStatusCfgErr (page q)) true))) ∧
      (∃ t, exec (.queueDisable p q) s = .next t ∧ t.bit (F.qCtrlEn (page q)) = false ∧ t.bit (F.qStatusRunning (page q)) = false ∧
        t.bit (F.qStatusIdle (page q)) = (s.queue q).cmds.isEmpty ∧ t.host = s.host ∧
        s.onlyRegs t [R.qCtrl (page q), R.qStatus (page q), R.qCount (page q)] ∧ s.sameBut t ∧ s.sameMem t) ∧
      (∃ t, exec (.queueReset p q) s = .next t ∧ t.bit (F.qCtrlEn (page q)) = false ∧ (t.queue q).cmds = [] ∧ (t.queue q).reading = false ∧
        (t.queue q).phase = true ∧ t.fld (F.sqHeadHead (page q)) = 0 ∧ t.fld (F.sqTailTail (page q)) = 0 ∧ t.fld (F.rqHeadHead (page q)) = 0 ∧
        t.fld (F.rqTailTail (page q)) = 0 ∧ t.bit (F.qStatusIdle (page q)) = true ∧ s.sameBut t ∧
        (∀ c, (s.queue q).cmds = [c] → t.mem = memWrite s.mem (hostWindow + s.pair (R.rqBase (page q)) + 64 * s.fld (F.rqTailTail (page q)))
          (({ kind := 1, status := St.aborted, handle := c.streamHandle, cmdId := c.cmdId, done := s.time } : Result).bytes (s.queue q).phase)) ∧
        ((s.queue q).cmds = [] → t.mem = s.mem))) ∧
    (s.passes p (queueCfgOff q which) = true →
      (s.bit (F.qCtrlEn (page q)) = true → ∃ t, exec (.queueCfgWrite p q which v) s = .next t ∧ t = { s with paths := t.paths } ∧
        ((which = .sqCfg ∨ which = .rqCfg) → t = s)) ∧
      (s.bit (F.qCtrlEn (page q)) = false → ∃ t, exec (.queueCfgWrite p q which v) s = .next t ∧ t.fld (F.sqHeadHead (page q)) = 0 ∧
        t.fld (F.sqTailTail (page q)) = 0 ∧ t.fld (F.rqHeadHead (page q)) = 0 ∧ t.fld (F.rqTailTail (page q)) = 0 ∧ (t.queue q).phase = true ∧
        (match which with
          | .sqBase => t.pair (R.sqBase (page q)) = v.toNat % 2 ^ 48 / 4096 * 4096
          | .rqBase => t.pair (R.rqBase (page q)) = v.toNat % 2 ^ 48 / 4096 * 4096
          | .sqCfg => t.fld (F.sqCfgLog2 (page q)) = v.toNat % 32
          | .rqCfg => t.fld (F.rqCfgLog2 (page q)) = v.toNat % 32) ∧ t = { s with regs := t.regs, paths := t.paths, host := t.host } ∧
        ((which = .sqBase ∨ which = .rqBase) → tfind (t.pathState p).staged (queueCfgOff q which) = none))))

/-- R253, R260, R267: what a write of EVQ_CFG and of EVQ_HEAD does in each case that changes no record; EVQ_LOST_CLEAR clears LOST and releases the
alert cause once the EVQ_LOST record is written (R259). R252: a vector unmasked with its PBA bit set fires once and the bit clears; the moderation
timer fires a vector with records not signalled, PF0's vector 0 only while the event queue is enabled; a vector that fires while masked only sets its PBA bit. R247: at the end of a refusal the key answers
again with no failure counted. Completes: EVQ_CFG_WRITE, EVQ_HEAD_WRITE, EVQ_LOST_CLEAR, MSIX_UNMASK, MSIX_MODERATION_TIMER,
KEY_REFUSAL_END. -/
def Obligations.EventQueue : Prop :=
  (∀ (p : Path) (v : Word) (s : State),
    (s.passes p R.evqCfg = true →
      (s.bit F.evqCfgEn = true → wfield v 8 8 = 1 → exec (.evqCfgWrite p v) s = .next s) ∧
      (s.bit F.evqCfgEn = true → wfield v 8 8 = 0 → ∃ t, exec (.evqCfgWrite p v) s = .next t ∧ t.bit F.evqCfgEn = false ∧
        t.fld F.evqCfgLog2 = wfield v 4 0 ∧ (tget t.host.vectors (vectorKey 0 s.evVector) {}).unsignalled = 0 ∧ t.host.msi = s.host.msi ∧ s.sameBut t ∧
        s.sameMem t) ∧
      (s.bit F.evqCfgEn = false → wfield v 8 8 = 1 → (wfield v 4 0 < 6 ∨ 16 < wfield v 4 0) →
        exec (.evqCfgWrite p v) s = .next (evTide ((s.setFld F.evqCfgLog2 (wfield v 4 0)).setBit F.evqStatusCfgErr true))) ∧
      (s.bit F.evqCfgEn = false → wfield v 8 8 = 0 → exec (.evqCfgWrite p v) s = .next (evTide (s.setFld F.evqCfgLog2 (wfield v 4 0)))) ∧
      (s.bit F.evqCfgEn = false → wfield v 8 8 = 1 → 6 ≤ wfield v 4 0 → wfield v 4 0 ≤ 16 → s.host.backlog = [] → s.host.episode = none →
        tmAlarm (s.reg R.evqTmCfg) 0 = false →
        ∃ t, exec (.evqCfgWrite p v) s = .next t ∧ t.bit F.evqCfgEn = true ∧ t.fld F.evqCfgLog2 = wfield v 4 0 ∧ t.fld F.evqHeadHead = 0 ∧
          t.fld F.evqTailTail = 0 ∧ t.host = { s.host with evPhase := true } ∧ s.sameBut t ∧ s.sameMem t)) ∧
    (s.passes p R.evqHead = true →
      ∀ sized inside : Prop, (sized ↔ 6 ≤ s.fld F.evqCfgLog2 ∧ s.fld F.evqCfgLog2 ≤ 16) →
        (inside ↔ sized ∧ wfield v 15 0 < s.evSize ∧
          ((wfield v 15 0 : Int) - s.fld F.evqHeadHead) % s.evSize ≤ ((s.fld F.evqTailTail : Int) - s.fld F.evqHeadHead) % s.evSize) →
      (wfield v 15 0 = s.fld F.evqHeadHead → (¬sized ∨ wfield v 15 0 < s.evSize) → exec (.evqHeadWrite p v) s = .next s) ∧
      (wfield v 15 0 ≠ s.fld F.evqHeadHead → inside → ∃ t, exec (.evqHeadWrite p v) s = .next t ∧ t.fld F.evqHeadHead = wfield v 15 0 ∧ s.sameBut t) ∧
      (¬(wfield v 15 0 = s.fld F.evqHeadHead ∧ (¬sized ∨ wfield v 15 0 < s.evSize)) → ¬inside →
        exec (.evqHeadWrite p v) s = .next (s.setBit F.evqStatusHeadErr true))) ∧
    (s.passes p R.evqStatus = true → ∃ t, exec (.evqLostClear p) s = .next t ∧ t.bit F.evqStatusLost = false ∧
      (s.host.lostWritten = true → t.bit F.hubAlertEvqLoss = false) ∧ (s.host.lostWritten = false → t.bit F.hubAlertEvqLoss = s.bit F.hubAlertEvqLoss) ∧
      t.host = s.host ∧ s.sameBut t ∧ s.sameMem t)) ∧
  (∀ (fn : Fin 65) (vec : Fin 4) (v2 : Fin 2) (slot : Nat) (s : State), s.boot.powered = true →
    (∃ t, exec (.msixUnmask fn vec) s = .next t ∧ (tget t.host.vectors (vectorKey fn vec) {}).masked = false ∧
      (tget t.host.vectors (vectorKey fn vec) {}).pending = false ∧
      t.host.msi = s.host.msi ++ (if (tget s.host.vectors (vectorKey fn vec) {}).pending then [(fn.val, vec.val)] else []) ∧ t.regs = s.regs ∧ t.mem = s.mem ∧
      s.sameBut t) ∧
    (fn.val = 0 → v2.val = 0 → s.bit F.evqCfgEn = false → exec (.msixModerationTimer fn v2) s = .next s) ∧
    (0 < (tget s.host.vectors (vectorKey fn v2) {}).unsignalled → (fn.val = 0 → v2.val = 0 → s.bit F.evqCfgEn = true) →
      ∃ t, exec (.msixModerationTimer fn v2) s = .next t ∧
      (tget t.host.vectors (vectorKey fn v2) {}).unsignalled = 0 ∧
      ((tget s.host.vectors (vectorKey fn v2) {}).masked = true → t.host.msi = s.host.msi ∧ (tget t.host.vectors (vectorKey fn v2) {}).pending = true) ∧
      ((tget s.host.vectors (vectorKey fn v2) {}).masked = false → t.host.msi = s.host.msi ++ [(fn.val, v2.val)]) ∧ t.regs = s.regs ∧ t.mem = s.mem) ∧
    ((s.key slot).refusing = true → ∃ t, exec (.keyRefusalEnd slot) s = .next t ∧ (t.key slot).refusing = false ∧ (t.key slot).fails = 0 ∧
      (t.key slot).bytes = (s.key slot).bytes ∧ (t.key slot).ctr = (s.key slot).ctr ∧ t.regs = s.regs ∧ t.mem = s.mem ∧ t.host = s.host))

/-! ## Fetching, checking and completing commands -/

/-- R230, R231, R234, R235: a fetch return is taken at its queue's turn; one that ends in a host error stops the queue and keeps what is fetched; one that brings a plain command to an
empty queue makes it the queue's one fetched command, with SQ_HEAD past its slot; and no fetch takes a queue past 256 commands fetched and not
completed. R230, R239, R250: a NOP that stands alone on its queue completes with OK: its record is written at RQ_TAIL as one posted write, RQ_TAIL
moves on, and every other byte and everything beside the queue stays. With QUIET it leaves without a record. Completes: COMMAND_FETCH, NOP. -/
def Obligations.CommandsBegin : Prop :=
  (∀ (q : Fin 65) (r : HostRead) (s : State), (s.fetchTurn ≠ some q.val → exec (.commandFetch q r) s = .next s) ∧ (s.fetchTurn = some q.val →
    (r.bytes? = none → ∃ t, exec (.commandFetch q r) s = .next t ∧ t.bit (F.qCtrlEn (page q)) = false ∧ t.bit (F.qStatusHostErr (page q)) = true ∧
      (t.queue q).cmds = (s.queue q).cmds ∧ (t.queue q).reading = false ∧ t.fld (F.sqHeadHead (page q)) = s.fld (F.sqHeadHead (page q)) ∧
      ∃ u, t = emit Ev.queueFault (qPart q) 1 q q (s.pair (R.sqBase (page q)) + 64 * s.fld (F.sqHeadHead (page q))) 0 u ∧ s.sameBut u ∧ s.sameMem u) ∧
    (∀ data, r.bytes? = some data → data.length = 64 → fieldAt data 1 1 % 2 = 0 → 1 ≤ s.sqAvail q → (s.queue q).cmds = [] → 0 < s.rqFree q →
        s.destroying q = false → ∀ c : QCmd, c = { id := (s.queue q).nextId, slot := s.fld (F.sqHeadHead (page q)), raw := data, doorbell := bellTime q 1 s, begun := false } →
        (∀ t, rowless q c t = none) →
        ∃ t, exec (.commandFetch q r) s = .next t ∧ (t.queue q).cmds = [c] ∧
          t.fld (F.sqHeadHead (page q)) = (s.fld (F.sqHeadHead (page q)) + 1) % s.sqSize q % 65536 ∧ t.mem = s.mem ∧ s.sameBut t) ∧
    ((s.queue q).cmds.length ≤ 256 → ∀ t, exec (.commandFetch q r) s = .next t → (t.queue q).cmds.length ≤ 256))) ∧
  (∀ (q : Fin 65) (c : QCmd) (s : State), s.takes q 0x00 c → (s.queue q).cmds = [c] →
    (c.quiet = false → ∃ t, exec (.nop q) s = .next t ∧ (t.queue q).cmds = [] ∧
      t.mem = memWrite s.mem (hostWindow + s.pair (R.rqBase (page q)) + 64 * s.fld (F.rqTailTail (page q)))
        (({ kind := 1, cmdId := c.cmdId, done := s.time } : Result).bytes (s.queue q).phase) ∧
      t.fld (F.rqTailTail (page q)) = (s.fld (F.rqTailTail (page q)) + 1) % s.rqSize q % 65536 ∧
      s.onlyRegs t [R.rqTail (page q), R.qStatus (page q), R.qCount (page q)] ∧ s.sameBut t) ∧
    (c.quiet = true → ∃ t, exec (.nop q) s = .next t ∧ (t.queue q).cmds = [] ∧ t.mem = s.mem ∧
      s.onlyRegs t [R.qStatus (page q), R.qCount (page q)] ∧ s.sameBut t))

/-- R249: a plain command is checked for CMD_FORMAT, CMD_OPCODE or CMD_QUEUE, CMD_STATE and CMD_HOST_READ in that order, and the checks change
nothing. R245, R247: a command checked as critical completes with the first failing of the seven checks: format, CRITICAL and slot, opcode and
queue, key slot, key locked or refused, counter, and CHECK; a failed counter or CHECK records CMD_AUTH_FAIL, a failed read of the data counts for
nothing. R246, R247, R704: a command that passes every check leaves its COUNTER as the key's counter and no failure counted; past the reserve of a
persistent key one reserve is burned first, and with none left the key locks and the command is refused. -/
def Obligations.CommandChecks : Prop :=
  (∀ (q : Nat) (c : QCmd) (reads : Bool) (d : HostRead) (s : State), c.isCritical = false →
    (bitsOf c.flags 7 3 ≠ 0 → checkCmd q c reads d s = (some St.format, s)) ∧
    (bitsOf c.flags 7 3 = 0 →
      ((∀ r ∈ opTable, r.1 ≠ c.opcode) → checkCmd q c reads d s = (some St.opcode, s)) ∧
      (∀ a p, (c.opcode, a, p) ∈ opTable →
        ((if q = adminQ then a else p) = false → checkCmd q c reads d s = (some St.queue, s)) ∧
        ((if q = adminQ then a else p) = true →
          (stateAllows q c.opcode s = false → checkCmd q c reads d s = (some St.state, s)) ∧
          (stateAllows q c.opcode s = true →
            (reads = true → d.bytes? = none → checkCmd q c reads d s = (some St.hostRead, s)) ∧
            ((reads = false ∨ d.bytes? ≠ none) → checkCmd q c reads d s = (none, s))))))) ∧
  (∀ (q : Nat) (c : QCmd) (d : HostRead) (s : State), c.isCritical = true →
    ((bitsOf c.flags 7 3 ≠ 0 ∨ (c.critical = true ∧ fieldAt c.raw 73 7 ≠ 0) ∨ 4096 < c.len) → checkCmd q c true d s = (some St.format, s)) ∧
    (¬(bitsOf c.flags 7 3 ≠ 0 ∨ (c.critical = true ∧ fieldAt c.raw 73 7 ≠ 0) ∨ 4096 < c.len) →
      ((c.critical = false ∨ ¬(0x80 ≤ c.opcode ∧ c.opcode ≤ 0xBF) ∨ c.slot % 2 = 1) → checkCmd q c true d s = (some St.critical, s)) ∧
      (c.critical = true → 0x80 ≤ c.opcode → c.opcode ≤ 0xBF → c.slot % 2 = 0 →
        (0x88 ≤ c.opcode → checkCmd q c true d s = (some St.opcode, s)) ∧
        (c.opcode ≤ 0x87 →
          (q ≠ adminQ → c.opcode ≠ 0x87 → checkCmd q c true d s = (some St.queue, s)) ∧
          ((q = adminQ ∨ c.opcode = 0x87) →
            (keyPermitted q c s = false → checkCmd q c true d s = (some St.keySlot, s)) ∧
            (keyPermitted q c s = true →
              (((s.key c.keySlot).locked = true ∨ (s.key c.keySlot).refusing = true) → checkCmd q c true d s = (some St.keyLocked, s)) ∧
              ((s.key c.keySlot).locked = false → (s.key c.keySlot).refusing = false →
                (c.counter ≤ (s.key c.keySlot).ctr →
                  checkCmd q c true d s = (some St.counter, emit Ev.cmdAuthFail (qPart q) 2 0 c.keySlot c.opcode 0 s)) ∧
                ((s.key c.keySlot).ctr < c.counter →
                  (c.len ≠ 0 → d.bytes? = none → checkCmd q c true d s = (some St.hostRead, s)) ∧
                  ((c.len = 0 ∨ d.bytes? ≠ none) → checkRight c (d.bytes?.getD []) s = false →
                    checkCmd q c true d s = (some St.auth, emit Ev.cmdAuthFail (qPart q) 2 0 c.keySlot c.opcode 0 (s.setKey c.keySlot
                      { s.key c.keySlot with fails := satAdd (s.key c.keySlot).fails 1 31, refusing := decide (16 ≤ (s.key c.keySlot).fails + 1) }))))))))))) ∧
  (∀ (c : QCmd) (s : State), c.counter < counterMax →
    (1 < c.keySlot ∨ c.counter ≤ (s.key c.keySlot).reserve →
      ∃ t, storeCounter c s = (none, t) ∧ t.key c.keySlot = { s.key c.keySlot with fails := 0, ctr := c.counter } ∧ t.regs = s.regs ∧ t.mem = s.mem) ∧
    (c.keySlot ≤ 1 → (s.key c.keySlot).reserve < c.counter →
      (0 < (s.key c.keySlot).left → ∃ t, storeCounter c s = (none, t) ∧ (t.key c.keySlot).ctr = c.counter ∧
        (t.key c.keySlot).left = (s.key c.keySlot).left - 1 ∧ c.counter < (t.key c.keySlot).reserve ∧ (t.key c.keySlot).locked = (s.key c.keySlot).locked) ∧
      ((s.key c.keySlot).left = 0 → ∃ t, storeCounter c s = (some St.keyLocked, t) ∧ (t.key c.keySlot).locked = true ∧
        (t.key c.keySlot).ctr = (s.key c.keySlot).ctr)))

/-- R254, R255, R256, R259: an event takes the next SEQ; with room and no backlog it is written as one record at EVQ_TAIL, and no other byte
changes; otherwise INFO is dropped and counted, NOTICE below 48 and WARN and above below 64 enter the backlog, and past that they are dropped or
lost and counted, a lost one setting LOST and, with the queue enabled, the alert cause. R248, R254: every field of a result record and of an event
record stands at the bytes its table gives, and reserved bytes are zero. -/
def Obligations.RecordsWritten : Prop :=
  (∀ (e : Event) (s t : State), t = emitCore e s →
    t.fld F.evqSeqSeq = (s.fld F.evqSeqSeq + 1) % 65536 ∧
    (s.bit F.evqCfgEn = true → s.evFull = false → s.host.backlog = [] →
      t.mem = memWrite s.mem (hostWindow + s.pair R.evqBase + 32 * s.fld F.evqTailTail) (({ e with seq := s.fld F.evqSeqSeq } : Event).bytes false s.host.evPhase) ∧
      t.fld F.evqTailTail = (s.fld F.evqTailTail + 1) % s.evSize % 65536 ∧ t.host.backlog = [] ∧ t.reg R.evqDrop = s.reg R.evqDrop ∧ t.reg R.evqLost = s.reg R.evqLost) ∧
    ((s.bit F.evqCfgEn = false ∨ s.evFull = true ∨ s.host.backlog ≠ []) → t.mem = s.mem ∧
      (e.sev = 0 → t.fld F.evqDropInfo = satAdd (s.fld F.evqDropInfo) 1 0xFFFF ∧ t.host.backlog = s.host.backlog) ∧
      (e.sev = 1 → 48 ≤ s.host.backlog.length → t.fld F.evqDropNotice = satAdd (s.fld F.evqDropNotice) 1 0xFFFF ∧ t.host.backlog = s.host.backlog) ∧
      ((e.sev = 1 ∧ s.host.backlog.length < 48 ∨ 2 ≤ e.sev ∧ s.host.backlog.length < 64) →
        t.host.backlog = s.host.backlog ++ [{ e with seq := s.fld F.evqSeqSeq }] ∧ t.bit F.evqStatusLost = s.bit F.evqStatusLost) ∧
      (2 ≤ e.sev → 64 ≤ s.host.backlog.length → t.host.backlog = s.host.backlog ∧ t.bit F.evqStatusLost = true ∧
        (s.bit F.evqCfgEn = true → t.bit F.hubAlertEvqLoss = true) ∧ (s.bit F.evqCfgEn = false → t.bit F.hubAlertEvqLoss = s.bit F.hubAlertEvqLoss) ∧
        (e.sev = 2 → t.fld F.evqLostWarn = satAdd (s.fld F.evqLostWarn) 1 1023) ∧ (e.sev = 3 → t.fld F.evqLostError = satAdd (s.fld F.evqLostError) 1 1023) ∧
        (4 ≤ e.sev → t.fld F.evqLostFatal = satAdd (s.fld F.evqLostFatal) 1 1023)))) ∧
  ((∀ (r : Result) (phase : Bool), (r.bytes phase).length = 64 ∧ fieldAt (r.bytes phase) 0 1 = r.kind % 2 ^ 8 ∧ fieldAt (r.bytes phase) 1 1 = r.status % 2 ^ 8 ∧
    fieldAt (r.bytes phase) 2 1 = r.reason % 2 ^ 8 ∧ fieldAt (r.bytes phase) 3 1 = 0 ∧ fieldAt (r.bytes phase) 4 4 = r.rflags % 2 ^ 32 ∧
    fieldAt (r.bytes phase) 8 4 = r.handle % 2 ^ 32 ∧ fieldAt (r.bytes phase) 12 2 = r.cmdId % 2 ^ 16 ∧ fieldAt (r.bytes phase) 14 2 = 0 ∧
    fieldAt (r.bytes phase) 16 8 = r.value % 2 ^ 64 ∧ fieldAt (r.bytes phase) 24 8 = r.tag % 2 ^ 64 ∧ fieldAt (r.bytes phase) 32 8 = r.done % 2 ^ 64 ∧
    fieldAt (r.bytes phase) 40 8 = r.due % 2 ^ 64 ∧ fieldAt (r.bytes phase) 48 8 = r.outAddr % 2 ^ 64 ∧ fieldAt (r.bytes phase) 56 4 = r.outLen % 2 ^ 32 ∧
    fieldAt (r.bytes phase) 60 3 = 0 ∧ fieldAt (r.bytes phase) 63 1 = (if phase then 128 else 0)) ∧
  (∀ (e : Event) (delayed phase : Bool), (e.bytes delayed phase).length = 32 ∧ fieldAt (e.bytes delayed phase) 0 2 = e.code % 2 ^ 16 ∧
    fieldAt (e.bytes delayed phase) 2 1 = (e.sev * 32 + e.code / 256 % 32) % 256 ∧
    (∀ p, e.part = some p → fieldAt (e.bytes delayed phase) 3 1 = p % 64 + (if delayed then 128 else 0)) ∧
    (e.part = none → fieldAt (e.bytes delayed phase) 3 1 = 64 + (if delayed then 128 else 0)) ∧ fieldAt (e.bytes delayed phase) 4 2 = e.unit % 2 ^ 16 ∧
    fieldAt (e.bytes delayed phase) 6 2 = e.inst % 2 ^ 16 ∧ fieldAt (e.bytes delayed phase) 8 8 = e.time % 2 ^ 64 ∧ fieldAt (e.bytes delayed phase) 16 4 = e.w0 % 2 ^ 32 ∧
    fieldAt (e.bytes delayed phase) 20 4 = e.w1 % 2 ^ 32 ∧ fieldAt (e.bytes delayed phase) 24 4 = e.w2 % 2 ^ 32 ∧ fieldAt (e.bytes delayed phase) 28 2 = e.seq % 2 ^ 16 ∧
    fieldAt (e.bytes delayed phase) 30 1 = 0 ∧ fieldAt (e.bytes delayed phase) 31 1 = (if phase then 128 else 0)))

/-! ## Streams -/

/-- R56, R87, R88, R242: a STREAM_OPEN whose parameter block passes the checks and the plan puts the stream in ADMIT_WAIT at the lowest free
descriptor, which it returns; one that fails a check completes with REFUSED and the first failing reason, and opens nothing. R99: while the
standing streams are still to be opened it waits. Completes: STREAM_OPEN. -/
def Obligations.StreamOpen : Prop :=
  (∀ (q : Fin 65) (d : HostRead) (s : State), s.standingDue = true → s.failStopped = false → exec (.streamOpen q d) s = .next s) ∧
  ∀ (q : Fin 65) (c : QCmd) (d : HostRead) (b : List Byte) (s m : State), s.standingDue = false → s.takes q 0x10 c → d.bytes? = some b →
      m = s.begins q c true →
    (∀ r, m.admitCheck (parOf b) (.host q) = some r →
      exec (.streamOpen q d) s = .next (advanceQ q (completeCmd q c.id St.refused r (parOf b).handle 0
          (emit Ev.streamRefused (qPart q) 9 0 (parOf b).handle r 0 (noteRefusal (parOf b).handle r m))))) ∧
    (m.admitCheck (parOf b) (.host q) = none →
      (∀ r, m.admitPlan (parOf b) true = .error r →
        exec (.streamOpen q d) s = .next (advanceQ q (completeCmd q c.id St.refused r (parOf b).handle 0
          (emit Ev.streamRefused (qPart q) 9 0 (parOf b).handle r 0 (noteRefusal (parOf b).handle r m))))) ∧
      (∀ f e, m.admitPlan (parOf b) true = .ok (f, e) → ∃ n u x, exec (.streamOpen q d) s = .next (advanceQ q (completeCmd q c.id St.ok 0 (parOf b).handle n u)) ∧
        s.freeDesc = some n ∧ u.stream n = some x ∧ x.par = parOf b ∧ x.state = .admitWait ∧ x.epoch = 1 ∧ x.accepted = s.time ∧
        x.flood.bound = (f.map Cand.bound).getD 0 ∧ x.ebb.bound = (e.map Cand.bound).getD 0 ∧ x.flood.next = s.firstChunk (parOf b) ∧
        x.grans = [] ∧ x.closing = none ∧ ∀ k, k ≠ n → u.stream k = s.stream k))

/-- R66, R96, R240, R241, R461: a close is noted on its stream, and a DRAIN takes effect at once: the stream is DRAINING and ebb input not in
synthesis is gone; EBB_INPUT begins and waits for its block, which then joins the stream's ebb input; EBB_CANCEL discards the blocks not in
synthesis, and completes at once or with the step in progress (of a stream without ebb, with CMD_STATE: log entry 8, the model's choice); a chunk
takes the next chunk number and a free slot, and completes when its bytes are there, with CMD_HANDLE where the stream that took it is gone (R490). R249: a check of EBB_INPUT or STREAM_CHUNK that fails is answered after the read. R94, R101, R628: a standing stream retried opens at the
lowest free descriptor; a join short of granules or pages when its SLACK has elapsed is refused with 0x0E and leaves the table, and one that fits is
IDLE; a migrating source whose ebb stream is idle cuts over 4 ms later. Completes: STREAM_CLOSE_DRAIN, STREAM_CLOSE_ABORT, EBB_INPUT, EBB_CANCEL,
STREAM_CHUNK, COMMAND_DATA_ARRIVED, STREAM_STANDING_RETRY, ADMIT_SLACK_EXPIRY, EBB_IDLE. -/
def Obligations.StreamCommandsWait : Prop :=
  (∀ (q : Fin 65) (c : QCmd) (k : Nat) (x : Stream) (d : HostRead) (b : List Byte) (s m : State), s.ownHandle q c.handle = some (k, x) → s.stream k = some x →
      m = markBegun q c.id s →
    (s.takes q 0x11 c → c.arg0 % 2 = 0 → ∃ t y, exec (.streamCloseDrain q) s = .next t ∧ t.stream k = some y ∧ y.closing = some (x.closing.getD 0) ∧
      y.closeCmd = x.closeCmd ++ [(q.val, c.id)] ∧ y.par = x.par ∧
      ((x.state = .idle ∨ x.state = .running) → y.state = .draining ∧ y.ebbIn = x.ebbIn.filter (fun b => b.begun && x.ebb.stepping)) ∧
      (¬(x.state = .idle ∨ x.state = .running) → y.state = x.state ∧ y.ebbIn = x.ebbIn)) ∧
    (s.takes q 0x11 c → c.arg0 % 2 = 1 → exec (.streamCloseAbort q) s = .next (advanceQ q (m.setStream k
      { x with closing := some (max 1 (x.closing.getD 0)), closeCmd := x.closeCmd ++ [(q.val, c.id)] }))) ∧
    (s.takes q 0x13 c → x.leased = true → c.len ≤ 65536 → x.takesEbb = true → exec (.ebbInput q) s = .next (advanceQ q m)) ∧
    (∀ st, s.takes q 0x13 c → s.ebbVerdict q c = some st → exec (.ebbInput q) s = .next (advanceQ q (holdVerdict q c.id st m))) ∧
    (s.takes q 0x14 c → x.leased = true → x.par.ebbEn = false → exec (.ebbCancel q) s = .next (advanceQ q (completeCmd q c.id St.state 0 c.handle 0 m))) ∧
    (s.takes q 0x14 c → x.leased = true → x.par.ebbEn = true → ∃ t y, exec (.ebbCancel q) s = .next t ∧ t.stream k = some y ∧ y.par = x.par ∧
      y.ebbIn = x.ebbIn.filter (fun b => b.begun && x.ebb.stepping) ∧
      (x.ebb.stepping = true → y.cancelCmd = x.cancelCmd ++ [(q.val, c.id)]) ∧
      (x.ebb.stepping = false → y.cancelCmd = x.cancelCmd ∧ t = advanceQ q (completeCmd q c.id St.ok 0 c.handle 0
        (endUtterance k (dropInput q c.handle (m.setStream k { x with ebbIn := [] })))))) ∧
    (s.takes q 0x12 c → x.closing = none → x.leased = true → (∀ h, x.xfer.bind Xfer.h = some h → x.nextIn < h) → x.par.hostFed = true →
        c.arg1 = x.nextIn → c.len = s.framesOf x.par * (if x.par.ebbEn then 4 else 2) → (∀ j ∈ x.full, j % 4 ≠ x.nextIn % 4) →
      exec (.streamChunk q) s = .next (advanceQ q (noteTaker q c.id x.order (m.setStream k { x with nextIn := x.nextIn + 1, full := x.full ++ [x.nextIn] })))) ∧
    (∀ st, s.takes q 0x12 c → s.chunkVerdict q c = some st → exec (.streamChunk q) s = .next (advanceQ q (holdVerdict q c.id st m))) ∧
    (∀ u, (s.queue q).cmds.find? (fun y => y.begun && y.cmdId == c.cmdId && (y.opcode == 0x12 || y.opcode == 0x13)) = some c →
        u = asFunction (queueFn q) s →
      (∀ st, c.verdict = some st → exec (.commandDataArrived q c.cmdId d) s =
        .next (completeCmd q c.id (if d.bytes? = none then St.hostRead else st) 0 c.handle 0 u)) ∧
      (c.opcode = 0x13 → c.verdict = none →
        (d.bytes? = some b → exec (.commandDataArrived q c.cmdId d) s = .next (completeCmd q c.id St.ok 0 c.handle 0 (u.setStream k { x with ebbIn := x.ebbIn ++
          [{ data := b.take c.len, newUtt := c.arg0 % 2 == 1, doorbell := c.doorbell, begun := false }] }))) ∧
        (d.bytes? = none → exec (.commandDataArrived q c.cmdId d) s = .next (completeCmd q c.id St.hostRead 0 c.handle 0 u))) ∧
      (c.opcode = 0x12 → c.verdict = none → c.taker ≠ some x.order →
        exec (.commandDataArrived q c.cmdId d) s = .next (completeCmd q c.id St.handle 0 c.handle 0 u)) ∧
      (c.opcode = 0x12 → c.verdict = none → c.taker = some x.order →
        (d.bytes? = some b → ∃ v y, exec (.commandDataArrived q c.cmdId d) s = .next (settleXfer k (completeAt q c.id St.ok 0 c.handle 0 (s.chunkEnd x c.arg1).1 v)) ∧
          v.mem = (s.pokeDram (s.slotAddr k x c.arg1) (b.take c.len)).mem ∧ v.stream k = some y ∧ y.lastEnd = (s.chunkEnd x c.arg1).1 ∧ y.full = x.full ∧
          y.nextIn = x.nextIn ∧ (x.par.floodEn = true → (c.arg1, (s.chunkEnd x c.arg1).1) ∈ y.ready)) ∧
        (d.bytes? = none → exec (.commandDataArrived q c.cmdId d) s = .next (completeCmd q c.id St.hostRead 0 c.handle 0 (u.setStream k
          { x with full := x.full.filter (· ≠ c.arg1), nextIn := if x.nextIn = c.arg1 + 1 then c.arg1 else x.nextIn })))))) ∧
  (∀ (q : Fin 65) (c : QCmd) (desc : Fin 4096) (x : Stream) (s : State),
    (s.standingDue = true → s.failStopped = false → exec (.streamStandingRetry q) s = .next s) ∧
    (∀ r p m, s.standingDue = false → s.takes q 0x15 c → m = s.begins q c false → s.strm.standing.find? (fun r => r.index == c.arg0 % 256) = some r →
      p = standingPar r.raw s.bay s.standingGen →
      ((s.strm.table.any (fun x => x.2.par.index == p.handle % 65536) = true ∨ s.fld F.fabStatusStage = 4) →
        exec (.streamStandingRetry q) s = .next (advanceQ q (completeCmd q c.id St.state 0 p.handle 0 m))) ∧
      (s.strm.table.any (fun x => x.2.par.index == p.handle % 65536) = false → s.fld F.fabStatusStage ≠ 4 →
        (∀ e, m.admitCheck p .standing = some e → exec (.streamStandingRetry q) s = .next (advanceQ q (completeCmd q c.id St.refused e p.handle 0
          (emit Ev.standingRefused (some p.part) 9 0 p.handle e 0 (noteRefusal p.handle e m))))) ∧
        (∀ f e, m.admitCheck p .standing = none → m.admitPlan p true = .ok (f, e) → s.leaseElsewhere p.handle = false →
          ∃ n u y, exec (.streamStandingRetry q) s = .next (advanceQ q (completeCmd q c.id St.ok 0 p.handle n u)) ∧ s.freeDesc = some n ∧
            u.stream n = some y ∧ y.par = p ∧ y.standing = some r.index ∧ y.sink = r.sink ∧ y.state = .admitWait))) ∧
    (s.stream desc = some x → x.state = .admitWait →
      (x.accepted + x.par.slack * 1000 ≤ s.time → exec (.admitSlackExpiry desc) s = .next (stepBoundary s) ∧
        (s.shortOf x ≠ (0, 0) → (tryJoin desc s).stream desc = none)) ∧
      (s.shortOf x = (0, 0) → ∃ y, (tryJoin desc s).stream desc = some y ∧ y.par = x.par ∧ y.state = .idle ∧ y.resident = true)) ∧
    (∀ y, s.stream desc = some x → x.xfer = some y → y.source = true → x.state = .migrating → y.stage = 1 → y.cut = none → s.ebbIdle x = true →
      exec (.ebbIdle desc) s = .next (settleXfer desc (s.setStream desc { x with xfer := some { y with cut := some (s.time + 4000000) } }))))

/-! ## Sequencer -/

/-- R565: SQ_LOOP opens a loop of COUNT iterations, or of the beats of VLEN; SQ_ENDLOOP runs the innermost loop again from its first record or
leaves it; SQ_BARRIER is passed once every earlier operation of the program has completed; programs that reach an SQ_PEER go on when every program
of the command has; SQ_END ends the program. Nothing but sequencers changes. R467, R468, R471: DMA_SUBMIT reads the descriptor and queues it on the
partition's channel behind those there, indexed by how many of the command came before it, and waits while the channel holds 32, the one
running counted; DMA_WAIT is passed once COUNT
descriptors of the command have ended there, and ends every program of the command where one of its descriptors ended with an error. Completes: SQ_LOOP, SQ_ENDLOOP, SQ_BARRIER, SQ_PEER, SQ_END, DMA_SUBMIT,
DMA_WAIT. -/
def Obligations.Sequencer : Prop :=
  (∀ (core : Fin 8) (i n : Nat) (beats : Bool) (c : Cmd) (q : Seq) (s : State),
    (s.nextRec core = some (i, c, q, .loop n beats) → exec (.sqLoop core) s = .next (s.setSeq core
      (some { q with pos := q.pos + 16, loops := (q.pos + 16, if beats then (s.fld (F.veVlenVlen core) + 511) / 512 else n) :: q.loops }))) ∧
    (∀ start k rest, s.nextRec core = some (i, c, q, .endloop) → q.loops = (start, k) :: rest → exec (.sqEndloop core) s = .next (s.setSeq core (some
      (if 1 < k then { q with pos := start, loops := (start, k - 1) :: rest } else { q with pos := q.pos + 16, loops := rest })))) ∧
    (s.nextRec core = some (i, c, q, .barrier) → exec (.sqBarrier core) s =
      .next (if s.quiet core i then s.setSeq core (some { q with pos := q.pos + 16 }) else s)) ∧
    (s.nextRec core = some (i, c, q, .peer n) →
      ((∃ k ∈ c.cores, k ≠ core.val ∧ (s.engines k).seq.bind Seq.peer ≠ some n) →
        exec (.sqPeer core) s = .next (s.setSeq core (some { q with peer := some n }))) ∧
      ((∀ k ∈ c.cores, k ≠ core.val → (s.engines k).seq.bind Seq.peer = some n) → ∃ t, exec (.sqPeer core) s = .next t ∧
        (∀ k ∈ c.cores, k ≠ core.val → c.cores.Nodup → ∀ x, (s.engines k).seq = some x → (t.engines k).seq = some { x with peer := none, pos := x.pos + 16 }) ∧
        (core.val ∈ c.cores → c.cores.Nodup → (t.engines core).seq = some { q with peer := none, pos := q.pos + 16 }) ∧
        (∀ k, k ∉ c.cores → k ≠ core.val → t.engines k = s.engines k) ∧ t = { s with eng := t.eng })) ∧
    (s.nextRec core = some (i, c, q, .fin) → exec (.sqEnd core) s = .next (s.setSeq core (some { q with ended := true })))) ∧
  (∀ (core : Fin 8) (i ch off n k : Nat) (c : Cmd) (q : Seq) (s : State),
    (s.nextRec core = some (i, c, q, .submit ch off) → s.partChannel c.part ch = some k →
      (32 ≤ s.dmaLevel k → exec (.dmaSubmit core) s = .next s) ∧
      (s.dmaLevel k < 32 → s.fits core [(s.placer c core off, 64)] → ∃ t, exec (.dmaSubmit core) s = .next t ∧
        (t.chan k).queue = (s.chan k).queue ++ [⟨i, core, (s.dma.map (fun d => tget d.2.submitted i 0)).sum % 65536,
          relocDesc s i core (s.spadBytes core (s.placer c core off) 64)⟩] ∧
        tget (t.chan k).submitted i 0 = tget (s.chan k).submitted i 0 + 1 ∧ (t.chan k).run = (s.chan k).run ∧ (t.chan k).ended = (s.chan k).ended ∧
        (∀ j, j ≠ k → t.chan j = s.chan j) ∧ (t.engines core).seq = some { q with pos := q.pos + 16 } ∧ t.strm = s.strm)) ∧
    (s.nextRec core = some (i, c, q, .wait ch n) → s.partChannel c.part ch = some k →
      ((s.chan k).failed.contains i = false → n ≤ tget (s.chan k).ended i 0 → exec (.dmaWait core) s = .next (s.setSeq core (some { q with pos := q.pos + 16 }))) ∧
      ((s.chan k).failed.contains i = false → tget (s.chan k).ended i 0 < n → s.cancelled c = false → exec (.dmaWait core) s = .next s) ∧
      ((s.chan k).failed.contains i = true → c.cores.Nodup → ∃ t, exec (.dmaWait core) s = .next t ∧ t = { s with eng := t.eng } ∧
        ∀ j ∈ c.cores, ∀ x, (s.engines j).seq = some x → (t.engines j).seq = some { x with ended := true, peer := none })))

/-! ## Matrix engine -/

/-- R270, R281, R295, R298: ME_LOAD reads an image into the tile that SHADOW will be, SHADOW_VALID clears and LOADING shows it; another ME_LOAD
waits behind it; ME_LOAD_DONE puts the image in SHADOW, which is then valid; ME_CLEAR writes zero to M rows of the accumulator and to no other. R281
to R284, R287, R292: ME_STREAM takes M rows of the scratchpad through ACTIVE, which SWAP first exchanges with SHADOW: each lane below N_ACTIVE of
row ACC_BASE + j becomes the exact dot product of row j and the lane's weights, with ACCUM added to what stood there, rounded once. With DEST = SPAD
the rows are stored 2,048 bytes apart, lanes past N_ACTIVE zero. ME_DRAIN stores accumulator rows as they stand. Completes: ME_LOAD, ME_LOAD_DONE, ME_CLEAR, ME_STREAM, ME_DRAIN. -/
def Obligations.MatrixEngine : Prop :=
  (∀ (core : Fin 8) (i : Nat) (c : Cmd) (q : Seq) (r ρ : MeRec) (m : MeUnit) (s : State), m = (s.engines core).me → m.waiting = [] → ρ = r.reloc (s.placer c core) →
    (s.nextRec core = some (i, c, q, .me r) → ρ.bad = false → r.op = 1 → m.loading = none → s.fits core [(ρ.src, tileBytes ρ.wfmt)] →
      ∃ t x, exec (.meLoad core {}) s = .next t ∧ (t.engines core).me = { m with loading := some x } ∧ x.fmt = ρ.wfmt ∧ x.bad = [] ∧
        (∀ o, o < tileBytes ρ.wfmt → memGet x.cells o = memGet s.mem (spadPlace core + ρ.src + o)) ∧ t.bit (F.meStatusShadowValid core) = false ∧
        t.bit (F.meStatusLoading core) = true ∧ t.bit (F.meStatusBusy core) = true ∧ (t.engines core).seq = some { q with pos := q.pos + 32 } ∧
        s.onlyRegs t [R.meStatus core] ∧ t = { s with regs := t.regs, eng := t.eng }) ∧
    (s.nextRec core = some (i, c, q, .me r) → r.op = 1 → m.loading ≠ none → ∃ t, exec (.meLoad core {}) s = .next t ∧
      (t.engines core).me = { m with waiting := [(ρ, {})] } ∧ (t.engines core).seq = some { q with pos := q.pos + 32 } ∧ s.onlyRegs t [R.meStatus core] ∧
      t = { s with regs := t.regs, eng := t.eng }) ∧
    (∀ x, m.loading = some x → ∃ t, exec (.meLoadDone core) s = .next t ∧ (t.engines core).me = { m with shadow := x, loading := none } ∧
      t.bit (F.meStatusShadowValid core) = true ∧ t.fld (F.meStatusShadowWfmt core) = x.fmt % 16 ∧ t.bit (F.meStatusLoading core) = false ∧
      t.bit (F.meStatusBusy core) = false ∧ s.onlyRegs t [R.meStatus core] ∧ t = { s with regs := t.regs, eng := t.eng }) ∧
    (s.nextRec core = some (i, c, q, .me r) → ρ.bad = false → r.op = 4 → ∃ t, exec (.meClear core {}) s = .next t ∧
      (∀ j, (t.engines core).me.row j = if ρ.accBase ≤ j ∧ j < ρ.accBase + ρ.m then List.replicate 512 (false, 0) else m.row j) ∧
      (t.engines core).me.active = m.active ∧ (t.engines core).me.shadow = m.shadow ∧ (t.engines core).seq = some { q with pos := q.pos + 32 } ∧
      s.onlyRegs t [R.meStatus core] ∧ t = { s with regs := t.regs, eng := t.eng })) ∧
  (∀ (core : Fin 8) (i : Nat) (c : Cmd) (q : Seq) (r ρ : MeRec) (m : MeUnit) (s : State), s.Inv → m = (s.engines core).me → m.waiting = [] →
      s.nextRec core = some (i, c, q, .me r) → ρ = r.reloc (s.placer c core) → ρ.bad = false → (ρ.dest = 0 ∨ ρ.dest = 3) → s.fitsOut core ρ.outs →
    (∀ (A : Tile), r.op = 2 → ¬(r.swap = true ∧ m.loading ≠ none) → A = (if ρ.swap then m.shadow else m.active) → A.bad = [] → density A.fmt = density ρ.rfmt →
        s.bit (if ρ.swap then F.meStatusShadowValid core else F.meStatusActiveValid core) = true → ρ.indirect = false →
        s.fits core ((List.range ρ.m).map (fun j => (ρ.src + j * ρ.rowStride, 256))) →
        (isMx ρ.rfmt = true → s.fits core ((List.range ρ.m).map (fun j => (ρ.scaleSrc + j * ρ.scaleStride, scaleBytes ρ.rfmt)))) →
      ∃ t u, exec (.meStream core {}) s = .next t ∧ u = (t.engines core).me ∧
        (∀ j, j < ρ.m → ∀ n, n < ρ.nActive → (u.row (ρ.accBase + j)).getD n (false, 0) = (decide (A.fmt = 4),
          (laneOf A (rowValues ρ.rfmt (s.peek (spadPlace core + (ρ.src + j * ρ.rowStride)) 256)
              (s.peek (spadPlace core + (ρ.scaleSrc + j * ρ.scaleStride)) (scaleBytes ρ.rfmt))) n
            (if ρ.accum then some ((m.row (ρ.accBase + j)).getD n (false, 0)).2 else none)).1)) ∧
        (∀ j, j < ρ.m → (u.row (ρ.accBase + j)).drop ρ.nActive = (m.row (ρ.accBase + j)).drop ρ.nActive) ∧
        (∀ j, ¬(ρ.accBase ≤ j ∧ j < ρ.accBase + ρ.m) → u.row j = m.row j) ∧ u.active = A ∧ u.shadow = (if ρ.swap then m.active else m.shadow) ∧
        t.pair (R.meMacs core) = (s.pair (R.meMacs core) + ρ.m * 65536 * density ρ.rfmt) % 2 ^ 64 ∧
        (ρ.swap = true → t.bit (F.meStatusActiveValid core) = true ∧ t.bit (F.meStatusShadowValid core) = false) ∧
        t.bit (F.meFlagsErased core) = s.bit (F.meFlagsErased core) ∧ (t.engines core).seq = some { q with pos := q.pos + 32 } ∧
        (ρ.dest = 3 → ∀ j, j < ρ.m → memRead t.mem (spadPlace core + (ρ.dst + j * 2048)) 2048 = (activeRow ρ.nActive (u.row (ρ.accBase + j))).flatMap (fun l => leBytes 4 l.2)) ∧
        (∀ a, (ρ.dest = 3 → a < spadPlace core + ρ.dst ∨ spadPlace core + ρ.dst + ρ.m * 2048 ≤ a) → memGet t.mem a = memGet s.mem a) ∧
        s.onlyRegs t [R.meStatus core, R.meFlags core, R.meMacs core, R.meMacs core + 4, R.meStreamCyc core, R.meStreamCyc core + 4] ∧
        t = { s with regs := t.regs, mem := t.mem, eng := t.eng }) ∧
    (r.op = 3 → ρ.dest = 3 → (∀ j, (m.row j).length = 512) → ∃ t, exec (.meDrain core {}) s = .next t ∧ (t.engines core).me = m ∧
      (∀ j, j < ρ.m → memRead t.mem (spadPlace core + (ρ.dst + j * 2048)) 2048 = (activeRow ρ.nActive (m.row (ρ.accBase + j))).flatMap (fun l => leBytes 4 l.2)) ∧
      (∀ a, (a < spadPlace core + ρ.dst ∨ spadPlace core + ρ.dst + ρ.m * 2048 ≤ a) → memGet t.mem a = memGet s.mem a) ∧
      (t.engines core).seq = some { q with pos := q.pos + 32 } ∧ s.onlyRegs t [R.meStatus core] ∧ t = { s with regs := t.regs, mem := t.mem, eng := t.eng }))

/-! ## Vector engine, register mode -/

/-- R316, R317, R320, R321, R325, R327: what each register-mode instruction leaves in the lanes of its destination. The first 22 write a vector
register and the last six a predicate register; NOP writes neither. Completes, of every record that R345
OP_RANGE admits: VE_NOP, MOV, ADD, SUB, MUL, FMA, DIV, SQRT, MIN, MAX, ABS, NEG, ACT, CMP, SEL, RINT, CVTI, CVTF, RND, PAND, POR, PXOR, PNOT, PSET,
VBROW, VBCOL, VIDX. -/
def Obligations.VectorLanes : Prop :=
  ∀ (core : Fin 8) (q : Seq) (r : VeRec) (w : VInstr) (v : VeUnit) (A B C : Nat → Nat) (P Q : Nat → Bool) (s : State), s.regMode core q r w → r.bad = false → v = (s.engines core).ve →
      (∀ k, (v.reg k).length = 512) → (∀ k, (v.pred k).length = 512) → (∀ l, A l = (v.reg w.a).getD l 0) → (∀ l, B l = (v.reg w.b).getD l 0) →
      (∀ l, C l = (v.reg w.c).getD l 0) → (∀ l, P l = (v.pred w.a).getD l false) → (∀ l, Q l = (v.pred w.b).getD l false) →
    (w.opc = 0x00 → ∃ t, exec (.veNop core {}) s = .next t ∧ s.afterReg t core q r {} ∧ (t.engines core).ve.regs = v.regs ∧ (t.engines core).ve.preds = v.preds ∧ t.mem = s.mem) ∧
    (w.opc = 0x01 → ∃ t, exec (.mov core {}) s = .next t ∧ s.lanes t core q r w.d (fun l => (A l, {}))) ∧
    (w.opc = 0x02 → ∃ t, exec (.add core {}) s = .next t ∧ s.lanes t core q r w.d (fun l => fadd (A l) (B l))) ∧
    (w.opc = 0x03 → ∃ t, exec (.sub core {}) s = .next t ∧ s.lanes t core q r w.d (fun l => fsub (A l) (B l))) ∧
    (w.opc = 0x04 → ∃ t, exec (.mul core {}) s = .next t ∧ s.lanes t core q r w.d (fun l => fmul (A l) (B l))) ∧
    (w.opc = 0x05 → ∃ t, exec (.fma core {}) s = .next t ∧ s.lanes t core q r w.d (fun l => ffma (A l) (B l) (C l))) ∧
    (w.opc = 0x06 → ∃ t, exec (.div core {}) s = .next t ∧ s.lanes t core q r w.d (fun l => fdiv (A l) (B l))) ∧
    (w.opc = 0x07 → ∃ t, exec (.sqrt core {}) s = .next t ∧ s.lanes t core q r w.d (fun l => fsqrt (A l))) ∧
    (w.opc = 0x08 → ∃ t, exec (.min core {}) s = .next t ∧ s.lanes t core q r w.d (fun l => (fminmax false (A l) (B l), {}))) ∧
    (w.opc = 0x09 → ∃ t, exec (.max core {}) s = .next t ∧ s.lanes t core q r w.d (fun l => (fminmax true (A l) (B l), {}))) ∧
    (w.opc = 0x0A → ∃ t, exec (.abs core {}) s = .next t ∧ s.lanes t core q r w.d (fun l => (if fpNeg (A l) then A l - 2 ^ 31 else A l, {}))) ∧
    (w.opc = 0x0B → ∃ t, exec (.neg core {}) s = .next t ∧ s.lanes t core q r w.d (fun l => (fneg (A l), {}))) ∧
    (w.opc = 0x0C → ∃ t, exec (.act core {}) s = .next t ∧ s.lanes t core q r w.d (fun l => actOf (slotTable v.tables (w.mod % 8)) (A l))) ∧
    (w.opc = 0x0E → ∃ t, exec (.sel core {}) s = .next t ∧ s.lanes t core q r w.d (fun l => (if (v.pred w.mod).getD l false then A l else B l, {}))) ∧
    (w.opc = 0x0F → ∃ t, exec (.rint core {}) s = .next t ∧ s.lanes t core q r w.d (fun l => frint (w.mod % 4) (A l))) ∧
    (w.opc = 0x10 → ∃ t, exec (.cvti core {}) s = .next t ∧ s.lanes t core q r w.d (fun l => ofInt32 (A l))) ∧
    (w.opc = 0x11 → ∃ t, exec (.cvtf core {}) s = .next t ∧ s.lanes t core q r w.d (fun l => toInt32 (w.mod % 4) (A l))) ∧
    (w.opc = 0x12 → ∃ t, exec (.rnd core {}) s = .next t ∧ s.lanes t core q r w.d (fun l => (if isNan (A l) then canonNan
        else (toFp (w.mod % 16) (ofFp (w.mod % 16) (w.mod / 16 % 2 == 1) (A l)).1).1, (ofFp (w.mod % 16) (w.mod / 16 % 2 == 1) (A l)).2))) ∧
    (w.opc = 0x22 → ∃ t, exec (.vbrow core {}) s = .next t ∧ s.lanes t core q r w.d (fun l => (v.browAt 1 (r.browBase + s.fld (F.veStatusBeat core)) l, {}))) ∧
    (w.opc = 0x23 → ∃ t, exec (.vbcol core {}) s = .next t ∧ s.lanes t core q r w.d (fun _ => (v.bcolAt 1 (r.rows - 1), {}))) ∧
    (w.opc = 0x24 → ∃ t, exec (.vidx core {}) s = .next t ∧ s.lanes t core q r w.d (fun l => (fpOfNat (s.fld (F.veStatusBeat core) * 512 + l), {}))) ∧
    (w.opc = 0x0D → ∃ t, exec (.cmp core {}) s = .next t ∧ s.preds t core q r w.d (fun l => fcond (w.mod % 8) (A l) (B l))) ∧
    (w.opc = 0x13 → ∃ t, exec (.pand core {}) s = .next t ∧ s.preds t core q r w.d (fun l => P l && Q l)) ∧
    (w.opc = 0x14 → ∃ t, exec (.por core {}) s = .next t ∧ s.preds t core q r w.d (fun l => P l || Q l)) ∧
    (w.opc = 0x15 → ∃ t, exec (.pxor core {}) s = .next t ∧ s.preds t core q r w.d (fun l => P l != Q l)) ∧
    (w.opc = 0x16 → ∃ t, exec (.pnot core {}) s = .next t ∧ s.preds t core q r w.d (fun l => !P l)) ∧
    (w.opc = 0x17 → ∃ t, exec (.pset core {}) s = .next t ∧ s.preds t core q r w.d (fun _ => w.mod % 2 == 1))

/-- R317, R325, R326, R329: VLD converts the beat's elements into the lanes of its register; VST converts the active lanes of a format other than an
MX one into scratchpad elements and leaves zero or what stood there in the others by POLICY; RSUM, RMAX and RMIN put the reduction of the active
lanes into every active lane of their register. Completes: VLD, VST, RSUM, RMAX, RMIN, of every record that R345 OP_RANGE admits. -/
def Obligations.VectorTransfers : Prop :=
  ∀ (core : Fin 8) (q : Seq) (r : VeRec) (w : VInstr) (v : VeUnit) (b n a : Nat) (s : State), s.Inv → s.regMode core q r w → r.bad = false → v = (s.engines core).ve →
      (∀ k, (v.reg k).length = 512) → b = s.fld (F.veStatusBeat core) → n = min 512 (s.fld (F.veVlenVlen core) - b * 512) →
    (w.opc = 0x20 → a = r.srcA + (r.rows - 1) * r.aStride + fmtBytes r.aFmt (b * 512) → s.fits core [(a, fmtBytes r.aFmt n)] →
      ∃ t, exec (.vld core {}) s = .next t ∧ s.lanes t core q r w.d (fun l => (s.loadElems core r.aFmt a n).getD l (0, {}))) ∧
    (w.opc = 0x21 → a = r.dst + (r.rows - 1) * r.dStride + fmtBytes r.dFmt (b * 512) → isMx r.dFmt = false → s.fitsOut core [(a, fmtBytes r.dFmt n)] →
      ∃ t f, exec (.vst core {}) s = .next t ∧ s.afterReg t core q r f ∧ (t.engines core).ve.regs = v.regs ∧ (t.engines core).ve.preds = v.preds ∧
        (∀ l, l < n → memRead t.mem (spadPlace core + a + elemBits r.dFmt / 8 * l) (elemBits r.dFmt / 8) =
          if s.laneOn core r l then leBytes (elemBits r.dFmt / 8) (ofFp r.dFmt r.satinf ((v.reg w.a).getD l 0)).1
          else if r.zero then List.replicate (elemBits r.dFmt / 8) 0 else memRead s.mem (spadPlace core + a + elemBits r.dFmt / 8 * l) (elemBits r.dFmt / 8)) ∧
        (∀ k, (k < spadPlace core + a ∨ spadPlace core + a + fmtBytes r.dFmt n ≤ k) → memGet t.mem k = memGet s.mem k)) ∧
    (∀ i k f xs x, (i, k) ∈ [(Instr.rsum core {}, 0), (.rmax core {}, 1), (.rmin core {}, 2)] → w.opc = 0x28 + k → xs = ((List.range 512).filter (s.laneOn core r)).map (fun l => (v.reg w.a).getD l 0) → (x, f) = reduceOf k xs →
      ∃ t, exec i s = .next t ∧ s.afterReg t core q r f ∧
        (∀ l, l < 512 → ((t.engines core).ve.reg w.d).getD l 0 = if s.laneOn core r l then x else if r.zero then 0 else (v.reg w.d).getD l 0) ∧
        (∀ j, j ≠ w.d → (t.engines core).ve.reg j = v.reg j) ∧ (t.engines core).ve.preds = v.preds ∧ t.mem = s.mem)

/-! ## Vector engine, records -/

/-- R307, R308, R311, R323, R341: VE_SETVL sets VLEN of the SP channel and returns BEAT to 0; VE_TLOAD fills a table slot with 4,128 bytes of the
scratchpad; VE_BCAST converts elements into BROW lines and BCOL; a chain on the MX channel waits there for its rows; a VE_SYNC holds the other
channel while an earlier operation of the one it names has not completed, and is nothing otherwise. R312 to R315, R318, R319, R347: a chain on the
SP channel takes each element of each row through the eight stages of its descriptor, and VE_EPROG through its program, with the BROW, BCOL and IN_B
values of the element's place, and stores the row in DFMT; masked elements are stored by POLICY. R345: a record with a field value outside what
verification admits is a fault of cause 6. Completes: VE_SETVL, VE_TLOAD, VE_BCAST, VE_CHAIN, VE_SYNC, VE_EPROG. -/
def Obligations.VectorChains : Prop :=
  (∀ (core : Fin 8) (q : Seq) (r : VeRec) (v : VeUnit) (s : State), s.vecAt core q r → v = (s.engines core).ve →
    (r.op = 0x26 → r.sp = true → r.count ≠ 0 → ∃ t, exec (.veSetvl core {}) s = .next t ∧ t.fld (F.veVlenVlen core) = r.count % 65536 ∧
      t.fld (F.veStatusBeat core) = 0 ∧ (t.engines core).ve = { v with ticket := v.ticket + 1 } ∧ (t.engines core).seq = some { q with pos := q.pos + 64 } ∧
      s.onlyRegs t [R.veVlen core, R.veStatus core] ∧ t = { s with regs := t.regs, eng := t.eng }) ∧
    (r.op = 0x25 → s.fits core [(r.cfg, 4128)] → ∃ t, exec (.veTload core {}) s = .next t ∧
      (t.engines core).ve = { v with tables := tset v.tables r.tslot (s.peek (spadPlace core + r.cfg) 4128), ticket := v.ticket + 1 } ∧
      (t.engines core).seq = some { q with pos := q.pos + 64 } ∧ s.onlyRegs t [R.veStatus core] ∧ t = { s with regs := t.regs, eng := t.eng }) ∧
    (∀ i, (r.op, i) ∈ [(0x22, Instr.veEprog core {}), (0x24, .veBcast core {}), (0x26, .veSetvl core {})] → r.sp = true → r.bad = true →
      exec i s = .next (veSync core (veFault core 6 (s.vecPast core q)))) ∧
    (∀ n, r.op = 0x24 → r.bad = false → n = (if r.count = 0 then 65536 else r.count) → (flagBit r.bcast 0 = true → s.fits core [(r.cfg, fmtBytes r.aFmt n)]) →
        (flagBit r.bcast 1 = true → s.fits core [(r.srcB, fmtBytes r.bFmt r.rows)]) →
      ∃ t u, exec (.veBcast core {}) s = .next t ∧ u = (t.engines core).ve ∧
        (flagBit r.bcast 0 = true → ∀ e, e < n → u.browAt r.ch (r.browBase + e / 512) (e % 512) = ((s.loadElems core r.aFmt r.cfg n).getD e (0, {})).1) ∧
        (flagBit r.bcast 0 = false → u.brow = v.brow) ∧ (flagBit r.bcast 1 = true → ∀ e, e < r.rows → u.bcolAt r.ch e = ((s.loadElems core r.bFmt r.srcB r.rows).getD e (0, {})).1) ∧
        (flagBit r.bcast 1 = false → u.bcol = v.bcol) ∧ u = { v with brow := u.brow, bcol := u.bcol, ticket := v.ticket + 1 } ∧
        (t.engines core).seq = some { q with pos := q.pos + 64 } ∧ s.onlyRegs t [R.veStatus core, if r.sp then R.veFlagsSp core else R.veFlagsMx core] ∧
        t = { s with regs := t.regs, eng := t.eng }) ∧
    (r.op = 0x21 → r.sp = false → ∃ t, exec (.veChain core {}) s = .next t ∧ (t.engines core).ve = { v with mx := [(v.ticket, (r, {}))], ticket := v.ticket + 1 } ∧
      t.bit (F.veStatusMxWaiting core) = true ∧ t.bit (F.veStatusMxBusy core) = true ∧ (t.engines core).seq = some { q with pos := q.pos + 64 } ∧
      s.onlyRegs t [R.veStatus core] ∧ t = { s with regs := t.regs, eng := t.eng }) ∧
    (r.op = 0x27 → ∃ t, exec (.veSync core) s = .next t ∧ (t.engines core).ve = { v with ticket := v.ticket + 1 } ∧ (t.engines core).seq = some { q with pos := q.pos + 64 } ∧
      s.onlyRegs t [R.veStatus core] ∧ t = { s with regs := t.regs, eng := t.eng }) ∧
    (∀ z k y, r.op = 0x27 → r.sp = false → k < v.ticket → y.op = 0x21 → z = s.setVe core { v with mx := [(k, (y, {}))] } → ∃ t, exec (.veSync core) z = .next t ∧
      (t.engines core).ve = { v with mx := [(k, (y, {}))], sp := [(v.ticket, (r, {}))], ticket := v.ticket + 1 })) ∧
  (∀ (core : Fin 8) (q : Seq) (r : VeRec) (n : Nat) (s : State), s.vecAt core q r → n = s.fld (F.veVlenVlen core) → r.sp = true →
    (∀ gs, r.op = 0x21 → r.bad = false → gs = stagesOf (s.peek (spadPlace core + r.cfg) 128) → chainOk (s.peek (spadPlace core + r.cfg) 128) = true →
        chainFits gs r.dFmt = true → s.fits core [(r.cfg, 128)] → s.fits core (rowRanges r.srcA r.aStride r.rows (fmtBytes r.aFmt n)) →
        (chainReads gs 3 = true → s.fits core (rowRanges r.srcB r.bStride r.rows (fmtBytes r.bFmt n))) → s.fitsOut core (outRanges r n (reduceKind gs).isSome) →
      exec (.veChain core {}) s = .next (veSync core (((List.range r.rows).foldl (fun u row => endRow core r gs row (chainRow (u.engines core).ve r gs row
          (u.loadElems core r.aFmt (r.srcA + row * r.aStride) n) (if chainReads gs 3 then u.loadElems core r.bFmt (r.srcB + row * r.bStride) n else [])) u)
        (s.vecPast core q)).addPair (R.veBeatsSp core) (r.rows * ((n + 511) / 512))))) ∧
    (∀ k g, r.op = 0x22 → r.bad = false → progOk (s.peek (spadPlace core + r.cfg) (48 + 4 * k)) = true → k = leNat (s.peek (spadPlace core + r.cfg) 1) → g = eprogOf (s.peek (spadPlace core + r.cfg) (48 + 4 * k)) → s.fits core [(r.cfg, 1)] →
        s.fits core [(r.cfg, 48 + 4 * k)] → s.fits core (rowRanges r.srcA r.aStride r.rows (fmtBytes r.aFmt n)) →
        (g.reads 17 = true → s.fits core (rowRanges r.srcB r.bStride r.rows (fmtBytes r.bFmt n))) → s.fitsOut core (outRanges r n false) →
      ∃ t, exec (.veEprog core {}) s = .next t ∧ (t.engines core).ve = { (s.engines core).ve with ticket := (s.engines core).ve.ticket + 1 } ∧
        t.pair (R.veBeatsSp core) = (s.pair (R.veBeatsSp core) + r.rows * ((n + 511) / 512)) % 2 ^ 64 ∧ (t.engines core).seq = some { q with pos := q.pos + 64 } ∧
        s.onlyRegs t [R.veStatus core, R.veFlagsSp core, R.veBeatsSp core, R.veBeatsSp core + 4] ∧ t = { s with regs := t.regs, mem := t.mem, eng := t.eng } ∧
        (r.rows = 1 → isMx r.dFmt = false → g.reads 17 = false → s.Inv → ∀ e, e < n → ∀ out, out = (g.run (s.engines core).ve.tables 
              { ina := ((s.loadElems core r.aFmt r.srcA n).getD e (0, {})).1, inb := 0, brow := (s.engines core).ve.browAt 1 (r.browBase + e / 512) (e % 512), bcol := (s.engines core).ve.bcolAt 1 0, lane := fpOfNat e, row := fpOfNat 0 }
              (((s.loadElems core r.aFmt r.srcA n).getD e (0, {})).2.or {})).1 →
            memRead t.mem (spadPlace core + r.dst + elemBits r.dFmt / 8 * e) (elemBits r.dFmt / 8) = match out with
              | some x => leBytes (elemBits r.dFmt / 8) (ofFp r.dFmt r.satinf x).1
              | none => if r.zero then List.replicate (elemBits r.dFmt / 8) 0 else memRead s.mem (spadPlace core + r.dst + elemBits r.dFmt / 8 * e) (elemBits r.dFmt / 8))))

/-! ## Recurrence unit -/

/-- R355, R356, R366, R369, R370: what an operation of the tide-pool group, an RU_TOEP or an RU_TLOAD leaves, for a record whose fields verification
admits, with its scratchpad ranges in the partition's regions and its members' state in the pool. RU_SLOAD leaves each member's stored elements, in
their work form, in the state buffer, and no other byte of it changes. RU_SSTORE writes each valid member's work elements, rounded as PREC has it, into
its state, member after member. RU_TOEP leaves in each entry of the image the tap that falls there, or zero. RU_RING GATHER leaves the last CAP units of each
plane, those numbered below 0 as zero bytes, and with HOLD the HELD bit of each valid member, where its outputs meet neither one another nor what it
reads. RU_RING APPEND writes the last min(COUNT, CAP) units of each plane of each valid member into their slots and adds COUNT to S, where the pool does not
meet what it reads. RU_TLOAD fills a table slot. No other byte of memory changes, and nothing else but the unit's counters and flags and the sequencer.
Completes: RU_SLOAD, RU_SSTORE, RU_TOEP, RU_RING_GATHER, RU_RING_APPEND, RU_TLOAD. -/
def Obligations.RecurrenceRuns : Prop :=
  ∀ (core : Fin 8) (q : Seq) (r : RuRec) (ru : RuUnit) (m : Nat → MemberRow) (x : Nat → Stream) (b : Nat → Nat) (s : State), s.Inv → Memory.wf ru.buf = true →
      s.ruAt core q r → r.bad = false → s.fits core r.ranges.1 → s.fitsOut core r.ranges.2 → ru = (s.engines core).ru →
      (∀ i, m i = s.memberEntry core r.members i) → (∀ i, b i = s.partBase (x i) ((m i).token % 2 == 1) + r.stateOff) →
    (r.op = 0x31 → (∀ i, i < r.rows → s.holds core (m i) (x i) (b i) (r.elems * storeSize r.prec)) →
      ∃ t u, exec (.ruSload core {}) s = .next t ∧ u = (t.engines core).ru ∧
        (∀ i j, i < r.rows → j < r.elems → memRead u.buf (r.bufOff + (i * r.elems + j) * workSize r.prec) (workSize r.prec) =
          (widenEl r.prec ((s.allocBytes (x i) (b i) (r.elems * storeSize r.prec)).drop (j * storeSize r.prec))).bytes r.prec) ∧
        (∀ a, (a < r.bufOff ∨ r.bufOff + r.rows * r.elems * workSize r.prec ≤ a) → memGet u.buf a = memGet ru.buf a) ∧
        u = { ru with buf := u.buf, members := u.members } ∧ t.mem = s.mem ∧ s.afterRu t core q [R.ruPoolBytes core, R.ruPoolBytes core + 4]) ∧
    (r.op = 0x32 → (∀ i, i < r.rows → (m i).valid = true → s.holds core (m i) (x i) (b i) (r.elems * storeSize r.prec)) →
      ∃ t u, exec (.ruSstore core {}) s = .next t ∧ u = (t.engines core).ru ∧
        t.mem = ((List.range r.rows).foldl (fun z i => if (m i).valid then putAlloc (x i) (b i) ((List.range r.elems).flatMap (fun j =>
          (storeEl r.prec (drawOf (m i).seed r.layer (m i).chunk r.tPos (r.stateOff / 2 + j)) (ru.work r.prec (r.bufOff + (i * r.elems + j) * workSize r.prec))).1)) z else z) s).mem ∧
        (∀ a, (∀ i, i < r.rows → (m i).valid = true → ∀ g ∈ (x i).grans, a < granAddr g.2 ∨ granAddr g.2 + 16384 ≤ a) → memGet t.mem a = memGet s.mem a) ∧
        u = { ru with members := u.members } ∧ s.afterRu t core q [R.ruFlags core, R.ruStored core, R.ruStored core + 4, R.ruSrDraws core,
          R.ruSrDraws core + 4, R.ruSrAway core, R.ruSrAway core + 4, R.ruPoolBytes core, R.ruPoolBytes core + 4]) ∧
    (r.op = 0x35 → ∀ k : Nat, k = elemBits r.inFmt / 8 → ∃ t, exec (.ruToep core {}) s = .next t ∧
      (∀ (row col : Nat) (j : Int), row < 128 * density r.inFmt → col < 512 → j = signedOf 32 r.delta + (col : Int) - (row : Int) →
        memRead t.mem (spadPlace core + r.dst + row * (if k = 2 then 1024 else 512) + col * k) k =
          if 0 ≤ j ∧ j < (r.elems : Int) then s.spadBytes core (r.src + j.toNat * k) k else List.replicate k 0) ∧
      (∀ a, (a < spadPlace core + r.dst ∨ spadPlace core + r.dst + 131072 ≤ a) → memGet t.mem a = memGet s.mem a) ∧
      (t.engines core).ru = ru ∧ s.afterRu t core q []) ∧
    (r.op = 0x36 → r.append = false → (∀ i, i < r.rows → s.holds core (m i) (x i) (b i) (ringBytes r)) →
      ∃ t u, exec (.ruRingGather core {}) s = .next t ∧ u = (t.engines core).ru ∧ u = { ru with members := u.members } ∧
        (∀ a, (∀ w ∈ r.ranges.2, a < spadPlace core + w.1 ∨ spadPlace core + w.1 + w.2 ≤ a) → memGet t.mem a = memGet s.mem a) ∧
        s.afterRu t core q [R.ruPoolBytes core, R.ruPoolBytes core + 4] ∧
        ((∀ i p j k, i < r.rows → p < r.units → j < r.rows → k < r.units → (i ≠ j ∨ p ≠ k) →
            rangesMeet (r.dst + i * r.dStride + p * r.pStride) (r.elems * r.unitBytes) (r.dst + j * r.dStride + k * r.pStride) (r.elems * r.unitBytes) = false) →
          (∀ i p, i < r.rows → p < r.units → r.hold = true → rangesMeet (r.dst + i * r.dStride + p * r.pStride) (r.elems * r.unitBytes) r.members (32 * r.rows) = false) →
          (∀ i, i < r.rows → ∀ g ∈ (x i).grans, ∀ w ∈ r.ranges.2, rangesMeet (granAddr g.2) 16384 (spadPlace core + w.1) w.2 = false) →
          ∀ i n, i < r.rows → n = leNat (s.allocBytes (x i) (b i) 8) →
            (∀ p, p < r.units → memRead t.mem (spadPlace core + (r.dst + i * r.dStride + p * r.pStride)) (r.elems * r.unitBytes) = (List.range r.elems).flatMap (fun k =>
              if n + k < r.elems then List.replicate r.unitBytes 0 else s.allocBytes (x i) (b i + ringSlot r p (n + k - r.elems)) r.unitBytes)) ∧
            (r.hold = true → (m i).valid = true → ∀ o, o = leNat (s.spadBytes core (r.members + 32 * i + 4) 1) →
              memGet t.mem (spadPlace core + (r.members + 32 * i + 4)) = BitVec.ofNat 8 (o % 2 + o / 4 * 4 + (if n < r.elems then 2 else 0))))) ∧
    (r.op = 0x36 → r.append = true → (∀ i, i < r.rows → (m i).valid = true → s.holds core (m i) (x i) (b i) (ringBytes r)) →
        (∀ i, i < r.rows → (m i).valid = true → ∀ g ∈ (x i).grans, ∀ w ∈ r.ranges.1, rangesMeet (granAddr g.2) 16384 (spadPlace core + w.1) w.2 = false) →
      ∀ (k : Nat) (n : State → Nat → Nat), k = min r.count r.elems → (∀ (u : State) (i : Nat), n u i = leNat (u.allocBytes (x i) (b i) 8)) →
      ∃ t u, exec (.ruRingAppend core {}) s = .next t ∧ u = (t.engines core).ru ∧ u = { ru with members := u.members } ∧
        t.mem = ((List.range r.rows).foldl (fun z i => if (m i).valid then putAlloc (x i) (b i) (leBytes 8 (n z i + r.count))
          ((List.range r.units).foldl (fun y p => (List.range k).foldl (fun y j => putAlloc (x i) (b i + ringSlot r p (n z i + (r.count - k + j)))
            (s.spadBytes core (r.src + i * r.sStride + p * r.pStride + (r.count - k + j) * r.unitBytes) r.unitBytes) y) y) z) else z) s).mem ∧
        (∀ a, (∀ i, i < r.rows → (m i).valid = true → ∀ g ∈ (x i).grans, a < granAddr g.2 ∨ granAddr g.2 + 16384 ≤ a) → memGet t.mem a = memGet s.mem a) ∧
        s.afterRu t core q [R.ruPoolBytes core, R.ruPoolBytes core + 4]) ∧
    (r.op = 0x37 → ∃ t, exec (.ruTload core {}) s = .next t ∧ (t.engines core).ru = { ru with tables := tset ru.tables r.tslot (s.peek (spadPlace core + r.src) 4128) } ∧
      t.mem = s.mem ∧ s.afterRu t core q [])

/-- R363: RU_SCAN leaves each member's elements at their last position in the state buffer, scanned from what stood there over the inputs of R363 in
eight-position segments, or strictly in sequence for PREC 3, and stores the values of every position, or of the last, in OUT_FMT; where its outputs do not
meet its inputs, or for one member. R358, R382, R390: RU_GATE waits behind the gates before it, and RUn_STATUS shows it; the rows an ME_DRAIN delivers with DEST = GATE
go to the oldest gate, which takes each member's row of lanes through its cells: new state in the state buffer, outputs in OUT_FMT at DST. RU_SYNC holds
the sequencer while an RU_GATE waits, and is passed otherwise. No other byte of memory or of the state buffer changes. Completes: RU_SCAN, RU_GATE, RU_SYNC. -/
def Obligations.RecurrenceStateAndWaits : Prop :=
  ∀ (core : Fin 8) (q : Seq) (r : RuRec) (ru : RuUnit) (w : Nat) (s : State), s.Inv → Memory.wf ru.buf = true → s.ruAt core q r → ru = (s.engines core).ru →
      w = workSize r.prec →
    (∀ (h : Nat → Nat → WorkEl) (ins : Nat → Nat → List (Nat × Nat)) (hs : Nat → Nat → List Nat) (last : Nat → Nat → WorkEl) (at_ : Nat → Nat → Nat → Nat → Nat),
        r.op = 0x34 → r.bad = false → s.fits core r.ranges.1 → s.fitsOut core r.ranges.2 →
        (r.rows = 1 ∨ ∀ a ∈ r.ranges.1, ∀ b ∈ r.ranges.2, rangesMeet a.1 a.2 b.1 b.2 = false) →
        (∀ i e, h i e = ru.work r.prec (r.bufOff + (i * r.elems + e) * w)) →
        (∀ base i t e, at_ base i t e = (toFp r.inFmt (leNat (s.spadBytes core (base + i * r.sStride + t * r.pStride + e * (elemBits r.inFmt / 8)) (elemBits r.inFmt / 8)))).1) →
        (∀ i e, ins i e = (List.range r.tPos).map (fun t => (at_ r.src i t e, at_ r.src2 i t e))) →
        (∀ i e, hs i e = if r.prec = 3 then (scanComp (h i e) (ins i e)).1 else (scanNarrow ((r.tPos + 7) / 8) (h i e).hi (ins i e)).1) →
        (∀ i e, last i e = if r.prec = 3 then (scanComp (h i e) (ins i e)).2.1 else { hi := (hs i e).getLastD (h i e).hi }) →
      ∃ t u, exec (.ruScan core {}) s = .next t ∧ u = (t.engines core).ru ∧ u = { ru with buf := u.buf, members := u.members } ∧
        (∀ i e, i < r.rows → e < r.elems → memRead u.buf (r.bufOff + (i * r.elems + e) * w) w = (last i e).bytes r.prec) ∧
        (∀ a, (a < r.bufOff ∨ r.bufOff + r.rows * r.elems * w ≤ a) → memGet u.buf a = memGet ru.buf a) ∧
        t.mem = ((List.range r.rows).foldl (fun z i => z.poke (spadPlace core + (r.dst + i * r.dStride)) (hPack r.outFmt
          (if r.outAll then (List.range r.tPos).flatMap (fun t => (List.range r.elems).map (fun e => (hs i e).getD t 0)) else (List.range r.elems).map (fun e => (hs i e).getLastD 0))).1) s).mem ∧
        s.afterRu t core q [R.ruFlags core, R.ruElempos core, R.ruElempos core + 4]) ∧
    (r.op = 0x33 → ∃ t, exec (.ruGate core {}) s = .next t ∧ (t.engines core).ru = { ru with gates := ru.gates ++ [(r, {})] } ∧ t.bit (F.ruStatusGateWaiting core) = true ∧
      t.mem = s.mem ∧ s.afterRu t core q [] ∧
      (∀ (z : State) (rows : List (List (Bool × Nat))) (out : Nat → Nat → WorkEl × Nat × Fl) (lane : Nat → Nat → Nat), ru.gates = [] → r.bad = false →
          s.fits core r.ranges.1 → s.fitsOut core r.ranges.2 → z = { t with eng := z.eng } → (z.engines core).ru = (t.engines core).ru → rows.length = r.rows →
          (∀ i l, lane i l = (gateLane (rows.getD i []) l).1) →
          (∀ i p, out i p = cellOf ru.tables r.gru r.prec (lane i (4 * p)) (lane i (4 * p + 1)) (lane i (4 * p + 2)) (lane i (4 * p + 3)) (ru.work r.prec (r.bufOff + (i * r.units + p) * w))) →
        ∃ v u, ruFeed core rows (4 * r.units) z = v ∧ u = (v.engines core).ru ∧ u = { ru with buf := u.buf, members := u.members } ∧
          (∀ i p, i < r.rows → p < r.units → memRead u.buf (r.bufOff + (i * r.units + p) * w) w = (out i p).1.bytes r.prec) ∧
          (∀ a, (a < r.bufOff ∨ r.bufOff + r.rows * r.units * w ≤ a) → memGet u.buf a = memGet ru.buf a) ∧
          v.mem = ((List.range r.rows).foldl (fun y i => y.poke (spadPlace core + (r.dst + i * r.dStride)) (hPack r.outFmt ((List.range r.units).map (fun p => (out i p).2.1))).1) s).mem ∧
          z.onlyRegs v [R.ruStatus core, R.ruFlags core] ∧ v.bit (F.ruStatusBusy core) = false ∧ v = { z with regs := v.regs, mem := v.mem, eng := v.eng })) ∧
    (r.op = 0x38 → (ru.gates = [] → ∃ t, exec (.ruSync core) s = .next t ∧ (t.engines core).ru = ru ∧ t.mem = s.mem ∧ s.afterRu t core q []) ∧
      (ru.gates ≠ [] → exec (.ruSync core) s = .next s)) ∧
    (∀ (i : Nat) (c : Cmd) (p : Seq) (d ρ : MeRec) (z : State), z.nextRec core = some (i, c, p, .me d) → ρ = d.reloc (z.placer c core) → ρ.bad = false → d.op = 3 → ρ.dest = 2 →
        (z.engines core).me.waiting = [] → ∃ y, exec (.meDrain core {}) z = .next (meSync core (ruFeed core
          ((List.range ρ.m).map (fun j => activeRow ρ.nActive ((z.engines core).me.row (ρ.accBase + j)))) ρ.nActive y)) ∧
        y = { z with eng := y.eng } ∧ y.engines core = { z.engines core with seq := some { p with pos := p.pos + 32 } } ∧ ∀ k, k ≠ core → y.engines k = z.engines k)

/-! ## DMA -/

/-- R466, R467, R469, R471, R473: a data operation starts the descriptor at HEAD of a module channel's ring, or at the front of a partition
channel's queue, when its checks pass: COPY and FILL move bursts of it, MEMBER_IN and MEMBER_OUT serve its members in order until one fails, and
MEMBER_OUT waits for a peer that no link leads to until one has retrained. A COPY whose check fails ends at once with the check's status on a module
channel and stops the module on a partition channel. Completes: COPY, FILL, MEMBER_IN, MEMBER_OUT. -/
def Obligations.DmaStarts : Prop :=
  ∀ (c : Fin 64) (fetch ext : HostRead) (n : Nat) (r : DmaRun) (e : Desc) (s x z : State),
    (∀ op, s.dmaStarts c op fetch r e x z → e.check (x.bit (F.dmaChOwnerModule c)) z.bay = 0 →
      (op = 1 → exec (.copy c fetch ext n noErrors) s = .next (moveOn c n ext r z)) ∧
      (op = 2 → exec (.fill c fetch n noErrors) s = .next (moveOn c n (.ok []) r z)) ∧
      (∀ st why k u v, op = 3 → spadScan r.core (z.who c r.cmd).part r.cmd [(e.members, 32 * e.c1)] [] {} z = (true, v) →
          eachMember (memberIn (z.who c r.cmd) e r.core) (List.range e.c1) v = (st, why, k, u) →
        exec (.memberIn c noErrors fetch) s = .next (noteMove c (((u.chan c).run).getD r) st why (if st = 0 then e.total else k * e.c0) u)) ∧
      (∀ st why k u v, op = 4 → s.outWaits c = false → spadScan r.core (z.who c r.cmd).part r.cmd [(e.members, 32 * e.c1)] [] {} z = (true, v) →
          eachMember (memberOut (z.who c r.cmd) e r.core ext) (List.range e.c1) v = (st, why, k, u) →
        exec (.memberOut c noErrors fetch ext) s = .next (noteMove c (((u.chan c).run).getD r) st why (if st = 0 then e.total else k * e.c0) u)) ∧
      (s.outWaits c = true → exec (.memberOut c noErrors fetch ext) s = .next s)) ∧
    (∀ st, s.dmaStarts c 1 fetch r e x z → e.check (x.bit (F.dmaChOwnerModule c)) z.bay = st → st ≠ 0 → exec (.copy c fetch ext n noErrors) s =
      .next (if x.bit (F.dmaChOwnerModule c) then endDesc c st e.total z else dmaFault 1 z))

/-- R450, R452, R454, R456, R459, R460: a COPY of one run from DRAM to DRAM by a module channel leaves at DST the bytes SRC held when it began,
overlapping or not, and a FILL repeats its 4-byte pattern; no other byte of DRAM changes. `moveOn` is what COPY and FILL answer in DmaStarts. -/
def Obligations.DmaMoves : Prop :=
  ∀ (c : Fin 64) (ext : HostRead) (n : Nat) (r : DmaRun) (e : Desc) (s : State), s.Inv → e = descOf r.raw → s.bit (F.dmaChOwnerModule c) = true → e.check true s.bay = 0 →
      e.shape = 0 → r.moved = 0 → e.bursts ≤ n → inDram (addrOf e.dst) = true →
    (e.op = 1 → inDram (addrOf e.src) = true → s.badIn (addrOf e.src) e.c0 = [] → ∃ t, moveOn c n ext r s = t ∧
      memRead t.mem (addrOf e.dst) e.c0 = memRead s.mem (addrOf e.src) e.c0 ∧ s.sameDram t (addrOf e.dst) e.c0 ∧
      (t.chan c).run = some { r with moved := e.c0, status := 0, why := 0 } ∧ t.pair (R.dmaChBytes c) = (s.pair (R.dmaChBytes c) + e.c0) % 2 ^ 64) ∧
    (e.op = 2 → ∃ t, moveOn c n ext r s = t ∧ (∀ i, i < e.c0 → memGet t.mem (addrOf e.dst + i) = e.fill.getD (i % 4) 0) ∧ s.sameDram t (addrOf e.dst) e.c0 ∧
      (t.chan c).run = some { r with moved := e.c0, status := 0, why := 0 } ∧ t.pair (R.dmaChBytes c) = (s.pair (R.dmaChBytes c) + e.c0) % 2 ^ 64)

/-- R466, R470, R471, R472, R474, R477, R478: a descriptor with nothing left to move and nothing to wait for ends: it is counted, its residue and status
are shown, a module channel's HEAD moves on, and an error stops that channel or marks the command; under ARRIVE, after writes to the host, a read
that fences them comes first, and its failure is the descriptor's. An abort ends what runs, empties the queue and clears EN; while data it asked a peer
for is on its way, ABORT stays set. A channel with nothing running and no access under way is drained. R466, R478, R486, R519 to R524: a doorbell of a module channel whose EN is set moves TAIL, or
sets DB_ERR and records the value when it lies outside the ring; EN is set over a good ring and CFG_ERR otherwise; a channel with nothing running
and none of its accesses under way shows DRAINED; a walk fills the channel's TLB or stops the module. Completes: DMA_DESC_END, DMA_ABORT, DMA_TAIL_DOORBELL, DMA_CH_ENABLE,
DMA_DRAINED, TRANSLATION_WALK. -/
def Obligations.DmaEndsAndChannels : Prop :=
  (∀ (p : Path) (c : Fin 64) (ext : HostRead) (r : DmaRun) (s : State), s.boot.powered = true → s.failStopped = false → (s.chan c).run = some r → (s.chan c).waits = [] →
    (r.fence = false → r.moved = r.total → r.status = 0 →
      (((descOf r.raw).arrive = false ∨ (s.chan c).toHost = false) → exec (.dmaDescEnd c ext noErrors) s = .next (dmaSync c (closeAbort c (endDesc c 0 0 s)))) ∧
      ((descOf r.raw).arrive = true → (s.chan c).toHost = true → exec (.dmaDescEnd c ext noErrors) s =
        .next (asFunction (s.who c r.cmd).fn (s.setChan c { s.chan c with run := some { r with fence := true } })))) ∧
    (r.fence = true → r.moved = r.total → r.status = 0 → ∀ u st, st = (if ext.bytes? = none then 6 else 0) →
        u = s.setChan c { s.chan c with toHost := false, run := some { r with fence := false, status := st, why := if ext.bytes? = none then hostWhy ext else r.why } } →
      exec (.dmaDescEnd c ext noErrors) s = .next (dmaSync c (closeAbort c (endDesc c st 0 u)))) ∧
    (r.fence = false → 2 ≤ r.status → exec (.dmaDescEnd c ext noErrors) s = .next (dmaSync c (closeAbort c (endDesc c r.status (r.total - r.moved) s)))) ∧
    (r.fence = false → r.status = 1 → exec (.dmaDescEnd c ext noErrors) s =
      .next (dmaSync c (closeAbort c (emitM Ev.dmaAborted 5 c (min (r.total - r.moved) 0xFFFFFFFF) 0 0 (endDesc c 1 (r.total - r.moved) s))))) ∧
    (∀ st n t, st < 256 → (descOf r.raw).record = false → (descOf r.raw).op ≠ 3 → t = endDesc c st n s → (t.chan c).run = none ∧ t.fld (F.dmaChStatusLastStatus c) = st ∧
      t.pair (R.dmaChDone c) = (s.pair (R.dmaChDone c) + 1) % 2 ^ 64 ∧ (n < 2 ^ 64 → t.pair (R.dmaChResidue c) = n) ∧
      (s.bit (F.dmaChOwnerModule c) = true → t.fld (F.dmaChHeadHead c) = (s.fld (F.dmaChHeadHead c) + 1) % s.dmaSize c % 65536 ∧
        (1 < st → t.bit (F.dmaChStatusErr c) = true ∧ t.bit (F.dmaChCtrlEn c) = false) ∧ (st ≤ 1 → t.bit (F.dmaChCtrlEn c) = s.bit (F.dmaChCtrlEn c))) ∧
      (∀ i, s.bit (F.dmaChOwnerModule c) = false → r.cmd = some i → tget (t.chan c).ended i 0 = tget (s.chan c).ended i 0 + 1 ∧ (1 < st → i ∈ (t.chan c).failed))) ∧
    (s.passes p (R.dmaChCtrl c) = true → (descOf r.raw).record = false → (s.chan c).toHost = false → r.status < 256 → ∃ t, exec (.dmaAbort p c) s = .next t ∧
      (t.chan c).run = none ∧ (t.chan c).queue = [] ∧ t.bit (F.dmaChCtrlAbort c) = false ∧ (s.bit (F.dmaChOwnerModule c) = true → t.bit (F.dmaChCtrlEn c) = false) ∧
      t.fld (F.dmaChStatusLastStatus c) = (if r.status ≠ 0 then r.status else if r.moved = r.total then 0 else 1))) ∧
  (∀ (p : Path) (c : Fin 64) (r : DmaRun) (s : State), s.failStopped = false → (s.chan c).run = some r → s.passes p (R.dmaChCtrl c) = true → r.status = 0 →
      (∃ w ∈ (s.chan c).waits, w.own = true ∧ w.read = true) →
    ∃ t, exec (.dmaAbort p c) s = .next t ∧ (t.chan c).run = some { r with status := 1 } ∧ (t.chan c).queue = [] ∧ (t.chan c).waits = (s.chan c).waits ∧
      t.bit (F.dmaChCtrlAbort c) = true ∧ t.bit (F.dmaChCtrlEn c) = s.bit (F.dmaChCtrlEn c)) ∧
  (∀ (p : Path) (c : Fin 64) (v : Word) (va : BitVec 48) (w : Bool) (s : State), s.boot.powered = true →
    (s.passes p (R.dmaChTail c) = true → s.bit (F.dmaChCtrlEn c) = true →
      (wfield v 15 0 < s.dmaSize c → ∃ t, exec (.dmaTailDoorbell p c v) s = .next t ∧ t.fld (F.dmaChTailTail c) = wfield v 15 0 ∧ t.dma = s.dma) ∧
      (s.dmaSize c ≤ wfield v 15 0 → ∃ t, exec (.dmaTailDoorbell p c v) s = .next t ∧ t.bit (F.dmaChStatusDbErr c) = true ∧
        t.fld (F.dmaChTailTail c) = s.fld (F.dmaChTailTail c) ∧ t = emitM Ev.doorbellRange 5 c (wfield v 15 0) 0 0 (s.setBit (F.dmaChStatusDbErr c) true))) ∧
    (s.passes p (R.dmaChCtrl c) = true → s.bit (F.dmaChCtrlEn c) = false →
      (4 ≤ s.fld (F.dmaChRingCfgLog2 c) → s.fld (F.dmaChRingCfgLog2 c) ≤ 16 → inDevice (s.pair (R.dmaChRingBase c)) = false → inPool (s.pair (R.dmaChRingBase c)) = false →
        ∃ t, exec (.dmaChEnable p c) s = .next t ∧ t.bit (F.dmaChCtrlEn c) = true ∧ t.dma = s.dma) ∧
      (¬(4 ≤ s.fld (F.dmaChRingCfgLog2 c) ∧ s.fld (F.dmaChRingCfgLog2 c) ≤ 16) → ∃ t, exec (.dmaChEnable p c) s = .next t ∧ t.bit (F.dmaChCtrlEn c) = false ∧
        t.bit (F.dmaChStatusCfgErr c) = true ∧ s.onlyRegs t [R.dmaChStatus c])) ∧
    (∃ u, exec (.dmaDrained c) s = .next (settleParts
        (if s.bit (F.dmaChOwnerModule c) || u.partWriting (s.fld (F.dmaChOwnerPartition c)) then u
          else granulesZeroed ((s.tide.zeroing.filter (fun z => z.2 == s.fld (F.dmaChOwnerPartition c))).map Prod.fst) u)) ∧
      ((s.chan c).run = none → (s.chan c).waits = [] → u.bit (F.dmaChStatusDrained c) = true ∧ u.chan c = { s.chan c with aborting := false } ∧
        s.onlyRegs u [R.dmaChStatus c] ∧ ∀ k, k ≠ c.val → u.chan k = s.chan k) ∧
      (¬((s.chan c).run = none ∧ (s.chan c).waits = []) → u = s)) ∧
    (s.bit (F.dmaChOwnerModule c) = false → (s.chan c).hit va.toNat = none →
      (∀ l, s.walk (s.fld (F.dmaChOwnerPartition c)) va.toNat = .leaf l → ∃ t, exec (.translationWalk c va w noErrors) s = .next t ∧ (t.chan c).hit va.toNat ≠ none ∧
        t.pair R.xlWalks = (s.pair R.xlWalks + 1) % 2 ^ 64 ∧ (∀ k, k ≠ c.val → t.chan k = s.chan k) ∧ s.onlyRegs t [R.xlWalks, R.xlWalks + 4] ∧ s.sameMem t) ∧
      (∀ a, s.walk (s.fld (F.dmaChOwnerPartition c)) va.toNat = .denied a → exec (.translationWalk c va w noErrors) s =
        .next (walkFail Ev.xlateDenied 3 va.toNat a va.toNat (if w then 2 else 1) (s.addPair R.xlWalks 1)))))

/-! ## Schedules, tables and models -/

/-- R562 to R570: a container that fails a check is refused with CMD_VERIFY and its check and offset are kept and recorded; one that passes takes
the lowest free identifier, which the result gives. A schedule leaves unless something names it. A mapping block is applied whole or refused, and an
activation table joins a READY entry that no work uses. Completes: SCHED_INSTALL, SCHED_REMOVE,
TABLE_INSTALL_MAPPING, TABLE_INSTALL_ACTIVATION. -/
def Obligations.Installs : Prop :=
  ∀ (q : Fin 65) (c : QCmd) (d : HostRead) (b : List Byte) (s m : State), d.bytes? = some b →
    (s.takes q 0x20 c → m = s.begins q c true →
      (∀ k o, verify q c.len (b.take c.len) m = some (k, o) → exec (.schedInstall q d) s = .next (advanceQ q (refuseVerify q c.id k o m))) ∧
      (∀ i, verify q c.len (b.take c.len) m = none → m.freeSched = some i → ∃ u, exec (.schedInstall q d) s = .next (advanceQ q (completeCmd q c.id St.ok 0 0 i u)) ∧
        tfind s.disp.scheds i = none ∧ 1 ≤ i ∧ i ≤ 1023 ∧ tfind u.disp.scheds i = some (scheduleOf m q (b.take c.len)) ∧
        (∀ k, k ≠ i → tfind u.disp.scheds k = tfind s.disp.scheds k) ∧ u.mem = s.mem ∧ u.strm = s.strm) ∧
      (verify q c.len (b.take c.len) m = none → m.freeSched = none → exec (.schedInstall q d) s = .next (advanceQ q (completeCmd q c.id St.resource 0 0 0 m)))) ∧
    (∀ x i, s.takes q 0x21 c → m = s.begins q c false → i = c.arg0 % 65536 → tfind s.disp.scheds i = some x → x.part = q →
      (s.schedNamed q i = true → exec (.schedRemove q) s = .next (advanceQ q (completeCmd q c.id St.state 0 0 0 m))) ∧
      (s.schedNamed q i = false → ∃ u, exec (.schedRemove q) s = .next (advanceQ q (completeCmd q c.id St.ok 0 0 0 u)) ∧ tfind u.disp.scheds i = none ∧
        ∀ k, k ≠ i → tfind u.disp.scheds k = tfind s.disp.scheds k)) ∧
    (s.takes q 0x22 c → m = s.begins q c true → c.arg0 % 4 = 0 →
      (∀ u, mappingBlock q b m = .ok u → exec (.tableInstallMapping q d) s = .next (advanceQ q (completeCmd q c.id St.ok 0 0 0 u))) ∧
      (∀ o, mappingBlock q b m = .error (St.verify, o) → exec (.tableInstallMapping q d) s = .next (advanceQ q (refuseVerify q c.id 0x10 o m)))) ∧
    (∀ e i, s.takes q 0x22 c → m = s.begins q c true → c.arg0 % 4 = 1 → i = bitsOf c.arg1 5 0 → s.entry i = some e → e.part = q →
      ((e.state ≠ .ready ∨ s.entryInUse e = true) → exec (.tableInstallActivation q d) s = .next (advanceQ q (completeCmd q c.id St.state 0 0 0 m))) ∧
      (∀ o, e.state = .ready → s.entryInUse e = false → c.len = 4128 → tableBad b = none → e.tableSpot = some o →
        ∃ u f, exec (.tableInstallActivation q d) s = .next (advanceQ q (completeCmd q c.id St.ok 0 0 o u)) ∧ u.entry i = some f ∧
          f = { e with tables := tset e.tables o (b.take 4128) } ∧ ∀ k, k ≠ i → u.entry k = s.entry k)) ∧
    (∀ k o, refuseVerify q c.id k o m = completeCmd q c.id St.verify 0 0 0 (emit Ev.schedRefused (some q) 9 0 k o 0
      (((m.setFld F.dispVerifyLastCheck k).setFld F.dispVerifyLastPartition q).setFld F.dispVerifyOffOff o)))

/-- R576, R577, R580, R581, R583: a MODEL_LOAD whose block breaks its layout, or whose TAG the partition already holds, is refused; one that fits
copies the host copy into its leaves, verifies every EXC page, and leaves the entry READY under the number the result gives; a page it cannot
read stops the module. A pin keeps its mask
and completes once the hot set stands on each of its cores; an unpin clears it. R579, R583: a hot set that arrives stands on its core and fills its
region; a reload rewrites what was damaged from the host copy and leaves the entry READY, counted, or BROKEN when the copy cannot be read; a retry
does the same for a BROKEN entry. Completes: MODEL_LOAD, MODEL_PIN, MODEL_UNPIN, HOT_SET_LOADED, MODEL_RELOAD,
MODEL_RELOAD_RETRY. -/
def Obligations.ModelsReload : Prop :=
  (∀ (q : Fin 65) (c : QCmd) (d copy : HostRead) (b bs : List Byte) (s m : State), d.bytes? = some b →
    (s.takes q 0x23 c → m = s.begins q c true →
      (loadBad c.len b = true → exec (.modelLoad q d copy) s = .next (advanceQ q (completeCmd q c.id St.format 0 0 0 m))) ∧
      (loadBad c.len b = false → (s.entryByTag q (loadEntry q b).tag).isSome = true → exec (.modelLoad q d copy) s = .next (advanceQ q (completeCmd q c.id St.state 0 0 0 m))) ∧
      (∀ i u v, loadBad c.len b = false → s.entryByTag q (loadEntry q b).tag = none → takeEntry q m = (some i, u) →
        (u.loadFits (loadEntry q b) = false → exec (.modelLoad q d copy) s = .next (advanceQ q (completeCmd q c.id St.verify 0 0 0 u))) ∧
        (u.loadFits (loadEntry q b) = true → copy.bytes? = none → exec (.modelLoad q d copy) s = .next (advanceQ q (completeCmd q c.id St.hostRead 0 0 0 u))) ∧
        (u.loadFits (loadEntry q b) = true → copy.bytes? = some bs → v = copyImage q ((u.imageOf q (loadEntry q b).va (loadEntry q b).bytes).getD []) bs u →
          (∀ a as, v.pagesBad q ((u.imageOf q (loadEntry q b).va (loadEntry q b).bytes).getD []) = a :: as →
            exec (.modelLoad q d copy) s = .next (advanceQ q (mcFatal 2 a (noteUe a v)))) ∧
          (v.pagesBad q ((u.imageOf q (loadEntry q b).va (loadEntry q b).bytes).getD []) = [] →
          (v.imageGood (loadEntry q b) ((u.imageOf q (loadEntry q b).va (loadEntry q b).bytes).getD []) = false →
            exec (.modelLoad q d copy) s = .next (advanceQ q (completeCmd q c.id St.verify 0 0 0 v))) ∧
          (v.imageGood (loadEntry q b) ((u.imageOf q (loadEntry q b).va (loadEntry q b).bytes).getD []) = true → ∃ w,
            exec (.modelLoad q d copy) s = .next (advanceQ q (completeCmd q c.id St.ok 0 0 i w)) ∧ w.entry i = some { loadEntry q b with state := .ready } ∧
            (∀ k, k ≠ i → w.entry k = u.entry k) ∧ w.mem = v.mem))))) ∧
    (∀ e i mask, m = s.begins q c false → i = c.arg0 % 64 → s.entry i = some e → e.part = q →
      (s.takes q 0x24 c → mask = (if bitsOf c.arg0 15 8 = 0 then (e.resident.map (fun r => 2 ^ r.1)).foldl Nat.lor 0 else bitsOf c.arg0 15 8) →
        (∀ n, n < 8 → (Nat.testBit mask n = true ∨ e.resident.any (fun r => r.1 == n) = true) → s.pinClaim q n i + e.hotUnits ≤ (s.quota q).pinUnits) → e.cmd = none →
        exec (.modelPin q) s = .next (advanceQ q (settlePin i (m.setEntry i { e with pinned := true, pinMask := mask, cmd := some c.id })))) ∧
      (s.takes q 0x25 c → ∃ u, exec (.modelUnpin q) s = .next (advanceQ q (completeCmd q c.id St.ok 0 0 0 u)) ∧ u = m.setEntry i { e with pinned := false, pinMask := 0 })) ∧
    (∀ e i id, s.entry i = some e → e.cmd = some id → e.pinDone = true →
      settlePin i s = completeCmd e.part id St.ok 0 0 0 (s.setEntry i { e with cmd := none }))) ∧
  (∀ (core : Fin 8) (i : Fin 64) (copy : HostRead) (e : Entry) (s : State), s.boot.powered = true → s.entry i = some e →
    (∀ r, e.loading.find? (fun r => r.1 == core.val) = some r → exec (.hotSetLoaded core i) s = .next (pump (settlePins (fillHot i core r.2
      (s.setEntry i { e with loading := e.loading.filter (· ≠ r), resident := e.resident ++ [r] }))))) ∧
    (e.loading.find? (fun r => r.1 == core.val) = none → exec (.hotSetLoaded core i) s = .next s) ∧
    (∀ c, c ∈ [(Instr.modelReload i copy, EState.reloading), (.modelReloadRetry i copy, .broken)] →
      (e.state ≠ c.2 → exec c.1 s = .next s) ∧
      (e.state = c.2 → e.damage ≠ [] → s.copyOf e copy = copy → copy.bytes? = none → exec c.1 s =
        .next (emitM Ev.dmaHostError 5 0 (0x10000 + i) (hostWhy copy) 0 ((asFunction (queueFn e.part) s).setEntry i { e with state := .broken }))) ∧
      (e.state = c.2 → (e.damage = [] ∨ (s.copyOf e copy).bytes? ≠ none) → ∃ t f, exec c.1 s = .next t ∧ t.entry i = some f ∧ f.state = .ready ∧ f.damage = [] ∧
        f.tag = e.tag ∧ f.resident = e.resident ∧ t.fld F.dispCacheStatsReloads = satAdd (s.fld F.dispCacheStatsReloads) 1 0xFFFF ∧
        ∀ k, k ≠ i.val → t.entry k = s.entry k)))

/-! ## Jobs, cores and the dispatcher -/

/-- R555, R571, R572, R575: a JOB_SUBMIT whose block breaks its layout completes with CMD_FORMAT, one with a step that R572 does not allow with
CMD_VERIFY, and any other joins the jobs and waits; a cancel of a job that runs nothing ends it with CMD_ABORTED, and of a running one waits for its end, with those that named it before; a
core changes its mode once it is idle, and completes at once when it has that mode, whether or not a change of it waits. Completes: JOB_SUBMIT, JOB_CANCEL,
CORE_MODE_SET. -/
def Obligations.Jobs : Prop :=
  ∀ (q : Fin 65) (c : QCmd) (d : HostRead) (b : List Byte) (n : Nat) (s m : State), d.bytes? = some b →
    (s.takes q 0x28 c → m = s.begins q c true →
      (jobBad (s.quota q) c.len b = true → exec (.jobSubmit q d) s = .next (advanceQ q (completeCmd q c.id St.format 0 0 0 m))) ∧
      (jobBad (s.quota q) c.len b = false → (jobSteps b (fieldAt b 2 2)).any (s.stepBad q (fieldAt b 0 1 == 1) (fieldAt b 1 1)) = true →
        exec (.jobSubmit q d) s = .next (advanceQ q (completeCmd q c.id St.verify 0 0 0 m))) ∧
      (jobBad (s.quota q) c.len b = false → (jobSteps b (fieldAt b 2 2)).any (s.stepBad q (fieldAt b 0 1 == 1) (fieldAt b 1 1)) = false →
        ∃ u x, exec (.jobSubmit q d) s = .next (advanceQ q u) ∧ tfind u.disp.jobs s.disp.nextJob = some x ∧ x.part = q ∧ x.cmd = c.id ∧ x.cmdId = c.cmdId ∧
          x.steps = jobSteps b (fieldAt b 2 2) ∧ x.excl = (fieldAt b 0 1 == 1) ∧ x.cores = fieldAt b 1 1 ∧ x.step = 0 ∧ x.rep = 0 ∧ x.done = 0 ∧ x.held = [] ∧
          x.running = false ∧ x.cancel = [] ∧ u.disp.nextJob = s.disp.nextJob + 1 ∧ u.mem = s.mem)) ∧
    (s.takes q 0x29 c → m = s.begins q c false →
      (s.disp.jobs.find? (fun j => j.2.part == q.val && j.2.cmdId == c.arg1 % 0x1_0000) = none →
        exec (.jobCancel q) s = .next (advanceQ q (completeCmd q c.id St.handle 0 0 0 m))) ∧
      (∀ j x u, s.disp.jobs.find? (fun j => j.2.part == q.val && j.2.cmdId == c.arg1 % 0x1_0000) = some (j, x) →
        u = { m with disp := { m.disp with jobs := tset m.disp.jobs j { x with cancel := x.cancel ++ [c.id] } } } →
        (x.running = false → exec (.jobCancel q) s = .next (advanceQ q (pump (endJob j St.aborted u)))) ∧
        (x.running = true → exec (.jobCancel q) s = .next (advanceQ q
          (((s.disp.cmds.filter (fun y => y.2.work == .jobStep j)).map Prod.fst).foldl (fun v id => abortFor id v) u))))) ∧
    (∀ x, s.takes adminQ 0x41 c → n = c.arg0 % 8 → x = tget s.disp.cores n {} → m = s.begins adminQ c false →
      (bitsOf c.arg0 31 9 ≠ 0 → exec .coreModeSet s = .next (advanceQ adminQ (completeCmd adminQ c.id St.format 0 0 0 m))) ∧
      (bitsOf c.arg0 31 9 = 0 → x.excl = (bitsOf c.arg0 8 8 == 1) → exec .coreModeSet s = .next (advanceQ adminQ (completeCmd adminQ c.id St.ok 0 0 0 m))) ∧
      (bitsOf c.arg0 31 9 = 0 → x.excl = false → bitsOf c.arg0 8 8 = 1 → s.runsOn (n / 2) ≠ [] → exec .coreModeSet s = .next (advanceQ adminQ (completeCmd adminQ c.id St.state 0 0 0 m))) ∧
      (bitsOf c.arg0 31 9 = 0 → x.excl ≠ (bitsOf c.arg0 8 8 == 1) → ((bitsOf c.arg0 8 8 == 1) = true → s.runsOn (n / 2) = []) →
        (s.coreIdle n = false → ∃ u, exec .coreModeSet s = .next (advanceQ adminQ u) ∧
          tget u.disp.cores n {} = { x with changing := some (bitsOf c.arg0 8 8 == 1), modeCmd := x.modeCmd ++ [c.id] }) ∧
        (s.coreIdle n = true → ∃ u, exec .coreModeSet s = .next (advanceQ adminQ ((x.modeCmd ++ [c.id]).foldl (fun t i => completeCmd adminQ i St.ok 0 0 0 t) u)) ∧
          tget u.disp.cores n {} = { x with excl := bitsOf c.arg0 8 8 == 1, changing := none, modeCmd := [] })))

/-- R558, R561, R573, R584, R590: the budget of every partition returns to its BUDGET on each core; the EXCLUSIVE job submitted first takes its
cores once enough idle EXCLUSIVE cores stand with its budget and room for its programs; unreserved time of a core is looked at only while the module
may dispatch, work is not withheld and the core is idle, and then by the candidates in the order of R557, each at the place it holds (R580). R69, R76, R95, R352, R556, R564, R585: a run is dispatched once at its reserved
start and within its dispatch time: each member is VALID with its chunk when it may step, and its step begins; the run's command starts on both
cores of its die with their member tables. Completes: BUDGET_REFILL, EXCLUSIVE_JOB_START, UNRESERVED_DISPATCH,
RUN_DISPATCH. -/
def Obligations.DispatchOrder : Prop :=
  (∀ (core : Fin 8) (j : Nat) (x : Job) (h : Schedule) (id : Nat) (idle got : List Nat) (s f : State),
    f = { s with disp := { s.disp with placed := s.disp.placed.filter (fun p => (s.picks.map (fun y => y.2.2.work)).contains p.work) } } →
    (∃ t, exec .budgetRefill s = .next t ∧ (∀ p y, (p, y) ∈ s.disp.parts → (p, { y with remain := List.replicate 8 y.quota.budget }) ∈ t.disp.parts) ∧
      t.disp.parts.map Prod.fst = s.disp.parts.map Prod.fst ∧ t = { s with disp := { s.disp with parts := t.disp.parts } }) ∧
    (s.mayDispatch = true → s.firstExcl = some (j, x) → s.pickSched (.job j) = some (id, h) →
        idle = (List.range 8).filter (fun c => (s.coreSt c).excl && (s.coreSt c).changing.isNone && s.coreIdle c && s.budgetCovers h.part h.charge [c] &&
          (List.range h.programs).all (fun p => s.storeTakes id h (c, p))) →
      (idle.length < x.cores → exec .exclusiveJobStart s = .next s) ∧
      (x.cores ≤ idle.length → got = (s.chooseCores h x.cores idle []).mergeSort (· ≤ ·) → ∃ u, exec .exclusiveJobStart s = .next (pumpJob j u) ∧
        tfind u.disp.jobs j = some { x with held := got } ∧ (∀ c ∈ got, (u.coreSt c).job = some j) ∧ (∀ c, c ∉ got → u.coreSt c = s.coreSt c) ∧ u.mem = s.mem)) ∧
    ((s.mayDispatch = false ∨ s.withheld = true ∨ s.sharedIdle core = false) → exec (.unreservedDispatch core) s = .next s) ∧
    (s.mayDispatch = true → s.withheld = false → s.sharedIdle core = true → (∀ p ∈ s.picks, s.pickSched p.2.2 = none) → exec (.unreservedDispatch core) s = .next f) ∧
    (∀ k p y, s.mayDispatch = true → s.withheld = false → s.sharedIdle core = true → s.picks = [(k, p, Pick.job j)] → s.pickSched (.job j) = some (id, h) →
      (s.depGone h = true → exec (.unreservedDispatch core) s = .next (endJob j St.resource f)) ∧
      (s.depGone h = false → placement (.job j) id h f = (none, y) → exec (.unreservedDispatch core) s = .next y) ∧
      (s.depGone h = false → placement (.job j) id h f = (some got, y) → core.val ∈ got → (∀ n ∈ got, y.sharedIdle n = true) →
        (∀ u, startable id h got y = (false, u) → exec (.unreservedDispatch core) s = .next u) ∧
        (∀ u, startable id h got y = (true, u) → tfind u.disp.jobs j = some x →
          exec (.unreservedDispatch core) s = .next (startJobStep j x id h got (takeBudget h.part h.charge got u)))))) ∧
  (∀ (i start : Nat) (c : Cohort) (h : Schedule) (s u v : State) (ms : List Member), s.mayDispatch = true → tfind s.strm.cohorts i = some c → tfind s.disp.scheds c.sched = some h →
      c.startAt s.time = some start →
    ((c.ran = some start ∨ start + dispNs c.ebb < s.time ∨ c.members = [] ∨ s.sharedIdle (2 * c.die) = false ∨ s.sharedIdle (2 * c.die + 1) = false) →
      exec (.runDispatch i) s = .next s) ∧
    (c.ran ≠ some start → s.time ≤ start + dispNs c.ebb → c.members ≠ [] → s.sharedIdle (2 * c.die) = true → s.sharedIdle (2 * c.die + 1) = true →
      (prepare c.sched h [2 * c.die, 2 * c.die + 1] { s with strm := { s.strm with cohorts := tset s.strm.cohorts i { c with ran := some start } } } = (false, u) →
        exec (.runDispatch i) s = .next (c.members.foldl (fun t d => memberIdle c.ebb d t) u)) ∧
      (∀ y, prepare c.sched h [2 * c.die, 2 * c.die + 1] { s with strm := { s.strm with cohorts := tset s.strm.cohorts i { c with ran := some start } } } = (true, u) →
        c.members.foldl (runMember c start) ([], u) = (ms, v) → y = (startCommand h { work := .run i 0, sched := c.sched, part := h.part, cores := [2 * c.die, 2 * c.die + 1], ebb := c.ebb, start := start, members := ms, catchup := false, erased := false, hostErr := false } v).2 →
        ∃ t z, exec (.runDispatch i) s = .next t ∧ tfind y.disp.cmds v.disp.nextCmd = some z ∧ z.work = .run i 0 ∧ z.start = start ∧ z.members = ms ∧
          t = writeTables h z y ∧ ms.map Member.desc = c.members ∧
          (y.coreSt (2 * c.die)).cmd = some v.disp.nextCmd ∧ (y.coreSt (2 * c.die + 1)).cmd = some v.disp.nextCmd ∧
          (y.engines (2 * c.die)).seq = some { prog := 0 } ∧ (y.engines (2 * c.die + 1)).seq = some { prog := 1 } ∧ y.reg (R.meFlags (2 * c.die)) = 0#32)))

/-- R64, R74, R293, R334, R357, R383, R471, R565, R574: a command ends once all its programs have ended, its engines are quiet and its descriptors
are done, and the channels its cancel aborted are drained (R479); until then nothing happens. Its cores are then free, each has kept its flags and counted a command, the channels forget it, and the job's
repetition or the members' steps end. R386: granules of streams that left while it ran are then given back. Completes: COMMAND_END. -/
def Obligations.CommandEnds : Prop :=
  ∀ (core : Fin 8) (last : List Nat) (i : Nat) (c : Cmd) (s u : State), (s.coreSt core).cmd = some i → tfind s.disp.cmds i = some c →
    ((s.failStopped = true ∨ (∃ k ∈ c.cores, (s.engines k).seq.any Seq.ended = false ∨ s.enginesQuiet k = false) ∨ s.dmaQuiet i none = false ∨ s.cancelDrains c = true) →
      exec (.commandEnd core last) s = .next s) ∧
    (s.failStopped = false → (∀ k ∈ c.cores, (s.engines k).seq.any Seq.ended = true ∧ s.enginesQuiet k = true) → s.dmaQuiet i none = true → s.cancelDrains c = false →
        (∃ z, z = forgetCmd i (c.cores.foldl leaveCore s) ∧ u = endLeavers i { z with disp := { z.disp with cmds := terase z.disp.cmds i } }) →
      (∀ j, c.work = .jobStep j → exec (.commandEnd core last) s = .next (settleCores c.cores (repEnd j c
        (c.erased || c.cores.any (fun k => s.bit (F.meFlagsErased k))) u))) ∧
      ((∀ j, c.work ≠ .jobStep j) → exec (.commandEnd core last) s = .next (settleCores c.cores (((heldMembers c s).filter
        (fun m => !s.tide.leavers.any (fun z => z.desc == m.1.desc && z.cmds.contains i))).foldl (memberEnd c
        (c.erased || c.cores.any (fun k => s.bit (F.meFlagsErased k)) || c.hostErr) last) u))) ∧
      (∀ k ∈ c.cores, (u.coreSt k).cmd = none ∧ (u.engines k).seq = none) ∧ tfind u.disp.cmds i = none ∧ (s.tide.leavers = [] → u.mem = s.mem) ∧
      (∀ z ∈ s.tide.leavers, (∀ n ∈ z.cmds, n = i) → ∀ g ∈ z.str.grans, g.2 ∉ u.tide.held) ∧
      (∀ k ∈ c.cores, c.cores.Nodup → (∀ n ∈ c.cores, n < 8) → u.reg (R.meFlagsLast k) = s.reg (R.meFlags k) ∧ u.reg (R.ruFlagsLast k) = s.reg (R.ruFlags k) ∧
        u.pair (R.sqsCmds k) = (s.pair (R.sqsCmds k) + 1) % 2 ^ 64)) ∧
    (∀ j x, tfind s.disp.jobs j = some x → c.hostErr = false → x.cancel = [] →
      (∀ t, x.steps[x.step]? = some t → x.rep + 1 < t.reps → tfind (repEnd j c false s).disp.jobs j = some { x with running := false, done := x.done + 1, rep := x.rep + 1 }) ∧
      (∀ t, x.steps[x.step]? = some t → t.reps ≤ x.rep + 1 → x.step + 1 < x.steps.length → t.report = false →
        tfind (repEnd j c false s).disp.jobs j = some { x with running := false, done := x.done + 1, step := x.step + 1, rep := 0 }))

/-! ## Partitions and zeroing -/

/-- R547 to R551: PARTITION_CREATE, PARTITION_SET and PARTITION_DESTROY refuse in the order R548 and R550 give, and otherwise wait: a creation until
its frames are clean, its channels free and a frame of the table area clean (log entry 10 says what no such frame means), a change until the frames
that join are clean and its channels free, a destruction until everything of the partition has left.
A destruction removes what the partition installed at once. Destroying one that is not ACTIVE is CMD_STATE by log entry 19. R508, R509, R549 to
R551, R264: when a partition command that waits takes effect, and with what; until then nothing changes. Completes: PARTITION_CREATE, PARTITION_SET,
PARTITION_DESTROY. -/
def Obligations.Partitions : Prop :=
  (∀ (d : HostRead) (b : List Byte) (c : QCmd) (p : Nat) (q : Quota) (s m : State), d.bytes? = some b → p = c.handle % 64 → q = quotaOf b →
    (s.takesCritical adminQ 0x80 c true d m →
      (quotaBad c.len b = true → exec (.partitionCreate d) s = .next (advanceQ adminQ (completeCmd adminQ c.id St.format 0 0 0 m))) ∧
      (quotaBad c.len b = false → ((m.partition p).isSome = true ∨ (tfind m.disp.creating p).isSome = true) →
        exec (.partitionCreate d) s = .next (advanceQ adminQ (completeCmd adminQ c.id St.state 0 0 0 m))) ∧
      (quotaBad c.len b = false → m.partition p = none → tfind m.disp.creating p = none →
        (m.quotaOver p q = true → exec (.partitionCreate d) s = .next (advanceQ adminQ (completeCmd adminQ c.id St.resource 0 0 0 m))) ∧
        (m.quotaOver p q = false → ∃ u, exec (.partitionCreate d) s = .next (advanceQ adminQ (settleParts u)) ∧ tfind u.disp.creating p = some (q, c.id) ∧
          u = { m with disp := { m.disp with creating := u.disp.creating } }))) ∧
    (s.takes adminQ 0x40 c → m = s.begins adminQ c true →
      (quotaBad c.len b = true → exec (.partitionSet d) s = .next (advanceQ adminQ (completeCmd adminQ c.id St.format 0 0 0 m))) ∧
      (quotaBad c.len b = false → (∀ y, m.partition p = some y → y.state ≠ .active ∨ y.next.isSome = true) →
        exec (.partitionSet d) s = .next (advanceQ adminQ (completeCmd adminQ c.id St.state 0 0 0 m))) ∧
      (∀ y, quotaBad c.len b = false → m.partition p = some y → y.state = .active → y.next = none →
        ((m.quotaOver p q = true ∨ m.setOver p y.quota q = true) → exec (.partitionSet d) s = .next (advanceQ adminQ (completeCmd adminQ c.id St.resource 0 0 0 m))) ∧
        (m.quotaOver p q = false → m.setOver p y.quota q = false →
          m.takesBusy p q.channels = true →
          exec (.partitionSet d) s = .next (advanceQ adminQ (completeCmd adminQ c.id St.state 0 0 0 m))) ∧
        (m.quotaOver p q = false → m.setOver p y.quota q = false →
          m.takesBusy p q.channels = false →
          exec (.partitionSet d) s = .next (advanceQ adminQ (settleParts (m.setPartition p { y with next := some q, cmd := some c.id })))))) ∧
    (s.takesCritical adminQ 0x81 c true d m →
      ((∀ y, m.partition p = some y → y.state ≠ .active) → exec (.partitionDestroy d) s = .next (advanceQ adminQ (completeCmd adminQ c.id St.state 0 0 0 m))) ∧
      (∀ y, m.partition p = some y → y.state = .active → ∃ u, exec (.partitionDestroy d) s = .next (advanceQ adminQ (settleParts (removeRegions p u))) ∧
        (∀ x ∈ u.disp.scheds, x.2.part ≠ p) ∧ (∀ x ∈ u.disp.entries, x.2.part ≠ p) ∧ (∀ x ∈ u.disp.tags, x.1 ≠ p)))) ∧
  (∀ (p id : Nat) (q : Quota) (y : Partition) (s : State), p < 64 →
    ((s.clean q.dramBase q.dramSize = false ∨ s.clean q.swapBase q.swapSize = false ∨ s.freeChannels.length < q.channels) → settleCreate s (p, (q, id)) = s) ∧
    (∀ t : State, s.clean q.dramBase q.dramSize = true → s.clean q.swapBase q.swapSize = true → q.channels ≤ s.freeChannels.length →
        t = { s with disp := { s.disp with creating := terase s.disp.creating p } } →
      ((allocTable p 4096 t).1 = none → s.tablesDirty = true → settleCreate s (p, (q, id)) = s) ∧
      ((allocTable p 4096 t).1 = none → s.tablesDirty = false → settleCreate s (p, (q, id)) = completeCmd adminQ id St.resource 0 0 0 t) ∧
      ((allocTable p 4096 t).1 ≠ none → ∃ u, settleCreate s (p, (q, id)) = completeCmd adminQ id St.ok 0 0 0 (emit Ev.partitionCreated (some p) 9 0 p 0 0 u) ∧
        u.partition p = some { state := .active, quota := q, remain := List.replicate 8 q.budget } ∧ tfind u.disp.creating p = none ∧
        (∀ k, k ≠ p → u.partition k = s.partition k) ∧ u.strm = s.strm)) ∧
    (y.next = some q → y.cmd = some id →
      (s.takesBusy p q.channels = true → settleSet s (p, y) = completeCmd adminQ id St.state 0 0 0 (s.setPartition p { y with next := none, cmd := none })) ∧
      (s.takesBusy p q.channels = false → ((y.quota.dramSize < q.dramSize ∧ s.clean (q.dramBase + y.quota.dramSize) (q.dramSize - y.quota.dramSize) = false) ∨
          (y.quota.swapSize < q.swapSize ∧ s.clean (q.swapBase + y.quota.swapSize) (q.swapSize - y.quota.swapSize) = false) ∨
          (s.channelsOf p).length + s.freeChannels.length < q.channels) → settleSet s (p, y) = s) ∧
      (s.takesBusy p q.channels = false → q.channels ≤ (s.channelsOf p).length + s.freeChannels.length → (y.quota.dramSize < q.dramSize → s.clean (q.dramBase + y.quota.dramSize) (q.dramSize - y.quota.dramSize) = true) →
        (y.quota.swapSize < q.swapSize → s.clean (q.swapBase + y.quota.swapSize) (q.swapSize - y.quota.swapSize) = true) →
        ∃ u, settleSet s (p, y) = completeCmd adminQ id St.ok 0 0 0 u ∧ u.partition p = some { y with quota := q, next := none, cmd := none } ∧
          (∀ k, k ≠ p → u.partition k = s.partition k) ∧ (∀ f ∈ s.mc.dirty, f ∈ u.mc.dirty) ∧
          (q.dramSize < y.quota.dramSize → ∀ f ∈ rangeFrames (q.dramBase + q.dramSize) (y.quota.dramSize - q.dramSize), f ∈ u.mc.dirty) ∧
          (q.swapSize < y.quota.swapSize → ∀ f ∈ rangeFrames (q.swapBase + q.swapSize) (y.quota.swapSize - q.swapSize), f ∈ u.mc.dirty))) ∧
    ((y.state ≠ .destroying ∨ s.emptied p = false) → settleDestroy s (p, y) = s) ∧
    (y.state = .destroying → s.emptied p = true → y.cmd = some id →
      ∃ u, settleDestroy s (p, y) = completeCmd adminQ id St.ok 0 0 0 (emit Ev.partitionDestroyed (some p) 9 0 p 0 0 u) ∧ u.partition p = none ∧
        tfind u.sec.pkeys p = none ∧ (∀ t ∈ u.mc.tables, t.2.1 ≠ p) ∧ (∀ f ∈ s.mc.dirty, f ∈ u.mc.dirty) ∧
        (∀ f ∈ rangeFrames y.quota.dramBase y.quota.dramSize ++ rangeFrames y.quota.swapBase y.quota.swapSize, f ∈ u.mc.dirty)))

/-- R225, R226: a reset of a function ends its jobs, drops its commands without records, clears EN, and has its host-opened streams close as by
ABORT; a reset of PF0 does so for every partition, for the admin queue and for the event queue, and an FLR clears VF Enable. R406, R408, R416, R508:
a frame, a unit or a granule reads as zeros once zeroed, and no longer waits; R437: a wait for zeroing is recorded once. Completes: VF_FLR,
PF0_RESET, FRAME_ZERO_DONE, ZEROING_DONE, ZERO_LAG. -/
def Obligations.ResetsAndZeroing : Prop :=
  ∀ (s : State), s.boot.powered = true →
    (∀ p : Fin 64, ∃ v t : State, exec (.vfFlr p) s = .next (settleParts (emit Ev.vfReset (some p.val) 1 p p ((s.streamsOf p).filter (fun x => x.2.standing.isNone)).length 0 t)) ∧
        t = (s.channelsOf p).foldl (fun s c => abortChan c (failOn c s)) v ∧ (∀ c ∈ s.channelsOf p, (t.chan c).queue = [] ∧ ((s.chan c).waits = [] → (s.chan c).toHost = false → (t.chan c).run = none)) ∧
        (v.queue p).cmds = [] ∧ (v.queue p).reading = false ∧ v.fld (F.sqHeadHead (page p)) = 0 ∧ v.fld (F.sqTailTail (page p)) = 0 ∧
        v.fld (F.rqHeadHead (page p)) = 0 ∧ v.fld (F.rqTailTail (page p)) = 0 ∧ v.bit (F.qCtrlEn (page p)) = false ∧ (∀ x ∈ v.disp.jobs, x.2.part ≠ p.val) ∧ (∀ a, a < hostWindow → memGet v.mem a = memGet s.mem a) ∧
        (∀ d x, (s.strm.table.map Prod.fst).Nodup → s.stream d = some x → x.par.part = p.val → v.stream d = some (if x.standing = none then { x with closing := some 1 } else x)) ∧
        (∀ d x, (s.strm.table.map Prod.fst).Nodup → s.stream d = some x → x.par.part ≠ p.val → v.stream d = some x)) ∧
    (∀ kind link, ∃ t, exec (.pf0Reset kind link) s = .next t ∧ (t.queue adminQ).cmds = [] ∧ t.bit (F.qCtrlEn (page adminQ)) = false ∧ t.bit F.evqCfgEn = false ∧
        (kind = .flr → t.host.vfEnable = false) ∧ t.pcie.d3hot = decide (kind = .d3hot) ∧
        (∀ p, p < 64 → (s.partition p).isSome = true → (t.queue p).cmds = [] ∧ t.bit (F.qCtrlEn (page p)) = false)) ∧
    (∀ f, (f ∉ s.mc.dirty → exec (.frameZeroDone f) s = .next s) ∧
      (f ∈ s.mc.dirty → ∃ u, exec (.frameZeroDone f) s = .next (settleParts u) ∧ u.mc.dirty = s.mc.dirty.filter (· ≠ f) ∧
        (∀ i, i < 0x1_0000 → memGet u.mem (f * 0x1_0000 + i) = 0) ∧ (∀ a, (a < f * 0x1_0000 ∨ (f + 1) * 0x1_0000 ≤ a) → memGet u.mem a = memGet s.mem a))) ∧
    (∀ (core : Fin 8) (us : List Nat), ∃ u, exec (.zeroingDone (.units core us)) s = .next (pump (settlePins (settleParts u))) ∧
      (∀ x p, (x, p) ∈ (tget s.disp.cores core {}).zeroing → x ∈ us → s.partWriting p = false →
        (∀ i, i < 0x1_0000 → memGet u.mem (spadPlace core + x * 0x1_0000 + i) = 0) ∧ (x, p) ∉ (tget u.disp.cores core {}).zeroing) ∧
      (∀ a, (∀ x ∈ us, a < spadPlace core + x * 0x1_0000 ∨ spadPlace core + (x + 1) * 0x1_0000 ≤ a) → memGet u.mem a = memGet s.mem a)) ∧
    (∀ gs : List Nat, ∃ u, exec (.zeroingDone (.granules gs)) s = .next (pump (settlePins (settleParts u))) ∧
      (∀ x p, x < 16384 → (x, p) ∈ s.tide.zeroing → x ∈ gs → s.partWriting p = false →
        (∀ i, i < 0x4000 → memGet u.mem (granAddr x + i) = 0) ∧ (x, p) ∉ u.tide.zeroing) ∧
      (∀ a, a < hostWindow → (∀ x ∈ gs, a < granAddr x ∨ granAddr (x + 1) ≤ a) → memGet u.mem a = memGet s.mem a) ∧ u.tide.held = s.tide.held) ∧
    (∀ w, (s.zeroWaits w = none → ∃ t, exec (.zeroLag w) s = .next t ∧ t = { s with disp := { s.disp with lagged := t.disp.lagged } }) ∧
      (∀ unit n part, s.zeroWaits w = some (unit, n, part) →
        (w ∈ s.disp.lagged → ∃ t, exec (.zeroLag w) s = .next t ∧ t = { s with disp := { s.disp with lagged := t.disp.lagged } }) ∧
        (w ∉ s.disp.lagged → ∃ t, exec (.zeroLag w) s = .next (emit Ev.zeroLag part unit 0 n 0 0 t) ∧ w ∈ t.disp.lagged ∧
          t = { s with disp := { s.disp with lagged := t.disp.lagged } })))

/-! ## Sections, swap and scrub -/

/-- R418, R420 to R425, R428: what a planned or whole transfer does when it begins and when it ends, member by member: granules are taken and the
move stands, a section or whole allocation that arrived lets its step start, a release begins the write-back and a checkpoint read that is due, and
a section's granules are freed once neither is under way. A transfer still under way at its planned time, one that waits for a quota, or one that never
began, is a fault of cause 2. Completes: SECTION_FETCH_START,
SECTION_RELEASE, SECTION_WRITEBACK_DONE, SWAP_IN_DONE, CKPT_READ_DONE, PLAN_MISS. -/
def Obligations.SectionMoves : Prop :=
  ∀ (i : Nat) (k : Fin 32) (c : Cohort) (g : Section) (e : Ecc) (s : State), s.boot.powered = true → tfind s.strm.cohorts i = some c → s.sectionOf c k = some g →
    exec (.sectionFetchStart (.planned i k)) s = .next ((s.sectMembers c).foldl (fetchMember c.ebb k g) s) ∧
    exec (.sectionRelease i k) s = .next ((s.sectMembers c).foldl (releaseMember c.ebb k g) s) ∧
    exec (.sectionWritebackDone i k) s = .next (c.members.foldl (writtenBack c.ebb k g) s) ∧
    (e = noErrors → exec (.swapInDone (.planned i k) e) s = .next (c.members.foldl (sectionIn c.ebb k g) s) ∧
      exec (.ckptReadDone (.planned i k) e) s = .next (c.members.foldl (sectionRead c.ebb k g) s)) ∧
    ((∃ m ∈ s.tide.moves, m.desc ∈ c.members ∧ m.ebb = c.ebb ∧ m.sect = k.val ∧ (m.kind ≤ 2 ∨ m.kind = 6)) → exec (.planMiss i k) s = .next (tpFault 2 s)) ∧
    ((∀ m ∈ s.tide.moves, m.desc ∈ c.members → m.ebb = c.ebb → m.sect = k.val → 2 < m.kind ∧ m.kind ≠ 6) → ∀ h, tfind s.disp.scheds c.sched = some h →
      exec (.planMiss i k) s = .next (if s.missing c h.sections.length k g then tpFault 2 s else s)) ∧
    (∀ (d : Nat) (x : Stream) (idx : List Nat), s.stream d = some x →
      (idx = (s.sectIdx x c.ebb g).filter (fun i => (tfind x.grans i).isNone) →
        (idx = [] → fetchMember c.ebb k g s d = s) ∧
        (idx ≠ [] → s.quotaFull x.par.part idx.length = true → fetchMember c.ebb k g s d = makeQuota x.par.part idx.length (beginMove { desc := d, ebb := c.ebb, sect := k, kind := 6 } s)) ∧
        (idx ≠ [] → s.quotaFull x.par.part idx.length = false → ∃ gs u, fetchMember c.ebb k g s d = beginMove { desc := d, ebb := c.ebb, sect := k, kind := 0 } u ∧ gs.length ≤ idx.length ∧ gs.Nodup ∧
          (∀ n ∈ gs, n < 16384 ∧ n ∉ s.tide.held ∧ ∀ p, (n, p) ∉ s.tide.zeroing) ∧ u.tide.held = s.tide.held ++ gs ∧ u.tide.moves = s.tide.moves.filter (· ≠ { desc := d, ebb := c.ebb, sect := k, kind := 6 }) ∧
          u.stream d = some { x with grans := (idx.zip gs).foldl (fun t p => tset t p.1 p.2) x.grans })) ∧
      (s.failStopped = false → { desc := d, ebb := c.ebb, sect := k, kind := 0 } ∈ s.tide.moves → s.badPages x (s.sectIdx x c.ebb g) = [] →
        ∃ t, sectionIn c.ebb k g s d = (if k.val = 0 then toRunning d t else t) ∧ { desc := d, ebb := c.ebb, sect := k, kind := 0 } ∉ t.tide.moves ∧
          t.mem = (fromSwap x (s.sectIdx x c.ebb g) s).mem ∧ t.strm = s.strm) ∧
      (s.failStopped = true ∨ { desc := d, ebb := c.ebb, sect := k, kind := 0 } ∉ s.tide.moves → sectionIn c.ebb k g s d = s) ∧
      ({ desc := d, ebb := c.ebb, sect := k, kind := 0 } ∉ s.tide.moves → (∀ n ∈ s.sectIdx x c.ebb g, (tfind x.grans n).isSome = true) →
        ∃ t, releaseMember c.ebb k g s d = t ∧ { desc := d, ebb := c.ebb, sect := k, kind := 1 } ∈ t.tide.moves ∧ t.mem = s.mem ∧
          (s.ckptOwed x c.ebb = true → (x.dir c.ebb).ckptWhole = false → (∀ r ∈ (x.dir c.ebb).ckptRead, r.1 ≠ k.val) → { desc := d, ebb := c.ebb, sect := k, kind := 2 } ∈ t.tide.moves) ∧
          (s.ckptOwed x c.ebb = false → t.tide.moves = (beginMove { desc := d, ebb := c.ebb, sect := k, kind := 1 } s).tide.moves ∧ t.strm = s.strm)) ∧
      ({ desc := d, ebb := c.ebb, sect := k, kind := 1 } ∉ s.tide.moves → { desc := d, ebb := c.ebb, sect := k, kind := 2 } ∉ s.tide.moves → x.inShare = false →
        ∃ u v, freeSection c.ebb k g d s = (if k.val = 0 then memberIdle c.ebb d v else v) ∧ v = releaseGranules ((x.grans.filter (fun p => (s.sectIdx x c.ebb g).contains p.1)).map Prod.snd) (s.waitIfGoing x.par.part) u ∧
          u.stream d = some { x with grans := x.grans.filter (fun p => !(s.sectIdx x c.ebb g).contains p.1) } ∧ u.mem = s.mem) ∧
      (({ desc := d, ebb := c.ebb, sect := k, kind := 1 } ∈ s.tide.moves ∨ { desc := d, ebb := c.ebb, sect := k, kind := 2 } ∈ s.tide.moves) → freeSection c.ebb k g d s = s))

/-- R92, R105, R422 to R427: a whole allocation is prefetched when it has room, its arrival makes it resident and starts its step, and its swap-out
frees and zeroes its granules, after which the fetches that wait for its quota are tried again, and ends the episode of a full swap area where it
was an eviction; the swap engine evicts in the order of R92 only below SWAP_LOW. A granule copied to or from a swap page reads as the
page did. Completes: SWAP_OUT_DONE, SWAP_EVICT, and the whole forms of SECTION_FETCH_START, SWAP_IN_DONE and CKPT_READ_DONE. -/
def Obligations.WholeMoves : Prop :=
  ∀ (d : Fin 4096) (x : Stream) (s : State), s.boot.powered = true → s.stream d = some x →
    ((x.leased = false ∨ x.inShare = true ∨ x.grans ≠ [] ∨ x.pages = [] ∨ x.hasWork = false) → exec (.sectionFetchStart (.whole d)) s = .next s) ∧
    (x.leased = true → x.inShare = false → x.grans = [] → x.pages ≠ [] → x.hasWork = true →
      (s.roomFor x.par.part x.par.granules = false → exec (.sectionFetchStart (.whole d)) s = .next (makeRoom x.par.part x.par.granules s)) ∧
      (s.roomFor x.par.part x.par.granules = true → ∃ t gs, exec (.sectionFetchStart (.whole d)) s = .next t ∧ t.tide.held = s.tide.held ++ gs ∧
        (∀ n ∈ gs, n < 16384 ∧ n ∉ s.tide.held) ∧ t.stream d = some { x with grans := (List.range gs.length).zip gs, prefetch := true } ∧
        { desc := d, ebb := false, sect := 0, kind := 4 } ∈ t.tide.moves)) ∧
    ({ desc := d, ebb := false, sect := 0, kind := 4 } ∉ s.tide.moves → exec (.swapInDone (.whole d) noErrors) s = .next s) ∧
    ({ desc := d, ebb := false, sect := 0, kind := 4 } ∈ s.tide.moves → s.badPages x (x.grans.map Prod.fst) = [] → ∃ t, exec (.swapInDone (.whole d) noErrors) s = .next t ∧
      t.stream d = some { x with resident := true, prefetch := false, lateSwap := false, state := if x.state = .idle then .running else x.state } ∧
      t.mem = (fromSwap x (x.grans.map Prod.fst) s).mem ∧ { desc := d, ebb := false, sect := 0, kind := 4 } ∉ t.tide.moves) ∧
    (x.swapping = false → exec (.swapOutDone d) s = .next (retryFetches s)) ∧
    (x.swapping = true → ∃ u, exec (.swapOutDone d) s = .next (retryFetches (releaseGranules (x.grans.map Prod.snd) (u.waitIfGoing x.par.part) u)) ∧
      u.stream d = some { x with swapping := false, resident := false, grans := [], homed := s.time } ∧ u.mem = (toSwap x (x.grans.map Prod.fst) s).mem ∧
      (∀ m ∈ u.tide.moves, m.desc = d.val → m.kind ≠ 3 ∧ m.kind ≠ 5) ∧
      (∀ q, tfind s.disp.parts x.par.part = some q → tfind u.disp.parts x.par.part =
        some (if s.tide.moves.any (fun m => m.desc == d.val && m.kind == 3) then { q with swapFull := false } else q))) ∧
    (s.fld F.tpSwapCfgSwapLow ≤ s.shareFree → exec .swapEvict s = .next s) ∧
    (∀ u, s.shareFree < s.fld F.tpSwapCfgSwapLow → u = evictUntil none s.strm.table.length (s.fld F.tpSwapCfgSwapHigh - s.shareFree - s.coming none) s →
      exec .swapEvict s = .next (u.stuckParts.foldl noteFull u)) ∧
    (∀ part f n, evictUntil part f 0 s = s ∧
      (0 < n → (s.evictList.filter (fun y => part.all (· == y.2.par.part))).head? = none → evictUntil part (f + 1) n s = s) ∧
      (0 < n → (s.evictList.filter (fun y => part.all (· == y.2.par.part))).head? = some (d.val, x) →
        evictUntil part (f + 1) n s = evictUntil part f (n - x.grans.length) (beginSwapOut 3 d s))) ∧
    (∀ kind, ∃ y, (beginSwapOut kind d s).stream d = some y ∧ y.swapping = true ∧ { desc := d, ebb := false, sect := 0, kind := kind } ∈ (beginSwapOut kind d s).tide.moves) ∧
    (∀ a b n, s.Inv → (a + n ≤ b ∨ b + n ≤ a) → (∀ i, i < n → memGet (s.copyMem a b n).mem (a + i) = memGet s.mem (b + i)) ∧
      (∀ i, (i < a ∨ a + n ≤ i) → memGet (s.copyMem a b n).mem i = memGet s.mem i)) ∧
    (∀ ebb, { desc := d, ebb := ebb, sect := wholePart, kind := 2 } ∈ s.tide.moves →
      s.badPages x (((List.range (s.partGrans x ebb)).map (fun i => s.partBase x ebb / 16384 + i)).filter (fun i => (s.granHere d x i).isNone)) = [] →
      (∀ b, s.tide.target = some b → exec (.ckptReadDone (.part d ebb) noErrors) s = .next (flightSync (sendRecord d b ebb false false
        (s.granBytes d x ((List.range (s.partGrans x ebb)).map (fun i => s.partBase x ebb / 16384 + i))) (endMove { desc := d, ebb := ebb, sect := wholePart, kind := 2 } s)))) ∧
      (s.tide.target = none → ∃ t, exec (.ckptReadDone (.part d ebb) noErrors) s = .next t ∧
        t.stream d = some (x.setDir ebb { x.dir ebb with ckptBusy := false }) ∧ t.mem = s.mem))

/-- R409, R410, R436, R441, R502, R507: a scrub pass is counted with the errors it corrected, and handles each word it could not correct where it
lies; a pass that runs beyond its period is recorded once and its lag register follows; telemetry and flash work that runs late is recorded; a controller's highest refresh demand is kept, warns at rate 1 and is a fault at rate 2. Completes: SCRUB_PASS, SCRUB_LAG, REFRESH_STATUS_POLL. -/
def Obligations.ScrubAndRefresh : Prop :=
  ∀ (n : Fin 8) (e : Ecc) (ms : BitVec 32) (c : Fin 12) (temp : Byte) (s u : State), s.boot.powered = true →
    exec (.scrubPass (.spad n) e) s = .next (e.bad.foldl (scrubWord n) (((s.count (F.spScrubStatPasses n) 1).setFld (F.spScrubStatLagMs n) 0).count (F.spEccCorr n) e.corrected.length)) ∧
    exec (.scrubPass .pool e) s = .next (e.bad.foldl scrubGranule (((s.count F.tpScrubStatPasses 1).setFld F.tpScrubStatLagMs 0).count F.tpEccCorr e.corrected.length)) ∧
    exec (.scrubPass .dram e) s = .next ((e.bad.filter (fun a => !s.mc.poison.contains (a / 64))).foldl (fun s a => noteUe a s) (applyEcc e ((s.count F.mcScrubStatPasses 1).setFld F.mcScrubStatLagS 0))) ∧
    (∀ a, (∀ k r, s.regionAt n (a / 8 * 8) = some (k, r) → (r.retained = false → scrubWord n s a = poisonWord n (a / 8 * 8) s) ∧
        (r.retained = true → scrubWord n s a = retainedUe n k (a / 8 * 8) (poisonWord n (a / 8 * 8) s))) ∧
      (s.regionAt n (a / 8 * 8) = none → (∀ i, i < 0x1_0000 → memGet (scrubWord n s a).mem (spadPlace n + a / 8 * 8 / 0x1_0000 * 0x1_0000 + i) = 0) ∧
        (∀ b, (b < spadPlace n + a / 8 * 8 / 0x1_0000 * 0x1_0000 ∨ spadPlace n + a / 8 * 8 / 0x1_0000 * 0x1_0000 + 0x1_0000 ≤ b) →
          memGet (scrubWord n s a).mem b = memGet s.mem b) ∧
        (scrubWord n s a).fld (F.spEccUe n) = (s.count (F.spEccUe n) 1).fld (F.spEccUe n))) ∧
    (∀ g i, i < 0x4000 → (g ∈ s.tide.held → scrubGranule s (granAddr g + i) = tpFault 1 s) ∧
      (g ∉ s.tide.held → ∀ j, j < 0x4000 → memGet (scrubGranule s (granAddr g + i)).mem (granAddr g + j) = 0)) ∧
    (∀ area, ms = 0 → exec (.scrubLag (.scrub area) ms) s = .next s) ∧
    (∀ area f v unit, ((area = .spad n ∧ f = F.spScrubStatLagMs n ∧ v = ms.toNat ∧ unit = 0x10 + n.val) ∨ (area = .pool ∧ f = F.tpScrubStatLagMs ∧ v = ms.toNat ∧ unit = 8) ∨
        (area = .dram ∧ f = F.mcScrubStatLagS ∧ v = ceilDiv ms.toNat 1000 ∧ unit = 6)) → ms ≠ 0 →
      (s.fld f ≠ 0 → exec (.scrubLag (.scrub area) ms) s = .next (s.setFld f (min v 0xFFFF))) ∧
      (s.fld f = 0 → exec (.scrubLag (.scrub area) ms) s = .next (emitM Ev.scrubLag unit 0 ms.toNat 0 0 (s.setFld f (min v 0xFFFF))))) ∧
    exec (.scrubLag .telemetry ms) s = .next (emitM Ev.telemetryLag 0xC 0 ms.toNat 0 0 s) ∧ exec (.scrubLag .flashWear ms) s = .next (emitM Ev.flashWearLag 0 0 ms.toNat 0 0 s) ∧
    (∀ rate : Fin 3, u.mc = { s.mc with demand := tset s.mc.demand c (rate.val, temp.toNat) } →
        u = (({ s with mc := u.mc } : State).setFld F.mcRefreshRate ((u.mc.demand.map (fun d => d.2.1)).foldl max 0)).setFld F.mcRefreshTempMax ((u.mc.demand.map (fun d => d.2.2)).foldl max 0) →
      ((rate = 0 ∨ (tget s.mc.demand c (0, 0)).1 = rate.val) → exec (.refreshStatusPoll c rate temp) s = .next u) ∧
      (rate = 1 → (tget s.mc.demand c (0, 0)).1 ≠ 1 → exec (.refreshStatusPoll c rate temp) s = .next (emitM Ev.thermalWarn 6 c (0x20 + c) temp.toNat 0 u)) ∧
      (rate = 2 → (tget s.mc.demand c (0, 0)).1 ≠ 2 →
        exec (.refreshStatusPoll c rate temp) s = .next (unitFault R.mcFault 6 Ev.thermalTrip 3 3 (emitM Ev.thermalTrip 6 c (0x20 + c) 0 0 u))))

/-! ## Serial audio ports -/

/-- R113, R121 to R124, R138, R142 to R148, R165, R166: an enable is checked and shows CFG_ERR or starts the port; a disable is refused while a
stream is bound, and otherwise stops the port and drops its pending commit; protected registers keep their values while EN is 1; the observation of
the far end's clock; a write of RING_BASE_NEXT is refused with NEXT_ERR, waits for its boundary, or takes effect at once while EN is 0. Completes: AP_ENABLE, AP_DISABLE,
AP_CFG_WRITE, AP_MASTER_CHECK_END, AP_RING_BASE_NEXT_WRITE. -/
def Obligations.PortSetup : Prop :=
  ∀ (p : Path) (n : Fin 8) (v : Word) (s m : State), s.boot.powered = true →
    (s.passes p (R.apCtrl n) = true → s.bit (F.apCtrlEn n) = false → m = (s.setFld (F.apCtrlTakeoverMaster n) (wfield v 4 4)).setFld (F.apCtrlRole n) (wfield v 3 2) →
      (∀ c, m.apCheck n (wfield v 3 2) = some c → ∃ t, exec (.apEnable p n v) s = .next t ∧ t.bit (F.apCtrlEn n) = false ∧ t.bit (F.apStatusCfgErr n) = true ∧
        t.fld (F.apStatusErrCode n) = c % 256 ∧ s.onlyRegs t [R.apCtrl n, R.apStatus n] ∧ s.sameBut t) ∧
      (m.apCheck n (wfield v 3 2) = none → ∃ t, exec (.apEnable p n v) s = .next t ∧ t.bit (F.apCtrlEn n) = true ∧ t.pair (R.apIdx n) = 0 ∧
        t.bit (F.apStatusAligned n) = false ∧ t.fld (F.apStatusRoleNow n) = (if wfield v 3 2 = 0 then 3 else wfield v 3 2) ∧
        t.port n = { observing := wfield v 3 2 == 0, owners := (s.port n).owners, cutOn := (s.port n).cutOn } ∧ (∀ k, k ≠ n.val → t.port k = s.port k) ∧ s.sameDram t 0 0)) ∧
    (s.passes p (R.apCtrl n) = true → s.bit (F.apCtrlEn n) = true →
      ((∃ x ∈ s.strm.table, x.2.par.hostFed = false ∧ x.2.par.port = n.val) → exec (.apDisable p n v) s = .next (emitM Ev.apCfgBusy 3 n (R.apCtrl n) 0 0 s)) ∧
      ((∀ x ∈ s.strm.table, x.2.par.hostFed = false → x.2.par.port ≠ n.val) → ∃ t, exec (.apDisable p n v) s = .next t ∧ t.bit (F.apCtrlEn n) = false ∧
        t.bit (F.apCtrlTakeoverMaster n) = (wfield v 4 4 == 1) ∧ t.bit (F.apStatusAligned n) = false ∧
        t.bit (F.apStatusRunning n) = false ∧ t.fld (F.apStatusRoleNow n) = 3 ∧ t.bit (F.apStatusTakenOver n) = false ∧ t.bit (F.apStatusCommitPending n) = false ∧
        t.bit (F.apStatusSyncLost n) = false ∧ t.bit (F.apStatusOldRingBusy n) = ((s.port n).old.isNone && s.bit (F.apStatusOldRingBusy n)) ∧ (t.port n).commit = none ∧
        (t.port n).driven = [] ∧ (t.port n).old = none ∧ (∀ k, k ≠ n.val → t.port k = s.port k))) ∧
    (∀ w, w ≠ .role → s.passes p (apCfgOff n w) = true → (s.bit (F.apCtrlEn n) = true → exec (.apCfgWrite p n w v) s = .next (emitM Ev.apCfgBusy 3 n (apCfgOff n w) 0 0 s)) ∧
      (s.bit (F.apCtrlEn n) = false → ∃ t, exec (.apCfgWrite p n w v) s = .next t ∧ s.onlyRegs t [apCfgOff n w] ∧ s.sameBut t ∧ t.mem = s.mem ∧
        (w = .cfg → t.reg (R.apCfg n) = wset v 31 30 0) ∧ (w = .floodMask → t.reg (R.apFloodMask n) = v) ∧ (w = .ebbMask → t.reg (R.apEbbMask n) = v) ∧
        (w = .frame → t.fld (F.apFrameDelay n) = wfield v 16 16))) ∧
    (s.passes p (R.apCtrl n) = true → exec (.apCfgWrite p n .role v) s = .next (effApCtrl n (wset v 0 0 (s.fld (F.apCtrlEn n))) s)) ∧
    (((s.port n).observing = false ∨ s.outputsOff = true) → ∀ a, exec (.apMasterCheckEnd n a) s = .next s) ∧
    ((s.port n).observing = true → s.outputsOff = false →
      (s.fld (F.acsStatusState (s.fld (F.apCfgAcs n))) ≠ 4 → ∃ t, exec (.apMasterCheckEnd n false) s = .next t ∧ t.fld (F.apStatusRoleNow n) = 0 ∧ t.bit (F.apStatusRunning n) = true ∧
        t.port n = { s.port n with observing := false } ∧ s.onlyRegs t [R.apStatus n] ∧ t.mem = s.mem) ∧
      (∃ t, exec (.apMasterCheckEnd n true) s = .next (emitM Ev.apClockPresent 3 n 0 0 0 t) ∧ t.fld (F.apStatusRoleNow n) = 2 ∧
        t.port n = { s.port n with observing := false, foreign := true } ∧ s.onlyRegs t [R.apStatus n] ∧ t.mem = s.mem)) ∧
    (∀ (d : Dword) (x : Nat), s.passes p (R.apRingBaseNext n + 4) = true → x = d.toNat % 2 ^ 48 / 4096 * 4096 + d.toNat % 64 → m = s.setPair (R.apRingBaseNext n) x →
      tfind ((dropStaged p (R.apRingBaseNext n) s).pathState p).staged (R.apRingBaseNext n) = none ∧
      (∀ c, m.nextBad n x = some c → ∃ t, exec (.apRingBaseNextWrite p n d) s = .next t ∧ t.bit (F.apStatusNextErr n) = true ∧ t.fld (F.apStatusErrCode n) = c % 256 ∧
        t.pair (R.apRingBaseNext n) = x ∧ s.onlyRegs t [R.apRingBaseNext n, R.apRingBaseNext n + 4, R.apStatus n] ∧ t = { s with regs := t.regs, paths := (dropStaged p (R.apRingBaseNext n) s).paths }) ∧
      (m.nextBad n x = none → s.bit (F.apCtrlEn n) = true → ∃ t, exec (.apRingBaseNextWrite p n d) s = .next t ∧ t.bit (F.apStatusCommitPending n) = true ∧
        t.port n = { s.port n with commit := some (x, s.nextBoundary n) } ∧ t.pair (R.apRingBase n) = s.pair (R.apRingBase n)) ∧
      (m.nextBad n x = none → s.bit (F.apCtrlEn n) = false → ∃ t, exec (.apRingBaseNextWrite p n d) s = .next t ∧ t.pair (R.apRingBase n) = x ∧
        t = { s with regs := t.regs, paths := (dropStaged p (R.apRingBaseNext n) s).paths }))

/-- R131 to R135, R143, R146, R147, R205, R206, R461, R462: a frame begins with the next index and its latched time, or is dropped; its flood record
lands once; ebb records are read and cleared, from the new block where a pending commit's frame has come and the old one holds none; a commit and a slip take effect at their boundary, and an old block is released once consumed; an
ended chunk is copied to its slot, or deferred while the slot is full, but not in a fail-stop (R480). Completes: AP_FRAME_BEGIN,
AP_EBB_FETCH, AP_FLOOD_LAND, AP_RING_COMMIT, AP_SLIP, AP_OLD_RING_RELEASE, PORT_CHUNK_COPY. -/
def Obligations.PortFrames : Prop :=
  ∀ (n : Fin 8) (s : State), s.boot.powered = true →
    (s.framing n = false → exec (.apFrameBegin n) s = .next s) ∧
    (s.framing n = true → (s.port n).commit = none → (s.port n).slip = none → (s.port n).virtuals = [] →
      ((s.port n).dropping = 0 → ∃ t, exec (.apFrameBegin n) s = .next t ∧ (t.port n).idx = (s.port n).idx + 1 ∧ (t.port n).fsIdx = (s.port n).idx ∧
        (t.port n).fsTime = s.time ∧ (t.port n).fetched = none ∧ t.pair (R.apIdx n) = (s.port n).idx % 2 ^ 64 ∧ t.bit (F.apStatusRunning n) = true ∧
        (∀ k, k ≠ n.val → t.port k = s.port k)) ∧
      (0 < (s.port n).dropping → ∃ t, exec (.apFrameBegin n) s = .next t ∧ (t.port n).idx = (s.port n).idx ∧ (t.port n).dropping = (s.port n).dropping - 1 ∧
        t.pair (R.apIdx n) = s.pair (R.apIdx n))) ∧
    (∀ e, s.bit (F.apCtrlEn n) = false → ∃ t, exec (.apEbbFetch n e) s = .next t ∧ t = applyEcc e s) ∧
    (s.bit (F.apCtrlEn n) = true → (s.port n).fetched.map Prod.fst ≠ some (s.port n).idx → s.apMask n true ≠ 0 →
      ∃ t l, exec (.apEbbFetch n noErrors) s = .next t ∧ (t.port n).fetched = some ((s.port n).idx, l) ∧ l.length = (s.slots n true).length ∧
        (s.Inv → ∀ i, i < (s.slots n true).length * s.container n → memGet t.mem (s.fetchAddr n (s.port n).idx + i) = 0) ∧
        (∀ a, (a < s.fetchAddr n (s.port n).idx ∨ s.fetchAddr n (s.port n).idx + (s.slots n true).length * s.container n ≤ a) → memGet t.mem a = memGet s.mem a)) ∧
    (∀ xs, (s.bit (F.apCtrlEn n) = false ∨ (s.port n).idx ≤ (s.port n).landed) → exec (.apFloodLand n xs) s = .next s) ∧
    (∀ (xs : List Word) (r : List Byte), s.bit (F.apCtrlEn n) = true → (s.port n).landed < (s.port n).idx → (s.port n).landed ∉ (s.port n).virtuals →
      r = recordOf (s.fld (F.apCfgWidth n)) (s.stride n false) ((List.range (s.slots n false).length).map (fun i => (xs.getD i 0).toNat % 2 ^ slotBits (s.fld (F.apCfgWidth n)))) →
      ∃ u, exec (.apFloodLand n xs) s = .next (landInserted n u) ∧ u = landRecord n r s ∧ (u.port n).landed = (s.port n).landed + 1 ∧
        (s.Inv → s.apMask n false ≠ 0 → s.floodAddr n (s.port n).landed + r.length ≤ hostWindow →
          ∀ i, i < r.length → memGet u.mem (s.floodAddr n (s.port n).landed + i) = r.getD i 0)) ∧
    ((∀ v kb, (s.port n).commit = some (v, kb) → (s.port n).idx ≠ kb) → exec (.apRingCommit n) s = .next s) ∧
    (∀ v kb h, (s.port n).commit = some (v, kb) → (s.port n).idx = kb → h = max (s.port n).ebbHigh kb →
      ∃ t, exec (.apRingCommit n) s = .next (emitM Ev.apRingCommit 3 n kb (kb / 2 ^ 32) ((h - kb) % 2 ^ 32) t) ∧
        t.port n = { s.port n with commit := none, old := some (s.pair (R.apRingBase n), kb, h) } ∧ t.pair (R.apRingBase n) = v % 2 ^ 64 ∧ t.pair (R.apCommitIdx n) = kb % 2 ^ 64 ∧
        t.bit (F.apStatusCommitPending n) = false ∧ t.bit (F.apStatusOldRingBusy n) = true) ∧
    (∀ drop m kb, (s.port n).commit = none → (s.port n).slip = some (drop, m, kb) → (s.port n).idx = kb →
      ((s.bit (F.apStatusSyncLost n) = true ∨ s.fld F.timeStatusState = 2) → exec (.apSlip n) s = .next (s.setPort n { s.port n with slip := none })) ∧
      (s.bit (F.apStatusSyncLost n) = false → s.fld F.timeStatusState ≠ 2 → ∃ t, exec (.apSlip n) s = .next t ∧ (t.port n).slip = none ∧
        (drop = true → (t.port n).dropping = m ∧ (t.port n).idx = kb) ∧ (drop = false → (t.port n).idx = kb + m ∧ (t.port n).dropping = 0))) ∧
    (s.oldConsumed n = false → exec (.apOldRingRelease n) s = .next s) ∧
    (∀ v kb h, (s.port n).old = some (v, kb, h) → s.oldConsumed n = true → ∃ t, exec (.apOldRingRelease n) s = .next t ∧ (t.port n).old = none ∧
      t.bit (F.apStatusOldRingBusy n) = false ∧ (∀ i, i < 3 * ringSize v → memGet t.mem (ringBase v + i) = 0)) ∧
    (∀ (d : Fin 4096) (x : Stream) (k e : Nat) (rest : List (Nat × Nat)), s.stream d = some x → x.ended = (k, e) :: rest → x.par.hostFed = false → x.leased = true → x.grans ≠ [] →
      (s.failStopped = true → exec (.portChunkCopy d noErrors) s = .next s) ∧
      (s.failStopped = false → (∃ j ∈ x.full, j % 2 = k % 2) → Nat.testBit (tget x.flags k 0) 16 = true → exec (.portChunkCopy d noErrors) s = .next s) ∧
      (s.failStopped = false → (∃ j ∈ x.full, j % 2 = k % 2) → Nat.testBit (tget x.flags k 0) 16 = false → ∃ t, exec (.portChunkCopy d noErrors) s = .next t ∧
        t.fld F.dmaPortDeferCount = (s.count F.dmaPortDeferCount 1).fld F.dmaPortDeferCount ∧ s.onlyRegs t [R.dmaPortDefer] ∧ t.mem = s.mem) ∧
      (s.failStopped = false → (∀ j ∈ x.full, j % 2 ≠ k % 2) → ∃ t y, exec (.portChunkCopy d noErrors) s = .next t ∧ t.stream d = some y ∧ y.ended = rest ∧
        y.ready = (if x.par.floodEn then x.ready ++ [(k, e)] else x.ready) ∧
        y.full = x.full ++ [k]))

/-- R138, R153 to R156, R161: a flag is lowered; frame-sync loss, its virtual frames, its end, and the takeover of the clock, which leaves the loss standing where the synthesizer has failed (R209). R162: while
every output is off no port takes over. Completes: VAD_FLAG_LOWER, AP_SYNC_LOSS, AP_VIRTUAL_FRAME, AP_SYNC_RESTORE, AP_TAKEOVER. -/
def Obligations.PortSync : Prop :=
  ∀ (n : Fin 8) (slot : Fin 32) (s : State),
    (s.bit (F.apCtrlEn n) = true → s.bit (F.apStatusRunning n) = true → (s.fld (F.apStatusRoleNow n) = 1 ∨ s.fld (F.apStatusRoleNow n) = 2) → s.bit (F.apStatusSyncLost n) = false →
      ∃ t, exec (.apSyncLoss n) s = .next t ∧ t.bit (F.apStatusSyncLost n) = true ∧ t.fld (F.apErrcntSyncLoss n) = (s.count (F.apErrcntSyncLoss n) 1).fld (F.apErrcntSyncLoss n) ∧
        t.port n = { s.port n with virt := 0, driven := [], padding := false, slip := none, dropping := 0 } ∧ (∀ k, k ≠ n.val → t.port k = s.port k)) ∧
    ((s.bit (F.apCtrlEn n) = false ∨ s.bit (F.apStatusRunning n) = false ∨ s.fld (F.apStatusRoleNow n) = 0 ∨ s.bit (F.apStatusSyncLost n) = true) → exec (.apSyncLoss n) s = .next s) ∧
    (s.bit (F.apStatusSyncLost n) = false → exec (.apVirtualFrame n) s = .next s) ∧
    (s.bit (F.apStatusSyncLost n) = true → (s.port n).commit = none → ∃ t, exec (.apVirtualFrame n) s = .next t ∧ (t.port n).idx = (s.port n).idx + 1 ∧
      (t.port n).virt = (s.port n).virt + 1 ∧ (s.port n).idx ∈ (t.port n).virtuals ∧ (t.port n).driven = (s.port n).driven ∧ t.pair (R.apIdx n) = (s.port n).idx % 2 ^ 64) ∧
    ((s.bit (F.apStatusSyncLost n) = false ∨ s.fld (F.apStatusRoleNow n) = 0) → exec (.apSyncRestore n) s = .next s) ∧
    (s.bit (F.apStatusSyncLost n) = true → s.fld (F.apStatusRoleNow n) ≠ 0 → ∃ t, exec (.apSyncRestore n) s = .next t ∧ t.bit (F.apStatusSyncLost n) = false ∧
      t.port n = { s.port n with virt := 0 }) ∧
    (s.outputsOff = false → s.fld (F.apCtrlRole n) = 2 → s.fld (F.apStatusRoleNow n) = 2 → s.bit (F.apCtrlTakeoverMaster n) = true → s.bit (F.apStatusSyncLost n) = true → 4 ≤ (s.port n).virt →
      (∃ x ∈ s.boundTo n, x.2.leased = true) → ∃ t, exec (.apTakeover n) s = .next t ∧ t.fld (F.apStatusRoleNow n) = 0 ∧ t.bit (F.apStatusTakenOver n) = true ∧
        (s.fld (F.acsStatusState (s.fld (F.apCfgAcs n))) ≠ 4 → t.bit (F.apStatusSyncLost n) = false ∧ t.port n = { s.port n with virt := 0 }) ∧
        (s.fld (F.acsStatusState (s.fld (F.apCfgAcs n))) = 4 → t.bit (F.apStatusSyncLost n) = true ∧ t.port n = s.port n)) ∧
    ((s.outputsOff = true ∨ s.fld (F.apStatusRoleNow n) ≠ 2 ∨ s.bit (F.apCtrlTakeoverMaster n) = false ∨ (s.port n).virt < 4) → exec (.apTakeover n) s = .next s) ∧
    ((Nat.testBit (s.port n).hwFlag slot = false ∨ tfind (s.port n).quiet slot = none) → exec (.vadFlagLower n slot) s = .next s) ∧
    (∀ h, Nat.testBit (s.port n).hwFlag slot = true → (tfind (s.port n).quiet slot).isSome = true → h = (s.port n).hwFlag - 2 ^ slot.val →
      ∃ t, exec (.vadFlagLower n slot) s = .next t ∧ (t.port n).hwFlag = h ∧ Nat.testBit h slot = false ∧ t.reg (R.apVadFlag n) = BitVec.ofNat 32 (Nat.lor h (s.reg (R.apVadSoft n)).toNat))

/-- R151: a write of 1 to STICKY re-arms a tidemark and clears its COUNT, and a level on the alarm side then counts as a crossing. R149, R150: a
changed configuration crosses when it puts the level on the alarm side, and only the first crossing since arming is recorded. Completes: TIDEMARK_REARM, TIDEMARK_CFG_WRITE. -/
def Obligations.Tidemarks : Prop :=
  ∀ (p : Path) (mark : Mark) (o : Nat) (cfg v : Word) (level : Nat) (s : State), o = markOff mark → cfg = s.reg o → level = wfield (s.reg (o + 8)) 27 0 →
    (s.passes p (o + 4) = true → ∃ b t, exec (.tidemarkRearm p mark) s = .next (markNotify mark (b, t)) ∧ b = tmAlarm cfg level ∧
      wfield (t.reg (o + 4)) 31 31 = b.toNat ∧ wfield (t.reg (o + 4)) 15 0 = b.toNat ∧ s.onlyRegs t [o + 4] ∧ s.sameBut t) ∧
    (s.passes p o = true → ∃ b t x, exec (.tidemarkCfgWrite p mark v) s = .next (markNotify mark (b, t)) ∧ wfield (t.reg o) 31 31 = wfield v 31 31 ∧
      wfield (t.reg o) 27 0 = wfield v 27 0 ∧ x = (!tmAlarm cfg level && tmAlarm (t.reg o) level) ∧ s.onlyRegs t [o, o + 4] ∧ s.sameBut t ∧
      b = (x && wfield (s.reg (o + 4)) 31 31 == 0) ∧
      t.reg (o + 4) = if x then wset (wset (s.reg (o + 4)) 15 0 (satAdd (wfield (s.reg (o + 4)) 15 0) 1 0xFFFF)) 31 31 1 else s.reg (o + 4))

/-! ## Links and what a module knows of its tray -/

/-- R595 to R606, R608, R609: training starts on a link that is DOWN and enabled; it ends with the width of R596 or in DOWN; a bad flit is discarded
whole, one out of sequence changes no more than the FEC counters, and one in sequence is taken; a NAK sends what followed ACK again; a link retrains
keeping its replay buffer, and goes DOWN with the cause given. Completes: LINK_TRAIN_START,
LINK_TRAIN_TIMEOUT, LINK_UP, LANE_FAIL, LINK_RETRAIN_LIMIT, LINK_RETRAIN_TIMEOUT, LINK_RETRAIN, LINK_DISABLE, FLIT_RECEIVE, LINK_NAK_RECEIVE,
MESSAGE_DISCARD. -/
def Obligations.Links : Prop :=
  ∀ (l : Fin 6) (s : State), s.boot.powered = true →
    ((s.deaf = true ∨ s.bit (F.linkCtrlDisable l) = true ∨ s.fld (F.linkStatusState l) ≠ 0) → ∀ g, exec (.linkTrainStart l g) s = .next s) ∧
    (s.deaf = false → s.bit (F.linkCtrlDisable l) = false → s.fld (F.linkStatusState l) = 0 →
      (∃ t, exec (.linkTrainStart l false) s = .next t ∧ t.reg (R.linkStatus l) = 0x01000000#32 ∧ s.onlyRegs t [R.linkStatus l] ∧ s.sameBut t ∧ t.mem = s.mem) ∧
      (∃ u, exec (.linkTrainStart l true) s = .next (sendHello l u) ∧ u.reg (R.linkStatus l) = 1#32 ∧ u.link l = {} ∧ (∀ k, k ≠ l.val → u.link k = s.link k))) ∧
    (∀ c, 0 < c → c < 16 → s.fld (F.linkStatusState l) ≠ 0 → ∃ u, linkDown l c s = linkChanged (emitM Ev.linkDown 0xA l c 0 0 u) ∧ u.fld (F.linkStatusState l) = 0 ∧
      u.fld (F.linkStatusCause l) = c ∧ u.link l = {} ∧ u.fld (F.linkDownsDowns l) = (s.count (F.linkDownsDowns l) 1).fld (F.linkDownsDowns l)) ∧
    ((s.fld (F.linkStatusState l) = 1 ∨ s.fld (F.linkStatusState l) = 2) → (s.link l).retraining = false → exec (.linkTrainTimeout l) s = .next (linkDown l 0xA s)) ∧
    ((s.fld (F.linkStatusState l) = 0 ∨ 2 < s.fld (F.linkStatusState l) ∨ (s.link l).retraining = true) → exec (.linkTrainTimeout l) s = .next s) ∧
    (∀ tx rx cs, (s.fld (F.linkStatusState l) = 0 ∨ 2 < s.fld (F.linkStatusState l)) → exec (.linkUp l tx rx cs) s = .next s) ∧
    (∀ (tx rx : Byte) (cs : List Nat), (s.fld (F.linkStatusState l) = 1 ∨ s.fld (F.linkStatusState l) = 2) →
      (widthOf tx.toNat rx.toNat (s.link l).wide = none → exec (.linkUp l tx rx cs) s = .next (linkDown l 2 s)) ∧
      (∀ a n, widthOf tx.toNat rx.toNat (s.link l).wide = some (a, n) → (s.link l).retraining = false →
        ∃ u, exec (.linkUp l tx rx cs) s = .next (linkChanged (emitM Ev.linkUp 0xA l n 0 0 u)) ∧ u.fld (F.linkStatusLanes l) = n ∧
          u.link l = { s.link l with lane0 := a, credits := creditTable cs, naks := 0, wide := n == 8, episode := false } ∧
          ((s.link l).far = none → u.fld (F.linkStatusState l) = if n = 8 then 3 else 4))) ∧
    (∀ lane, (s.fld (F.linkStatusState l) < 3 → exec (.laneFail l lane) s = .next s) ∧
      (3 ≤ s.fld (F.linkStatusState l) → ∃ u, exec (.laneFail l lane) s = .next (linkChanged u) ∧ u = retrainOf l s)) ∧
    (8 ≤ (s.link l).naks → 3 ≤ s.fld (F.linkStatusState l) → exec (.linkRetrainLimit l) s = .next (linkChanged (retrainOf l s))) ∧
    ((s.link l).naks < 8 → exec (.linkRetrainLimit l) s = .next s) ∧
    (exec (.linkRetrainTimeout l) s = .next (if (s.link l).retraining then linkDown l 3 s else s)) ∧
    (∀ (p : Path) (v : Word) (w : State), s.passes p (R.linkCtrl l) = true → v.getLsbD 0 = false → 3 ≤ s.fld (F.linkStatusState l) →
      w = (s.setBit (F.linkCtrlDisable l) false).setLink l { s.link l with wide := true } → exec (.linkRetrain p l v) s = .next (linkChanged (retrainOf l w))) ∧
    (∀ (p : Path) (v : Word), s.passes p (R.linkCtrl l) = true →
      (s.bit (F.linkCtrlDisable l) = true → exec (.linkDisable p l v) s = .next (s.setBit (F.linkCtrlDisable l) true)) ∧
      (s.bit (F.linkCtrlDisable l) = false → exec (.linkDisable p l v) s = .next ((linkDown l 9 (s.setBit (F.linkCtrlDisable l) true)).setFld (F.linkStatusCause l) 9))) ∧
    (∀ f : Flit, (s.fld (F.linkStatusState l) < 2 → exec (.flitReceive l f) s = .next s) ∧
      (2 ≤ s.fld (F.linkStatusState l) →
        ((f.crcOk = false ∨ f.uncorrectable ≠ 0) → ∃ t, exec (.flitReceive l f) s = .next t ∧ t.link l = { s.link l with episode := true } ∧
          t.pair (R.linkRxFlits l) = s.pair (R.linkRxFlits l) ∧ t.mem = s.mem ∧
          t.fld (F.linkErrCrcErr l) = if f.crcOk then s.fld (F.linkErrCrcErr l) else (s.count (F.linkErrCrcErr l) 1).fld (F.linkErrCrcErr l)) ∧
        (f.crcOk = true → f.uncorrectable = 0 → f.data = true → f.seq.val ≠ (s.link l).rxSeq → ∃ t, exec (.flitReceive l f) s = .next t ∧ t.fab = s.fab ∧
          s.onlyRegs t [R.linkFecCorr l, R.linkFecCorr l + 4, R.linkFecUncorr l, R.linkFecUncorr l + 4] ∧ t.mem = s.mem) ∧
        (f.crcOk = true → f.uncorrectable = 0 → f.data = true → f.seq.val = (s.link l).rxSeq → ∃ u, exec (.flitReceive l f) s = .next (pumpLink l u) ∧
          (u.link l).rxSeq = ((s.link l).rxSeq + 1) % 4096 ∧ (u.link l).episode = false ∧ (u.link l).replay = ((s.link l).acked f.ack).replay ∧
          u.pair (R.linkRxFlits l) = (s.pair (R.linkRxFlits l) + 1) % 2 ^ 64 ∧
          tget (u.link l).credits (f.cvl.val * 6 + f.cclass.val) 0 = tget (s.link l).credits (f.cvl.val * 6 + f.cclass.val) 0 + f.credit.val))) ∧
    (∀ a : Fin 4096, (s.fld (F.linkStatusState l) < 2 → exec (.linkNakReceive l a) s = .next s) ∧
      (2 ≤ s.fld (F.linkStatusState l) → ∃ t, exec (.linkNakReceive l a) s = .next t ∧ t.link l = { (s.link l).acked a with naks := ((s.link l).acked a).naks + 1 } ∧
        t.pair (R.linkTxFlits l) = (s.pair (R.linkTxFlits l) + ((s.link l).acked a).replay.length) % 2 ^ 64 ∧ t.mem = s.mem)) ∧
    exec (.messageDiscard l) s = .next (if s.linkUp l = true ∧ s.deaf = false then s.count (F.linkErrCrcErr l) 1 else s)

/-- R609, R610, R617, R618, R620 to R622, R631, R633, R791, R792: what HELLO, LINK_STATE, FAILSTOP and TRAY_FAILED change here; a broadcast acts
once; a lost bay is shown, its leases go, and it waits for its remap or fails the tray; the fault scope changes at the tick of its time; a scope
that differs holds a link. Completes: HELLO, LINK_STATE, LINK_STATE_PERIODIC, FAILSTOP, TRAY_FAILED,
PEER_ROUTE_TIMEOUT, BUDDY_REQUALIFIED, SCOPE_CHANGE, SCOPE_MISMATCH_HOLD. -/
def Obligations.FabricState : Prop :=
  ∀ (m : MsgHead) (bay : Fin 16) (l : Fin 6) (s : State), s.boot.powered = true →
    (∀ h, (s.deaf = true ∨ s.fld (F.linkStatusState l) = 0) → exec (.hello l h) s = .next s) ∧
    (∀ h, s.deaf = false → s.fld (F.linkStatusState l) = 1 → h.bay < 16 → h.scope = s.fld F.errScopeScope → ∃ u, exec (.hello l h) s = .next (linkChanged u) ∧
      u.fld (F.linkStatusState l) = 2 ∧ u.bit (F.linkStatusFarValid l) = true ∧ u.fld (F.linkStatusFarBay l) = h.bay ∧ (u.link l).far = some h ∧
      (tfind s.fab.table h.bay).isSome = (tfind u.fab.table h.bay).isSome ∧ ∀ v, tfind u.fab.table h.bay = some v → v.stage = h.stage) ∧
    (∀ st ls, (s.deaf = true ∨ s.linkUp m.link = false ∨ m.src.val = s.bay ∨ s.firstSeen m = false) → exec (.linkState m st ls) s = .next s) ∧
    (∀ st ls, s.deaf = false → s.linkUp m.link = true → m.src.val ≠ s.bay → s.firstSeen m = true → ∃ u, exec (.linkState m st ls) s = .next (routeSync u) ∧
      tfind u.fab.table m.src = some { stage := st, up := (ls.filter (fun i => i.state == 3 || i.state == 4)).map LinkInfo.far } ∧ m.src.val ∉ u.fab.lost ∧
      (∀ b, b ≠ m.src.val → tfind u.fab.table b = tfind s.fab.table b)) ∧
    exec .linkStatePeriodic s = .next (broadcast (.linkState (s.fld F.fabStatusStage) s.linkInfos) s) ∧
    (s.hears m = false ∨ s.firstSeen m = false → (∀ c, exec (.failstop m c) s = .next s) ∧ exec (.trayFailed m bay) s = .next s) ∧
    (s.hears m = true → s.firstSeen m = true →
      (∀ c : BitVec 16, exec (.failstop m c) s = .next (failstopIn m (forward m (.failstop c.toNat) s))) ∧
      exec (.trayFailed m bay) s = .next (trayFailedIn bay (forward m (.trayFailed bay) s))) ∧
    (∀ b, (forward m b s).firstSeen m = false) ∧
    (s.bit F.errScopeScope = false → trayFailedIn bay s = s) ∧
    (s.bit F.errScopeScope = true → s.fab.failedSent = false → ∃ u, trayFailedIn bay s = portsHiZ u ∧ u.pins.faultN = true ∧ u.pins.ready = false) ∧
    ((s.ready = false ∨ s.failStopped = true ∨ tfind s.fab.table bay = none ∨ s.routeOf bay ≠ none ∨ bay.val = s.bay) → exec (.peerRouteTimeout bay) s = .next s) ∧
    (s.ready = true → s.failStopped = false → (tfind s.fab.table bay).isSome = true → s.routeOf bay = none → bay.val ≠ s.bay → bay.val ∉ s.fab.lost →
      ∃ u, u.fab.lost = s.fab.lost ++ [bay.val] ∧ Nat.testBit (u.fld F.fabLostBays) bay = true ∧ (∀ e ∈ u.fab.leases, e.2.2 ≠ bay.val) ∧ tfind u.fab.table bay = none ∧
        (s.stageOf bay = 4 → exec (.peerRouteTimeout bay) s = .next (routeSync u)) ∧
        (s.stageOf bay ≠ 4 → ∃ z, z = routeSync (emitM Ev.peerFailstop 0xA 0 bay 0 0 u) ∧
          exec (.peerRouteTimeout bay) s = .next (if z.bit F.errScopeScope then trayFail bay z else { z with fab := { z.fab with remap := z.fab.remap ++ [bay.val] } }))) ∧
    exec .buddyRequalified s = .next (if s.fab.buddyTimer then retarget { s with fab := { s.fab with buddyLost := false, buddyTimer := false } } else s) ∧
    ((s.bit F.errScopePending = false ∨ s.time < s.pair R.errScopeTime) → exec .scopeChange s = .next s) ∧
    (s.bit F.errScopePending = true → s.pair R.errScopeTime ≤ s.time → ∃ t, exec .scopeChange s = .next t ∧ t.fld F.errScopeScope = s.fld F.errScopePendingScope ∧
      t.bit F.errScopePending = false) ∧
    exec (.scopeMismatchHold l) s = .next (if (s.link l).scopeDiffer = true ∧ s.linkUp l = true then linkChanged (((s.setLink l { s.link l with scopeDiffer := false }).setFld
      (F.linkStatusState l) 5).setFld (F.linkStatusCause l) 6) else s)

/-! ## Leases, transfers, checkpoints and peer data -/

/-- R78, R79, R866, R626 to R630: the lease table keeps the highest epoch, of equal ones the lower bay; a stream held here goes to a higher epoch;
STREAM_TRANSFER is refused where R626 says and otherwise sends the offer; how the offer, its answers and the timers move the source. Completes: LEASE, STREAM_TRANSFER,
XFER_OFFER, XFER_OFFER_TIMEOUT, XFER_ACCEPT, XFER_REFUSE, XFER_ABORT, XFER_EBB_TIMEOUT, XFER_LEASE_TIMEOUT, XFER_REPLY_TIMEOUT. -/
def Obligations.LeaseTransfer : Prop :=
  ∀ (m : MsgHead) (h e : Word) (b : Fin 16) (d : Fin 4096) (x : Stream) (s : State),
    (∀ r, (s.hears m = false ∨ s.firstSeen m = false) → exec (.lease m h e b r) s = .next s) ∧
    (∀ r, s.hears m = true → s.firstSeen m = true → exec (.lease m h e b r) s = .next (retryRecords (leaseIn h.toNat e.toNat b r (forward m (.lease h.toNat e.toNat b r) s)))) ∧
    (∀ n k g, tfind (noteLease n k g false s).fab.leases n = some (match tfind s.fab.leases n with
        | some (j, a) => if j < k ∨ (j = k ∧ g < a) then (k, g) else (j, a)
        | none => (k, g)) ∧
      tfind (noteLease n k g true s).fab.leases n = (match tfind s.fab.leases n with
        | some (j, a) => if j ≤ k then none else some (j, a)
        | none => none)) ∧
    (∀ n k g, s.findHandle n = none → leaseMeets n k g s = s) ∧
    (∀ n k g, s.findHandle n = some (d.val, x) → (x.epoch < k → leaseMeets n k g s = dropMoved d k g x s) ∧ (k < x.epoch → leaseMeets n k g s = s) ∧
      (x.leased = false → k ≤ x.epoch → leaseMeets n k g s = s) ∧
      (x.leased = true → x.epoch = k → g < s.bay → leaseMeets n k g s = dropMoved d k g x (emit Ev.streamLeaseConflict (some x.par.part) 9 0 n k g s)) ∧
      (x.leased = true → x.epoch = k → s.bay < g → leaseMeets n k g s = emit Ev.streamLeaseConflict (some x.par.part) 9 0 n k g s)) ∧
    (∀ (q : Fin 65) (c : QCmd) (ok : Bool) (u : State), s.takesCritical q 0x87 c false (.ok []) u → ∀ f, f = (if q.val = adminQ then u.findHandle c.handle else u.ownHandle q c.handle) →
      (f = none → exec (.streamTransfer q ok) s = .next (advanceQ q (completeCmd q c.id St.handle 0 c.handle 0 u))) ∧
      (∀ i y n, f = some (i, y) → n = c.arg0 % 16 →
        (((y.state ≠ .idle ∧ y.state ≠ .running) ∨ y.epoch = 0xFFFFFFFF ∨ y.xfer ≠ none ∨ n = u.bay ∨ u.stageOf n ≠ 1 ∨ u.reaches n = false) →
          exec (.streamTransfer q ok) s = .next (advanceQ q (completeCmd q c.id St.state 0 c.handle 0 u))) ∧
        (y.par.hostFed = false → ¬(y.par.stbyValid = true ∧ y.par.stbyBay = n ∧ ok = true) →
          exec (.streamTransfer q ok) s = .next (advanceQ q (completeCmd q c.id St.state 0 c.handle 0 u))) ∧
        ((y.state = .idle ∨ y.state = .running) → y.epoch ≠ 0xFFFFFFFF → y.xfer = none → n ≠ u.bay → u.stageOf n = 1 → u.reaches n = true →
          (y.par.hostFed = true ∨ (y.par.stbyValid = true ∧ y.par.stbyBay = n ∧ ok = true)) →
          (0x100000 < y.ebbQueued → exec (.streamTransfer q ok) s = .next (advanceQ q (completeCmd q c.id St.resource 0 c.handle 0 u))) ∧
          (y.ebbQueued ≤ 0x100000 → ∃ v ds, exec (.streamTransfer q ok) s = .next (advanceQ q (unicast n (.xferOffer y.par.handle y.epoch y.raw ds (prev64 y.nextIn)) v)) ∧
            v.stream i = some { y with xfer := some { source := true, bay := n, offered := true, stage := 0, gotFlood := false, gotEbb := false, epoch := y.epoch, cmd := some (q.val, c.id), remap := false } } ∧
            v.mem = u.mem)))) ∧
    (s.hears m = false → (∀ ps ds k, exec (.xferOffer m h e ps ds k) s = .next s) ∧ (∀ w v, exec (.xferAccept m h w v) s = .next s) ∧ (∀ r, exec (.xferRefuse m h r) s = .next s) ∧
      exec (.xferAbort m h) s = .next s) ∧
    (s.hears m = true →
      (∀ ps ds (k : BitVec 64), (∀ o ∈ s.fab.offers, o.handle ≠ h.toNat) → ∃ t o, exec (.xferOffer m h e ps ds k) s = .next t ∧ t = { s with fab := { s.fab with offers := s.fab.offers ++ [o] } } ∧
        o.remap = false ∧ o.src = m.src ∧ o.handle = h.toNat ∧ o.epoch = e.toNat ∧ o.params = ps ∧ o.digests = ds ∧ o.last = k.toNat) ∧
      (∀ ps ds k, (∃ o ∈ s.fab.offers, o.handle = h.toNat) → exec (.xferOffer m h e ps ds k) s = .next s) ∧
      (∀ i y t, s.xferSource h.toNat m.src = some (i, y, t) → s.stream i = some y →
        (∀ w v, t.stage ≠ 0 → exec (.xferAccept m h w v) s = .next s) ∧
        (∀ w v, t.stage = 0 → (y.state = .idle ∨ y.state = .running) → ∃ u, exec (.xferAccept m h w v) s = .next (ebbIdleNow i u) ∧
          u.stream i = some { y with state := .migrating, xfer := some { t with stage := 1 } }) ∧
        (∀ w v, t.stage = 0 → y.state ≠ .idle → y.state ≠ .running → exec (.xferAccept m h w v) s =
          .next (endTransfer t St.state 0 h.toNat (unicast m.src (.xferAbort h.toNat) (s.setStream i { y with xfer := none })))) ∧
        (∀ r : Byte, t.stage = 0 → exec (.xferRefuse m h r) s = .next (endTransfer t St.refused r.toNat h.toNat (s.setStream i { y with xfer := none }))) ∧
        (∀ r, t.stage ≠ 0 → exec (.xferRefuse m h r) s = .next (keepLease i y t s))) ∧
      (∀ u, u = ({ s with fab := { s.fab with offers := s.fab.offers.filter (fun o => !(o.handle == h.toNat && o.src == m.src.val && !o.remap)) } } : State) →
        (s.findHandle h.toNat = none → exec (.xferAbort m h) s = .next (retryRecords (unicast m.src (.xferRefuse h.toNat 0) u))) ∧
        (∀ i y, s.findHandle h.toNat = some (i, y) → y.leased = true → exec (.xferAbort m h) s = .next (retryRecords (announce h.toNat y.epoch false u))) ∧
        (∀ i y t, s.findHandle h.toNat = some (i, y) → y.leased = false → y.xfer = some t → t.bay = m.src.val → ∃ v,
          exec (.xferAbort m h) s = .next (retryRecords (unicast m.src (.xferRefuse h.toNat 0) v)) ∧ v.stream i = none ∧
          ∀ r ∈ v.tide.area, ¬(r.handle = h.toNat ∧ r.transfer = true)))) ∧
    ((∀ o ∈ s.fab.offers, o.handle = h.toNat → o.remap = false → o.since = none) → exec (.xferOfferTimeout h) s = .next s) ∧
    (∀ o, s.fab.offers = [o] → o.handle = h.toNat → o.remap = false → o.since ≠ none → exec (.xferOfferTimeout h) s = .next (refuseOffer o 0x0E s)) ∧
    (∀ t, s.stream d = some x → x.xfer = some t → t.source = true → x.state = .migrating →
      exec (.xferEbbTimeout d) s = .next (if t.stage = 1 ∧ t.cut = none then sendAbort d x t s else s) ∧
      exec (.xferLeaseTimeout d) s = .next (if t.stage = 2 then sendAbort d x t s else s) ∧
      exec (.xferReplyTimeout d) s = .next (if t.stage = 4 then keepLease d x t s else s) ∧
      (∃ u, sendAbort d x t s = unicast t.bay (.xferAbort x.par.handle) u ∧ u.stream d = some { x with xfer := some { t with stage := 4 } }))

/-- R430, R432, R624, R625, R631, R799: a record whose layout and check sums are right, and that fits, is stored beside the standing one and
acknowledged; any other changes nothing; an acknowledgement makes the record stand; CKPT_FREE frees the slots of its stream; the remap of a lost
bay's streams happens once. R432: a record without a slot waits for one, and is
written when one is free. Completes: CKPT_DATA, CKPT_ACK, CKPT_FREE, REMAP_WAIT_END. -/
def Obligations.Checkpoints : Prop :=
  ∀ (m : MsgHead) (h : Word) (b : List Byte) (transfer remap ebb : Bool) (n : BitVec 64) (bay : Fin 16) (s : State),
    (s.hears m = false → exec (.ckptData m transfer remap b) s = .next s ∧ exec (.ckptAck m h ebb n) s = .next s ∧ exec (.ckptFree m h) s = .next s) ∧
    (s.hears m = true →
      (parseRecord b = none → exec (.ckptData m transfer remap b) s = .next s) ∧
      (∀ r, parseRecord b = some r →
        (storeRecord { r with transfer := transfer } s = none → (s.staleRec r = true → exec (.ckptData m transfer remap b) s = .next s) ∧
          (s.staleRec r = false → ∃ u, exec (.ckptData m transfer remap b) s = .next u ∧ u = { s with tide := u.tide } ∧ u.tide.area = s.tide.area ∧
            { src := m.src.val, part := (m.part.map Fin.val).getD 0, transfer := transfer, remap := remap, bytes := b } ∈ u.tide.refused)) ∧
        (∀ u v, storeRecord { r with transfer := transfer } s = some u → transfer = false → remap = false →
            v = sendMsg (some m.src.val) (some ((m.part.map Fin.val).getD 0)) none (.ckptAck r.handle r.ebb r.seq) u →
          exec (.ckptData m transfer remap b) s = .next (if v.tide.area.length < s.tide.area.length then retryRecords v else v))) ∧
      (∀ d x, s.findHandle h.toNat = some (d, x) → (s.tide.target ≠ some m.src.val ∨ n.toNat ≠ (x.dir ebb).ckptLast) → exec (.ckptAck m h ebb n) s = .next s) ∧
      (s.findHandle h.toNat = none → exec (.ckptAck m h ebb n) s = .next s) ∧
      (∀ d x, s.findHandle h.toNat = some (d, x) → s.stream d = some x → s.tide.target = some m.src.val → n.toNat = (x.dir ebb).ckptLast → s.tide.old = [] →
        ∃ t, exec (.ckptAck m h ebb n) s = .next t ∧ t.stream d = some (x.setDir ebb { x.dir ebb with ckptStands := (x.dir ebb).ckptSent }) ∧ t.mem = s.mem) ∧
      (∃ t, exec (.ckptFree m h) s = .next (retryRecords t) ∧ t.tide.area = s.tide.area.filter (fun r => r.handle != h.toNat) ∧
        t.tide.refused = s.tide.refused.filter (fun y => fieldAt y.bytes 0 4 != h.toNat) ∧ s.onlyRegs t [R.errSvcStatus] ∧ t.mem = s.mem ∧
        (s.fld F.fabStatusStage = 4 → t.tide.area = [] → t.bit F.errSvcStatusReleased = true))) ∧
    (∀ r : CkptRecord, parseRecord b = some r → r.valid = true ∧ b.length = 128 + r.body.length ∧ r.handle = fieldAt b 0 4 ∧ r.epoch = fieldAt b 4 4 ∧ r.seq = fieldAt b 24 8 ∧
      fieldAt b 60 4 = crc32c (b.take 60) ∧ fieldAt b 44 4 = crc32c (b.drop 64)) ∧
    (∀ (r : CkptRecord) (t : State), storeRecord r s = some t → ∃ k a, { r with slot := k, at_ := a } ∈ t.tide.area ∧
      (∀ w, s.standingRec r.handle r.ebb = some w → k = 1 - w.slot ∧ w.epoch ≤ r.epoch) ∧
      s.ckptArea ≤ a ∧ a + 128 + r.body.length ≤ s.ckptArea + s.fld F.tpCkptAreaCkptAreaMib * 2 ^ 20 ∧
      (s.Inv → memRead t.mem a (recordBytes r).length = recordBytes r ∧ ∀ i, (i < a ∨ a + (recordBytes r).length ≤ i) → memGet t.mem i = memGet s.mem i) ∧
      (∀ y ∈ s.tide.area, (y.handle ≠ r.handle ∨ y.ebb ≠ r.ebb ∨ y.slot ≠ k) → y ∈ t.tide.area ∧ (a + 128 + r.body.length ≤ y.at_ ∨ y.at_ + 128 + y.body.length ≤ a))) ∧
    (s.boot.powered = true → bay.val ∉ s.fab.remap → exec (.remapWaitEnd bay) s = .next (retryRecords s)) ∧ (s.tide.refused = [] → retryRecords s = s) ∧
    (s.boot.powered = true → bay.val ∈ s.fab.remap → ∃ u, exec (.remapWaitEnd bay) s =
        .next (retryRecords ((((s.tide.area.filter (fun r => r.valid && r.srcBay == bay.val)).map CkptRecord.handle).eraseDups).foldl remapOne u)) ∧
      u = { s with fab := { s.fab with remap := s.fab.remap.filter (· ≠ bay.val) } })

/-- R613, R614, R641: a peer's WRITE within its grant writes exactly its bytes and is acknowledged, one outside is denied and counted; a READ_REQ is
answered with the bytes or denied; an answer ends the wait of its channel. R159, R208, R634: a standby port takes its home port's index and slips,
and loses its home after ten ticks, keeping for a remap which bay it was aligned to (R160). R654, R680: a piece of a STORE body read from a bay is
kept. Completes: WRITE, WRITE_ACK, READ_REQ, READ_DATA, STANDBY_SYNC, STANDBY_SYNC_TIMEOUT, SLIP. -/
def Obligations.PeerData : Prop :=
  ∀ (m : MsgHead) (a : BitVec 64) (s : State),
    (s.hears m = false → (∀ f x, exec (.write m a f x) s = .next s) ∧ (∀ i d, exec (.writeAck m i d) s = .next s) ∧ (∀ n e, exec (.readReq m a n e) s = .next s) ∧
      (∀ i d x, exec (.readData m i d x) s = .next s) ∧ (∀ p i t st, exec (.standbySync m p i t st) s = .next s) ∧ (∀ p k d n, exec (.slip m p k d n) s = .next s)) ∧
    (s.hears m = true →
      (∀ (f : Fin 3) (x : List Byte) (bs : List Byte), bs = expanded f x →
        (s.peerGood (m.part.map Fin.val) a.toNat bs.length = false → ∃ u, exec (.write m a f x) s = .next (answer m (.writeAck m.id.toNat true) u) ∧
          u = s.count F.fabPeerDeniedCount 1) ∧
        (s.peerGood (m.part.map Fin.val) a.toNat bs.length = true → ∃ u, exec (.write m a f x) s = .next (answer m (.writeAck m.id.toNat false) u) ∧
          (s.Inv → ∀ i, i < bs.length → memGet u.mem (a.toNat + i) = bs.getD i 0) ∧
          (∀ i, (i < a.toNat ∨ a.toNat + bs.length ≤ i) → memGet u.mem i = memGet s.mem i))) ∧
      (∀ n, s.peerGood (m.part.map Fin.val) a.toNat n = true →
        (s.badIn a.toNat n = [] → exec (.readReq m a n noErrors) s = .next (answer m (.readData false (s.peek a.toNat n)) s)) ∧
        (∀ e rest, s.badIn a.toNat n = e :: rest → exec (.readReq m a n noErrors) s = .next (answer m (.readData true []) (noteUe e s)))) ∧
      (∀ n, s.peerGood (m.part.map Fin.val) a.toNat n = false → exec (.readReq m a n noErrors) s = .next (answer m (.readData true []) (s.count F.fabPeerDeniedCount 1))) ∧
      (∀ (i : Word) (d : Bool), (s.waiter m.src i.toNat false = none → exec (.writeAck m i d) s = .next s) ∧
        (∀ x, exec (.readData m i d x) s = .next (bodyPiece m.src i.toNat d x (readArrived m.src i.toNat d x s)) ∧
          (s.waiter m.src i.toNat true = none → readArrived m.src i.toNat d x s = s) ∧ (s.boot.fetches = [] → bodyPiece m.src i.toNat d x s = s))) ∧
      (∀ (i : Word) (c : Nat) (w : PeerWait), s.waiter m.src i.toNat false = some (c, w) →
        exec (.writeAck m i false) s = .next (settleAbort c (dropWait c w s)) ∧ exec (.writeAck m i true) s = .next (peerDenied c w s)) ∧
      (∀ (i : Word) (c : Nat) (w : PeerWait) (x : List Byte), s.waiter m.src i.toNat true = some (c, w) →
        readArrived m.src i.toNat true x s = peerDenied c w s ∧ (x.length ≠ w.len → readArrived m.src i.toNat false x s = peerDenied c w s) ∧
        (x.length = w.len → (s.chan c).run = none → readArrived m.src i.toNat false x s = dropWait c w s)) ∧
      (∀ (i : Word) (x : List Byte) (f : StoreFetch) (y n : Nat) (rest : List (Nat × Nat)), s.boot.fetches = [f] → f.bay = some m.src.val → f.wait = some i.toNat →
        f.rest = (y, n) :: rest → rest ≠ [] → x.length = n →
        ∃ g, (bodyPiece m.src i.toNat false x s).boot.fetches = [g] ∧ g.got = f.got ++ x ∧ g.rest = rest ∧ g.bay = f.bay)) ∧
    (∀ (c : Nat) (w : PeerWait), w.own = false → peerDenied c w s = dropWait c w s) ∧
    (∀ (c : Nat) (w : PeerWait) (r : DmaRun), (s.chan c).run = some r → w.own = true → s.bit (F.dmaChCtrlAbort c) = false → ∃ t, peerDenied c w s = t ∧
      t.chan c = { s.chan c with waits := (s.chan c).waits.filter (· ≠ w), run := some { r with status := if r.status = 0 then 7 else r.status, moved := r.moved - w.len } } ∧
      (∀ k, k ≠ c → t.chan k = s.chan k) ∧ t.mem = s.mem) ∧
    (∀ (n : Fin 8) (i t : BitVec 64) (st : Fin 4), s.hears m = true → s.bit (F.apCtrlEn n) = true → s.fld (F.apCtrlRole n) = 2 → (∀ b, (s.port n).homeBay = some b → m.src.val ≤ b) →
      (st.val = 2 → ∃ u, exec (.standbySync m n i t st) s = .next u ∧ u.bit (F.apStatusAligned n) = false ∧ (u.port n).homeBay = some m.src.val) ∧
      (st.val ≠ 2 → s.fld F.timeStatusState ≠ 2 → s.bit (F.apStatusRunning n) = true → (s.port n).idx ≠ 0 → (s.port n).latched = true →
        ∃ u, exec (.standbySync m n i t st) s = .next u ∧ u.bit (F.apStatusAligned n) = true ∧ (u.port n).homeBay = some m.src.val ∧ (u.port n).homeMiss = 0 ∧
          (u.port n).idx = (((s.port n).idx : Int) + s.indexOff n i.toNat t.toNat).toNat) ∧
      (st.val ≠ 2 → (s.port n).latched = false → exec (.standbySync m n i t st) s =
        .next (s.setPort n { s.port n with homeBay := some m.src.val, homeTime := st, homeMiss := 0 }))) ∧
    (∀ (n : Fin 8) (k : BitVec 64) (drop : Bool) (f : Fin 65), s.hears m = true → s.bit (F.apCtrlEn n) = true → s.fld (F.apCtrlRole n) = 2 → (s.port n).homeBay = some m.src.val → f ≠ 0 →
      ((s.port n).idx ≤ k.toNat → exec (.slip m n k drop f) s = .next (s.setPort n { s.port n with slip := some (drop, f.val, k.toNat) })) ∧
      (k.toNat < (s.port n).idx → exec (.slip m n k drop f) s = .next (s.setBit (F.apStatusAligned n) false))) ∧
    (∀ (n : Fin 8) (k : BitVec 64) (drop : Bool), s.hears m = true → s.bit (F.apCtrlEn n) = true → s.fld (F.apCtrlRole n) = 2 → (s.port n).homeBay = some m.src.val →
      (s.port n).idx ≤ k.toNat → exec (.slip m n k drop 0) s = .next (s.setPort n { s.port n with slip := none })) ∧
    (∀ n : Fin 8, s.boot.powered = true → exec (.standbySyncTimeout n) s =
      .next (if 10 ≤ (s.port n).homeMiss then (s.setPort n { s.port n with homeBay := none, lostHome := if s.bit (F.apStatusAligned n) then (s.port n).homeBay
        else (s.port n).lostHome }).setBit (F.apStatusAligned n) false else s))

/-! ## Time and synthesizers -/

/-- R179, R187: a message that is not whole and correct is counted in MSG_ERR and clears MSG_OK; a correct one sets MSG_OK, the three flags,
TAI_OFFSET and the announced time, and ends the count of bad messages. R185, R187 to R189: which events move TIME_STATUS.STATE, from where and to
where, and that each is recorded. The clock monitor's flag of TIME enters holdover, and that of a synthesizer fails it. R179, R215: the message
the tray sends is whole and correct, names its next tick, and shows LH_DOWN. Completes: TIME_MSG, TIME_MSG_ERROR_LIMIT, TICK_MISS_LIMIT,
HOLDOVER_EXPIRY, TIME_ALARM_CLEAR, TIME_TRUSTED, CLOCK_MONITOR_FLAG. -/
def Obligations.TimeStatus : Prop :=
  (∀ (line : Option (List Byte)) (raw : List Byte) (s : State), s.boot.powered = true → raw = line.getD s.timeMessage →
    (¬(raw.length = 22 ∧ fieldAt raw 0 1 = 0x5A ∧ fieldAt raw 1 1 = 0xA5 ∧ fieldAt raw 20 2 = crc16 ((raw.drop 2).take 18)) →
      ∃ t, exec (.timeMsg line) s = .next t ∧ t.lh = { s.lh with msgSeq := (s.lh.msgSeq + 1) % 256 } ∧ t.fld F.timeErrcntMsgErr = satAdd (s.fld F.timeErrcntMsgErr) 1 0xFFFF ∧ t.bit F.timeStatusMsgOk = false ∧
        t.timeB = { s.timeB with bad := s.timeB.bad + 1 } ∧ s.onlyRegs t [R.timeErrcnt, R.timeStatus] ∧ t.host = s.host ∧ s.sameMem t) ∧
    ((raw.length = 22 ∧ fieldAt raw 0 1 = 0x5A ∧ fieldAt raw 1 1 = 0xA5 ∧ fieldAt raw 20 2 = crc16 ((raw.drop 2).take 18)) →
      ∃ t, exec (.timeMsg line) s = .next t ∧ t.lh = { s.lh with msgSeq := (s.lh.msgSeq + 1) % 256 } ∧ t.bit F.timeStatusMsgOk = true ∧ t.bit F.timeStatusPtpLocked = Nat.testBit (fieldAt raw 3 1) 0 ∧
        t.bit F.timeStatusPtpHoldover = Nat.testBit (fieldAt raw 3 1) 1 ∧ t.bit F.timeStatusLhDown = Nat.testBit (fieldAt raw 3 1) 2 ∧
        t.pair R.timeTaiOffset = fieldAt raw 12 8 ∧ t.timeB = { s.timeB with next := some (fieldAt raw 4 8), heard := true, bad := 0 } ∧
        s.onlyRegs t [R.timeStatus, R.timeTaiOffset, R.timeTaiOffset + 4] ∧ t.host = s.host ∧ s.sameMem t)) ∧
  (∀ s : State, s.timeMessage.length = 22 ∧ fieldAt s.timeMessage 0 2 = 0xA55A ∧ fieldAt s.timeMessage 20 2 = crc16 ((s.timeMessage.drop 2).take 18) ∧
    fieldAt s.timeMessage 2 1 = s.lh.msgSeq % 256 ∧ Nat.testBit (fieldAt s.timeMessage 3 1) 2 = s.lh.lhDown ∧
    fieldAt s.timeMessage 4 8 = (s.lh.time / 1000000 + 1) * 1000000 % 2 ^ 64) ∧
  (∀ (s : State), s.boot.powered = true →
    (16 ≤ s.timeB.bad → (s.fld F.timeStatusState = 0 → ∃ t, exec .timeMsgErrorLimit s = .next t ∧ t.fld F.timeStatusState = 1 ∧
        t = emitM Ev.timeAlarm 0xB 0 (s.fld F.timeOffsetNs) 0 0 (timeState 1 s)) ∧
      (s.fld F.timeStatusState ≠ 0 → exec .timeMsgErrorLimit s = .next s)) ∧
    (100 ≤ s.timeB.missed → s.fld F.timeStatusState ≠ 2 → ∃ t, exec .tickMissLimit s = .next t ∧ t.fld F.timeStatusState = 2 ∧
      t = emitM Ev.timeUntrusted 0xB 0 (s.fld F.timeOffsetNs) (Config.causeCode Cause.ticks) 0 (timeState 2 s)) ∧
    (s.bit F.timeStatusHoldover = true → s.fld F.timeStatusState ≠ 2 → ∃ t, exec .holdoverExpiry s = .next t ∧ t.fld F.timeStatusState = 2 ∧
      t = emitM Ev.timeUntrusted 0xB 0 (s.fld F.timeOffsetNs) (Config.causeCode Cause.reference) 0 (timeState 2 s)) ∧
    (s.fld F.timeStatusState = 1 → 100 ≤ s.timeB.good → ∃ t, exec .timeAlarmClear s = .next t ∧ t.fld F.timeStatusState = 0 ∧ t.timeB.good = 0) ∧
    (s.fld F.timeStatusState = 2 → 1000 ≤ s.timeB.good → ∃ t, exec .timeTrusted s = .next t ∧ t.fld F.timeStatusState = 0 ∧ t.timeB.good = 0) ∧
    (s.bit F.timeStatusHoldover = false → ∃ t, exec (.clockMonitorFlag .time) s = .next t ∧ t.bit F.timeStatusHoldover = true ∧
      t.bit F.timeStatusRefOk = false ∧ t.fld F.timeStatusState = max 1 (s.fld F.timeStatusState) ∧ (t.reg R.clkStatus).getLsbD 18 = true) ∧
    (∀ n : Fin 4, s.bit (F.acsCtrlEn n) = true → s.fld (F.acsStatusState n) ≠ 4 → ∃ t, exec (.clockMonitorFlag (.aud n)) s = .next t ∧
      t.fld (F.acsStatusState n) = 4 ∧ (t.reg R.clkStatus).getLsbD (14 + n.val) = true))

/-- R184, R186, R188: a tick takes the announced value the first time and when a step is due, setting STEPPED and recording TIME_STEP; otherwise
time goes on and the offset found is shown and slewed or stepped by R184 to R186. A tick that does not come is counted and made, and the announced
time goes on. R266: what a tick records takes its SEQ in unit order, once the tick is done, or with the longer collection it falls in. A made tick ends the run of good ones (log entry 132,
the model's choice). Completes: TRAY_TICK, TICK_MISS. -/
def Obligations.TrayTicks : Prop :=
  ∀ (ref : Bool) (s : State), s.boot.powered = true →
    (∃ t u, exec (.trayTick ref) s = .next (if s.host.hold = none then releaseEvents t else t) ∧ t = tickAll (measure u) ∧ u.host.hold = some (s.host.hold.getD []) ∧ u.time = s.time ∧ u.timeB = { s.timeB with missed := 0 } ∧
      u.bit F.timeStatusTickOk = true ∧ u.bit F.timeStatusRefOk = ref ∧ (ref = true → u.bit F.timeStatusHoldover = false) ∧
      (s.timeB.next = none → t.time = s.time) ∧
      (∀ ann, s.timeB.next = some ann →
        (s.timeB.loaded = false → t.time = ann) ∧
        (s.timeB.loaded = true → s.timeB.stepDue = true → t.time = ann ∧ (measure u).bit F.timeStatusStepped = true ∧ (measure u).timeB.stepDue = false) ∧
        (s.timeB.loaded = true → s.timeB.stepDue = false → t.time = s.time ∧
          (10000 < ((s.time : Int) - ann).natAbs → (measure u).fld F.timeStatusState = 2 ∧ (measure u).timeB.stepDue = true) ∧
          (((s.time : Int) - ann).natAbs ≤ 10000 → (measure u).timeB.slew = (ann : Int) - s.time)))) ∧
    (∃ t u, exec .tickMiss s = .next (if s.host.hold = none then releaseEvents t else t) ∧ t = tickAll u ∧ u.host.hold = some (s.host.hold.getD []) ∧ t.time = s.time ∧ u.bit F.timeStatusTickOk = false ∧
      u.fld F.timeErrcntTickMiss = satAdd (s.fld F.timeErrcntTickMiss) 1 0xFFFF ∧
      u.timeB = { s.timeB with missed := s.timeB.missed + 1, good := 0, next := s.timeB.next.map (· + 1000000) })

/-- R191, R194, R195, R200, R209, R210: a write of ACS_CTRL while an attached port is enabled, or of a running synthesizer, is refused
with ACS_CFG_BUSY; a write that sets EN runs the checks in order and reports the first that fails, or starts in ACQUIRE (RING) or TRACK (FIXED) from
PULL_SET; ACQUIRE ends in TRACK; a failed synthesizer shows FAILED, and a relock returns it. Completes: ACS_CTRL_WRITE, ACS_ENABLE,
ACS_ACQUIRE_END, ACS_FAILED, ACS_RELOCK. -/
def Obligations.Synthesizers : Prop :=
  ∀ (p : Path) (n : Fin 4) (v : Word) (s : State), s.boot.powered = true →
    (s.passes p (R.acsCtrl n) = true →
      ((s.acsBusy n = true ∨ s.bit (F.acsCtrlEn n) = true) → exec (.acsCtrlWrite p n v) s = .next (emitM Ev.acsCfgBusy 4 n (R.acsCtrl n) 0 0 s) ∧
        exec (.acsEnable p n v) s = .next (emitM Ev.acsCfgBusy 4 n (R.acsCtrl n) 0 0 s)) ∧
      (s.acsBusy n = false → s.bit (F.acsCtrlEn n) = false → wfield v 0 0 = 0 → ∃ t, exec (.acsCtrlWrite p n v) s = .next t ∧ t.bit (F.acsCtrlEn n) = false ∧
        t.fld (F.acsCtrlMode n) = wfield v 2 1 ∧ t.fld (F.acsCtrlRefPort n) = wfield v 10 8 ∧
        s.onlyRegs t [R.acsCtrl n] ∧ s.sameBut t ∧ s.sameMem t) ∧
      (s.acsBusy n = false → s.bit (F.acsCtrlEn n) = false → ∀ m, m = s.setReg (R.acsCtrl n) (wset (wset (wset (v ||| 1) 31 11 0) 7 6 0) 0 0 0) →
        (∀ c, m.acsCheck n = some c → ∃ t, exec (.acsEnable p n v) s = .next t ∧ t.bit (F.acsCtrlEn n) = false ∧ t.bit (F.acsStatusCfgErr n) = true ∧
          t.fld (F.acsStatusErrCode n) = c ∧ s.sameBut t) ∧
        (m.acsCheck n = none → ∃ t, exec (.acsEnable p n v) s = .next t ∧ t.bit (F.acsCtrlEn n) = true ∧
          t.fld (F.acsStatusState n) = (if wfield v 2 1 = 1 then 1 else 2) ∧ t.bit (F.acsStatusAtLimit n) = false ∧
          t.fld (F.acsPullNowPpb n) = s.fld (F.acsPullSetPpb n) ∧ tget t.acs n {} = {} ∧ s.sameMem t))) ∧
    (s.fld (F.acsStatusState n) = 1 → 101 ≤ (tget s.acs n {}).ticks → ∃ t, exec (.acsAcquireEnd n) s = .next t ∧ t.fld (F.acsStatusState n) = 2 ∧
      (tget t.acs n {}).integ = 0 ∧ (tget t.acs n {}).ticks = 0 ∧ (∀ k, k ≠ n.val → tget t.acs k {} = tget s.acs k {}) ∧ s.sameMem t ∧ t.host = s.host) ∧
    (s.bit (F.acsCtrlEn n) = true → s.fld (F.acsStatusState n) ≠ 4 → ∃ t, exec (.acsFailed n) s = .next t ∧ t.fld (F.acsStatusState n) = 4) ∧
    (s.fld (F.acsStatusState n) = 4 → ∃ t, exec (.acsRelock n) s = .next t ∧
      t.fld (F.acsStatusState n) = (if s.fld (F.acsCtrlMode n) = 1 then 1 else 2) ∧ (tget t.acs n {}).ticks = 0)

/-! ## Keys, life cycle, debug and provisioning -/

/-- R686 to R690, R694 to R696, R700 to R703, R687, R706: KEY_INSTALL and LIFECYCLE_STEP refuse in order and otherwise take effect with their event;
a step to RETURN or SCRAP destroys the owner's keys and ends a debug session; a debug response is compared once against the challenge in force,
which is then drawn anew; OTP is written only in RAW, and bits only get set. The order of KEY_INSTALL's refusals and the counting of a failed
response are the model's reading (log entry 30). Completes: KEY_INSTALL, LIFECYCLE_STEP, DEBUG_RESPONSE, SEC_OTP_PROG,
DRBG_RESEED. -/
def Obligations.SecurityCommands : Prop :=
  ∀ (q : Fin 65) (d : HostRead) (b : List Byte) (c : QCmd) (k : Nat) (v : Word) (s m : State), q.val = adminQ → d.bytes? = some b →
    (s.takesCritical q 0x82 c true d m → k = fieldAt b 0 1 →
      (c.len ≠ 96 → exec (.keyInstall q d) s = .next (advanceQ q (completeCmd adminQ c.id St.format 0 0 0 m))) ∧
      (c.len = 96 → (m.targetGood k = false ∨ openBlock (m.key c.keySlot).bytes m.sec.uid (k == 2) 0x10 b = none) →
        exec (.keyInstall q d) s = .next (advanceQ q (completeCmd adminQ c.id St.verify 0 0 0 m))) ∧
      (∀ x, c.len = 96 → m.targetGood k = true → openBlock (m.key c.keySlot).bytes m.sec.uid (k == 2) 0x10 b = some x →
        (((k = 1 ∧ 8 ≤ m.sec.ownerGen + m.sec.ownerVoid) ∨ (k = 2 ∧ 4 ≤ m.sec.signGen + m.sec.signVoid)) → exec (.keyInstall q d) s = .next (advanceQ q (completeCmd adminQ c.id St.resource 0 0 0 m))) ∧
        (0x10 ≤ k → (m.partition (k - 0x10)).map Partition.state ≠ some .active → exec (.keyInstall q d) s = .next (advanceQ q (completeCmd adminQ c.id St.state 0 0 0 m))) ∧
        (((k = 1 ∧ m.sec.ownerGen + m.sec.ownerVoid < 8) ∨ (k = 2 ∧ m.sec.signGen + m.sec.signVoid < 4) ∨ (0x10 ≤ k ∧ (m.partition (k - 0x10)).map Partition.state = some .active)) →
          ∃ u, exec (.keyInstall q d) s = .next (advanceQ q (completeCmd adminQ c.id St.ok 0 0 0 (emit Ev.keyInstalled (keyPart k) 2 0 k 0 0 u))) ∧ u = { m with sec := u.sec } ∧
            (k = 1 → u.sec = { m.sec with owner := { present := true, bytes := x }, ownerGen := m.sec.ownerGen + 1 }) ∧
            (k = 2 → u.sec = { m.sec with ownerDigest := x, signGen := m.sec.signGen + 1 }) ∧
            (0x10 ≤ k → tfind u.sec.pkeys (k - 0x10) = some { present := true, bytes := x, ctr := fieldAt b 8 8 })))) ∧
    (s.takesCritical q 0x83 c true d m → k = c.arg0 % 256 →
      ((c.arg0 / 256 ≠ 0 ∨ (k = 4 ∧ stepListed m.sec.lc 4 = true ∧ c.len ≠ 192)) → exec (.lifecycleStep q d) s = .next (advanceQ q (completeCmd adminQ c.id St.format 0 0 0 m))) ∧
      (c.arg0 / 256 = 0 → (k = 4 → stepListed m.sec.lc 4 = true → c.len = 192) → (stepListed m.sec.lc k = false ∨ m.stepReady k = false) →
        exec (.lifecycleStep q d) s = .next (advanceQ q (completeCmd adminQ c.id St.state 0 0 0 m))) ∧
      (c.arg0 / 256 = 0 → c.len = 192 → k = 4 → stepListed m.sec.lc k = true → m.returnGood c.counter b = false →
        exec (.lifecycleStep q d) s = .next (advanceQ q (completeCmd adminQ c.id St.verify 0 0 0 m))) ∧
      (c.arg0 / 256 = 0 → stepListed m.sec.lc k = true → m.stepReady k = true → (k = 4 → c.len = 192 ∧ m.returnGood c.counter b = true) →
        ∃ u, exec (.lifecycleStep q d) s = .next (advanceQ q (let t := completeCmd adminQ c.id St.ok 0 0 0 (emitM Ev.lifecycleStep 2 0 m.sec.lc k 0 u)
            if 4 ≤ k ∧ t.ready then failStop Ev.lifecycleStep 2 4 t else t)) ∧
          u.sec.lc = k ∧ u.sec.session = false ∧ u.bit F.hubAlertDebug = false ∧ u.mem = m.mem ∧
          (4 ≤ k → u.sec.owner = { left := 0 } ∧ u.sec.ownerGen = 0 ∧ u.sec.ownerDigest = [] ∧ u.sec.pkeys = []) ∧
          (k = 5 → u.sec.maker = { left := 0 } ∧ u.sec.makerDigest = []) ∧ (k < 4 → u.sec.owner = m.sec.owner ∧ u.sec.pkeys = m.sec.pkeys))) ∧
    (∀ jtag, s.passes .debug R.secDbgResp7 = true → m = s.setReg R.secDbgResp7 v →
      (s.sec.lockout = true → exec (.debugResponse jtag v) s = .next m) ∧
      (s.sec.lockout = false → s.sec.lc ≠ 2 → exec (.debugResponse jtag v) s = .next (drawChallenge m)) ∧
      (s.sec.lockout = false → s.sec.lc = 2 → m.response ≠ hmacSha256 s.sec.owner.bytes (ascii "LMTX-DEBUG" ++ leBytes 8 s.sec.uid ++ s.sec.challenge) →
        ∃ t, exec (.debugResponse jtag v) s = .next t ∧ t.sec = { (drawChallenge m).sec with wrong := s.sec.wrong + 1, lockout := decide (16 ≤ s.sec.wrong + 1) } ∧ t.regs = m.regs ∧ t.mem = s.mem) ∧
      (s.sec.lockout = false → s.sec.lc = 2 → m.response = hmacSha256 s.sec.owner.bytes (ascii "LMTX-DEBUG" ++ leBytes 8 s.sec.uid ++ s.sec.challenge) →
        ∃ u, exec (.debugResponse jtag v) s = .next (emitM Ev.debugSession 2 0 (if jtag then 0 else 1) 0 0 u) ∧ u.bit F.hubAlertDebug = true ∧
          u.sec = { (drawChallenge m).sec with wrong := 0, session := true, sessionPort := if jtag then 0 else 1 })) ∧
    (∀ item, (s.sec.lc ≠ 0 ∨ s.boot.powered = false) → exec (.secOtpProg item) s = .next s) ∧
    (∀ item, s.sec.lc = 0 → s.boot.powered = true → ∃ t, exec (.secOtpProg item) s = .next t ∧ t = { s with sec := t.sec } ∧
      (∀ w, item = .uid w → t.sec.uid = Nat.lor s.sec.uid w.toNat) ∧ (item = .burnMaker → t.sec.lc = 1) ∧
      (∀ x i, item = .makerKey x → i < 32 → i < x.length → t.sec.maker.bytes.getD i 0 = s.sec.maker.bytes.getD i 0 ||| x.getD i 0) ∧
      (∀ x i, item = .makerDigest x → i < 48 → i < x.length → t.sec.makerDigest.getD i 0 = s.sec.makerDigest.getD i 0 ||| x.getD i 0)) ∧
    (s.boot.powered = true → exec .drbgReseed s = .next { s with sec := { s.sec with drbg := 0 } })

/-! ## Fail-stop, release, updates, leaving, heat and power -/

/-- R669 to R671, R788, R789, R791, R798, R799: IMAGE_UPDATE, FAULT_POLICY_SET and FAILSTOP_RELEASE refuse in order and otherwise take effect; a
release zeroes, clears the faults and closes every stream before it compares the tray record; LEAVE is accepted only from PF0, with the error R798
gives. Completes: IMAGE_UPDATE, FAULT_POLICY_SET, FAILSTOP_RELEASE, LEAVE. -/
def Obligations.ServiceCommands : Prop :=
  ∀ (q : Fin 65) (d i j : HostRead) (b : List Byte) (c : QCmd) (ok : Bool) (s m : State), q.val = adminQ → d.bytes? = some b →
    (s.takesCritical q 0x84 c true d m →
      (∀ st, m.updateCheck c.len b i = some st → exec (.imageUpdate q d i j ok) s = .next (advanceQ q (completeCmd q c.id st 0 0 0 m))) ∧
      (m.updateCheck c.len b i = none → exec (.imageUpdate q d i j ok) s = .next (advanceQ q (writeImage c b j ok m)))) ∧
    (updateBad c.len b = true → m.updateCheck c.len b i = some St.format) ∧
    (∀ x, updateBad c.len b = false → (m.sec.lc = 4 ∨ (m.slotValid (1 - fieldAt b 0 1) = true ∧ m.bit F.hubFlashBusy = false)) → i.bytes? = some x →
      (sha256 (x.take (fieldAt b 16 4)) ≠ (b.drop 24).take 32 → m.updateCheck c.len b i = some St.verify) ∧
      (sha256 (x.take (fieldAt b 16 4)) = (b.drop 24).take 32 → m.imageCause (x.take (fieldAt b 16 4)) false false = none → m.updateCheck c.len b i = none)) ∧
    (∀ slot bytes dg, (sha256 bytes ≠ dg ∨ ok = false) → (programSlot slot bytes dg ok m).1 = false) ∧
    (s.takesCritical q 0x85 c true d m →
      ((c.arg1 % 1000000 ≠ 0 ∨ c.arg1 < m.time + 100000000 ∨ m.time + 60000000000 < c.arg1) → exec (.faultPolicySet q d) s = .next (advanceQ q (completeCmd q c.id St.format 0 0 0 m))) ∧
      (c.arg1 % 1000000 = 0 → m.time + 100000000 ≤ c.arg1 → c.arg1 ≤ m.time + 60000000000 →
        ((m.ready = false ∨ m.failStopped = true ∨ (c.arg0 % 2 = 1 ∧ m.anyLost = true)) → exec (.faultPolicySet q d) s = .next (advanceQ q (completeCmd q c.id St.state 0 0 0 m))) ∧
        (m.ready = true → m.failStopped = false → (c.arg0 % 2 = 1 → m.anyLost = false) → ∃ u, exec (.faultPolicySet q d) s = .next (advanceQ q (completeCmd q c.id St.ok 0 0 0 u)) ∧
          u.bit F.errScopePending = true ∧ u.fld F.errScopePendingScope = c.arg0 % 2 ∧ u.pair R.errScopeTime = c.arg1 % 2 ^ 64 ∧ u.fld F.errScopeScope = m.fld F.errScopeScope))) ∧
    (∀ (t : ReleaseTest) (hot : Bool), s.takesCritical q 0x86 c true d m →
      (m.releasable hot = false → exec (.failstopRelease q d t hot) s = .next (advanceQ q (completeCmd q c.id St.state 0 0 0 m))) ∧
      (m.releasable hot = true →
        (∀ un : Byte, t = .unitFails un → ∃ u, exec (.failstopRelease q d t hot) s = .next (advanceQ q (completeCmd q c.id St.verify 0 0 0 u)) ∧
          u.reg R.errBist = BitVec.ofNat 32 (0x80000000 + un.toNat * 256) ∧ u.failStopped = true) ∧
        (t = .newFault → exec (.failstopRelease q d t hot) s = .next (advanceQ q (completeCmd q c.id St.verify 0 0 0 (m.count F.errFsTotalFurther 1)))) ∧
        (t = .pass → ∃ u : State, u.failStopped = false ∧ u.strm.table = [] ∧ (∀ o ∈ faultRegs, u.reg o = 0#32) ∧ u.pins.faultN = false ∧ u.eng = [] ∧ u.reg R.errBist = 0xC0000000#32 ∧
          (u.disagrees m.releaseRecord = none → exec (.failstopRelease q d t hot) s = .next (advanceQ q (resumeQueues (retarget (completeCmd adminQ c.id St.ok 0 0 0
            (emitM Ev.failstopReleased 0xC 0 0 0 0 { u with pins := { u.pins with ready := true }, boot := { u.boot with readySince := u.time, stable := false } })))))) ∧
          (∀ k, u.disagrees m.releaseRecord = some k → exec (.failstopRelease q d t hot) s = .next (advanceQ q (completeCmd adminQ c.id St.state 0 0 0
            (quarantine k (u.setPair R.fabTrayEpoch m.releaseRecord.epoch)))))))) ∧
    (∀ p e, s.passes p R.errSvcCtrl = true → (p ≠ .pf0 → exec (.leave p) s = .next s) ∧
      (e = (if s.ready = false ∨ s.failStopped = true ∨ s.fld F.fabStatusStage ≠ 1 then 3 else if s.strm.table ≠ [] then 1 else if s.disp.jobs ≠ [] ∨ s.strm.cohorts ≠ [] then 2 else 0) →
        p = .pf0 → (e ≠ 0 → exec (.leave p) s = .next (s.setFld F.errSvcStatusErr e)) ∧
        (e = 0 → ∃ u, exec (.leave p) s = .next { setStage 4 u with pins := { (setStage 4 u).pins with ready := false } } ∧ u.bit F.errSvcStatusLeaving = true ∧ u.bit F.errSvcCtrlLeave = true ∧
          u.bit F.errSvcStatusReleased = s.tide.area.isEmpty ∧ u.fld F.errSvcStatusErr = 0)))

/-- R677, R782 to R787, R790, R834 to R839, R764 to R770: a detected fault latches the first cause of its unit and then fails the start, is counted,
or fail-stops the module with all work halted and the outputs released; fail-stops age out one by one; sensors warn once, and trip; the power limit
withholds work with its hysteresis; Breakwater trips once on a confirmed wet zone and opens every switch until its reset. R43: a fail-stop takes every link of the
module down. Completes: FAIL_STOP, FAILSTOP_AGE_OUT, THERMAL_WARN, THERMAL_WARN_END, THERMAL_TRIP, POWER_EVALUATION, BUSBAR_DIP, BW_WET, BW_TRIP,
BW_GLITCH, BW_SENSOR_FAULT, BW_SELFTEST, BW_RESET, BW_SUPPLY_LOSS. -/
def Obligations.FaultsAndLimits : Prop :=
  ∀ (n : Fin 8) (cause sensor : Byte) (w temp : BitVec 16) (z : Fin 20) (us : Word) (s : State), s.boot.powered = true →
    exec (.failStop (.me n cause)) s = .next (failStop 0 (0x10 + n) cause.toNat (latchFault (R.meFault n) cause.toNat s)) ∧
    exec (.failStop (.sp n cause)) s = .next (failStop 0 (0x10 + n) (cause.toNat + 0x30) (latchFault (R.spFault n) cause.toNat s)) ∧
    exec (.failStop .memorySlots) s = .next (failStop 0 6 4 (latchFault R.mcFault 4 s)) ∧
    exec (.failStop .hubParity) s = .next (failStop 0 0 2 s) ∧
    (∀ o, ((s.reg o).getLsbD 31 = true → latchFault o cause.toNat s = s) ∧ ((s.reg o).getLsbD 31 = false → latchFault o cause.toNat s = s.setReg o (BitVec.ofNat 32 (0x80000000 + cause.toNat)))) ∧
    (∀ e u c, (s.failStopped = true → failStop e u c s = s.count F.errFsTotalFurther 1) ∧ (s.failStopped = false → 9 ≤ s.stage → failStop e u c s = latchLast e u c s) ∧
      (s.failStopped = false → s.stage < 8 → failStop e u c s = startFail Neap.watchdog 0 (latchLast e u c s)) ∧
      (s.failStopped = false → s.stage = 8 → ∃ t, failStop e u c s = abortPartitions (emitM Ev.failStop u 0 e u 0 t) ∧ t.failStopped = true ∧ t.pins.faultN = true ∧ t.pins.ready = false ∧
        t.disp.cmds = [] ∧ t.disp.jobs = [] ∧ t.tide.moves = [] ∧ (∀ p ∈ t.ports, p.2.driven = []) ∧ t.pair R.errFsTime = s.time % 2 ^ 64 ∧ t.fld F.errFsCauseEvent = e % 65536 ∧
        t.boot.stops = s.boot.stops ++ [s.time] ∧ (∀ l, l < 6 → t.fld (F.linkStatusState l) = 0) ∧ (s.tide.leavers = [] → t.mem = s.mem))) ∧
    exec .failstopAgeOut s = .next (if s.boot.stops.isEmpty then s else ({ s with boot := { s.boot with stops := s.boot.stops.drop 1 } } : State).setFld F.errFsStatusCount24h (min 255 (s.boot.stops.length - 1))) ∧
    ((sensor.toNat ∈ s.boot.warm ∨ sensor.toNat ∉ sensorCodes) → exec (.thermalWarn sensor temp) s = .next s) ∧
    (sensor.toNat ∉ s.boot.warm → sensor.toNat ∈ sensorCodes → ∃ u, exec (.thermalWarn sensor temp) s = .next (emitM Ev.thermalWarn 0xC 0 sensor.toNat temp.toNat 0 u) ∧
      u.boot = { s.boot with warm := s.boot.warm ++ [sensor.toNat] } ∧ u.bit F.hubAlertThermal = true ∧ u.mem = s.mem) ∧
    (sensor.toNat ∉ s.boot.warm → exec (.thermalWarnEnd sensor) s = .next s) ∧
    (sensor.toNat ∈ s.boot.warm → ∃ u, exec (.thermalWarnEnd sensor) s = .next (resumeWork u) ∧ u.boot = { s.boot with warm := s.boot.warm.filter (· ≠ sensor.toNat) } ∧
      u.bit F.hubAlertThermal = !(s.boot.warm.filter (· ≠ sensor.toNat)).isEmpty) ∧
    (s.pins.thermtripN = false → sensor.toNat ∈ sensorCodes → ∃ u : State, u.pins.thermtripN = true ∧ u = emitM Ev.thermalTrip 0xC 0 sensor.toNat 0 0 { s with pins := { s.pins with thermtripN := true } } ∧
      (8 ≤ s.stage → exec (.thermalTrip sensor) s = .next (failStop Ev.thermalTrip 0xC 2 u)) ∧
      (s.stage ≤ 7 → s.boot.restartDue = false → exec (.thermalTrip sensor) s = .next (startFail Neap.thermal 0 u))) ∧
    (s.boot.powerLimit * 98 < w.toNat * 100 → s.bit F.hubAlertPower = false → exec (.powerEvaluation w) s = .next (emitM Ev.powerLimit 0xC 0 w.toNat 0 0 (s.setBit F.hubAlertPower true))) ∧
    (s.boot.powerLimit * 98 < w.toNat * 100 → s.bit F.hubAlertPower = true → exec (.powerEvaluation w) s = .next s) ∧
    (s.boot.powerLimit * 95 ≤ w.toNat * 100 → w.toNat * 100 ≤ s.boot.powerLimit * 98 → exec (.powerEvaluation w) s = .next s) ∧
    (w.toNat * 100 < s.boot.powerLimit * 95 → s.bit F.hubAlertPower = true → exec (.powerEvaluation w) s = .next (resumeWork (s.setBit F.hubAlertPower false))) ∧
    exec .busbarDip s = .next (inputLost s) ∧
    (∃ t, exec (.bwWet z) s = .next t ∧ t = { s with bw := t.bw } ∧ (s.bw.supply = true → z.val ∈ t.bw.wet ∧ z.val ∉ t.bw.faults) ∧ (s.bw.supply = false → t = s)) ∧
    ((s.bw.supply = false ∨ s.bw.tripped = true ∨ s.bw.wet = []) → exec (.bwTrip us) s = .next s) ∧
    (s.bw.supply = true → s.bw.tripped = false → s.bw.wet ≠ [] → ∃ u, exec (.bwTrip us) s = .next (emitBw Ev.bwTrip (zoneMask s.bw.wet) us.toNat (openAll 3 u)) ∧
      u = { s with bw := { s.bw with tripped := true, isolated := true, valves := false, stopped := true, atTrip := zoneMask s.bw.wet, seen := s.lhUp } }) ∧
    (z.val ∉ s.bw.wet → exec (.bwGlitch z) s = .next s) ∧
    (z.val ∈ s.bw.wet → exec (.bwGlitch z) s = .next (emitBw Ev.bwGlitch z 0 { s with bw := { s.bw with wet := s.bw.wet.filter (· != z.val) } })) ∧
    (s.bw.supply = true → z.val ∉ s.bw.faults → exec (.bwSensorFault z) s = .next (emitBw Ev.bwSensorFault z 0 { s with bw := { s.bw with faults := s.bw.faults ++ [z.val] } })) ∧
    (z.val ∈ s.bw.faults → exec (.bwSensorFault z) s = .next s) ∧
    (∀ a b : List (Fin 20), s.bw.supply = true → (∀ x ∈ a, x.val ∈ s.bw.testA) → (∀ x ∈ b, x.val ∈ s.bw.testB) → exec (.bwSelftest a b) s =
      .next { s with bw := { s.bw with testA := a.map (fun x => x.val), testB := b.map (fun x => x.val) } }) ∧
    ((s.bw.supply = false ∨ s.bw.tripped = false) → exec .bwReset s = .next s) ∧
    (s.bw.supply = true → s.bw.tripped = true → exec .bwReset s = .next (emitBw Ev.bwReset 0 0
      { s with bw := { s.bw with tripped := false, wet := [], faults := [], isolated := false, valves := true, stopped := false } })) ∧
    (s.bw.supply = false → exec .bwSupplyLoss s = .next s) ∧
    (s.bw.supply = true → exec .bwSupplyLoss s = .next (inputLost { s with bw := { s.bw with supply := false, isolated := true, valves := false } }))

/-! ## Start-up -/

/-- R50, R652, R653, R658 to R668, R676, R691, R786: a start goes through its stages; what ends it at each, with the reason kept and the restart or
Neap mode that follows; two images are tried in order, the second with IMAGE_FALLBACK; what power and a restart leave of the machine. Completes: BAY_POWER_APPLIED, MODULE_RESTART,
START_STAGE_TIMEOUT, START_LIMIT_TIMEOUT, FW_WATCHDOG_EXPIRY. -/
def Obligations.Starts : Prop :=
  ∀ (bay : Fin 16) (env : StartEnv) (s u : State),
    exec (.bayPowerApplied bay env) s = .next (stage1 env (powerOn bay env.torn s)) ∧
    (∀ v, v = powerOn bay env.torn s → v.fld F.hubBootStatusStarts = 1 ∧ v.boot.powered = true ∧ v.fld F.hubTopoBay = bay ∧ v.strm = {} ∧ v.disp = {} ∧ v.host = {} ∧
      (∀ a, memGet v.mem a = if outside a then memGet s.mem a else 0) ∧ (env.torn = none → v.sec = secStart s.sec)) ∧
    (s.boot.restartDue = true → s.boot.powered = true → exec (.moduleRestart env) s = .next (stage1 env (restartState s))) ∧
    ((s.boot.restartDue = false ∨ s.boot.powered = false) → exec (.moduleRestart env) s = .next s) ∧
    ((restartState s).reg R.hubBootAttempts = s.reg R.hubBootAttempts ∧ (restartState s).reg R.hubBootLast = s.reg R.hubBootLast ∧ (restartState s).reg R.errFsTotal = s.reg R.errFsTotal ∧
      (restartState s).fld F.hubBootStatusStarts = satAdd (s.fld F.hubBootStatusStarts) 1 0xFFFF ∧ (restartState s).stage = 1 ∧ (restartState s).strm = {} ∧
      (restartState s).host.queues = [] ∧ (restartState s).host.msi = s.host.msi ∧ (restartState s).boot.restartDue = false) ∧
    (∀ x, x = mendOtp s.sec → u = drawChallenge ((atStage 1 { s with sec := x }).setFld F.hubRevCarrierRev x.carrierRev) →
      (x.lc = 5 → stage1 env s = startFail Neap.security 0 (eraseFlash 0 (2 * slotMax) u)) ∧
      (x.lc ≠ 5 → env.otpGood = false → stage1 env s = startFail Neap.security 0 u) ∧
      (x.lc ≠ 5 → env.otpGood = true → s.fld F.hubBootAttemptsLimit ≤ s.fld F.hubBootAttemptsCount → stage1 env s = enterNeap (s.fld F.hubBootLastReason) u) ∧
      (x.lc ≠ 5 → env.otpGood = true → s.fld F.hubBootAttemptsCount < s.fld F.hubBootAttemptsLimit → ∃ v, v.fld F.hubBootAttemptsCount = s.fld F.hubBootAttemptsCount + 1 ∧
        v.stage = 1 ∧ v.fld F.hubRevCarrierRev = x.carrierRev % 256 ∧ s.onlyRegs v [R.hubBootStatus, R.hubBootAttempts, R.hubRev] ∧
        (env.hot = true → stage1 env s = startFail Neap.thermal 0 v) ∧ (env.hot = false → env.stall ≠ some 1 → stage1 env s = stage2 env (returnErase v)))) ∧
    (u = atStage 2 s → env.stall ≠ some 2 → (s.bit F.hubBootAttemptsSkipA = false ∨ s.bit F.hubBootAttemptsSkipB = false) →
      (∀ v, trySlot env 0 u = (none, v) → stage2 env s = stage3 env (v.slotBytes 0) v) ∧
      (∀ a v w, trySlot env 0 u = (some a, v) → trySlot env 1 (v.setFld F.hubBootStatusImage 1) = (none, w) →
        stage2 env s = stage3 env (w.slotBytes 1) (emitM Ev.imageFallback 0 0 a 0 0 w)) ∧
      (∀ a c v w, trySlot env 0 u = (some a, v) → trySlot env 1 (v.setFld F.hubBootStatusImage 1) = (some c, w) →
        stage2 env s = startFail (if a = Img.key ∧ c = Img.key then Neap.security else Neap.image) c w)) ∧
    (∀ r d, r ≠ Neap.security → (startFail r d s).boot.restartDue = true ∧ (startFail r d s).fld F.hubBootLastReason = r % 256 ∧ (startFail r d s).fld F.hubBootLastStage = s.stage ∧
      (startFail r d s).fld F.hubBootLastDetail = d % 65536 ∧ (startFail r d s).stage = s.stage ∧ (startFail r d s).mem = s.mem) ∧
    (∀ d, ∃ v, startFail Neap.security d s = enterNeap Neap.security v) ∧
    (∀ r, ∃ v, enterNeap r s = emitM Ev.neapEntered 0 0 r 0 0 v ∧ v.stage = 10 ∧ v.bit F.hubBootStatusNeap = true ∧ v.bit F.hubNeapActive = true ∧ v.fld F.hubNeapReason = r % 256 ∧
      v.pins.faultN = true ∧ v.pins.ready = false ∧ v.pins.heartbeat = false ∧ v.mem = s.mem) ∧
    (s.boot.powered = true → s.boot.restartDue = false → 1 ≤ s.stage → (s.stage ≤ 5 → exec .startStageTimeout s = .next (startFail Neap.watchdog 0 s)) ∧
      (s.stage ≤ 7 → exec .startLimitTimeout s = .next (startFail Neap.watchdog 0 s))) ∧
    ((s.boot.powered = false ∨ s.boot.restartDue = true ∨ s.stage = 0 ∨ 7 < s.stage) → exec .startStageTimeout s = .next s ∧ exec .startLimitTimeout s = .next s) ∧
    (s.pins.heartbeat = true → s.boot.restartDue = false → exec .fwWatchdogExpiry s = .next (failStop 0 0 1 s)) ∧
    ((s.pins.heartbeat = false ∨ s.boot.restartDue = true) → exec .fwWatchdogExpiry s = .next s)

/-- R615, R616, R654 to R656, R659, R661, R668, R705: a module joins with the record or is quarantined; it becomes Ready once its models, time and
ports are, or fails or gives up waiting at the settle time; 600 s in Ready clear the attempts; a restart is due only where R659 allows it. R19: at Ready the lock of RWL fields closes.
Completes: MODULE_READY, SETTLE_TIMEOUT, TRAY_RECORD_TIMEOUT, BOOT_STABLE, HUB_BOOT_RESTART, HUB_BOOT_CLEAR. -/
def Obligations.Readiness : Prop :=
  ∀ (p : Path) (bodies : List (List Byte)) (clear : Bool) (s u : State),
    ((s.stage ≠ 7 ∨ s.boot.restartDue = true) → exec (.moduleReady bodies) s = .next s ∧ exec .settleTimeout s = .next s) ∧
    (s.stage = 7 → s.boot.restartDue = false → u = obtain bodies s →
      (u.modelsReady = true → u.fld F.timeStatusState ≠ 2 → u.portsSteady = true → exec (.moduleReady bodies) s = .next (becomeReady u)) ∧
      ((u.modelsReady = false ∨ u.fld F.timeStatusState = 2 ∨ u.portsSteady = false) → exec (.moduleReady bodies) s = .next u) ∧
      (s.modelsReady = true → exec .settleTimeout s = .next (becomeReady s)) ∧ (s.modelsReady = false → exec .settleTimeout s = .next (startFail Neap.image 0 s))) ∧
    (∃ v, becomeReady s = retarget (emitM Ev.moduleReady 0 0 (s.fld F.hubBootStatusImage) 0 0 v) ∧ v.stage = 8 ∧ v.pins.ready = true ∧ v.pair R.hubReadyTime = s.time % 2 ^ 64 ∧
      v.fld F.hubBootAttemptsStableS = 0 ∧ v.boot.readySince = s.time ∧ v.boot.locked = true ∧ v.mem = s.mem) ∧
    ((s.stage ≠ 6 ∨ s.boot.restartDue = true) → exec .trayRecordTimeout s = .next s) ∧
    (s.stage = 6 → s.boot.restartDue = false → exec .trayRecordTimeout s = .next (joinTray true s.peerRecord (answered false s.myBay 7 s))) ∧
    (∀ src r, u = (s.setPair R.fabTrayEpoch r.epoch).setBit F.fabStatusRecordSrc src →
      (u.disagrees r = none → joinTray src r s = settleStart (setStage 1 u)) ∧ (∀ k, u.disagrees r = some k → joinTray src r s = quarantine k u)) ∧
    (∀ r, (s.disagrees r = none ↔ s.pair R.fabEpoch = r.epoch ∧ s.boot.fwSet = r.fw ∧ s.fld F.errScopeScope = r.scope)) ∧
    (∀ k, ∃ v, quarantine k s = emitM Ev.moduleQuarantine 0xA 0 k 0 0 v ∧ v.pins.faultN = true ∧ v.pins.ready = false ∧ ∀ q ∈ v.ports, q.2.driven = []) ∧
    ((s.ready = false ∨ s.failStopped = true ∨ s.boot.stable = true ∨ s.time < s.boot.readySince + 600000000000) → exec .bootStable s = .next s) ∧
    (s.ready = true → s.failStopped = false → s.boot.stable = false → s.boot.readySince + 600000000000 ≤ s.time → ∃ t, exec .bootStable s = .next t ∧ t.boot.stable = true ∧
      t.fld F.hubBootAttemptsCount = 0 ∧ t.bit F.hubBootAttemptsSkipA = false ∧ t.bit F.hubBootAttemptsSkipB = false ∧ t.fld F.hubBootAttemptsStableS = 600 ∧
      s.onlyRegs t [R.hubBootAttempts] ∧ t.mem = s.mem) ∧
    (s.passes p R.hubBootCtrl = true →
      (∃ t, exec (.hubBootRestart p clear) s = .next t ∧ t.boot = { s.boot with restartDue := s.boot.restartDue || s.mayRestart } ∧ s.onlyRegs t [R.hubBootAttempts, R.hubBootCtrl] ∧ t.mem = s.mem ∧
        t.bit F.hubBootCtrlRestart = (s.bit F.hubBootCtrlRestart || s.mayRestart) ∧ (clear = false → s.onlyRegs t [R.hubBootCtrl]) ∧ (clear = true → t.fld F.hubBootAttemptsCount = 0)) ∧
      (∃ t, exec (.hubBootClear p) s = .next t ∧ t.fld F.hubBootAttemptsCount = 0 ∧ t.bit F.hubBootAttemptsSkipA = false ∧ t.bit F.hubBootAttemptsSkipB = false ∧
        s.onlyRegs t [R.hubBootAttempts] ∧ s.sameBut t ∧ t.mem = s.mem))

/-! ## The management link -/

/-- R722 to R724, R741, R744, R746 to R748: what the module answers to STATUS_GET and HASH_GET; how a re-flash of a bay goes on with each answer;
the Lighthouse's answers to RECORD_GET and STORE_READ; a frame is sent three times at most. Completes: STATUS_GET,
HASH_GET, REFLASH_BEGIN, REFLASH_DATA, REFLASH_RETRY, REFLASH_BUSY_LIMIT, REFLASH_ABANDON, RECORD_GET, STORE_READ, MGMT_RETRY_TIMEOUT. -/
def Obligations.ManagementLink : Prop :=
  ∀ (tag slot : Byte) (bay : Fin 16) (j : FlashJob) (s : State),
    (s.boot.powered = true → (∃ t, exec (.statusGet tag) s = .next t ∧
        t.lh.frames = s.lh.frames ++ [{ fromLh := false, bay := s.myBay, op := 0x83, tag := tag.toNat, status := Mg.ok, body := statusBytes s.report }]) ∧
      (1 < slot.toNat → exec (.hashGet tag slot) s = .next (sendFrame { fromLh := false, bay := s.myBay, op := 0x84, tag := tag.toNat, status := Mg.badArg, body := [] } s)) ∧
      (slot.toNat ≤ 1 → ∃ t, exec (.hashGet tag slot) s = .next t ∧
        t.lh.frames = s.lh.frames ++ [{ fromLh := false, bay := s.myBay, op := 0x84, tag := tag.toNat, status := Mg.ok, body := hashBytes (s.slotHash slot.toNat) }])) ∧
    (s.boot.powered = false → s.watched s.myBay = false → exec (.statusGet tag) s = .next s) ∧
    (∀ a, (s.lhBay bay).job = none → exec (.reflashBegin bay a) s = .next s ∧ (∀ n ok, exec (.reflashData bay n ok a) s = .next s) ∧ exec (.reflashRetry bay a) s = .next s ∧
      exec (.reflashBusyLimit bay) s = .next s) ∧
    (∀ (a : Fin 6) (u : State), (s.lhBay bay).job = some j → s.lhUp = true → bay.val ≠ s.myBay →
      (j.begun = false → s.mayBegin bay = true → u = sendFrame { fromLh := true, bay := bay, op := 5, arg := j.slot, body := leBytes 4 j.image.length ++ sha256 j.image } s →
        (a.val = Mg.ok → ∃ t, exec (.reflashBegin bay a) s = .next t ∧ (t.lhBay bay).job = some { j with begun := true, busy := false } ∧ (t.lhBay bay).tries = (s.lhBay bay).tries ++ [s.lh.time] ∧
          t.lh.frames = u.lh.frames) ∧
        (a.val = Mg.busy → exec (.reflashBegin bay a) s = .next (u.setLhBay bay { u.lhBay bay with job := some { j with busy := true } })) ∧
        (a.val ≠ Mg.ok → a.val ≠ Mg.busy → exec (.reflashBegin bay a) s = .next (flashFailed bay j a u)) ∧
        (j.busy = true → exec (.reflashRetry bay a) s = exec (.reflashBegin bay a) s)) ∧
      (∀ (n : Nat) (ok : Bool) (x : List Byte), j.begun = true → x = (j.image.drop j.sent).take (min n 4096) → x ≠ [] → u = sendFrame { fromLh := true, bay := bay, op := 6, arg := j.sent, body := x } s →
        (a.val ≠ Mg.ok → exec (.reflashData bay n ok a) s = .next (flashFailed bay j a u)) ∧
        (a.val = Mg.ok → j.sent + x.length < j.image.length → ∃ t, exec (.reflashData bay n ok a) s = .next t ∧ (t.lhBay bay).job = some { j with sent := j.sent + x.length } ∧ t.lh.frames = u.lh.frames) ∧
        (a.val = Mg.ok → j.image.length ≤ j.sent + x.length → j.second = false → exec (.reflashData bay n ok a) s = .next (u.setLhBay bay { u.lhBay bay with job := some { j with second := true, sent := 0 } })) ∧
        (a.val = Mg.ok → j.image.length ≤ j.sent + x.length → j.second = true → exec (.reflashData bay n ok a) s = .next (flashDone bay j u))) ∧
      exec (.reflashBusyLimit bay) s = .next (if j.busy then flashLost bay j 0xFF s else s)) ∧
    (s.boot.reflash = none → exec .reflashAbandon s = .next s) ∧
    (∀ r, s.boot.reflash = some r → (s.lhBay s.myBay).job = none → ∃ t, exec .reflashAbandon s = .next t ∧ t.boot.reflash = none ∧ t.bit F.hubFlashBusy = false ∧ t.mem = s.mem) ∧
    (s.lhUp = false → exec (.recordGet bay) s = .next s ∧ ∀ o d n, exec (.storeRead bay o d n) s = .next s) ∧
    (s.lhUp = true → bay.val ≠ s.myBay →
      (s.lhRecord = none → exec (.recordGet bay) s = .next (sendFrame { fromLh := true, bay := bay, op := 0x87, status := Mg.notFound, body := [] } s)) ∧
      (∀ r, s.lhRecord = some r → exec (.recordGet bay) s = .next (sendFrame { fromLh := true, bay := bay, op := 0x87, status := Mg.ok, body := recordFrame r } s))) ∧
    (∀ r, s.lhUp = true → bay.val = s.myBay → s.boot.powered = true → s.stage = 6 → s.boot.restartDue = false → s.lhRecord = some r → exec (.recordGet bay) s =
      .next (joinTray false r (answered false bay 7 (sendFrame { fromLh := true, bay := bay, op := 0x87, status := Mg.ok, body := recordFrame r } s)))) ∧
    (∀ o d n, s.lhUp = true →
      ((∀ m ∈ s.lh.models, m.1 ≠ d) → exec (.storeRead bay o d n) s = .next (sendFrame { fromLh := true, bay := bay, op := 0x88, arg := o, status := Mg.notFound, body := [] } s)) ∧
      (∀ b, s.lh.models = [(d, b)] →
        ((4096 < n ∨ b.length < o + n) → exec (.storeRead bay o d n) s = .next (sendFrame { fromLh := true, bay := bay, op := 0x88, arg := o, status := Mg.badArg, body := [] } s)) ∧
        (n ≤ 4096 → o + n ≤ b.length → exec (.storeRead bay o d n) s = .next (sendFrame { fromLh := true, bay := bay, op := 0x88, arg := o, status := Mg.ok, body := (b.drop o).take n } s)))) ∧
    (∀ (l : Bool) (op : Byte), ((∀ a ∈ s.lh.asked, ¬(a.1.fromLh = l ∧ a.1.bay = bay.val ∧ a.1.op = op.toNat)) → exec (.mgmtRetryTimeout l bay op) s = .next s) ∧
      (∀ f n, s.lh.asked = [(f, n)] → f.fromLh = l → f.bay = bay.val → f.op = op.toNat →
        (3 ≤ n → exec (.mgmtRetryTimeout l bay op) s = .next { s with lh := { s.lh with asked := [] } }) ∧
        (n < 3 → exec (.mgmtRetryTimeout l bay op) s = .next { s with lh := { s.lh with asked := [(f, n + 1)], frames := s.lh.frames ++ [f] } })))

/-! ## The Lighthouse's commands -/

/-- R749 to R753, R740, R742, R743, R748: what each command of the Lighthouse completes with and changes, once its checks have passed; a row runs
only on a command of its own kind at the head of the queue. Completes: LH_NOP,
LH_VERIFY, LH_BAY_POWER_OFF, LH_BAY_POWER_ON, LH_BAY_POWER_CYCLE, LH_MODULE_RESTART, LH_REFLASH, LH_SHUTDOWN, LH_RECORD_SET, LH_POLICY_SET,
LH_KEY_INSTALL, LH_STORE_WRITE_GOLDEN, LH_STORE_WRITE_MODEL, LH_STORE_WRITE_FW, MODEL_DELETE. -/
def Obligations.LighthouseCommands : Prop :=
  ∀ (d x : HostRead) (c : QCmd) (b : List Byte) (rd : BitVec 16) (hs : List BayHash) (s t : State),
    (s.lhTakes (isOp 0x00) d c b t → exec (.lhNop d) s = .next (lhComplete St.ok 0 t)) ∧
    (s.lhTakes (isOp 0x61) d c b t → exec (.lhVerify d hs) s = .next (lhComplete St.ok 0 ((maskBays c.arg0).foldl (fun s n => hashBay hs n s) t))) ∧
    (s.lhTakes (isPower 0) d c b t →
      (bitsOf c.arg0 17 16 = 3 → exec (.lhBayPowerOff d rd) s = .next (lhComplete St.format 0 t)) ∧
      (bitsOf c.arg0 17 16 = 0 → exec (.lhBayPowerOff d rd) s = .next (lhComplete St.ok (bayMask (refusedBays c rd t))
        (((maskBays c.arg0).filter (fun n => !(refusedBays c rd t).contains n)).foldl (fun s n => openSwitch n 0 (s.setLhBay n { s.lhBay n with cycling := none })) t)))) ∧
    (s.lhTakes (isPower 1) d c b t → ∀ no, no = (maskBays c.arg0).filter (fun n => !t.lhBit (F.lhBayStatePowered n) && !t.mayClose n) →
      exec (.lhBayPowerOn d) s = .next (lhComplete St.ok (bayMask no) (((maskBays c.arg0).filter (fun n => !no.contains n)).foldl (fun s n => closeSwitch n 0 s) t))) ∧
    (s.lhTakes (isPower 2) d c b t → ∃ u, exec (.lhBayPowerCycle d rd) s = .next (cycleOver u) ∧ u.lh.held = some (bayMask (refusedBays c rd t)) ∧
      ∀ n, n < 16 → maskBays c.arg0 = [n] → n ∉ refusedBays c rd t → t.lhBit (F.lhBayStatePowered n) = true → (u.lhBay n).cycling = some 0) ∧
    (s.lhTakes (isOp 0x89) d c b t → ∃ no u, exec (.lhModuleRestart d rd) s = .next (lhComplete St.ok (bayMask no) u) ∧
      (∀ n, n ∈ no ↔ n ∈ maskBays c.arg0 ∧ (t.lhBit (F.lhBayStatePowered n) = false ∨ (n = t.myBay ∧ (t.boot.powered = false ∨ (t.mayRestart = false ∧ t.fld F.fabStatusStage ≠ 4))) ∨
        (n ≠ t.myBay ∧ Nat.testBit rd.toNat n = true))) ∧
      (t.myBay ∈ maskBays c.arg0 → t.lhBit (F.lhBayStatePowered t.myBay) = true → t.boot.powered = true → (t.mayRestart = true ∨ t.fld F.fabStatusStage = 4) → u.boot.restartDue = true) ∧
      u.mem = t.mem) ∧
    (s.lhTakes (isOp 0x8A) d c b t → ∀ bay w, bay = c.arg0 % 16 → w = bitsOf c.arg0 5 4 →
      (w = 3 → exec (.lhReflash d) s = .next (lhComplete St.format 0 t)) ∧
      (w ≠ 3 → (t.lhBit (F.lhBayStatePowered bay) = false ∨ (t.lhBay bay).job ≠ none ∨ t.lh.current = [] ∨ (w = 2 ∧ t.slotFor bay = none) ∨ (w < 2 ∧ t.slotInUse bay w = true)) →
        exec (.lhReflash d) s = .next (lhComplete St.state 0 t)) ∧
      (∀ i, w ≠ 3 → t.lhBit (F.lhBayStatePowered bay) = true → (t.lhBay bay).job = none → t.lh.current ≠ [] → (if w = 2 then t.slotFor bay else some w) = some i → t.slotInUse bay i = false →
        ∃ u, exec (.lhReflash d) s = .next u ∧ u.lh.held = some 0 ∧ (u.lhBay bay).job = some { slot := i, image := t.lh.current, restart := Nat.testBit c.arg0 8, cmd := true })) ∧
    (s.lhTakes (isOp 0x8B) d c b t → (600000 < c.arg1 → exec (.lhShutdown d) s = .next (lhComplete St.format 0 t)) ∧
      (c.arg1 ≤ 600000 → ∃ u, exec (.lhShutdown d) s = .next u ∧ u.lh.grace = true ∧ u.lh.held = some 0 ∧ u.policyByte 2 = 0 ∧ u.regs = t.regs ∧ u.mem = t.mem)) ∧
    (s.lhTakes (isOp 0x8C) d c b t →
      (c.len ≠ 48 → exec (.lhRecordSet d) s = .next (lhComplete St.format 0 t)) ∧
      (c.len = 48 →
        ((t.lh.current = [] ∨ goldenRecord t.lh.current ≠ (fieldAt b 0 8, (b.drop 8).take 32) ∨ 1 < fieldAt b 40 1 ∨ (∃ r, t.lhRecord = some r ∧ fieldAt b 0 8 < r.epoch)) →
          exec (.lhRecordSet d) s = .next (lhComplete St.verify 0 t)) ∧
        (t.lh.current ≠ [] → goldenRecord t.lh.current = (fieldAt b 0 8, (b.drop 8).take 32) → fieldAt b 40 1 ≤ 1 → (∀ r, t.lhRecord = some r → r.epoch ≤ fieldAt b 0 8) →
          ∃ u, exec (.lhRecordSet d) s = .next (lhComplete St.ok 0 (emitBay Ev.lhRecordChanged 16 (fieldAt b 0 8 % 2 ^ 32) (fieldAt b 0 8 / 2 ^ 32) 0 u)) ∧
            u.lhPair R.lhRecordEpoch = fieldAt b 0 8 ∧ u.lhBit F.lhRecordScopeSet = true ∧ u.lhFld F.lhRecordScopeScope = fieldAt b 40 1))) ∧
    (s.lhTakes (isOp 0x8E) d c b t →
      ((c.len ≠ 32 ∨ policyGood b = false) → exec (.lhPolicySet d) s = .next (lhComplete St.format 0 t)) ∧
      (c.len = 32 → policyGood b = true → ∃ u, exec (.lhPolicySet d) s = .next (lhComplete St.ok 0 u) ∧ (∀ i, i < 8 → u.lhReg (R.lhPolicy0 + 4 * i) = BitVec.ofNat 32 (fieldAt b (4 * i) 4)) ∧
        u.lhFld F.lhPtpDomain = fieldAt b 14 2 % 128 ∧ u.mem = t.mem ∧ u.lh = t.lh)) ∧
    (s.lhTakes (isOp 0x8F) d c b t → ∀ k, k = fieldAt b 0 1 →
      (c.len ≠ 96 → exec (.lhKeyInstall d) s = .next (lhComplete St.format 0 t)) ∧
      (c.len = 96 → ((k ≠ 1 ∧ k ≠ 2) ∨ c.keySlot ≠ (if (t.key (lhSlot k)).present then k else 0)) → exec (.lhKeyInstall d) s = .next (lhComplete St.verify 0 t)) ∧
      (∀ y, c.len = 96 → (k = 1 ∨ k = 2) → c.keySlot = (if (t.key (lhSlot k)).present then k else 0) →
        openBlock (t.key (lhSlot c.keySlot)).bytes (t.lhPair R.lhUid) false 0x10 b = some y →
        exec (.lhKeyInstall d) s = .next (lhComplete St.ok 0 (t.setKey (lhSlot k) { present := true, bytes := y })))) ∧
    (∀ k e, (k = 0 ∧ e = exec (.lhStoreWriteGolden d x) s) ∨ (k = 1 ∧ e = exec (.lhStoreWriteModel d x) s) ∨ (k = 2 ∧ e = exec (.lhStoreWriteFw d x) s) → s.lhTakes (isKind k) d c b t →
      (storeBad c b = true → e = .next (lhComplete St.format 0 t)) ∧
      (storeBad c b = false → fieldAt b 8 8 ≠ 0 → x.bytes? = none → e = .next (lhComplete St.hostRead 0 t)) ∧
      (storeBad c b = false → fieldAt b 8 8 = 0 → (∀ z, t.lh.staging = some z → z.length < fieldAt b 16 8) → e = .next (lhComplete St.hostRead 0 { t with lh := { t.lh with staging := none } })) ∧
      (∀ y z u, storeBad c b = false → y = z.take (fieldAt b 16 8) → ((fieldAt b 8 8 ≠ 0 ∧ x.bytes? = some z ∧ u = t) ∨
          (fieldAt b 8 8 = 0 ∧ t.lh.staging = some z ∧ fieldAt b 16 8 ≤ z.length ∧ u = { t with lh := { t.lh with staging := none } })) →
        ((y.length ≠ fieldAt b 16 8 ∨ sha256 y ≠ storeDigest b) → e = .next (lhComplete St.verify 0 u)) ∧
        (y.length = fieldAt b 16 8 → sha256 y = storeDigest b →
          (k = 0 → goldenGood y = true → e = .next (stored 0 { u with lh := { u.lh with previous := u.lh.current, current := y } })) ∧
          (k = 0 → goldenGood y = false → e = .next (lhComplete St.verify 0 u)) ∧
          (k = 1 → e = .next (storeModel y u)) ∧
          (k = 2 → u.lh.fwUsed = 0 → e = .next (stored 2 { u with lh := { u.lh with fwB := y, fwNext := 1 } })) ∧
          (k = 2 → u.lh.fwUsed ≠ 0 → e = .next (stored 2 { u with lh := { u.lh with fwA := y, fwNext := 0 } }))))) ∧
    (s.lhTakes (isKind 3) d c b t →
      (storeBad c b = true → exec (.modelDelete d) s = .next (lhComplete St.format 0 t)) ∧
      (storeBad c b = false → (namesBody t.lh.current (storeDigest b) = true ∨ ∀ m ∈ t.lh.models, m.1 ≠ storeDigest b) → exec (.modelDelete d) s = .next (lhComplete St.state 0 t)) ∧
      (storeBad c b = false → namesBody t.lh.current (storeDigest b) = false → (∃ m ∈ t.lh.models, m.1 = storeDigest b) →
        exec (.modelDelete d) s = .next (stored 3 { t with lh := { t.lh with models := t.lh.models.filter (fun m => m.1 != storeDigest b) } })))

/-- R721, R736, R737, R749, R751, R755, R759, R760, R754: the mailbox, Redfish and the Lighthouse's own start and stop: a doorbell takes the block
while the mailbox is free and is an error while it is busy; a request through Redfish is heard; a ping ends host silence; the grace period opens
every switch; a reset of the function drops what the mailbox had waiting; a start begins afresh, keeping LH_POLICY; without a strobe the Lighthouse
does not run and cooling is full. Completes: LH_HOST_PING, MB_DOORBELL, IARDO_COMMAND, STAGING_UPLOAD, SHUTDOWN_GRACE_END, SILENCE_BEGIN,
REDFISH_REQUEST, LH_FLR, LH_START, LH_WATCHDOG_EXPIRY. -/
def Obligations.LighthouseRuns : Prop :=
  ∀ (v : Word) (raw data : List Byte) (rs : List BayReport) (hs : List BayHash) (s : State),
    (s.lhUp = false → exec (.mbDoorbell v) s = .next s ∧ exec (.lhHostPing v) s = .next s ∧ exec (.iardoCommand raw data) s = .next s ∧ exec (.stagingUpload data) s = .next s ∧
      exec .shutdownGraceEnd s = .next s ∧ ∀ h r, exec (.silenceBegin h r) s = .next s) ∧
    (s.lhUp = true →
      exec (.lhHostPing v) s = .next (s.setLhBit F.lhStatusHostSilent false) ∧
      (∀ u, u = s.setLhBit F.lhStatusHostSilent false →
        (v.getLsbD 0 = false → exec (.mbDoorbell v) s = .next u) ∧ (v.getLsbD 0 = true → s.lhBit F.mbStatusBusy = true → exec (.mbDoorbell v) s = .next (u.setLhBit F.mbStatusDbErr true)) ∧
        (v.getLsbD 0 = true → s.lhBit F.mbStatusBusy = false → exec (.mbDoorbell v) s = .next (lhTake { raw := mailboxBytes s, rack := false, data := [] } (u.setLhBit F.mbStatusBusy true)))) ∧
      (∀ u, u = s.setLhBit F.lhStatusRackSilent false →
        (((raw.length ≠ 64 ∧ raw.length ≠ 128) ∨ 4096 < data.length) → exec (.iardoCommand raw data) s = .next (httpAnswer .refused u)) ∧
        ((raw.length = 64 ∨ raw.length = 128) → data.length ≤ 4096 → exec (.iardoCommand raw data) s = .next (lhTake { raw := raw, rack := true, data := data } (httpAnswer .served u))) ∧
        (slotMax < data.length → exec (.stagingUpload data) s = .next (httpAnswer .refused u)) ∧
        (data.length ≤ slotMax → exec (.stagingUpload data) s = .next (httpAnswer .served { u with lh := { u.lh with staging := some data } }))) ∧
      (s.lh.grace = false → exec .shutdownGraceEnd s = .next s) ∧
      (s.lh.grace = true → ∃ u, u = (List.range 16).foldl (fun s b => openSwitch b 0 (s.setLhBay b { s.lhBay b with cycling := none })) ({ s with lh := { s.lh with grace := false } } : State) ∧
        exec .shutdownGraceEnd s = .next (if u.lh.held.isSome then lhComplete St.ok 0 u else u)) ∧
      (∀ h r, ∃ u, u = (if r then (if h then s.setLhBit F.lhStatusHostSilent true else s).setLhBit F.lhStatusRackSilent true else if h then s.setLhBit F.lhStatusHostSilent true else s) ∧
        exec (.silenceBegin h r) s = .next (if u.allowed 1 then (List.range 16).foldl takePending u else u)) ∧
      (∀ r, exec (.redfishRequest false r) s = .next (httpAnswer .denied s)) ∧
      (∀ k u, u = s.setLhBit F.lhStatusRackSilent false →
        exec (.redfishRequest true (.read k)) s = .next (httpAnswer (if k then .served else .notFound) u) ∧
        exec (.redfishRequest true (.property k)) s = .next (httpAnswer (if k then .refused else .notFound) u) ∧
        (∀ p lo hi, exec (.redfishRequest true (.threshold p lo hi)) s = .next (httpAnswer .served (setLimits p lo hi u))) ∧
        exec (.redfishRequest true .settings) s = .next (httpAnswer .served u))) ∧
    (∃ t, exec .lhFlr s = .next t ∧ t.lh.queue = s.lh.queue.filter LhCmd.rack ∧ t.lh.host = { ownUnit := 0xF0, ownInst := 0xFF } ∧ t.lhReg R.mbStatus = regReset lighthouseBlocks R.mbStatus ∧
      t.lhReg R.lhStatus = s.lhReg R.lhStatus ∧ t.regs = s.regs ∧ t.mem = s.mem) ∧
    (∃ t, exec (.lhStart rs hs) s = .next t ∧ t.lhUp = true ∧ t.lhBit F.lhStatusHostSilent = false ∧ t.lhBit F.lhStatusRackSilent = false ∧ t.lh.queue = [] ∧ t.lh.staging = none ∧
      t.lh.lhDown = false ∧ t.lh.fwUsed = s.lh.fwNext ∧ ∀ i, i < 8 → t.lhReg (R.lhPolicy0 + 4 * i) = s.lhReg (R.lhPolicy0 + 4 * i)) ∧
    (∃ t, exec .lhWatchdogExpiry s = .next t ∧ t.lhUp = false ∧ t.lhBit F.lhStatusWdExpired = true ∧ t.lh = { s.lh with pumps := 100, fans := 100, override := true, lhDown := true } ∧
      t.regs = s.regs ∧ t.mem = s.mem) ∧
    (∀ st n, ∀ x rest, s.lh.queue = x :: rest → rest = [] → ∃ u, lhComplete st n s = u ∧ u.lh.queue = [] ∧ u.lh.held = none ∧
      (x.rack = true → u.lh.returned = s.lh.returned ++ [lhRecordOf x st n s.lh.time]) ∧
      (x.rack = false → u.lhBit F.mbStatusDone = true ∧ u.lhBit F.mbStatusBusy = false))

/-! ## What the Lighthouse senses and steers -/

/-- R180 to R183, R729 to R736, R806, R807: a point holds its last sample and is in alarm outside its limits until it is back within them by the
margin; a second of whole milliseconds gives the power reports; cooling follows policy, goes to full speed when a unit fails, and an inserted unit
settles; PTP lock and loss. R181: the steering moves toward the word asked for by at most 0.1 ppm a second, and a loss of lock holds it where it is. Completes: POINT_SAMPLE,
POWER_SAMPLE_1MS, POWER_REPORT_1S, COOLING_UPDATE, COOLING_UNIT_FAIL, COOLING_UNIT_INSERT, PTP_LOCK, PTP_LOSS. -/
def Obligations.Sensing : Prop :=
  ∀ (p : Fin 368) (v : BitVec 16) (r : Fin 17) (u : Fin 22) (a b : Bool) (tai : BitVec 64) (st : BitVec 32) (xs : List (List (BitVec 16))) (s : State),
    (s.lhUp = false → exec (.pointSample p v) s = .next s ∧ exec (.powerSample1ms xs) s = .next s ∧ exec .powerReport1s s = .next s ∧ exec (.coolingUpdate a b) s = .next s ∧
      exec (.coolingUnitFail u) s = .next s ∧ exec (.coolingUnitInsert u) s = .next s ∧ exec (.ptpLock tai st) s = .next s ∧ exec .ptpLoss s = .next s) ∧
    (s.lhUp = true →
      ((p.val = 322 ∨ (p.val < 320 ∧ p.val % 20 = 2) ∨ (ofModule p = true ∧ s.lhBit (F.lhBayStatePowered (p / 20)) = false)) → exec (.pointSample p v) s = .next s) ∧
      (p.val ≠ 322 → p.val ≠ 326 → p.val ≠ 366 → p.val ≠ 367 → (320 ≤ p.val ∨ p.val % 20 ≠ 2) → (ofModule p = true → s.lhBit (F.lhBayStatePowered (p / 20)) = true) →
        ∃ t, exec (.pointSample p v) s = .next t ∧ t.lhBit (F.lhPtValid p) = true ∧ t.lhFld (F.lhPtValue p) = v.toNat ∧
          (pastLimit (s.limitsOf p) (signed16 v) = true → t.lhBit (F.lhPtAlarm p) = true) ∧
          (pastLimit (s.limitsOf p) (signed16 v) = false → t.lhBit (F.lhPtAlarm p) = (s.lhBit (F.lhPtAlarm p) && !backWithin p (s.limitsOf p) (signed16 v))) ∧
          t.regs = s.regs) ∧
      exec (.powerSample1ms xs) s = .next ((List.range 17).foldl (fun s r => powerMs r (xs.getD r []) s) s) ∧
      exec .powerReport1s s = .next ((List.range 17).foldl (fun s r => powerRow r s) s) ∧
      (s.lhFld F.lhPtpState = 1 → ∃ t : State, exec .ptpLoss s = .next (emitBay Ev.lhPtpState 16 2 0 0 (t.setLhFld F.lhPtpState 2)) ∧ t = { s with lh := t.lh } ∧
        t.lh = { s.lh with steer := s.steering, steerAt := t.lh.steerAt, steerTo := max (-50000) (min 50000 s.steering) }) ∧
      (s.lhFld F.lhPtpState ≠ 1 → exec .ptpLoss s = .next s) ∧
      (∃ t, exec (.ptpLock tai st) s = .next t ∧ t.lhFld F.lhPtpState = 1 ∧ t.lh.taiSet = true ∧
        t.lh.steer = s.steering ∧ t.lh.steerTo = max (-50000) (min 50000 st.toInt) ∧
        (s.steering - s.lh.steer).natAbs ≤ (s.lh.time - s.lh.steerAt) / 10000000 ∧ (∀ k : Nat, k = (s.lh.time - s.lh.steerAt) / 10000000 →
          s.lh.steer - k ≤ s.lh.steerTo → s.lh.steerTo ≤ s.lh.steer + k → s.steering = s.lh.steerTo) ∧
        (s.lh.taiSet = false → t.lhPair R.lhTaiOffset = tai.toNat) ∧
        (s.lh.taiSet = true → s.lhFld F.lhPtpState = 1 → t.lhPair R.lhTaiOffset = s.lhPair R.lhTaiOffset) ∧
        (s.lh.taiSet = true → s.lhFld F.lhPtpState ≠ 1 → t.lhPair R.lhTaiOffset = if 1000000 < offsetGap tai.toNat (s.lhPair R.lhTaiOffset) then tai.toNat else s.lhPair R.lhTaiOffset)) ∧
      (u.val ∈ s.lh.failed → exec (.coolingUnitFail u) s = .next s) ∧
      (isUnit u = true → u.val ∉ s.lh.failed → ∃ t, exec (.coolingUnitFail u) s = .next (emitBay Ev.lhCoolingDegraded 16 u 0 0 t) ∧ t.lh.failed = s.lh.failed ++ [u.val] ∧
        (u.val < 16 → t.lh.pumps = 100 ∧ t.lh.fans = s.lh.fans) ∧ (16 ≤ u.val → t.lh.fans = 100 ∧ t.lh.pumps = s.lh.pumps)) ∧
      (u.val ∉ s.lh.failed → exec (.coolingUnitInsert u) s = .next s) ∧
      (u.val ∈ s.lh.failed → ∃ t, exec (.coolingUnitInsert u) s = .next t ∧ u.val ∉ t.lh.failed ∧ u.val ∈ t.lh.settling ∧ t.lh.pumps = s.lh.pumps ∧ t.lh.fans = s.lh.fans) ∧
      (∃ t, exec (.coolingUpdate a b) s = .next t ∧ t.lh.override = false ∧
        (a = true → ∀ n ∈ t.lh.failed ++ t.lh.settling, 16 ≤ n) ∧ (b = true → ∀ n ∈ t.lh.failed ++ t.lh.settling, n < 16) ∧
        30 ≤ t.lh.pumps ∧ t.lh.pumps ≤ 100 ∧ 30 ≤ t.lh.fans ∧ t.lh.fans ≤ 100 ∧
        ((s.policyByte 3 = 1 ∨ s.supplyHot = true) → t.lh.pumps = 100 ∧ t.lh.fans = 100) ∧ ((∃ n ∈ t.lh.failed ++ t.lh.settling, n < 16) → t.lh.pumps = 100) ∧
        ((∃ n ∈ t.lh.failed ++ t.lh.settling, 16 ≤ n) → t.lh.fans = 100))) ∧
    (∀ ys, ys ≠ [] → ∃ t, ∃ w : Nat, powerMs r ys s = notePoint (powerPoint r) w t ∧ t = { s with lh := { s.lh with ms := tset s.lh.ms r (tget s.lh.ms r [] ++ [w]) } } ∧
      (ys.map BitVec.toNat).sum / ys.length ≤ w ∧ w ≤ (ys.map BitVec.toNat).sum / ys.length + 1) ∧
    (∀ ms, ms = tget s.lh.ms r [] → (ms.length ≠ 1000 → powerRow r s = { s with lh := { s.lh with ms := tset s.lh.ms r [] } }) ∧
      (ms.length = 1000 → ∃ t, powerRow r s = powerHigh r (wholeUnits ms.sum 1000) t ∧ t.lhFld (F.lhPwr1sAvg r) = wholeUnits ms.sum 1000 % 65536 ∧ t.lhFld (F.lhPwr1sPeak r) = ms.foldl max 0 % 65536 ∧
        tget t.lh.ms r [] = [] ∧ tget t.lh.secs r [] = ((ms.sum, ms.foldl max 0) :: tget s.lh.secs r []).take 60))

/-- R726 to R728, R738 to R740, R745 to R747, R753, R756, R757, R771 to R779, R177: what a bay's signals, presence and timers do; a switch opens and
closes only as R738 and R739 have it; tray power starts the tray with no bay powered. Completes: MODULE_FAULT, MODULE_ALERT, HEARTBEAT_LOST,
HB_RESTART_TIMEOUT, BAY_PRESENCE_CHANGE, BAY_STABLE, THERMTRIP_OPEN, VERIFY_PERIOD, CYCLE_POWER_ON, TRAY_POWER_APPLIED. -/
def Obligations.Bays : Prop :=
  ∀ (bay : Fin 16) (st z : BayStatus) (hs : List BayHash) (s : State), z = s.heardStatus bay st →
    ((s.watched bay = false ∨ (bay.val = s.myBay ∧ s.pins.faultN = false)) → exec (.moduleFault bay st) s = .next s) ∧
    (s.watched bay = true → (bay.val = s.myBay → s.pins.faultN = true) → ∃ u, u = emitBay Ev.lhModuleFault bay z.boot.toNat z.neap.toNat z.fab.toNat
        (noteStatus bay z ((s.setLhBay bay { s.lhBay bay with faulted := true }).setLhBit (F.lhBayStateFault bay) true)) ∧
      exec (.moduleFault bay st) s = .next (if (u.faultSlot bay z).isSome then governed (u.policyByte 0) 3 bay (faultFlash bay) u else u)) ∧
    ((s.watched bay = false ∨ z.alert = 0) → exec (.moduleAlert bay st) s = .next s) ∧
    (s.watched bay = true → z.alert ≠ 0 → exec (.moduleAlert bay st) s =
      .next (emitBay Ev.lhModuleAlert bay z.alert.toNat 0 0 (noteStatus bay z (s.setLhBit (F.lhBayStateAlert bay) true)))) ∧
    ((s.watched bay = false ∨ (s.lhBay bay).hbLost = true ∨ (bay.val = s.myBay ∧ s.pins.ready = false)) → exec (.heartbeatLost bay) s = .next s) ∧
    (s.watched bay = true → (s.lhBay bay).hbLost = false → (bay.val = s.myBay → s.pins.ready = true) → exec (.heartbeatLost bay) s =
      .next (emitBay Ev.lhHeartbeatLost bay 0 0 0 ((s.setLhBay bay { s.lhBay bay with hbLost := true }).setLhBit (F.lhBayStateHbOk bay) false))) ∧
    ((s.watched bay = false ∨ (s.lhBay bay).hbLost = false ∨ s.faultNow bay = true) → exec (.hbRestartTimeout bay) s = .next s) ∧
    (s.watched bay = true → (s.lhBay bay).hbLost = true → s.faultNow bay = false → exec (.hbRestartTimeout bay) s = .next (governed (s.policyByte 1) 2 bay (cycleBay bay 4) s)) ∧
    (∀ k row f, (s.allowed k = true → governed k row bay f s = f (covered bay [row] s)) ∧ (s.allowed k = false → (k ≠ 1 ∨ row ∈ (s.lhBay bay).waiting) → governed k row bay f s = s) ∧
      (s.allowed k = false → k = 1 → row ∉ (s.lhBay bay).waiting → governed k row bay f s =
        emitBay Ev.lhActionPending bay row 0 0 (s.setLhBay bay { s.lhBay bay with waiting := (s.lhBay bay).waiting ++ [row] }))) ∧
    (s.lhBit (F.lhBayStatePresent bay) = false → ∃ t, exec (.bayPresenceChange bay true) s = .next t ∧ t.lhBit (F.lhBayStatePresent bay) = true ∧ (t.lhBay bay).steady = false ∧
      (t.lhBay bay).manual = false ∧ (t.lhBay bay).cycling = none ∧ (t.lhBay bay).fails = 0 ∧ (t.lhBay bay).waiting = []) ∧
    (s.lhBit (F.lhBayStatePresent bay) = true → exec (.bayPresenceChange bay true) s = .next s ∧ ∃ u, exec (.bayPresenceChange bay false) s = .next (cycleOver (openSwitch bay 5 u)) ∧
      u.lhBit (F.lhBayStatePresent bay) = false ∧ u.lhBit (F.lhBayStateSeated bay) = false ∧ (u.lhBay bay).steady = false) ∧
    ((s.lhUp = false ∨ s.lhBit (F.lhBayStatePresent bay) = false ∨ (s.lhBay bay).steady = true) → exec (.bayStable bay) s = .next s) ∧
    (s.lhUp = true → s.lhBit (F.lhBayStatePresent bay) = true → (s.lhBay bay).steady = false → ∃ u, u = (s.setLhBay bay { s.lhBay bay with steady := true }).setLhBit (F.lhBayStateSeated bay) true ∧
      exec (.bayStable bay) s = .next (if s.policyByte 2 = 1 ∧ (s.lhBay bay).manual = false ∧ (s.lhBay bay).cycling = none then closeSwitch bay 1 u else u)) ∧
    (s.lhBit (F.lhBayStatePowered bay) = true → ∃ u, openSwitch bay 4 s = loseJob bay (emitBay Ev.lhBayPower bay 0 4 0 u) ∧ u.lhBit (F.lhBayStatePowered bay) = false ∧
      u.lhBit (F.lhBayStatePresent bay) = s.lhBit (F.lhBayStatePresent bay) ∧ (u.lhBay bay).status = none ∧ (bay.val = s.myBay → u.boot.powered = false)) ∧
    (s.lhBit (F.lhBayStatePowered bay) = false → bay.val ≠ s.myBay → openSwitch bay 4 s = s) ∧
    ((s.lhBit (F.lhBayStatePowered bay) = true ∨ s.mayClose bay = false) → closeSwitch bay 1 s = s) ∧
    (s.lhBit (F.lhBayStatePowered bay) = false → s.mayClose bay = true → ∃ u, closeSwitch bay 1 s = emitBay Ev.lhBayPower bay 1 1 0 u ∧ u.lhBit (F.lhBayStatePowered bay) = true ∧
      (u.lhBay bay).manual = false ∧ u.regs = s.regs) ∧
    ((s.lhBay bay).steady = false ∨ s.bw.tripped = true ∨ (bay.val = s.myBay ∧ s.pins.thermtripN = true) → s.mayClose bay = false) ∧
    (s.lhBit (F.lhBayStatePowered bay) = true → (bay.val = s.myBay → s.pins.thermtripN = true) → ∃ u, exec (.thermtripOpen bay) s = .next ((openSwitch bay 2 u).setLhBit (F.lhBayStateThermtrip bay) true) ∧
      u = emitBay Ev.lhThermtrip bay 0 0 0 (s.setLhBay bay { s.lhBay bay with manual := true })) ∧
    exec (.verifyPeriod hs) s = .next (if s.lhUp = false ∨ s.policyHalf 10 = 0 then s else (List.range 16).foldl (fun s b => hashBay hs b s) s) ∧
    ((s.lhBay bay).cycling = none → exec (.cyclePowerOn bay) s = .next s) ∧
    (∀ k u, (s.lhBay bay).cycling = some k → s.lhUp = true → u = s.setLhBay bay { s.lhBay bay with cycling := none } →
      (u.mayClose bay = true → exec (.cyclePowerOn bay) s = .next (cycleOver (closeSwitch bay k u))) ∧
      (u.mayClose bay = false → exec (.cyclePowerOn bay) s = .next (cycleOver { u with lh := { u.lh with held := u.lh.held.map (fun v => if k = 0 then Nat.lor v (2 ^ bay.val) else v) } }))) ∧
    (∃ t, exec .trayPowerApplied s = .next t ∧ t.lhUp = false ∧ t.lh.time = 0 ∧ t.lh.queue = [] ∧ t.lh.taiSet = false ∧ t.boot.powered = false ∧ t.bw.supply = true ∧
      t.bw.isolated = s.bw.tripped ∧ (∀ b, b < 16 → t.lhBit (F.lhBayStatePowered b) = false) ∧ t.lh.log = s.lh.log)
end

