-- ==== Sys2Proof/Laws/Memory.lean ====
section
/-! SUPPORT. The laws of sparse memory: every write keeps the canonical form, a byte written reads back, and a write leaves
every other byte alone. -/

namespace Sys2Proof.Machine

/-! ## The canonical form -/

theorem keysAbove_mono {m : List Host.Cell} : ∀ {a b : Nat}, a ≤ b → keysAbove b m = true → keysAbove a m = true := by
  induction m with
  | nil => simp [keysAbove]
  | cons c t ih => obtain ⟨k, x⟩ := c; intro a b h1 h2; simp only [keysAbove, Bool.and_eq_true, decide_eq_true_eq] at *; exact ⟨⟨by omega, h2.1.2⟩, h2.2⟩

theorem keysAbove_memSet {m : List Host.Cell} : ∀ {lo a : Nat} {b : Byte}, lo ≤ a → keysAbove lo m = true → keysAbove lo (memSet m a b) = true := by
  induction m with
  | nil => intro lo a b h1 h2; unfold memSet; split <;> simp_all [keysAbove]
  | cons c t ih =>
    obtain ⟨k, x⟩ := c; intro lo a b h1 h2
    simp only [keysAbove, Bool.and_eq_true, decide_eq_true_eq] at h2
    unfold memSet
    split
    · split <;> simp_all [keysAbove] <;> omega
    · split
      · split
        · exact keysAbove_mono (by omega) h2.2
        · simp_all [keysAbove]
      · simp only [keysAbove, Bool.and_eq_true, decide_eq_true_eq]
        exact ⟨h2.1, ih (by omega) h2.2⟩

theorem memSet_wf {m : List Host.Cell} {a b} (h : Memory.wf m = true) : Memory.wf (memSet m a b) = true :=
  keysAbove_memSet (Nat.zero_le _) h

theorem memWrite_wf {bs : List Byte} : ∀ {m : List Host.Cell} {a}, Memory.wf m = true → Memory.wf (memWrite m a bs) = true := by
  induction bs with
  | nil => intro m a h; exact h
  | cons b bs ih => intro m a h; exact ih (memSet_wf h)

theorem keysAbove_filter {m : List Host.Cell} {p} : ∀ {lo : Nat}, keysAbove lo m = true → keysAbove lo (m.filter p) = true := by
  induction m with
  | nil => intro lo h; exact h
  | cons c t ih =>
    obtain ⟨k, x⟩ := c; intro lo h
    simp only [keysAbove, Bool.and_eq_true, decide_eq_true_eq] at h
    simp only [List.filter]
    split
    · simp only [keysAbove, Bool.and_eq_true, decide_eq_true_eq]; exact ⟨h.1, ih h.2⟩
    · exact keysAbove_mono (by omega) (ih h.2)

theorem filter_wf {m : List Host.Cell} {p} (h : Memory.wf m = true) : Memory.wf (m.filter p) = true := keysAbove_filter h
theorem memFold_wf {α : Type} {l : List α} {f : α → Nat} {g : α → Byte} : ∀ {m : List Host.Cell}, Memory.wf m = true →
    Memory.wf (l.foldl (fun m c => memSet m (f c) (g c)) m) = true := by
  induction l with
  | nil => intro m h; exact h
  | cons c t ih => intro m h; exact ih (memSet_wf h)
theorem memZero_wf {m : List Host.Cell} {a n} (h : Memory.wf m = true) : Memory.wf (memZero m a n) = true := filter_wf h

/-! ## Reading and writing -/

@[simp] theorem memGet_below {m : List Host.Cell} {a lo : Nat} (h : keysAbove lo m = true) (ha : a < lo) : memGet m a = 0 := by
  induction m generalizing lo with
  | nil => rfl
  | cons c t ih =>
    obtain ⟨k, b⟩ := c
    simp only [keysAbove, Bool.and_eq_true, decide_eq_true_eq] at h
    have : k ≠ a := by omega
    simp [memGet, this, ih h.2 (by omega)]

theorem memGet_memSet_keys {m : List Host.Cell} {lo a : Nat} {b : Byte} (h : keysAbove lo m = true) : memGet (memSet m a b) a = b := by
  induction m generalizing lo with
  | nil => unfold memSet; split <;> simp_all [memGet]
  | cons c t ih =>
    obtain ⟨k, x⟩ := c
    simp only [keysAbove, Bool.and_eq_true, decide_eq_true_eq] at h
    unfold memSet
    split
    · split
      · rename_i h1 h2
        have : k ≠ a := by omega
        simp [memGet, this, h2, memGet_below h.2 (by omega : a < k + 1)]
      · simp [memGet]
    · split
      · rename_i h1 h2
        subst h2
        split
        · rename_i h3; rw [h3]; exact memGet_below h.2 (by omega)
        · simp [memGet]
      · rename_i h1 h2
        simp [memGet, Ne.symm h2, ih h.2]

/-- A byte written reads back. -/
theorem memGet_memSet {m : List Host.Cell} {a : Nat} {b : Byte} (h : Memory.wf m = true) : memGet (memSet m a b) a = b := memGet_memSet_keys h

/-- A write leaves every other byte alone. -/
theorem memGet_memSet_other {m : List Host.Cell} {a c : Nat} {b : Byte} (h : a ≠ c) : memGet (memSet m a b) c = memGet m c := by
  induction m with
  | nil => unfold memSet; split <;> simp [memGet, h]
  | cons p t ih =>
    obtain ⟨k, x⟩ := p
    unfold memSet
    split
    · split <;> simp [memGet, h]
    · split
      · rename_i h1 h2; subst h2; split <;> simp [memGet, h]
      · by_cases e : k = c <;> simp [memGet, e, ih]

/-- Writing bytes leaves every byte outside them alone. -/
theorem memGet_memWrite_outside {bs : List Byte} : ∀ {m : List Host.Cell} {a c : Nat}, (c < a ∨ a + bs.length ≤ c) → memGet (memWrite m a bs) c = memGet m c := by
  induction bs with
  | nil => intro m a c _; rfl
  | cons b bs ih =>
    intro m a c h
    simp only [List.length_cons] at h
    rw [memWrite, ih (by omega), memGet_memSet_other (by omega)]

/-- Bytes written read back. -/
theorem memRead_memWrite {bs : List Byte} : ∀ {m : List Host.Cell} {a : Nat}, Memory.wf m = true → memRead (memWrite m a bs) a bs.length = bs := by
  induction bs with
  | nil => intro m a _; rfl
  | cons b bs ih =>
    intro m a h
    rw [memWrite, List.length_cons, memRead, ih (memSet_wf h), memGet_memWrite_outside (by omega), memGet_memSet h]

/-- Reading bytes outside those written gives what it gave. -/
theorem memRead_memWrite_apart {bs : List Byte} {m : List Host.Cell} {a : Nat} : ∀ {n c : Nat}, (c + n ≤ a ∨ a + bs.length ≤ c) →
    memRead (memWrite m a bs) c n = memRead m c n := by
  intro n
  induction n with
  | zero => intro c _; rfl
  | succ n ih =>
    intro c h
    rw [memRead, memRead, ih (by omega), memGet_memWrite_outside (by omega)]

/-- Reading bytes has their number. -/
@[simp] theorem memRead_length {m : List Host.Cell} : ∀ {n a : Nat}, (memRead m a n).length = n := by
  intro n
  induction n with
  | zero => intro a; rfl
  | succ n ih => intro a; simp [memRead, ih]

/-- A byte outside a filter's reach is left alone. -/
theorem memGet_filter {m : List Host.Cell} {p : Host.Cell → Bool} {c : Nat} (h : ∀ b, p (c, b) = true) : memGet (m.filter p) c = memGet m c := by
  induction m with
  | nil => rfl
  | cons q t ih =>
    obtain ⟨k, x⟩ := q
    simp only [List.filter]
    by_cases e : k = c
    · subst e; simp [h, memGet]
    · split <;> simp [memGet, e, ih]

/-- A filter that takes an address out makes it read zero. -/
theorem memGet_filter_out {m : List Host.Cell} {p : Host.Cell → Bool} {c : Nat} (h : ∀ b, p (c, b) = false) : memGet (m.filter p) c = 0 := by
  induction m with
  | nil => rfl
  | cons q t ih =>
    obtain ⟨k, x⟩ := q
    simp only [List.filter]
    by_cases e : k = c
    · subst e; simp [h, ih]
    · split <;> simp [memGet, e, ih]

end Sys2Proof.Machine
end

