-- ==== Sys2Proof/Laws/State.lean ====
section
/-! SUPPORT. What each named update of the state leaves alone, one lemma per field, and the algebra of registers and fields. -/

namespace Sys2Proof.Machine

@[simp] theorem State.setReg_lhRegs (s : State) (o : Nat) (w : Word) : (s.setReg o w).lhRegs = s.lhRegs := rfl
@[simp] theorem State.setReg_paths (s : State) (o : Nat) (w : Word) : (s.setReg o w).paths = s.paths := rfl
@[simp] theorem State.setReg_mem (s : State) (o : Nat) (w : Word) : (s.setReg o w).mem = s.mem := rfl
@[simp] theorem State.setReg_time (s : State) (o : Nat) (w : Word) : (s.setReg o w).time = s.time := rfl
@[simp] theorem State.setReg_host (s : State) (o : Nat) (w : Word) : (s.setReg o w).host = s.host := rfl
@[simp] theorem State.setReg_strm (s : State) (o : Nat) (w : Word) : (s.setReg o w).strm = s.strm := rfl
@[simp] theorem State.setReg_disp (s : State) (o : Nat) (w : Word) : (s.setReg o w).disp = s.disp := rfl
@[simp] theorem State.setReg_eng (s : State) (o : Nat) (w : Word) : (s.setReg o w).eng = s.eng := rfl
@[simp] theorem State.setReg_tide (s : State) (o : Nat) (w : Word) : (s.setReg o w).tide = s.tide := rfl
@[simp] theorem State.setReg_ports (s : State) (o : Nat) (w : Word) : (s.setReg o w).ports = s.ports := rfl
@[simp] theorem State.setReg_sec (s : State) (o : Nat) (w : Word) : (s.setReg o w).sec = s.sec := rfl
@[simp] theorem State.setReg_fab (s : State) (o : Nat) (w : Word) : (s.setReg o w).fab = s.fab := rfl
@[simp] theorem State.setReg_timeB (s : State) (o : Nat) (w : Word) : (s.setReg o w).timeB = s.timeB := rfl
@[simp] theorem State.setReg_acs (s : State) (o : Nat) (w : Word) : (s.setReg o w).acs = s.acs := rfl
@[simp] theorem State.setReg_mc (s : State) (o : Nat) (w : Word) : (s.setReg o w).mc = s.mc := rfl
@[simp] theorem State.setReg_dma (s : State) (o : Nat) (w : Word) : (s.setReg o w).dma = s.dma := rfl
@[simp] theorem State.setReg_boot (s : State) (o : Nat) (w : Word) : (s.setReg o w).boot = s.boot := rfl
@[simp] theorem State.setReg_pins (s : State) (o : Nat) (w : Word) : (s.setReg o w).pins = s.pins := rfl
@[simp] theorem State.setReg_lh (s : State) (o : Nat) (w : Word) : (s.setReg o w).lh = s.lh := rfl
@[simp] theorem State.setReg_bw (s : State) (o : Nat) (w : Word) : (s.setReg o w).bw = s.bw := rfl
@[simp] theorem State.setReg_free (s : State) (o : Nat) (w : Word) : (s.setReg o w).free = s.free := rfl
@[simp] theorem State.setReg_pending (s : State) (o : Nat) (w : Word) : (s.setReg o w).pending = s.pending := rfl

@[simp] theorem State.setFld_lhRegs (s : State) (f : Fld) (v : Nat) : (s.setFld f v).lhRegs = s.lhRegs := rfl
@[simp] theorem State.setFld_paths (s : State) (f : Fld) (v : Nat) : (s.setFld f v).paths = s.paths := rfl
@[simp] theorem State.setFld_mem (s : State) (f : Fld) (v : Nat) : (s.setFld f v).mem = s.mem := rfl
@[simp] theorem State.setFld_time (s : State) (f : Fld) (v : Nat) : (s.setFld f v).time = s.time := rfl
@[simp] theorem State.setFld_host (s : State) (f : Fld) (v : Nat) : (s.setFld f v).host = s.host := rfl
@[simp] theorem State.setFld_strm (s : State) (f : Fld) (v : Nat) : (s.setFld f v).strm = s.strm := rfl
@[simp] theorem State.setFld_disp (s : State) (f : Fld) (v : Nat) : (s.setFld f v).disp = s.disp := rfl
@[simp] theorem State.setFld_eng (s : State) (f : Fld) (v : Nat) : (s.setFld f v).eng = s.eng := rfl
@[simp] theorem State.setFld_tide (s : State) (f : Fld) (v : Nat) : (s.setFld f v).tide = s.tide := rfl
@[simp] theorem State.setFld_ports (s : State) (f : Fld) (v : Nat) : (s.setFld f v).ports = s.ports := rfl
@[simp] theorem State.setFld_sec (s : State) (f : Fld) (v : Nat) : (s.setFld f v).sec = s.sec := rfl
@[simp] theorem State.setFld_fab (s : State) (f : Fld) (v : Nat) : (s.setFld f v).fab = s.fab := rfl
@[simp] theorem State.setFld_timeB (s : State) (f : Fld) (v : Nat) : (s.setFld f v).timeB = s.timeB := rfl
@[simp] theorem State.setFld_acs (s : State) (f : Fld) (v : Nat) : (s.setFld f v).acs = s.acs := rfl
@[simp] theorem State.setFld_mc (s : State) (f : Fld) (v : Nat) : (s.setFld f v).mc = s.mc := rfl
@[simp] theorem State.setFld_dma (s : State) (f : Fld) (v : Nat) : (s.setFld f v).dma = s.dma := rfl
@[simp] theorem State.setFld_boot (s : State) (f : Fld) (v : Nat) : (s.setFld f v).boot = s.boot := rfl
@[simp] theorem State.setFld_pins (s : State) (f : Fld) (v : Nat) : (s.setFld f v).pins = s.pins := rfl
@[simp] theorem State.setFld_lh (s : State) (f : Fld) (v : Nat) : (s.setFld f v).lh = s.lh := rfl
@[simp] theorem State.setFld_bw (s : State) (f : Fld) (v : Nat) : (s.setFld f v).bw = s.bw := rfl
@[simp] theorem State.setFld_free (s : State) (f : Fld) (v : Nat) : (s.setFld f v).free = s.free := rfl
@[simp] theorem State.setFld_pending (s : State) (f : Fld) (v : Nat) : (s.setFld f v).pending = s.pending := rfl

@[simp] theorem State.setBit_lhRegs (s : State) (f : Fld) (b : Bool) : (s.setBit f b).lhRegs = s.lhRegs := rfl
@[simp] theorem State.setBit_paths (s : State) (f : Fld) (b : Bool) : (s.setBit f b).paths = s.paths := rfl
@[simp] theorem State.setBit_mem (s : State) (f : Fld) (b : Bool) : (s.setBit f b).mem = s.mem := rfl
@[simp] theorem State.setBit_time (s : State) (f : Fld) (b : Bool) : (s.setBit f b).time = s.time := rfl
@[simp] theorem State.setBit_host (s : State) (f : Fld) (b : Bool) : (s.setBit f b).host = s.host := rfl
@[simp] theorem State.setBit_strm (s : State) (f : Fld) (b : Bool) : (s.setBit f b).strm = s.strm := rfl
@[simp] theorem State.setBit_disp (s : State) (f : Fld) (b : Bool) : (s.setBit f b).disp = s.disp := rfl
@[simp] theorem State.setBit_eng (s : State) (f : Fld) (b : Bool) : (s.setBit f b).eng = s.eng := rfl
@[simp] theorem State.setBit_tide (s : State) (f : Fld) (b : Bool) : (s.setBit f b).tide = s.tide := rfl
@[simp] theorem State.setBit_ports (s : State) (f : Fld) (b : Bool) : (s.setBit f b).ports = s.ports := rfl
@[simp] theorem State.setBit_sec (s : State) (f : Fld) (b : Bool) : (s.setBit f b).sec = s.sec := rfl
@[simp] theorem State.setBit_fab (s : State) (f : Fld) (b : Bool) : (s.setBit f b).fab = s.fab := rfl
@[simp] theorem State.setBit_timeB (s : State) (f : Fld) (b : Bool) : (s.setBit f b).timeB = s.timeB := rfl
@[simp] theorem State.setBit_acs (s : State) (f : Fld) (b : Bool) : (s.setBit f b).acs = s.acs := rfl
@[simp] theorem State.setBit_mc (s : State) (f : Fld) (b : Bool) : (s.setBit f b).mc = s.mc := rfl
@[simp] theorem State.setBit_dma (s : State) (f : Fld) (b : Bool) : (s.setBit f b).dma = s.dma := rfl
@[simp] theorem State.setBit_boot (s : State) (f : Fld) (b : Bool) : (s.setBit f b).boot = s.boot := rfl
@[simp] theorem State.setBit_pins (s : State) (f : Fld) (b : Bool) : (s.setBit f b).pins = s.pins := rfl
@[simp] theorem State.setBit_lh (s : State) (f : Fld) (b : Bool) : (s.setBit f b).lh = s.lh := rfl
@[simp] theorem State.setBit_bw (s : State) (f : Fld) (b : Bool) : (s.setBit f b).bw = s.bw := rfl
@[simp] theorem State.setBit_free (s : State) (f : Fld) (b : Bool) : (s.setBit f b).free = s.free := rfl
@[simp] theorem State.setBit_pending (s : State) (f : Fld) (b : Bool) : (s.setBit f b).pending = s.pending := rfl

@[simp] theorem State.setPair_lhRegs (s : State) (o v : Nat) : (s.setPair o v).lhRegs = s.lhRegs := rfl
@[simp] theorem State.setPair_paths (s : State) (o v : Nat) : (s.setPair o v).paths = s.paths := rfl
@[simp] theorem State.setPair_mem (s : State) (o v : Nat) : (s.setPair o v).mem = s.mem := rfl
@[simp] theorem State.setPair_time (s : State) (o v : Nat) : (s.setPair o v).time = s.time := rfl
@[simp] theorem State.setPair_host (s : State) (o v : Nat) : (s.setPair o v).host = s.host := rfl
@[simp] theorem State.setPair_strm (s : State) (o v : Nat) : (s.setPair o v).strm = s.strm := rfl
@[simp] theorem State.setPair_disp (s : State) (o v : Nat) : (s.setPair o v).disp = s.disp := rfl
@[simp] theorem State.setPair_eng (s : State) (o v : Nat) : (s.setPair o v).eng = s.eng := rfl
@[simp] theorem State.setPair_tide (s : State) (o v : Nat) : (s.setPair o v).tide = s.tide := rfl
@[simp] theorem State.setPair_ports (s : State) (o v : Nat) : (s.setPair o v).ports = s.ports := rfl
@[simp] theorem State.setPair_sec (s : State) (o v : Nat) : (s.setPair o v).sec = s.sec := rfl
@[simp] theorem State.setPair_fab (s : State) (o v : Nat) : (s.setPair o v).fab = s.fab := rfl
@[simp] theorem State.setPair_timeB (s : State) (o v : Nat) : (s.setPair o v).timeB = s.timeB := rfl
@[simp] theorem State.setPair_acs (s : State) (o v : Nat) : (s.setPair o v).acs = s.acs := rfl
@[simp] theorem State.setPair_mc (s : State) (o v : Nat) : (s.setPair o v).mc = s.mc := rfl
@[simp] theorem State.setPair_dma (s : State) (o v : Nat) : (s.setPair o v).dma = s.dma := rfl
@[simp] theorem State.setPair_boot (s : State) (o v : Nat) : (s.setPair o v).boot = s.boot := rfl
@[simp] theorem State.setPair_pins (s : State) (o v : Nat) : (s.setPair o v).pins = s.pins := rfl
@[simp] theorem State.setPair_lh (s : State) (o v : Nat) : (s.setPair o v).lh = s.lh := rfl
@[simp] theorem State.setPair_bw (s : State) (o v : Nat) : (s.setPair o v).bw = s.bw := rfl
@[simp] theorem State.setPair_free (s : State) (o v : Nat) : (s.setPair o v).free = s.free := rfl
@[simp] theorem State.setPair_pending (s : State) (o v : Nat) : (s.setPair o v).pending = s.pending := rfl

@[simp] theorem State.count_lhRegs (s : State) (f : Fld) (n : Nat) : (s.count f n).lhRegs = s.lhRegs := rfl
@[simp] theorem State.count_paths (s : State) (f : Fld) (n : Nat) : (s.count f n).paths = s.paths := rfl
@[simp] theorem State.count_mem (s : State) (f : Fld) (n : Nat) : (s.count f n).mem = s.mem := rfl
@[simp] theorem State.count_time (s : State) (f : Fld) (n : Nat) : (s.count f n).time = s.time := rfl
@[simp] theorem State.count_host (s : State) (f : Fld) (n : Nat) : (s.count f n).host = s.host := rfl
@[simp] theorem State.count_strm (s : State) (f : Fld) (n : Nat) : (s.count f n).strm = s.strm := rfl
@[simp] theorem State.count_disp (s : State) (f : Fld) (n : Nat) : (s.count f n).disp = s.disp := rfl
@[simp] theorem State.count_eng (s : State) (f : Fld) (n : Nat) : (s.count f n).eng = s.eng := rfl
@[simp] theorem State.count_tide (s : State) (f : Fld) (n : Nat) : (s.count f n).tide = s.tide := rfl
@[simp] theorem State.count_ports (s : State) (f : Fld) (n : Nat) : (s.count f n).ports = s.ports := rfl
@[simp] theorem State.count_sec (s : State) (f : Fld) (n : Nat) : (s.count f n).sec = s.sec := rfl
@[simp] theorem State.count_fab (s : State) (f : Fld) (n : Nat) : (s.count f n).fab = s.fab := rfl
@[simp] theorem State.count_timeB (s : State) (f : Fld) (n : Nat) : (s.count f n).timeB = s.timeB := rfl
@[simp] theorem State.count_acs (s : State) (f : Fld) (n : Nat) : (s.count f n).acs = s.acs := rfl
@[simp] theorem State.count_mc (s : State) (f : Fld) (n : Nat) : (s.count f n).mc = s.mc := rfl
@[simp] theorem State.count_dma (s : State) (f : Fld) (n : Nat) : (s.count f n).dma = s.dma := rfl
@[simp] theorem State.count_boot (s : State) (f : Fld) (n : Nat) : (s.count f n).boot = s.boot := rfl
@[simp] theorem State.count_pins (s : State) (f : Fld) (n : Nat) : (s.count f n).pins = s.pins := rfl
@[simp] theorem State.count_lh (s : State) (f : Fld) (n : Nat) : (s.count f n).lh = s.lh := rfl
@[simp] theorem State.count_bw (s : State) (f : Fld) (n : Nat) : (s.count f n).bw = s.bw := rfl
@[simp] theorem State.count_free (s : State) (f : Fld) (n : Nat) : (s.count f n).free = s.free := rfl
@[simp] theorem State.count_pending (s : State) (f : Fld) (n : Nat) : (s.count f n).pending = s.pending := rfl

@[simp] theorem State.addPair_lhRegs (s : State) (o n : Nat) : (s.addPair o n).lhRegs = s.lhRegs := rfl
@[simp] theorem State.addPair_paths (s : State) (o n : Nat) : (s.addPair o n).paths = s.paths := rfl
@[simp] theorem State.addPair_mem (s : State) (o n : Nat) : (s.addPair o n).mem = s.mem := rfl
@[simp] theorem State.addPair_time (s : State) (o n : Nat) : (s.addPair o n).time = s.time := rfl
@[simp] theorem State.addPair_host (s : State) (o n : Nat) : (s.addPair o n).host = s.host := rfl
@[simp] theorem State.addPair_strm (s : State) (o n : Nat) : (s.addPair o n).strm = s.strm := rfl
@[simp] theorem State.addPair_disp (s : State) (o n : Nat) : (s.addPair o n).disp = s.disp := rfl
@[simp] theorem State.addPair_eng (s : State) (o n : Nat) : (s.addPair o n).eng = s.eng := rfl
@[simp] theorem State.addPair_tide (s : State) (o n : Nat) : (s.addPair o n).tide = s.tide := rfl
@[simp] theorem State.addPair_ports (s : State) (o n : Nat) : (s.addPair o n).ports = s.ports := rfl
@[simp] theorem State.addPair_sec (s : State) (o n : Nat) : (s.addPair o n).sec = s.sec := rfl
@[simp] theorem State.addPair_fab (s : State) (o n : Nat) : (s.addPair o n).fab = s.fab := rfl
@[simp] theorem State.addPair_timeB (s : State) (o n : Nat) : (s.addPair o n).timeB = s.timeB := rfl
@[simp] theorem State.addPair_acs (s : State) (o n : Nat) : (s.addPair o n).acs = s.acs := rfl
@[simp] theorem State.addPair_mc (s : State) (o n : Nat) : (s.addPair o n).mc = s.mc := rfl
@[simp] theorem State.addPair_dma (s : State) (o n : Nat) : (s.addPair o n).dma = s.dma := rfl
@[simp] theorem State.addPair_boot (s : State) (o n : Nat) : (s.addPair o n).boot = s.boot := rfl
@[simp] theorem State.addPair_pins (s : State) (o n : Nat) : (s.addPair o n).pins = s.pins := rfl
@[simp] theorem State.addPair_lh (s : State) (o n : Nat) : (s.addPair o n).lh = s.lh := rfl
@[simp] theorem State.addPair_bw (s : State) (o n : Nat) : (s.addPair o n).bw = s.bw := rfl
@[simp] theorem State.addPair_free (s : State) (o n : Nat) : (s.addPair o n).free = s.free := rfl
@[simp] theorem State.addPair_pending (s : State) (o n : Nat) : (s.addPair o n).pending = s.pending := rfl

@[simp] theorem State.setLhReg_regs (s : State) (o : Nat) (w : Word) : (s.setLhReg o w).regs = s.regs := rfl
@[simp] theorem State.setLhReg_paths (s : State) (o : Nat) (w : Word) : (s.setLhReg o w).paths = s.paths := rfl
@[simp] theorem State.setLhReg_mem (s : State) (o : Nat) (w : Word) : (s.setLhReg o w).mem = s.mem := rfl
@[simp] theorem State.setLhReg_time (s : State) (o : Nat) (w : Word) : (s.setLhReg o w).time = s.time := rfl
@[simp] theorem State.setLhReg_host (s : State) (o : Nat) (w : Word) : (s.setLhReg o w).host = s.host := rfl
@[simp] theorem State.setLhReg_strm (s : State) (o : Nat) (w : Word) : (s.setLhReg o w).strm = s.strm := rfl
@[simp] theorem State.setLhReg_disp (s : State) (o : Nat) (w : Word) : (s.setLhReg o w).disp = s.disp := rfl
@[simp] theorem State.setLhReg_eng (s : State) (o : Nat) (w : Word) : (s.setLhReg o w).eng = s.eng := rfl
@[simp] theorem State.setLhReg_tide (s : State) (o : Nat) (w : Word) : (s.setLhReg o w).tide = s.tide := rfl
@[simp] theorem State.setLhReg_ports (s : State) (o : Nat) (w : Word) : (s.setLhReg o w).ports = s.ports := rfl
@[simp] theorem State.setLhReg_sec (s : State) (o : Nat) (w : Word) : (s.setLhReg o w).sec = s.sec := rfl
@[simp] theorem State.setLhReg_fab (s : State) (o : Nat) (w : Word) : (s.setLhReg o w).fab = s.fab := rfl
@[simp] theorem State.setLhReg_timeB (s : State) (o : Nat) (w : Word) : (s.setLhReg o w).timeB = s.timeB := rfl
@[simp] theorem State.setLhReg_acs (s : State) (o : Nat) (w : Word) : (s.setLhReg o w).acs = s.acs := rfl
@[simp] theorem State.setLhReg_mc (s : State) (o : Nat) (w : Word) : (s.setLhReg o w).mc = s.mc := rfl
@[simp] theorem State.setLhReg_dma (s : State) (o : Nat) (w : Word) : (s.setLhReg o w).dma = s.dma := rfl
@[simp] theorem State.setLhReg_boot (s : State) (o : Nat) (w : Word) : (s.setLhReg o w).boot = s.boot := rfl
@[simp] theorem State.setLhReg_pins (s : State) (o : Nat) (w : Word) : (s.setLhReg o w).pins = s.pins := rfl
@[simp] theorem State.setLhReg_lh (s : State) (o : Nat) (w : Word) : (s.setLhReg o w).lh = s.lh := rfl
@[simp] theorem State.setLhReg_bw (s : State) (o : Nat) (w : Word) : (s.setLhReg o w).bw = s.bw := rfl
@[simp] theorem State.setLhReg_free (s : State) (o : Nat) (w : Word) : (s.setLhReg o w).free = s.free := rfl
@[simp] theorem State.setLhReg_pending (s : State) (o : Nat) (w : Word) : (s.setLhReg o w).pending = s.pending := rfl

@[simp] theorem State.setLhFld_regs (s : State) (f : Fld) (v : Nat) : (s.setLhFld f v).regs = s.regs := rfl
@[simp] theorem State.setLhFld_paths (s : State) (f : Fld) (v : Nat) : (s.setLhFld f v).paths = s.paths := rfl
@[simp] theorem State.setLhFld_mem (s : State) (f : Fld) (v : Nat) : (s.setLhFld f v).mem = s.mem := rfl
@[simp] theorem State.setLhFld_time (s : State) (f : Fld) (v : Nat) : (s.setLhFld f v).time = s.time := rfl
@[simp] theorem State.setLhFld_host (s : State) (f : Fld) (v : Nat) : (s.setLhFld f v).host = s.host := rfl
@[simp] theorem State.setLhFld_strm (s : State) (f : Fld) (v : Nat) : (s.setLhFld f v).strm = s.strm := rfl
@[simp] theorem State.setLhFld_disp (s : State) (f : Fld) (v : Nat) : (s.setLhFld f v).disp = s.disp := rfl
@[simp] theorem State.setLhFld_eng (s : State) (f : Fld) (v : Nat) : (s.setLhFld f v).eng = s.eng := rfl
@[simp] theorem State.setLhFld_tide (s : State) (f : Fld) (v : Nat) : (s.setLhFld f v).tide = s.tide := rfl
@[simp] theorem State.setLhFld_ports (s : State) (f : Fld) (v : Nat) : (s.setLhFld f v).ports = s.ports := rfl
@[simp] theorem State.setLhFld_sec (s : State) (f : Fld) (v : Nat) : (s.setLhFld f v).sec = s.sec := rfl
@[simp] theorem State.setLhFld_fab (s : State) (f : Fld) (v : Nat) : (s.setLhFld f v).fab = s.fab := rfl
@[simp] theorem State.setLhFld_timeB (s : State) (f : Fld) (v : Nat) : (s.setLhFld f v).timeB = s.timeB := rfl
@[simp] theorem State.setLhFld_acs (s : State) (f : Fld) (v : Nat) : (s.setLhFld f v).acs = s.acs := rfl
@[simp] theorem State.setLhFld_mc (s : State) (f : Fld) (v : Nat) : (s.setLhFld f v).mc = s.mc := rfl
@[simp] theorem State.setLhFld_dma (s : State) (f : Fld) (v : Nat) : (s.setLhFld f v).dma = s.dma := rfl
@[simp] theorem State.setLhFld_boot (s : State) (f : Fld) (v : Nat) : (s.setLhFld f v).boot = s.boot := rfl
@[simp] theorem State.setLhFld_pins (s : State) (f : Fld) (v : Nat) : (s.setLhFld f v).pins = s.pins := rfl
@[simp] theorem State.setLhFld_lh (s : State) (f : Fld) (v : Nat) : (s.setLhFld f v).lh = s.lh := rfl
@[simp] theorem State.setLhFld_bw (s : State) (f : Fld) (v : Nat) : (s.setLhFld f v).bw = s.bw := rfl
@[simp] theorem State.setLhFld_free (s : State) (f : Fld) (v : Nat) : (s.setLhFld f v).free = s.free := rfl
@[simp] theorem State.setLhFld_pending (s : State) (f : Fld) (v : Nat) : (s.setLhFld f v).pending = s.pending := rfl

@[simp] theorem State.setLhBit_regs (s : State) (f : Fld) (b : Bool) : (s.setLhBit f b).regs = s.regs := rfl
@[simp] theorem State.setLhBit_paths (s : State) (f : Fld) (b : Bool) : (s.setLhBit f b).paths = s.paths := rfl
@[simp] theorem State.setLhBit_mem (s : State) (f : Fld) (b : Bool) : (s.setLhBit f b).mem = s.mem := rfl
@[simp] theorem State.setLhBit_time (s : State) (f : Fld) (b : Bool) : (s.setLhBit f b).time = s.time := rfl
@[simp] theorem State.setLhBit_host (s : State) (f : Fld) (b : Bool) : (s.setLhBit f b).host = s.host := rfl
@[simp] theorem State.setLhBit_strm (s : State) (f : Fld) (b : Bool) : (s.setLhBit f b).strm = s.strm := rfl
@[simp] theorem State.setLhBit_disp (s : State) (f : Fld) (b : Bool) : (s.setLhBit f b).disp = s.disp := rfl
@[simp] theorem State.setLhBit_eng (s : State) (f : Fld) (b : Bool) : (s.setLhBit f b).eng = s.eng := rfl
@[simp] theorem State.setLhBit_tide (s : State) (f : Fld) (b : Bool) : (s.setLhBit f b).tide = s.tide := rfl
@[simp] theorem State.setLhBit_ports (s : State) (f : Fld) (b : Bool) : (s.setLhBit f b).ports = s.ports := rfl
@[simp] theorem State.setLhBit_sec (s : State) (f : Fld) (b : Bool) : (s.setLhBit f b).sec = s.sec := rfl
@[simp] theorem State.setLhBit_fab (s : State) (f : Fld) (b : Bool) : (s.setLhBit f b).fab = s.fab := rfl
@[simp] theorem State.setLhBit_timeB (s : State) (f : Fld) (b : Bool) : (s.setLhBit f b).timeB = s.timeB := rfl
@[simp] theorem State.setLhBit_acs (s : State) (f : Fld) (b : Bool) : (s.setLhBit f b).acs = s.acs := rfl
@[simp] theorem State.setLhBit_mc (s : State) (f : Fld) (b : Bool) : (s.setLhBit f b).mc = s.mc := rfl
@[simp] theorem State.setLhBit_dma (s : State) (f : Fld) (b : Bool) : (s.setLhBit f b).dma = s.dma := rfl
@[simp] theorem State.setLhBit_boot (s : State) (f : Fld) (b : Bool) : (s.setLhBit f b).boot = s.boot := rfl
@[simp] theorem State.setLhBit_pins (s : State) (f : Fld) (b : Bool) : (s.setLhBit f b).pins = s.pins := rfl
@[simp] theorem State.setLhBit_lh (s : State) (f : Fld) (b : Bool) : (s.setLhBit f b).lh = s.lh := rfl
@[simp] theorem State.setLhBit_bw (s : State) (f : Fld) (b : Bool) : (s.setLhBit f b).bw = s.bw := rfl
@[simp] theorem State.setLhBit_free (s : State) (f : Fld) (b : Bool) : (s.setLhBit f b).free = s.free := rfl
@[simp] theorem State.setLhBit_pending (s : State) (f : Fld) (b : Bool) : (s.setLhBit f b).pending = s.pending := rfl

@[simp] theorem State.lhCount_regs (s : State) (f : Fld) (n : Nat) : (s.lhCount f n).regs = s.regs := rfl
@[simp] theorem State.lhCount_paths (s : State) (f : Fld) (n : Nat) : (s.lhCount f n).paths = s.paths := rfl
@[simp] theorem State.lhCount_mem (s : State) (f : Fld) (n : Nat) : (s.lhCount f n).mem = s.mem := rfl
@[simp] theorem State.lhCount_time (s : State) (f : Fld) (n : Nat) : (s.lhCount f n).time = s.time := rfl
@[simp] theorem State.lhCount_host (s : State) (f : Fld) (n : Nat) : (s.lhCount f n).host = s.host := rfl
@[simp] theorem State.lhCount_strm (s : State) (f : Fld) (n : Nat) : (s.lhCount f n).strm = s.strm := rfl
@[simp] theorem State.lhCount_disp (s : State) (f : Fld) (n : Nat) : (s.lhCount f n).disp = s.disp := rfl
@[simp] theorem State.lhCount_eng (s : State) (f : Fld) (n : Nat) : (s.lhCount f n).eng = s.eng := rfl
@[simp] theorem State.lhCount_tide (s : State) (f : Fld) (n : Nat) : (s.lhCount f n).tide = s.tide := rfl
@[simp] theorem State.lhCount_ports (s : State) (f : Fld) (n : Nat) : (s.lhCount f n).ports = s.ports := rfl
@[simp] theorem State.lhCount_sec (s : State) (f : Fld) (n : Nat) : (s.lhCount f n).sec = s.sec := rfl
@[simp] theorem State.lhCount_fab (s : State) (f : Fld) (n : Nat) : (s.lhCount f n).fab = s.fab := rfl
@[simp] theorem State.lhCount_timeB (s : State) (f : Fld) (n : Nat) : (s.lhCount f n).timeB = s.timeB := rfl
@[simp] theorem State.lhCount_acs (s : State) (f : Fld) (n : Nat) : (s.lhCount f n).acs = s.acs := rfl
@[simp] theorem State.lhCount_mc (s : State) (f : Fld) (n : Nat) : (s.lhCount f n).mc = s.mc := rfl
@[simp] theorem State.lhCount_dma (s : State) (f : Fld) (n : Nat) : (s.lhCount f n).dma = s.dma := rfl
@[simp] theorem State.lhCount_boot (s : State) (f : Fld) (n : Nat) : (s.lhCount f n).boot = s.boot := rfl
@[simp] theorem State.lhCount_pins (s : State) (f : Fld) (n : Nat) : (s.lhCount f n).pins = s.pins := rfl
@[simp] theorem State.lhCount_lh (s : State) (f : Fld) (n : Nat) : (s.lhCount f n).lh = s.lh := rfl
@[simp] theorem State.lhCount_bw (s : State) (f : Fld) (n : Nat) : (s.lhCount f n).bw = s.bw := rfl
@[simp] theorem State.lhCount_free (s : State) (f : Fld) (n : Nat) : (s.lhCount f n).free = s.free := rfl
@[simp] theorem State.lhCount_pending (s : State) (f : Fld) (n : Nat) : (s.lhCount f n).pending = s.pending := rfl

@[simp] theorem State.setLhPair_regs (s : State) (o v : Nat) : (s.setLhPair o v).regs = s.regs := rfl
@[simp] theorem State.setLhPair_paths (s : State) (o v : Nat) : (s.setLhPair o v).paths = s.paths := rfl
@[simp] theorem State.setLhPair_mem (s : State) (o v : Nat) : (s.setLhPair o v).mem = s.mem := rfl
@[simp] theorem State.setLhPair_time (s : State) (o v : Nat) : (s.setLhPair o v).time = s.time := rfl
@[simp] theorem State.setLhPair_host (s : State) (o v : Nat) : (s.setLhPair o v).host = s.host := rfl
@[simp] theorem State.setLhPair_strm (s : State) (o v : Nat) : (s.setLhPair o v).strm = s.strm := rfl
@[simp] theorem State.setLhPair_disp (s : State) (o v : Nat) : (s.setLhPair o v).disp = s.disp := rfl
@[simp] theorem State.setLhPair_eng (s : State) (o v : Nat) : (s.setLhPair o v).eng = s.eng := rfl
@[simp] theorem State.setLhPair_tide (s : State) (o v : Nat) : (s.setLhPair o v).tide = s.tide := rfl
@[simp] theorem State.setLhPair_ports (s : State) (o v : Nat) : (s.setLhPair o v).ports = s.ports := rfl
@[simp] theorem State.setLhPair_sec (s : State) (o v : Nat) : (s.setLhPair o v).sec = s.sec := rfl
@[simp] theorem State.setLhPair_fab (s : State) (o v : Nat) : (s.setLhPair o v).fab = s.fab := rfl
@[simp] theorem State.setLhPair_timeB (s : State) (o v : Nat) : (s.setLhPair o v).timeB = s.timeB := rfl
@[simp] theorem State.setLhPair_acs (s : State) (o v : Nat) : (s.setLhPair o v).acs = s.acs := rfl
@[simp] theorem State.setLhPair_mc (s : State) (o v : Nat) : (s.setLhPair o v).mc = s.mc := rfl
@[simp] theorem State.setLhPair_dma (s : State) (o v : Nat) : (s.setLhPair o v).dma = s.dma := rfl
@[simp] theorem State.setLhPair_boot (s : State) (o v : Nat) : (s.setLhPair o v).boot = s.boot := rfl
@[simp] theorem State.setLhPair_pins (s : State) (o v : Nat) : (s.setLhPair o v).pins = s.pins := rfl
@[simp] theorem State.setLhPair_lh (s : State) (o v : Nat) : (s.setLhPair o v).lh = s.lh := rfl
@[simp] theorem State.setLhPair_bw (s : State) (o v : Nat) : (s.setLhPair o v).bw = s.bw := rfl
@[simp] theorem State.setLhPair_free (s : State) (o v : Nat) : (s.setLhPair o v).free = s.free := rfl
@[simp] theorem State.setLhPair_pending (s : State) (o v : Nat) : (s.setLhPair o v).pending = s.pending := rfl

@[simp] theorem State.poke_regs (s : State) (a : Nat) (bs : List Byte) : (s.poke a bs).regs = s.regs := rfl
@[simp] theorem State.poke_lhRegs (s : State) (a : Nat) (bs : List Byte) : (s.poke a bs).lhRegs = s.lhRegs := rfl
@[simp] theorem State.poke_paths (s : State) (a : Nat) (bs : List Byte) : (s.poke a bs).paths = s.paths := rfl
@[simp] theorem State.poke_time (s : State) (a : Nat) (bs : List Byte) : (s.poke a bs).time = s.time := rfl
@[simp] theorem State.poke_host (s : State) (a : Nat) (bs : List Byte) : (s.poke a bs).host = s.host := rfl
@[simp] theorem State.poke_strm (s : State) (a : Nat) (bs : List Byte) : (s.poke a bs).strm = s.strm := rfl
@[simp] theorem State.poke_disp (s : State) (a : Nat) (bs : List Byte) : (s.poke a bs).disp = s.disp := rfl
@[simp] theorem State.poke_eng (s : State) (a : Nat) (bs : List Byte) : (s.poke a bs).eng = s.eng := rfl
@[simp] theorem State.poke_tide (s : State) (a : Nat) (bs : List Byte) : (s.poke a bs).tide = s.tide := rfl
@[simp] theorem State.poke_ports (s : State) (a : Nat) (bs : List Byte) : (s.poke a bs).ports = s.ports := rfl
@[simp] theorem State.poke_sec (s : State) (a : Nat) (bs : List Byte) : (s.poke a bs).sec = s.sec := rfl
@[simp] theorem State.poke_fab (s : State) (a : Nat) (bs : List Byte) : (s.poke a bs).fab = s.fab := rfl
@[simp] theorem State.poke_timeB (s : State) (a : Nat) (bs : List Byte) : (s.poke a bs).timeB = s.timeB := rfl
@[simp] theorem State.poke_acs (s : State) (a : Nat) (bs : List Byte) : (s.poke a bs).acs = s.acs := rfl
@[simp] theorem State.poke_mc (s : State) (a : Nat) (bs : List Byte) : (s.poke a bs).mc = s.mc := rfl
@[simp] theorem State.poke_dma (s : State) (a : Nat) (bs : List Byte) : (s.poke a bs).dma = s.dma := rfl
@[simp] theorem State.poke_boot (s : State) (a : Nat) (bs : List Byte) : (s.poke a bs).boot = s.boot := rfl
@[simp] theorem State.poke_pins (s : State) (a : Nat) (bs : List Byte) : (s.poke a bs).pins = s.pins := rfl
@[simp] theorem State.poke_lh (s : State) (a : Nat) (bs : List Byte) : (s.poke a bs).lh = s.lh := rfl
@[simp] theorem State.poke_bw (s : State) (a : Nat) (bs : List Byte) : (s.poke a bs).bw = s.bw := rfl
@[simp] theorem State.poke_free (s : State) (a : Nat) (bs : List Byte) : (s.poke a bs).free = s.free := rfl
@[simp] theorem State.poke_pending (s : State) (a : Nat) (bs : List Byte) : (s.poke a bs).pending = s.pending := rfl

@[simp] theorem State.zeroMem_regs (s : State) (a n : Nat) : (s.zeroMem a n).regs = s.regs := rfl
@[simp] theorem State.zeroMem_lhRegs (s : State) (a n : Nat) : (s.zeroMem a n).lhRegs = s.lhRegs := rfl
@[simp] theorem State.zeroMem_paths (s : State) (a n : Nat) : (s.zeroMem a n).paths = s.paths := rfl
@[simp] theorem State.zeroMem_time (s : State) (a n : Nat) : (s.zeroMem a n).time = s.time := rfl
@[simp] theorem State.zeroMem_host (s : State) (a n : Nat) : (s.zeroMem a n).host = s.host := rfl
@[simp] theorem State.zeroMem_strm (s : State) (a n : Nat) : (s.zeroMem a n).strm = s.strm := rfl
@[simp] theorem State.zeroMem_disp (s : State) (a n : Nat) : (s.zeroMem a n).disp = s.disp := rfl
@[simp] theorem State.zeroMem_eng (s : State) (a n : Nat) : (s.zeroMem a n).eng = s.eng := rfl
@[simp] theorem State.zeroMem_tide (s : State) (a n : Nat) : (s.zeroMem a n).tide = s.tide := rfl
@[simp] theorem State.zeroMem_ports (s : State) (a n : Nat) : (s.zeroMem a n).ports = s.ports := rfl
@[simp] theorem State.zeroMem_sec (s : State) (a n : Nat) : (s.zeroMem a n).sec = s.sec := rfl
@[simp] theorem State.zeroMem_fab (s : State) (a n : Nat) : (s.zeroMem a n).fab = s.fab := rfl
@[simp] theorem State.zeroMem_timeB (s : State) (a n : Nat) : (s.zeroMem a n).timeB = s.timeB := rfl
@[simp] theorem State.zeroMem_acs (s : State) (a n : Nat) : (s.zeroMem a n).acs = s.acs := rfl
@[simp] theorem State.zeroMem_mc (s : State) (a n : Nat) : (s.zeroMem a n).mc = s.mc := rfl
@[simp] theorem State.zeroMem_dma (s : State) (a n : Nat) : (s.zeroMem a n).dma = s.dma := rfl
@[simp] theorem State.zeroMem_boot (s : State) (a n : Nat) : (s.zeroMem a n).boot = s.boot := rfl
@[simp] theorem State.zeroMem_pins (s : State) (a n : Nat) : (s.zeroMem a n).pins = s.pins := rfl
@[simp] theorem State.zeroMem_lh (s : State) (a n : Nat) : (s.zeroMem a n).lh = s.lh := rfl
@[simp] theorem State.zeroMem_bw (s : State) (a n : Nat) : (s.zeroMem a n).bw = s.bw := rfl
@[simp] theorem State.zeroMem_free (s : State) (a n : Nat) : (s.zeroMem a n).free = s.free := rfl
@[simp] theorem State.zeroMem_pending (s : State) (a n : Nat) : (s.zeroMem a n).pending = s.pending := rfl

@[simp] theorem State.freeNext_regs (s : State)  : (s.freeNext).regs = s.regs := rfl
@[simp] theorem State.freeNext_lhRegs (s : State)  : (s.freeNext).lhRegs = s.lhRegs := rfl
@[simp] theorem State.freeNext_paths (s : State)  : (s.freeNext).paths = s.paths := rfl
@[simp] theorem State.freeNext_mem (s : State)  : (s.freeNext).mem = s.mem := rfl
@[simp] theorem State.freeNext_time (s : State)  : (s.freeNext).time = s.time := rfl
@[simp] theorem State.freeNext_host (s : State)  : (s.freeNext).host = s.host := rfl
@[simp] theorem State.freeNext_strm (s : State)  : (s.freeNext).strm = s.strm := rfl
@[simp] theorem State.freeNext_disp (s : State)  : (s.freeNext).disp = s.disp := rfl
@[simp] theorem State.freeNext_eng (s : State)  : (s.freeNext).eng = s.eng := rfl
@[simp] theorem State.freeNext_tide (s : State)  : (s.freeNext).tide = s.tide := rfl
@[simp] theorem State.freeNext_ports (s : State)  : (s.freeNext).ports = s.ports := rfl
@[simp] theorem State.freeNext_sec (s : State)  : (s.freeNext).sec = s.sec := rfl
@[simp] theorem State.freeNext_fab (s : State)  : (s.freeNext).fab = s.fab := rfl
@[simp] theorem State.freeNext_timeB (s : State)  : (s.freeNext).timeB = s.timeB := rfl
@[simp] theorem State.freeNext_acs (s : State)  : (s.freeNext).acs = s.acs := rfl
@[simp] theorem State.freeNext_mc (s : State)  : (s.freeNext).mc = s.mc := rfl
@[simp] theorem State.freeNext_dma (s : State)  : (s.freeNext).dma = s.dma := rfl
@[simp] theorem State.freeNext_boot (s : State)  : (s.freeNext).boot = s.boot := rfl
@[simp] theorem State.freeNext_pins (s : State)  : (s.freeNext).pins = s.pins := rfl
@[simp] theorem State.freeNext_lh (s : State)  : (s.freeNext).lh = s.lh := rfl
@[simp] theorem State.freeNext_bw (s : State)  : (s.freeNext).bw = s.bw := rfl
@[simp] theorem State.freeNext_pending (s : State)  : (s.freeNext).pending = s.pending := rfl

/-! ## Tables -/

theorem tfind_tset {α : Type} (t : Tbl α) (a b : Nat) (x : α) (h : a ≠ b) : tfind (tset t a x) b = tfind t b := by
  induction t with
  | nil => simp [tset, tfind, h]
  | cons p t ih =>
    obtain ⟨k, v⟩ := p
    unfold tset
    split
    · simp [tfind, h]
    · split
      · rename_i e; subst e; simp [tfind, h]
      · by_cases e : k = b <;> simp [tfind, e, ih]

@[simp] theorem tfind_tset_self {α : Type} (t : Tbl α) (a : Nat) (x : α) : tfind (tset t a x) a = some x := by
  induction t with
  | nil => simp [tset, tfind]
  | cons p t ih =>
    obtain ⟨k, v⟩ := p
    unfold tset
    split
    · simp [tfind]
    · split
      · simp [tfind]
      · rename_i h1 h2; simp [tfind, Ne.symm h2, ih]

@[simp] theorem tget_tset_self {α : Type} (t : Tbl α) (a : Nat) (x d : α) : tget (tset t a x) a d = x := by simp [tget]

theorem tget_tset {α : Type} (t : Tbl α) (a b : Nat) (x d : α) (h : a ≠ b) : tget (tset t a x) b d = tget t b d := by simp [tget, tfind_tset t a b x h]

@[simp] theorem tfind_terase_self {α : Type} (t : Tbl α) (a : Nat) : tfind (terase t a) a = none := by
  induction t with
  | nil => rfl
  | cons p t ih =>
    obtain ⟨k, v⟩ := p
    unfold terase at *
    by_cases h : k = a <;> simp [h, tfind, ih]

theorem tfind_terase {α : Type} (t : Tbl α) (a b : Nat) (h : a ≠ b) : tfind (terase t a) b = tfind t b := by
  induction t with
  | nil => rfl
  | cons p t ih =>
    obtain ⟨k, v⟩ := p
    unfold terase at *
    by_cases h2 : k = a
    · subst h2; simp [tfind, h, ih]
    · simp [h2, tfind, ih]

/-! ## Registers -/

@[simp] theorem State.reg_setReg_self (s : State) (o : Nat) (w : Word) : (s.setReg o w).reg o = w := by simp [State.reg, State.setReg]
theorem State.reg_setReg (s : State) (o p : Nat) (w : Word) (h : o ≠ p) : (s.setReg o w).reg p = s.reg p := by simp [State.reg, State.setReg, tfind_tset _ _ _ _ h]
@[simp] theorem State.lhReg_setLhReg_self (s : State) (o : Nat) (w : Word) : (s.setLhReg o w).lhReg o = w := by simp [State.lhReg, State.setLhReg]
theorem State.lhReg_setLhReg (s : State) (o p : Nat) (w : Word) (h : o ≠ p) : (s.setLhReg o w).lhReg p = s.lhReg p := by
  simp [State.lhReg, State.setLhReg, tfind_tset _ _ _ _ h]
@[simp] theorem State.lhReg_setReg (s : State) (o p : Nat) (w : Word) : (s.setReg o w).lhReg p = s.lhReg p := rfl
@[simp] theorem State.reg_setLhReg (s : State) (o p : Nat) (w : Word) : (s.setLhReg o w).reg p = s.reg p := rfl
theorem State.reg_setFld (s : State) (f : Fld) (v p : Nat) (h : f.off ≠ p) : (s.setFld f v).reg p = s.reg p := State.reg_setReg s _ _ _ h
theorem State.reg_setBit (s : State) (f : Fld) (b : Bool) (p : Nat) (h : f.off ≠ p) : (s.setBit f b).reg p = s.reg p := State.reg_setReg s _ _ _ h
theorem State.reg_count (s : State) (f : Fld) (n p : Nat) (h : f.off ≠ p) : (s.count f n).reg p = s.reg p := State.reg_setReg s _ _ _ h

/-! ## Fields -/

theorem fieldMask_getLsbD (hi lo i : Nat) : (fieldMask hi lo).getLsbD i = (decide (i < 32) && decide (lo ≤ i ∧ i ≤ lo + (hi - lo))) := by
  simp only [fieldMask, BitVec.getLsbD_ofNat]
  rw [Nat.testBit_mul_two_pow, Nat.testBit_two_pow_sub_one]
  by_cases h1 : i < 32 <;> by_cases h2 : lo ≤ i <;> simp [h1, h2] <;> omega

theorem wfield_testBit (w : Word) (hi lo i : Nat) : (wfield w hi lo).testBit i = (decide (i < hi - lo + 1) && w.getLsbD (lo + i)) := by
  simp only [wfield, Nat.testBit_mod_two_pow, Nat.testBit_div_two_pow, BitVec.getLsbD, Nat.add_comm]

/-- A field reads back what was put into it, cut to its width. -/
theorem wfield_wset (w : Word) (hi lo v : Nat) (h : hi < 32) (hl : lo ≤ hi) : wfield (wset w hi lo v) hi lo = v % 2 ^ (hi - lo + 1) := by
  apply Nat.eq_of_testBit_eq
  intro i
  rw [wfield_testBit, Nat.testBit_mod_two_pow]
  by_cases hi2 : i < hi - lo + 1
  · have a : lo + i < 32 := by omega
    have b : lo + i ≤ lo + (hi - lo) := by omega
    simp only [wset, BitVec.getLsbD_or, BitVec.getLsbD_and, BitVec.getLsbD_not, fieldMask_getLsbD, BitVec.getLsbD_ofNat, Nat.testBit_mul_two_pow,
      a, b, hi2, decide_true, Bool.true_and, Nat.le_add_right, and_self, Bool.and_true, Bool.not_true, Bool.and_false, Bool.false_or,
      Nat.add_sub_cancel_left]
  · simp [hi2]

/-- A field is left alone by a write of a field that does not meet it. -/
theorem wfield_wset_other (w : Word) (hi lo hi' lo' v : Nat) (hd : hi < lo' ∨ hi' < lo) (hl : lo ≤ hi) (hl' : lo' ≤ hi') :
    wfield (wset w hi lo v) hi' lo' = wfield w hi' lo' := by
  apply Nat.eq_of_testBit_eq
  intro i
  rw [wfield_testBit, wfield_testBit]
  by_cases hi2 : i < hi' - lo' + 1
  · simp only [wset, BitVec.getLsbD_or, BitVec.getLsbD_and, BitVec.getLsbD_not, fieldMask_getLsbD]
    have c : ¬(lo ≤ lo' + i ∧ lo' + i ≤ lo + (hi - lo)) := by omega
    by_cases a : lo' + i < 32
    · simp [hi2, c, a]
    · simp [hi2, c, a, BitVec.getLsbD_of_ge _ _ (Nat.le_of_not_lt a)]
  · simp [hi2]

/-- A field of a register reads what was put into it. -/
theorem State.fld_setFld_self (s : State) (f : Fld) (v : Nat) (h : f.hi < 32) (hl : f.lo ≤ f.hi) : (s.setFld f v).fld f = v % 2 ^ (f.hi - f.lo + 1) := by
  simp [State.fld, State.setFld, wfield_wset _ _ _ _ h hl]

/-- A field of another register is left alone. -/
theorem State.fld_setReg (s : State) (o : Nat) (w : Word) (g : Fld) (h : o ≠ g.off) : (s.setReg o w).fld g = s.fld g := by
  simp [State.fld, State.reg_setReg _ _ _ _ h]
theorem State.fld_setFld (s : State) (f : Fld) (v : Nat) (g : Fld) (h : f.off ≠ g.off) : (s.setFld f v).fld g = s.fld g := State.fld_setReg s _ _ g h

/-- Another field of the same register is left alone. -/
theorem State.fld_setFld_apart (s : State) (f : Fld) (v : Nat) (g : Fld) (ho : f.off = g.off) (h : f.hi < g.lo ∨ g.hi < f.lo) (hl : f.lo ≤ f.hi)
    (hl' : g.lo ≤ g.hi) : (s.setFld f v).fld g = s.fld g := by
  simp [State.fld, State.setFld, ← ho, wfield_wset_other _ _ _ _ _ _ h hl hl']

/-- A one-bit field reads what was put into it. -/
theorem State.bit_setBit_self (s : State) (f : Fld) (b : Bool) (h : f.hi < 32) (hl : f.lo = f.hi) : (s.setBit f b).bit f = b := by
  unfold State.bit State.setBit
  rw [State.fld_setFld_self s f _ h (by omega), hl, Nat.sub_self]
  cases b <;> rfl

theorem State.bit_setReg (s : State) (o : Nat) (w : Word) (g : Fld) (h : o ≠ g.off) : (s.setReg o w).bit g = s.bit g := by
  simp [State.bit, State.fld_setReg _ _ _ _ h]
theorem State.bit_setFld (s : State) (f : Fld) (v : Nat) (g : Fld) (h : f.off ≠ g.off) : (s.setFld f v).bit g = s.bit g := State.bit_setReg s _ _ g h
theorem State.bit_setBit (s : State) (f : Fld) (b : Bool) (g : Fld) (h : f.off ≠ g.off) : (s.setBit f b).bit g = s.bit g := State.bit_setReg s _ _ g h
theorem State.fld_setBit (s : State) (f : Fld) (b : Bool) (g : Fld) (h : f.off ≠ g.off) : (s.setBit f b).fld g = s.fld g := State.fld_setReg s _ _ g h
theorem State.bit_setBit_apart (s : State) (f : Fld) (b : Bool) (g : Fld) (ho : f.off = g.off) (h : f.hi < g.lo ∨ g.hi < f.lo) (hl : f.lo ≤ f.hi)
    (hl' : g.lo ≤ g.hi) : (s.setBit f b).bit g = s.bit g := by
  simp [State.bit, State.setBit, State.fld_setFld_apart s f _ g ho h hl hl']
theorem State.fld_setBit_apart (s : State) (f : Fld) (b : Bool) (g : Fld) (ho : f.off = g.off) (h : f.hi < g.lo ∨ g.hi < f.lo) (hl : f.lo ≤ f.hi)
    (hl' : g.lo ≤ g.hi) : (s.setBit f b).fld g = s.fld g := by
  simp [State.setBit, State.fld_setFld_apart s f _ g ho h hl hl']

/-- A Lighthouse field reads what was put into it. -/
theorem State.lhFld_setLhFld_self (s : State) (f : Fld) (v : Nat) (h : f.hi < 32) (hl : f.lo ≤ f.hi) : (s.setLhFld f v).lhFld f = v % 2 ^ (f.hi - f.lo + 1) := by
  simp [State.lhFld, State.setLhFld, wfield_wset _ _ _ _ h hl]
theorem State.lhFld_setLhReg (s : State) (o : Nat) (w : Word) (g : Fld) (h : o ≠ g.off) : (s.setLhReg o w).lhFld g = s.lhFld g := by
  simp [State.lhFld, State.lhReg_setLhReg _ _ _ _ h]
theorem State.lhFld_setLhFld (s : State) (f : Fld) (v : Nat) (g : Fld) (h : f.off ≠ g.off) : (s.setLhFld f v).lhFld g = s.lhFld g := State.lhFld_setLhReg s _ _ g h
theorem State.lhFld_setLhFld_apart (s : State) (f : Fld) (v : Nat) (g : Fld) (ho : f.off = g.off) (h : f.hi < g.lo ∨ g.hi < f.lo) (hl : f.lo ≤ f.hi)
    (hl' : g.lo ≤ g.hi) : (s.setLhFld f v).lhFld g = s.lhFld g := by
  simp [State.lhFld, State.setLhFld, ← ho, wfield_wset_other _ _ _ _ _ _ h hl hl']
theorem State.lhBit_setLhBit_self (s : State) (f : Fld) (b : Bool) (h : f.hi < 32) (hl : f.lo = f.hi) : (s.setLhBit f b).lhBit f = b := by
  unfold State.lhBit State.setLhBit
  rw [State.lhFld_setLhFld_self s f _ h (by omega), hl, Nat.sub_self]
  cases b <;> rfl
theorem State.lhBit_setLhBit (s : State) (f : Fld) (b : Bool) (g : Fld) (h : f.off ≠ g.off) : (s.setLhBit f b).lhBit g = s.lhBit g := by
  simp [State.lhBit, State.setLhBit, State.lhFld_setLhFld _ _ _ _ h]

/-- A 64-bit pair reads what was put into it. -/
theorem State.pair_setPair_self (s : State) (o v : Nat) (h : v < 2 ^ 64) : (s.setPair o v).pair o = v := by
  have h1 : v / 2 ^ 32 < 2 ^ 32 := by omega
  simp only [State.pair, State.setPair, State.reg_setReg_self, State.reg_setReg _ (o + 4) o _ (by omega), BitVec.toNat_ofNat, Nat.mod_eq_of_lt h1]
  omega

theorem State.pair_setReg (s : State) (o p : Nat) (w : Word) (h : o ≠ p) (h4 : o ≠ p + 4) : (s.setReg o w).pair p = s.pair p := by
  simp [State.pair, State.reg_setReg _ _ _ _ h, State.reg_setReg _ _ _ _ h4]

end Sys2Proof.Machine
end

