-- ==== Sys2Proof/Laws/Events.lean ====
section
/-! SUPPORT. What generating an event and completing a command change, and that they change nothing else. -/

namespace Sys2Proof.Machine

/-- The registers an event may change: HUB_ALERT, and the tail, status, counts, SEQ and tidemark of the event queue. -/
abbrev evReg (o : Nat) : Prop := o = 0x48 ∨ (0x180010 ≤ o ∧ o < 0x180020) ∨ o = 0x180024 ∨ o = 0x180034 ∨ o = 0x180038

/-- The bytes an event may change: those of the event ring. -/
def evRing (s : State) (a : Nat) : Prop := hostWindow + s.pair R.evqBase ≤ a ∧ a < hostWindow + s.pair R.evqBase + 32 * 65536

/-- The registers a completion on a queue may change: RQ_TAIL, Q_STATUS and Q_COUNT of its page. -/
abbrev rqReg (q o : Nat) : Prop := o = R.rqTail (page q) ∨ o = R.qStatus (page q) ∨ o = R.qCount (page q)

/-- The bytes a completion on a queue may change: those of its result ring. -/
def rqRing (s : State) (q a : Nat) : Prop := hostWindow + s.pair (R.rqBase (page q)) ≤ a ∧ a < hostWindow + s.pair (R.rqBase (page q)) + 64 * 65536

/-- Nothing changes but registers in `r`, bytes in `m`, and the host-interface record. -/
structure Only (r m : Nat → Prop) (s t : State) : Prop where
  rest : t = { s with regs := t.regs, mem := t.mem, host := t.host }
  regs : ∀ o, ¬r o → t.reg o = s.reg o
  mem : ∀ a, ¬m a → memGet t.mem a = memGet s.mem a

variable {r m : Nat → Prop} {z s : State}

theorem Only.self : Only r m s s := ⟨rfl, fun _ _ => rfl, fun _ _ => rfl⟩

theorem Only.trans {t : State} (h : Only r m z s) (k : Only r m s t) : Only r m z t where
  rest := by rw [k.rest, h.rest]
  regs o ho := (k.regs o ho).trans (h.regs o ho)
  mem a ha := (k.mem a ha).trans (h.mem a ha)

theorem Only.mono {r' m' : Nat → Prop} {t : State} (h : Only r m s t) (hr : ∀ o, r o → r' o) (hm : ∀ a, m a → m' a) : Only r' m' s t :=
  ⟨h.rest, fun o ho => h.regs o (fun x => ho (hr o x)), fun a ha => h.mem a (fun x => ha (hm a x))⟩

theorem Only.setReg (h : Only r m z s) {o : Nat} {w : Word} (ho : r o) : Only r m z (s.setReg o w) where
  rest := by rw [State.setReg, h.rest]
  regs p hp := by rw [State.reg_setReg s o p w (fun e => hp (by rw [← e]; exact ho))]; exact h.regs p hp
  mem a ha := h.mem a ha

theorem Only.setFld (h : Only r m z s) {f : Fld} {v : Nat} (ho : r f.off) : Only r m z (s.setFld f v) := h.setReg ho
theorem Only.setBit (h : Only r m z s) {f : Fld} {b : Bool} (ho : r f.off) : Only r m z (s.setBit f b) := h.setReg ho
theorem Only.count (h : Only r m z s) {f : Fld} {n : Nat} (ho : r f.off) : Only r m z (s.count f n) := h.setReg ho

theorem Only.host (h : Only r m z s) {x : HostIf} : Only r m z { s with host := x } where
  rest := by rw [h.rest]
  regs p hp := h.regs p hp
  mem a ha := h.mem a ha

theorem Only.poke (h : Only r m z s) {a : Nat} {bs : List Byte} (ha : ∀ i, i < bs.length → m (a + i)) : Only r m z (s.poke a bs) where
  rest := by rw [State.poke, h.rest]
  regs p hp := h.regs p hp
  mem c hc := by
    have : c < a ∨ a + bs.length ≤ c := by
      rcases Nat.lt_or_ge c a with x | x
      · exact .inl x
      · rcases Nat.lt_or_ge c (a + bs.length) with y | y
        · exact absurd (by have := ha (c - a) (by omega); rwa [Nat.add_sub_cancel' x] at this) hc
        · exact .inr y
    exact (memGet_memWrite_outside this).trans (h.mem c hc)

theorem Only.ite (c : Prop) [Decidable c] {a b : State} (ha : Only r m z a) (hb : Only r m z b) : Only r m z (if c then a else b) := by split <;> assumption

/-! ## Sizes -/

@[simp] theorem leBytes_length (n v : Nat) : (leBytes n v).length = n := by
  induction n generalizing v with
  | zero => rfl
  | succ n ih => simp [leBytes, ih]

@[simp] theorem Event.bytes_length (e : Event) (d p : Bool) : (e.bytes d p).length = 32 := by simp [Event.bytes]
@[simp] theorem Result.bytes_length (x : Result) (p : Bool) : (x.bytes p).length = 64 := by simp [Result.bytes]

theorem wfield_lt (w : Word) (hi lo : Nat) : wfield w hi lo < 2 ^ (hi - lo + 1) := Nat.mod_lt _ (Nat.two_pow_pos _)

/-! ## Vectors -/

theorem Only.fireVector (h : Only r m z s) {a b : Nat} : Only r m z (fireVector a b s) := by
  unfold Machine.fireVector; dsimp only; split <;> exact h.host

theorem Only.asFunction (h : Only r m z s) {f : Nat} : Only r m z (asFunction f s) := h.host

theorem Only.moderate (h : Only r m z s) {a b c d : Nat} : Only r m z (moderate a b c d s) := by
  unfold Machine.moderate; dsimp only
  exact Only.ite _ (Only.fireVector h.host) h.host

/-! ## Events -/

/-- Only the event queue changes, and what its ring is based on does not. -/
abbrev EvOnly (z t : State) : Prop := Only evReg (evRing z) z t

theorem EvOnly.base {t : State} (h : EvOnly z t) : t.pair R.evqBase = z.pair R.evqBase := by
  simp only [State.pair]; rw [h.regs _ (by decide), h.regs _ (by decide)]

theorem evStatus_only (h : EvOnly z s) : EvOnly z (evStatus s) := (h.setBit (by decide)).setFld (by decide)

theorem evWrite_only {e : Event} {d : Bool} (h : EvOnly z s) : EvOnly z (evWrite e d s) := by
  unfold evWrite; dsimp only
  have ht : s.fld F.evqTailTail < 65536 := wfield_lt _ _ _
  have k : EvOnly z (asFunction 0 (s.poke (hostWindow + s.pair R.evqBase + 32 * s.fld F.evqTailTail) (e.bytes d s.host.evPhase))) := by
    refine Only.asFunction (h.poke (fun i hi => ?_))
    rw [Event.bytes_length] at hi
    unfold evRing; rw [h.base]; omega
  refine Only.ite _ (Only.fireVector (Only.moderate ?_)) (Only.moderate ?_) <;>
    exact Only.ite _ (Only.host (Only.setFld k (by decide))) (Only.setFld k (by decide))

theorem evHold_only {e : Event} (h : EvOnly z s) : EvOnly z (evHold e s) := by
  unfold evHold; dsimp only
  refine Only.ite _ (Only.host (h.count (by decide))) (Only.ite _ (Only.ite _ ?_ (Only.host (h.count (by decide)))) (Only.ite _ ?_ ?_))
  · exact Only.ite _ (Only.fireVector h.host) h.host
  · exact Only.ite _ (Only.fireVector h.host) h.host
  · have k : EvOnly z (if s.bit F.evqCfgEn = true then ((s.setBit F.evqStatusLost true).setBit F.evqStatusAlert true).setBit F.hubAlertEvqLoss true
        else s.setBit F.evqStatusLost true) :=
      Only.ite _ (((h.setBit (by decide)).setBit (by decide)).setBit (by decide)) (h.setBit (by decide))
    refine Only.ite _ (Only.host (k.count (by decide))) (Only.ite _ (Only.host (k.count (by decide))) (Only.host (k.count (by decide))))

theorem takeSeq_only {e : Event} (h : EvOnly z s) : EvOnly z (takeSeq e s).2 := h.setFld (by decide)

theorem emitCore_only {e : Event} (h : EvOnly z s) : EvOnly z (emitCore e s) := by
  unfold emitCore; dsimp only
  exact Only.ite _ (evWrite_only (takeSeq_only h)) (evHold_only (takeSeq_only h))

theorem evLevel_only {l : Nat} (h : EvOnly z s) : EvOnly z (tmLevel R.evqTmCfg l s).2 := by
  unfold tmLevel tmCross; dsimp only; split
  · exact (h.setReg (by decide)).setReg (by decide)
  · exact h.setReg (by decide)

theorem writeLost_only {q : Nat} (h : EvOnly z s) : EvOnly z (writeLost q s) := by
  unfold writeLost alertRelease; dsimp only
  refine Only.ite _ ((Only.setBit ?_ (by decide)).setBit (by decide)) ?_ <;> exact evWrite_only (Only.host (h.setFld (by decide)))

theorem evLostNow_only (h : EvOnly z s) : EvOnly z (evLostNow s) := by
  unfold evLostNow; split
  · exact Only.ite _ (writeLost_only h) h
  · exact h

theorem evTide_only (h : EvOnly z s) : EvOnly z (evTide s) := by
  unfold evTide; dsimp only
  exact Only.ite _ (evLevel_only (emitCore_only (evLostNow_only (evLevel_only h)))) (evLevel_only h)

theorem emitNow_only {e : Event} (h : EvOnly z s) : EvOnly z (emitNow e s) := evStatus_only (evTide_only (emitCore_only h))

theorem emit_only {code : Nat} {part : Option Nat} {u i a b c : Nat} (h : EvOnly z s) : EvOnly z (emit code part u i a b c s) := by
  unfold emit; dsimp only; split
  · exact h.host
  · exact emitNow_only h

theorem emit_self (code : Nat) (part : Option Nat) (u i a b c : Nat) (s : State) : EvOnly s (emit code part u i a b c s) := emit_only Only.self

@[simp] theorem emit_lhRegs (code : Nat) (part : Option Nat) (u i a b c : Nat) (s : State) : (emit code part u i a b c s).lhRegs = s.lhRegs := by
  rw [(emit_self code part u i a b c s).rest]
@[simp] theorem emit_paths (code : Nat) (part : Option Nat) (u i a b c : Nat) (s : State) : (emit code part u i a b c s).paths = s.paths := by
  rw [(emit_self code part u i a b c s).rest]
@[simp] theorem emit_time (code : Nat) (part : Option Nat) (u i a b c : Nat) (s : State) : (emit code part u i a b c s).time = s.time := by
  rw [(emit_self code part u i a b c s).rest]
@[simp] theorem emit_strm (code : Nat) (part : Option Nat) (u i a b c : Nat) (s : State) : (emit code part u i a b c s).strm = s.strm := by
  rw [(emit_self code part u i a b c s).rest]
@[simp] theorem emit_disp (code : Nat) (part : Option Nat) (u i a b c : Nat) (s : State) : (emit code part u i a b c s).disp = s.disp := by
  rw [(emit_self code part u i a b c s).rest]
@[simp] theorem emit_eng (code : Nat) (part : Option Nat) (u i a b c : Nat) (s : State) : (emit code part u i a b c s).eng = s.eng := by
  rw [(emit_self code part u i a b c s).rest]
@[simp] theorem emit_tide (code : Nat) (part : Option Nat) (u i a b c : Nat) (s : State) : (emit code part u i a b c s).tide = s.tide := by
  rw [(emit_self code part u i a b c s).rest]
@[simp] theorem emit_ports (code : Nat) (part : Option Nat) (u i a b c : Nat) (s : State) : (emit code part u i a b c s).ports = s.ports := by
  rw [(emit_self code part u i a b c s).rest]
@[simp] theorem emit_sec (code : Nat) (part : Option Nat) (u i a b c : Nat) (s : State) : (emit code part u i a b c s).sec = s.sec := by
  rw [(emit_self code part u i a b c s).rest]
@[simp] theorem emit_fab (code : Nat) (part : Option Nat) (u i a b c : Nat) (s : State) : (emit code part u i a b c s).fab = s.fab := by
  rw [(emit_self code part u i a b c s).rest]
@[simp] theorem emit_timeB (code : Nat) (part : Option Nat) (u i a b c : Nat) (s : State) : (emit code part u i a b c s).timeB = s.timeB := by
  rw [(emit_self code part u i a b c s).rest]
@[simp] theorem emit_acs (code : Nat) (part : Option Nat) (u i a b c : Nat) (s : State) : (emit code part u i a b c s).acs = s.acs := by
  rw [(emit_self code part u i a b c s).rest]
@[simp] theorem emit_mc (code : Nat) (part : Option Nat) (u i a b c : Nat) (s : State) : (emit code part u i a b c s).mc = s.mc := by
  rw [(emit_self code part u i a b c s).rest]
@[simp] theorem emit_dma (code : Nat) (part : Option Nat) (u i a b c : Nat) (s : State) : (emit code part u i a b c s).dma = s.dma := by
  rw [(emit_self code part u i a b c s).rest]
@[simp] theorem emit_boot (code : Nat) (part : Option Nat) (u i a b c : Nat) (s : State) : (emit code part u i a b c s).boot = s.boot := by
  rw [(emit_self code part u i a b c s).rest]
@[simp] theorem emit_pins (code : Nat) (part : Option Nat) (u i a b c : Nat) (s : State) : (emit code part u i a b c s).pins = s.pins := by
  rw [(emit_self code part u i a b c s).rest]
@[simp] theorem emit_lh (code : Nat) (part : Option Nat) (u i a b c : Nat) (s : State) : (emit code part u i a b c s).lh = s.lh := by
  rw [(emit_self code part u i a b c s).rest]
@[simp] theorem emit_bw (code : Nat) (part : Option Nat) (u i a b c : Nat) (s : State) : (emit code part u i a b c s).bw = s.bw := by
  rw [(emit_self code part u i a b c s).rest]
@[simp] theorem emit_free (code : Nat) (part : Option Nat) (u i a b c : Nat) (s : State) : (emit code part u i a b c s).free = s.free := by
  rw [(emit_self code part u i a b c s).rest]
@[simp] theorem emit_pending (code : Nat) (part : Option Nat) (u i a b c : Nat) (s : State) : (emit code part u i a b c s).pending = s.pending := by
  rw [(emit_self code part u i a b c s).rest]
/-- A register no event changes. -/
theorem emit_reg (code : Nat) (part : Option Nat) (u i a b c : Nat) (s : State) {o : Nat} (h : ¬evReg o) : (emit code part u i a b c s).reg o = s.reg o :=
  (emit_self code part u i a b c s).regs o h
theorem emit_fld (code : Nat) (part : Option Nat) (u i a b c : Nat) (s : State) {f : Fld} (h : ¬evReg f.off) : (emit code part u i a b c s).fld f = s.fld f := by
  simp only [State.fld, emit_reg _ _ _ _ _ _ _ _ h]
theorem emit_bit (code : Nat) (part : Option Nat) (u i a b c : Nat) (s : State) {f : Fld} (h : ¬evReg f.off) : (emit code part u i a b c s).bit f = s.bit f := by
  simp only [State.bit, emit_fld _ _ _ _ _ _ _ _ h]
/-- A byte no event changes. -/
theorem emit_mem (code : Nat) (part : Option Nat) (u i a b c : Nat) (s : State) {x : Nat} (h : ¬evRing s x) :
    memGet (emit code part u i a b c s).mem x = memGet s.mem x := (emit_self code part u i a b c s).mem x h

/-! ## Completion -/

theorem Only.setQueue (h : Only r m z s) {q : Nat} {x : Queue} : Only r m z (s.setQueue q x) := h.host

theorem syncQ_only {q : Nat} (h : Only r m z s) (hr : ∀ o, rqReg q o → r o) : Only r m z (syncQ q s) :=
  ((h.setFld (hr _ (.inr (.inr rfl)))).setBit (hr _ (.inr (.inl rfl)))).setBit (hr _ (.inr (.inl rfl)))

theorem issueFetch_only {q : Nat} (h : Only r m z s) : Only r m z (issueFetch q s) := by
  unfold issueFetch; dsimp only; exact Only.ite _ h.setQueue h

theorem writeResult_only {q : Nat} {x : Result} (h : Only r m z s) (hr : ∀ o, rqReg q o → r o) (hm : ∀ a, rqRing s q a → m a) :
    Only r m z (writeResult q x s) := by
  unfold writeResult; dsimp only
  have ht : s.fld (F.rqTailTail (page q)) < 65536 := wfield_lt _ _ _
  refine Only.moderate (Only.setQueue (Only.setFld (Only.asFunction (h.poke (fun i hi => ?_))) (hr _ (.inl rfl))))
  rw [Result.bytes_length] at hi
  exact hm _ (by unfold rqRing; omega)

theorem endCmd_only {q id st re ha v ti : Nat} (h : Only r m z s) (hr : ∀ o, rqReg q o → r o) (hm : ∀ a, rqRing s q a → m a) :
    Only r m z (endCmd q id st re ha v ti s) := by
  unfold endCmd; split
  · exact h
  · dsimp only
    refine issueFetch_only (syncQ_only (Only.ite _ h.setQueue (writeResult_only h.setQueue hr hm)) hr)

/-- A completion leaves the result ring where it is. -/
theorem rqRing_end (q id st re ha v ti : Nat) (s : State) : rqRing (endCmd q id st re ha v ti s) q = rqRing s q := by
  have k : Only (rqReg q) (rqRing s q) s (endCmd q id st re ha v ti s) := endCmd_only Only.self (fun _ h => h) (fun _ h => h)
  have e : (endCmd q id st re ha v ti s).pair (R.rqBase (page q)) = s.pair (R.rqBase (page q)) := by
    simp only [State.pair]
    rw [k.regs _ (by simp only [rqReg, R.rqBase, R.rqTail, R.qStatus, R.qCount]; omega), k.regs _ (by simp only [rqReg, R.rqBase, R.rqTail, R.qStatus, R.qCount]; omega)]
  funext a; simp only [rqRing, e]

theorem refuseRowless_only {q n : Nat} (h : Only r m z s) (hr : ∀ o, rqReg q o → r o) (hm : ∀ a, rqRing s q a → m a) :
    Only r m z (refuseRowless q n s) := by
  induction n generalizing s with
  | zero => exact h
  | succ n ih =>
    unfold refuseRowless
    split
    · exact h
    · split
      · exact ih (endCmd_only h.setQueue hr hm) (fun a ha => hm a (by rw [rqRing_end] at ha; exact ha))
      · exact h

theorem completeAt_only {q id st re ha v ti : Nat} (h : Only r m z s) (hr : ∀ o, rqReg q o → r o) (hm : ∀ a, rqRing s q a → m a) :
    Only r m z (completeAt q id st re ha v ti s) :=
  refuseRowless_only (endCmd_only h hr hm) hr (fun a ha => hm a (by rw [rqRing_end] at ha; exact ha))

theorem completeCmd_only {q id st re ha v : Nat} (h : Only r m z s) (hr : ∀ o, rqReg q o → r o) (hm : ∀ a, rqRing s q a → m a) :
    Only r m z (completeCmd q id st re ha v s) := completeAt_only h hr hm

theorem completeCmd_self (q id st re ha v : Nat) (s : State) : Only (rqReg q) (rqRing s q) s (completeCmd q id st re ha v s) :=
  completeCmd_only Only.self (fun _ h => h) (fun _ h => h)

@[simp] theorem completeCmd_lhRegs (q id st re ha v : Nat) (s : State) : (completeCmd q id st re ha v s).lhRegs = s.lhRegs := by
  rw [(completeCmd_self q id st re ha v s).rest]
@[simp] theorem completeCmd_paths (q id st re ha v : Nat) (s : State) : (completeCmd q id st re ha v s).paths = s.paths := by
  rw [(completeCmd_self q id st re ha v s).rest]
@[simp] theorem completeCmd_time (q id st re ha v : Nat) (s : State) : (completeCmd q id st re ha v s).time = s.time := by
  rw [(completeCmd_self q id st re ha v s).rest]
@[simp] theorem completeCmd_strm (q id st re ha v : Nat) (s : State) : (completeCmd q id st re ha v s).strm = s.strm := by
  rw [(completeCmd_self q id st re ha v s).rest]
@[simp] theorem completeCmd_disp (q id st re ha v : Nat) (s : State) : (completeCmd q id st re ha v s).disp = s.disp := by
  rw [(completeCmd_self q id st re ha v s).rest]
@[simp] theorem completeCmd_eng (q id st re ha v : Nat) (s : State) : (completeCmd q id st re ha v s).eng = s.eng := by
  rw [(completeCmd_self q id st re ha v s).rest]
@[simp] theorem completeCmd_tide (q id st re ha v : Nat) (s : State) : (completeCmd q id st re ha v s).tide = s.tide := by
  rw [(completeCmd_self q id st re ha v s).rest]
@[simp] theorem completeCmd_ports (q id st re ha v : Nat) (s : State) : (completeCmd q id st re ha v s).ports = s.ports := by
  rw [(completeCmd_self q id st re ha v s).rest]
@[simp] theorem completeCmd_sec (q id st re ha v : Nat) (s : State) : (completeCmd q id st re ha v s).sec = s.sec := by
  rw [(completeCmd_self q id st re ha v s).rest]
@[simp] theorem completeCmd_fab (q id st re ha v : Nat) (s : State) : (completeCmd q id st re ha v s).fab = s.fab := by
  rw [(completeCmd_self q id st re ha v s).rest]
@[simp] theorem completeCmd_timeB (q id st re ha v : Nat) (s : State) : (completeCmd q id st re ha v s).timeB = s.timeB := by
  rw [(completeCmd_self q id st re ha v s).rest]
@[simp] theorem completeCmd_acs (q id st re ha v : Nat) (s : State) : (completeCmd q id st re ha v s).acs = s.acs := by
  rw [(completeCmd_self q id st re ha v s).rest]
@[simp] theorem completeCmd_mc (q id st re ha v : Nat) (s : State) : (completeCmd q id st re ha v s).mc = s.mc := by
  rw [(completeCmd_self q id st re ha v s).rest]
@[simp] theorem completeCmd_dma (q id st re ha v : Nat) (s : State) : (completeCmd q id st re ha v s).dma = s.dma := by
  rw [(completeCmd_self q id st re ha v s).rest]
@[simp] theorem completeCmd_boot (q id st re ha v : Nat) (s : State) : (completeCmd q id st re ha v s).boot = s.boot := by
  rw [(completeCmd_self q id st re ha v s).rest]
@[simp] theorem completeCmd_pins (q id st re ha v : Nat) (s : State) : (completeCmd q id st re ha v s).pins = s.pins := by
  rw [(completeCmd_self q id st re ha v s).rest]
@[simp] theorem completeCmd_lh (q id st re ha v : Nat) (s : State) : (completeCmd q id st re ha v s).lh = s.lh := by
  rw [(completeCmd_self q id st re ha v s).rest]
@[simp] theorem completeCmd_bw (q id st re ha v : Nat) (s : State) : (completeCmd q id st re ha v s).bw = s.bw := by
  rw [(completeCmd_self q id st re ha v s).rest]
@[simp] theorem completeCmd_free (q id st re ha v : Nat) (s : State) : (completeCmd q id st re ha v s).free = s.free := by
  rw [(completeCmd_self q id st re ha v s).rest]
@[simp] theorem completeCmd_pending (q id st re ha v : Nat) (s : State) : (completeCmd q id st re ha v s).pending = s.pending := by
  rw [(completeCmd_self q id st re ha v s).rest]
theorem completeCmd_reg (q id st re ha v : Nat) (s : State) {o : Nat} (h : ¬rqReg q o) : (completeCmd q id st re ha v s).reg o = s.reg o :=
  (completeCmd_self q id st re ha v s).regs o h

end Sys2Proof.Machine
end

