-- ==== Sys2Proof/Laws/Keeps.lean ====
section
/-! SUPPORT. The relation every operation of the machine keeps between the state before and after it. -/

namespace Sys2Proof.Machine

/-- What the security block never takes back: the life-cycle state never steps back, RETURN_DONE stays set, the maker rollback floor never falls. -/
structure SecLe (a b : Sec) : Prop where
  lc : a.lc ≤ b.lc
  ret : a.returnDone = true → b.returnDone = true
  floor : a.floorMaker.value ≤ b.floorMaker.value

@[simp] theorem SecLe.rfl' (a : Sec) : SecLe a a := ⟨Nat.le_refl _, id, Nat.le_refl _⟩

/-- What every operation of the machine keeps: the command queue, the canonical form of memory, what the security block never takes back; and the free-value counter never turns back. -/
structure Keeps (s t : State) : Prop where
  queue : t.pending = s.pending
  free : s.free ≤ t.free
  mem : Memory.wf s.mem = true → Memory.wf t.mem = true
  sec : SecLe s.sec t.sec

@[simp] theorem Keeps.self (s : State) : Keeps s s := ⟨rfl, Nat.le_refl _, id, SecLe.rfl' _⟩
theorem Keeps.trans {a b c : State} (h : Keeps a b) (k : Keeps b c) : Keeps a c :=
  ⟨k.queue.trans h.queue, Nat.le_trans h.free k.free, fun w => k.mem (h.mem w),
   ⟨Nat.le_trans h.sec.lc k.sec.lc, fun w => k.sec.ret (h.sec.ret w), Nat.le_trans h.sec.floor k.sec.floor⟩⟩

@[simp] theorem keeps_mk {z s : State} {regs lhRegs paths time host pcie strm disp eng tide ports fab timeB acs mc dma boot pins lh bw} (h : Keeps z s) :
  Keeps z (State.mk regs lhRegs paths s.mem time host pcie strm disp eng tide ports s.sec fab timeB acs mc dma boot pins lh bw s.free s.pending) :=
  ⟨h.queue, h.free, h.mem, h.sec⟩
@[simp] theorem secLe_mk {a : Sec} {cr u m o og sg ov sv op dp md od pk fo ch se sp wr lo dr} :
    SecLe a (Sec.mk cr a.bits a.returnDone u m o og sg ov sv op dp md od pk a.floorMaker fo ch se sp wr lo dr) := ⟨Nat.le_refl _, id, Nat.le_refl _⟩
@[simp] theorem keeps_mk_sec {z s : State} {regs lhRegs paths time host pcie strm disp eng tide ports x fab timeB acs mc dma boot pins lh bw} (h : Keeps z s) (hx : SecLe s.sec x) :
  Keeps z (State.mk regs lhRegs paths s.mem time host pcie strm disp eng tide ports x fab timeB acs mc dma boot pins lh bw s.free s.pending) :=
  h.trans ⟨rfl, Nat.le_refl _, id, hx⟩
@[simp] theorem keeps_ite {c : Prop} [Decidable c] {z a b : State} : Keeps z (if c then a else b) ↔ (c → Keeps z a) ∧ (¬c → Keeps z b) := by
  split <;> simp_all
@[simp] theorem State.poke_keeps {z s : State} {a bs} (h : Keeps z s) : Keeps z (s.poke a bs) := ⟨h.queue, h.free, fun w => memWrite_wf (h.mem w), h.sec⟩
@[simp] theorem State.zeroMem_keeps {z s : State} {a n} (h : Keeps z s) : Keeps z (s.zeroMem a n) := ⟨h.queue, h.free, fun w => memZero_wf (h.mem w), h.sec⟩
@[simp] theorem State.freeNext_keeps {z s : State} (h : Keeps z s) : Keeps z s.freeNext := ⟨h.queue, Nat.le_succ_of_le h.free, h.mem, h.sec⟩
@[simp] theorem keeps_foldl {α : Type} {σ s : State} {l : List α} {f : State → α → State} (h : Keeps σ s) (hf : ∀ s a, Keeps s (f s a)) : Keeps σ (l.foldl f s) := by
  induction l generalizing s with
  | nil => exact h
  | cons x t ih => exact ih (h.trans (hf s x))
@[simp] theorem keeps_foldl2 {α β : Type} {σ : State} {p : β × State} {l : List α} {f : β × State → α → β × State} (h : Keeps σ p.2) (hf : ∀ p a, Keeps p.2 (f p a).2) : Keeps σ (l.foldl f p).2 := by
  induction l generalizing p with
  | nil => exact h
  | cons x t ih => exact ih (h.trans (hf p x))
/-- An outcome that is a next state keeps what `Keeps` says. -/
def Good (z : State) (o : Host.Outcome State Fault Refusal) : Prop := ∀ t, o = .next t → Keeps z t
@[simp] theorem good_next {z t : State} : Good z (.next t) ↔ Keeps z t := by simp [Good]
@[simp] theorem good_refused {z : State} {r} : Good z (.refused r) := by simp [Good]
@[simp] theorem good_ite {c : Prop} [Decidable c] {z : State} {a b} : Good z (if c then a else b) ↔ (c → Good z a) ∧ (¬c → Good z b) := by
  split <;> simp_all
end Sys2Proof.Machine
end

