-- ==== Sys2Proof/Laws/KeepsHost.lean ====
section
/-! SUPPORT. One lemma per operation: what the host side, the streams and the pool keep. -/

set_option maxRecDepth 8000

namespace Sys2Proof.Machine

/-! ## Ops -/

@[simp] theorem State.setReg_keeps {σ : State} {s : State} {off : Nat} {w : Word} (hσ : Keeps σ s) : Keeps σ (State.setReg s off w) := by
  unfold State.setReg; simp (maxDischargeDepth := 40) [*]

@[simp] theorem State.setFld_keeps {σ : State} {s : State} {f : Fld} {v : Nat} (hσ : Keeps σ s) : Keeps σ (State.setFld s f v) := by
  unfold State.setFld; simp (maxDischargeDepth := 40) [*]

@[simp] theorem State.setBit_keeps {σ : State} {s : State} {f : Fld} {b : Bool} (hσ : Keeps σ s) : Keeps σ (State.setBit s f b) := by
  unfold State.setBit; simp (maxDischargeDepth := 40) [*]

@[simp] theorem State.setPair_keeps {σ : State} {s : State} {off v : Nat} (hσ : Keeps σ s) : Keeps σ (State.setPair s off v) := by
  unfold State.setPair; simp (maxDischargeDepth := 40) [*]

@[simp] theorem State.count_keeps {σ : State} {s : State} {f : Fld} {n : Nat} (hσ : Keeps σ s) : Keeps σ (State.count s f n) := by
  unfold State.count; simp (maxDischargeDepth := 40) [*]

@[simp] theorem State.addPair_keeps {σ : State} {s : State} {off n : Nat} (hσ : Keeps σ s) : Keeps σ (State.addPair s off n) := by
  unfold State.addPair; simp (maxDischargeDepth := 40) [*]

@[simp] theorem State.setLhReg_keeps {σ : State} {s : State} {off : Nat} {w : Word} (hσ : Keeps σ s) : Keeps σ (State.setLhReg s off w) := by
  unfold State.setLhReg; simp (maxDischargeDepth := 40) [*]

@[simp] theorem State.setLhFld_keeps {σ : State} {s : State} {f : Fld} {v : Nat} (hσ : Keeps σ s) : Keeps σ (State.setLhFld s f v) := by
  unfold State.setLhFld; simp (maxDischargeDepth := 40) [*]

@[simp] theorem State.setLhBit_keeps {σ : State} {s : State} {f : Fld} {b : Bool} (hσ : Keeps σ s) : Keeps σ (State.setLhBit s f b) := by
  unfold State.setLhBit; simp (maxDischargeDepth := 40) [*]

@[simp] theorem State.lhCount_keeps {σ : State} {s : State} {f : Fld} {n : Nat} (hσ : Keeps σ s) : Keeps σ (State.lhCount s f n) := by
  unfold State.lhCount; simp (maxDischargeDepth := 40) [*]

@[simp] theorem State.setLhPair_keeps {σ : State} {s : State} {off v : Nat} (hσ : Keeps σ s) : Keeps σ (State.setLhPair s off v) := by
  unfold State.setLhPair; simp (maxDischargeDepth := 40) [*]

@[simp] theorem powered_keeps {σ : State} {k : State → State} {s : State} (hσ : Keeps σ s) (h_k : ∀ t, Keeps t (k t)) : Keeps σ (powered k s) := by
  replace h_k : ∀ {z} t, Keeps z t → Keeps z (k t) := fun t h => h.trans (h_k t)
  unfold powered; simp (maxDischargeDepth := 40) [*]

@[simp] theorem fireVector_keeps {σ : State} {fn v : Nat} {s : State} (hσ : Keeps σ s) : Keeps σ (fireVector fn v s) := by
  unfold fireVector; simp (maxDischargeDepth := 40) [*]

@[simp] theorem moderate_keeps {σ : State} {fn v count timeUs : Nat} {s : State} (hσ : Keeps σ s) : Keeps σ (moderate fn v count timeUs s) := by
  unfold moderate; simp (maxDischargeDepth := 40) [*]

@[simp] theorem asFunction_keeps {σ : State} {fn : Nat} {s : State} (hσ : Keeps σ s) : Keeps σ (asFunction fn s) := keeps_mk hσ

@[simp] theorem tmCross_keeps {σ : State} {off : Nat} {s : State} (hσ : Keeps σ s) : Keeps σ (tmCross off s).2 := by
  unfold tmCross; simp (maxDischargeDepth := 40) [*]

@[simp] theorem tmLevel_keeps {σ : State} {off level : Nat} {s : State} (hσ : Keeps σ s) : Keeps σ (tmLevel off level s).2 := by
  unfold tmLevel; (try dsimp only); (repeat' split) <;> simp (maxDischargeDepth := 40) [*]

@[simp] theorem tmConfig_keeps {σ : State} {off : Nat} {v : Word} {s : State} (hσ : Keeps σ s) : Keeps σ (tmConfig off v s).2 := by
  unfold tmConfig; (try dsimp only); (repeat' split) <;> simp (maxDischargeDepth := 40) [*]

@[simp] theorem tmRearm_keeps {σ : State} {off : Nat} {s : State} (hσ : Keeps σ s) : Keeps σ (tmRearm off s).2 := by
  unfold tmRearm; (try dsimp only); (repeat' split) <;> simp (maxDischargeDepth := 40) [*]

@[simp] theorem evStatus_keeps {σ : State} {s : State} (hσ : Keeps σ s) : Keeps σ (evStatus s) := by
  unfold evStatus; simp (maxDischargeDepth := 40) [*]

@[simp] theorem evWrite_keeps {σ : State} {e : Event} {delayed : Bool} {s : State} (hσ : Keeps σ s) : Keeps σ (evWrite e delayed s) := by
  unfold evWrite
  extract_lets tail s1 next s2 host s3 s4
  have h2 : Keeps σ s2 := State.setFld_keeps (asFunction_keeps (State.poke_keeps hσ))
  have h3 : Keeps σ s3 := by
    simp only [s3]; split
    · exact keeps_mk h2
    · exact h2
  have h4 : Keeps σ s4 := moderate_keeps h3
  split
  · exact fireVector_keeps h4
  · exact h4

@[simp] theorem evHold_keeps {σ : State} {e : Event} {s : State} (hσ : Keeps σ s) : Keeps σ (evHold e s) := by
  unfold evHold; dsimp only
  (repeat' split) <;> first
    | exact fireVector_keeps (keeps_mk hσ)
    | exact keeps_mk hσ
    | exact keeps_mk (State.count_keeps hσ)
    | exact keeps_mk (State.count_keeps (State.setBit_keeps hσ))
    | exact keeps_mk (State.count_keeps (State.setBit_keeps (State.setBit_keeps (State.setBit_keeps hσ))))

@[simp] theorem takeSeq_keeps {σ : State} {e : Event} {s : State} (hσ : Keeps σ s) : Keeps σ (takeSeq e s).2 := by
  unfold takeSeq; simp (maxDischargeDepth := 40) [*]

@[simp] theorem alertRelease_keeps {σ : State} {s : State} (hσ : Keeps σ s) : Keeps σ (alertRelease s) := by
  unfold alertRelease; simp (maxDischargeDepth := 40) [*]

@[simp] theorem writeLost_keeps {σ : State} {seq : Nat} {s : State} (hσ : Keeps σ s) : Keeps σ (writeLost seq s) := by
  unfold writeLost; simp (maxDischargeDepth := 40) [*]

@[simp] theorem emitCore_keeps {σ : State} {e : Event} {s : State} (hσ : Keeps σ s) : Keeps σ (emitCore e s) := by
  unfold emitCore; simp (maxDischargeDepth := 40) [*]

@[simp] theorem evLostNow_keeps {σ : State} {s : State} (hσ : Keeps σ s) : Keeps σ (evLostNow s) := by
  unfold evLostNow; (try dsimp only); (repeat' split) <;> simp (maxDischargeDepth := 40) [*]

@[simp] theorem evTide_keeps {σ : State} {s : State} (hσ : Keeps σ s) : Keeps σ (evTide s) := by
  unfold evTide; simp (maxDischargeDepth := 40) [*]

@[simp] theorem evDrain_keeps {σ : State} {y0 : Nat} {y1 : State} (hσ : Keeps σ y1) : Keeps σ (evDrain y0 y1) := by
  refine hσ.trans ?_
  clear hσ
  induction y0 generalizing y1 with
    | zero => simp (maxDischargeDepth := 40) [evDrain]
    | succ n ih =>
      unfold evDrain; (try dsimp only); (repeat' split)
      · exact Keeps.self _
      · refine Keeps.trans ?_ ih; simp (maxDischargeDepth := 40)
      · simp (maxDischargeDepth := 40)

@[simp] theorem evSettle_keeps {σ : State} {s : State} (hσ : Keeps σ s) : Keeps σ (evSettle s) := by
  unfold evSettle; simp (maxDischargeDepth := 40) [*]

@[simp] theorem emitNow_keeps {σ : State} {e : Event} {s : State} (hσ : Keeps σ s) : Keeps σ (emitNow e s) := by
  unfold emitNow; simp (maxDischargeDepth := 40) [*]

@[simp] theorem releaseEvents_keeps {σ : State} {s : State} (hσ : Keeps σ s) : Keeps σ (releaseEvents s) :=
  keeps_foldl (keeps_mk hσ) (fun _ _ => emitNow_keeps (Keeps.self _))

@[simp] theorem oneCycle_keeps {σ : State} {k : State → State} {s : State} (hσ : Keeps σ s) (h_k : ∀ t, Keeps t (k t)) : Keeps σ (oneCycle k s) := by
  unfold oneCycle; split
  · exact hσ.trans (h_k _)
  · exact releaseEvents_keeps ((keeps_mk hσ).trans (h_k _))

@[simp] theorem emit_keeps {σ : State} {code : Nat} {part : Option Nat} {unit inst w0 w1 w2 : Nat} {s : State} (hσ : Keeps σ s) : Keeps σ (emit code part unit inst w0 w1 w2 s) := by
  unfold emit; dsimp only; split
  · exact keeps_mk hσ
  · exact emitNow_keeps hσ

@[simp] theorem emitM_keeps {σ : State} {code unit inst w0 w1 w2 : Nat} {s : State} (hσ : Keeps σ s) : Keeps σ (emitM code unit inst w0 w1 w2 s) := by
  unfold emitM; simp (maxDischargeDepth := 40) [*]

@[simp] theorem tmNotify_keeps {σ : State} {r : Bool × State} {code unit inst w0 w1 : Nat} (hσ : Keeps σ r.2) : Keeps σ (tmNotify r code unit inst w0 w1) := by
  unfold tmNotify; simp (maxDischargeDepth := 40) [*]

/-! ## Queues -/

@[simp] theorem State.setQueue_keeps {σ : State} {s : State} {q : Nat} {x : Queue} (hσ : Keeps σ s) : Keeps σ (State.setQueue s q x) := by
  unfold State.setQueue; simp (maxDischargeDepth := 40) [*]

@[simp] theorem syncQ_keeps {σ : State} {q : Nat} {s : State} (hσ : Keeps σ s) : Keeps σ (syncQ q s) := by
  unfold syncQ; simp (maxDischargeDepth := 40) [*]

@[simp] theorem issueFetch_keeps {σ : State} {q : Nat} {s : State} (hσ : Keeps σ s) : Keeps σ (issueFetch q s) := by
  unfold issueFetch; simp (maxDischargeDepth := 40) [*]

@[simp] theorem writeResult_keeps {σ : State} {q : Nat} {r : Result} {s : State} (hσ : Keeps σ s) : Keeps σ (writeResult q r s) := by
  unfold writeResult; simp (maxDischargeDepth := 40) [*]

@[simp] theorem streamResult_keeps {σ : State} {q : Nat} {r : Result} {s : State} (hσ : Keeps σ s) : Keeps σ (streamResult q r s) := by
  unfold streamResult; simp (maxDischargeDepth := 40) [*]

@[simp] theorem endCmd_keeps {σ : State} {q id status reason handle value time : Nat} {s : State} (hσ : Keeps σ s) : Keeps σ (endCmd q id status reason handle value time s) := by
  unfold endCmd; split <;> simp (maxDischargeDepth := 40) [*]

@[simp] theorem holdVerdict_keeps {σ : State} {q id st : Nat} {s : State} (hσ : Keeps σ s) : Keeps σ (holdVerdict q id st s) := by
  unfold holdVerdict; simp (maxDischargeDepth := 40) [*]

@[simp] theorem noteTaker_keeps {σ : State} {q id order : Nat} {s : State} (hσ : Keeps σ s) : Keeps σ (noteTaker q id order s) := by
  unfold noteTaker; (try dsimp only); (repeat' split) <;> simp (maxDischargeDepth := 40) [*]

@[simp] theorem markBegun_keeps {σ : State} {q id : Nat} {s : State} (hσ : Keeps σ s) : Keeps σ (markBegun q id s) := by
  unfold markBegun; simp (maxDischargeDepth := 40) [*]

@[simp] theorem State.setKey_keeps {σ : State} {s : State} {slot : Nat} {k : Key} (hσ : Keeps σ s) : Keeps σ (State.setKey s slot k) := by
  unfold State.setKey
  split
  · simp [hσ]
  split
  · exact hσ.trans ⟨rfl, Nat.le_refl _, id, ⟨Nat.le_refl _, id, Nat.le_refl _⟩⟩
  split <;> exact hσ.trans ⟨rfl, Nat.le_refl _, id, ⟨Nat.le_refl _, id, Nat.le_refl _⟩⟩

@[simp] theorem authFail_keeps {σ : State} {c : QCmd} {s : State} (hσ : Keeps σ s) : Keeps σ (authFail c s) := by
  unfold authFail; simp (maxDischargeDepth := 40) [*]

@[simp] theorem storeCounter_keeps {σ : State} {c : QCmd} {s : State} (hσ : Keeps σ s) : Keeps σ (storeCounter c s).2 := by
  unfold storeCounter; (try dsimp only); (repeat' split) <;> simp (maxDischargeDepth := 40) [*]

@[simp] theorem criticalKey_keeps {σ : State} {q : Nat} {c : QCmd} {d : HostRead} {s : State} (hσ : Keeps σ s) : Keeps σ (criticalKey q c d s).2 := by
  unfold criticalKey; (try dsimp only); (repeat' split) <;> simp (maxDischargeDepth := 40) [*]

@[simp] theorem checkCmd_keeps {σ : State} {q : Nat} {c : QCmd} {reads : Bool} {d : HostRead} {s : State} (hσ : Keeps σ s) : Keeps σ (checkCmd q c reads d s).2 := by
  unfold checkCmd; simp (maxDischargeDepth := 40) [*]; (repeat' split) <;> (repeat (rename_i e; first | (have e2 := congrArg Prod.snd e; dsimp only at e2; subst e2; clear e) | revert e)) <;> intros <;> simp (maxDischargeDepth := 40) [*]

@[simp] theorem refuseRowless_keeps {σ : State} {q : Nat} {y0 : Nat} {y1 : State} (hσ : Keeps σ y1) : Keeps σ (refuseRowless q y0 y1) := by
  refine hσ.trans ?_
  clear hσ
  fun_induction refuseRowless q y0 y1 <;> (try dsimp only) <;> (try simp (maxDischargeDepth := 40) [*]) <;> (try (apply Keeps.trans _ (by assumption))) <;> simp (maxDischargeDepth := 40) [*]

@[simp] theorem advanceQ_keeps {σ : State} {q : Nat} {s : State} (hσ : Keeps σ s) : Keeps σ (advanceQ q s) := by
  unfold advanceQ; simp (maxDischargeDepth := 40) [*]

@[simp] theorem completeAt_keeps {σ : State} {q id status reason handle value time : Nat} {s : State} (hσ : Keeps σ s) : Keeps σ (completeAt q id status reason handle value time s) := by
  unfold completeAt; simp (maxDischargeDepth := 40) [*]

@[simp] theorem completeCmd_keeps {σ : State} {q id status reason handle value : Nat} {s : State} (hσ : Keeps σ s) : Keeps σ (completeCmd q id status reason handle value s) := by
  unfold completeCmd; simp (maxDischargeDepth := 40) [*]

@[simp] theorem beginCmd_keeps {σ : State} {q op : Nat} {reads : Bool} {d : HostRead} {k : QCmd → List Byte → State → State} {s : State} (hσ : Keeps σ s) (h_k : ∀ x0 x1 t, Keeps t (k x0 x1 t)) : Keeps σ (beginCmd q op reads d k s) := by
  replace h_k : ∀ {z} x0 x1 t, Keeps z t → Keeps z (k x0 x1 t) := fun x0 x1 t h => h.trans (h_k x0 x1 t)
  unfold beginCmd; (try dsimp only); (repeat' split) <;> (repeat (rename_i e; first | (have e2 := congrArg Prod.snd e; dsimp only at e2; subst e2; clear e) | revert e)) <;> intros <;> simp (maxDischargeDepth := 40) [*]

/-! ## Access -/

@[simp] theorem screen_keeps {σ : State} {p : Path} {off : Nat} {be : BitVec 4} {k : State → State} {s : State} (hσ : Keeps σ s) (h_k : ∀ t, Keeps t (k t)) : Keeps σ (screen p off be k s) := by
  replace h_k : ∀ {z} t, Keeps z t → Keeps z (k t) := fun t h => h.trans (h_k t)
  unfold screen; (repeat' split) <;> first
    | exact hσ
    | exact emitM_keeps hσ
    | exact h_k _ hσ

@[simp] theorem State.setPath_keeps {σ : State} {s : State} {p : Path} {x : PathState} (hσ : Keeps σ s) : Keeps σ (State.setPath s p x) := by
  unfold State.setPath; simp (maxDischargeDepth := 40) [*]

@[simp] theorem dropStaged_keeps {σ : State} {p : Path} {lo : Nat} {s : State} (hσ : Keeps σ s) : Keeps σ (dropStaged p lo s) := State.setPath_keeps hσ

/-! ## Plan -/

@[simp] theorem planPeak_keeps {σ : State} {s : State} (hσ : Keeps σ s) : Keeps σ (planPeak s) := by
  unfold planPeak; simp (maxDischargeDepth := 40) [*]

@[simp] theorem takeSeat_keeps {σ : State} {schedId : Nat} {sch : Schedule} {desc : Nat} {c : Cand} {s : State} (hσ : Keeps σ s) : Keeps σ (takeSeat schedId sch desc c s).2 := by
  unfold takeSeat; split <;> simp (maxDischargeDepth := 40) [*]

@[simp] theorem leaveSeat_keeps {σ : State} {i desc : Nat} {s : State} (hσ : Keeps σ s) : Keeps σ (leaveSeat i desc s) := by
  unfold leaveSeat; split <;> simp (maxDischargeDepth := 40) [*]

@[simp] theorem releaseRuns_keeps {σ : State} {s : State} (hσ : Keeps σ s) : Keeps σ (releaseRuns s) := by
  unfold releaseRuns; simp (maxDischargeDepth := 40) [*]

/-! ## Streams -/

@[simp] theorem State.setPort_keeps {σ : State} {s : State} {n : Nat} {x : Port} (hσ : Keeps σ s) : Keeps σ (State.setPort s n x) := by
  unfold State.setPort; simp (maxDischargeDepth := 40) [*]

@[simp] theorem State.setStream_keeps {σ : State} {s : State} {d : Nat} {x : Stream} (hσ : Keeps σ s) : Keeps σ (State.setStream s d x) := by
  unfold State.setStream; simp (maxDischargeDepth := 40) [*]

@[simp] theorem State.modStream_keeps {σ : State} {s : State} {d : Nat} {f : Stream → Stream} (hσ : Keeps σ s) : Keeps σ (State.modStream s d f) := by
  unfold State.modStream; split <;> simp (maxDischargeDepth := 40) [*]

@[simp] theorem countStreams_keeps {σ : State} {s : State} (hσ : Keeps σ s) : Keeps σ (countStreams s) := by
  unfold countStreams; simp (maxDischargeDepth := 40) [*]

@[simp] theorem noteRefusal_keeps {σ : State} {handle reason : Nat} {s : State} (hσ : Keeps σ s) : Keeps σ (noteRefusal handle reason s) := by
  unfold noteRefusal; simp (maxDischargeDepth := 40) [*]

@[simp] theorem State.drawSeed_keeps {σ : State} {s : State} {fixedSeed : Nat} (hσ : Keeps σ s) : Keeps σ (State.drawSeed s fixedSeed).2 := by
  unfold State.drawSeed
  split
  · exact hσ
  · exact hσ.trans ⟨rfl, Nat.le_succ _, id, ⟨Nat.le_refl _, id, Nat.le_refl _⟩⟩

@[simp] theorem poisonSync_keeps {σ : State} {s : State} (hσ : Keeps σ s) : Keeps σ (poisonSync s) := by
  unfold poisonSync
  refine keeps_foldl hσ fun u c => ?_
  dsimp only
  split
  · exact Keeps.self u
  · exact State.setFld_keeps (Keeps.self u)

@[simp] theorem dramWrote_keeps {σ : State} {a n : Nat} {s : State} (hσ : Keeps σ s) : Keeps σ (dramWrote a n s) := by
  unfold dramWrote; simp (maxDischargeDepth := 40) [*]

@[simp] theorem State.pokeDram_keeps {σ : State} {s : State} {a : Nat} {bs : List Byte} (hσ : Keeps σ s) : Keeps σ (State.pokeDram s a bs) := by
  unfold State.pokeDram; simp (maxDischargeDepth := 40) [*]

@[simp] theorem State.zeroDram_keeps {σ : State} {s : State} {a n : Nat} (hσ : Keeps σ s) : Keeps σ (State.zeroDram s a n) := by
  unfold State.zeroDram; (try dsimp only); (repeat' split) <;> simp (maxDischargeDepth := 40) [*]

@[simp] theorem accept_keeps {σ : State} {p : StreamPar} {st : SState} {epoch sink : Nat} {standing : Option Nat} {plan : Option Cand × Option Cand} {seed? : Option Nat} {s : State} (hσ : Keeps σ s) : Keeps σ (accept p st epoch sink standing plan seed? s).2 := by
  unfold accept; (try dsimp only); (repeat' split) <;> simp (maxDischargeDepth := 40) [*]

/-! ## Rings -/

@[simp] theorem zeroLane_keeps {σ : State} {start stride size lane width lo hi : Nat} {s : State} (hσ : Keeps σ s) : Keeps σ (zeroLane start stride size lane width lo hi s) := by
  exact hσ.trans ⟨rfl, Nat.le_refl _, filter_wf, SecLe.rfl' _⟩

@[simp] theorem handLane_keeps {σ : State} {n slot : Nat} {ebb : Bool} {part : Nat} {s : State} (hσ : Keeps σ s) : Keeps σ (handLane n slot ebb part s) := by
  unfold handLane; (try dsimp only)
  split
  · split
    · exact State.setPort_keeps hσ
    · refine keeps_foldl (State.setPort_keeps (State.setPort_keeps hσ)) (fun t v => ?_)
      split
      · exact zeroLane_keeps (zeroLane_keeps (Keeps.self t))
      · exact zeroLane_keeps (Keeps.self t)
  · exact State.setPort_keeps hσ

@[simp] theorem handLanes_keeps {σ : State} {p : StreamPar} {s : State} (hσ : Keeps σ s) : Keeps σ (handLanes p s) := by
  unfold handLanes; simp (maxDischargeDepth := 40) [*]

@[simp] theorem clearCuts_keeps {σ : State} {n : Nat} {v : Word} {s : State} (hσ : Keeps σ s) : Keeps σ (clearCuts n v s) := by
  unfold clearCuts; simp (maxDischargeDepth := 40) [*]

@[simp] theorem apTides_keeps {σ : State} {n : Nat} {s : State} (hσ : Keeps σ s) : Keeps σ (apTides n s) := by
  unfold apTides; simp (maxDischargeDepth := 40) [*]

/-! ## Pool -/

@[simp] theorem poolSync_keeps {σ : State} {s : State} (hσ : Keeps σ s) : Keeps σ (poolSync s) := by
  unfold poolSync; simp (maxDischargeDepth := 40) [*]

@[simp] theorem takeGranules_keeps {σ : State} {n : Nat} {s : State} (hσ : Keeps σ s) : Keeps σ (takeGranules n s).2 := by
  unfold takeGranules; simp (maxDischargeDepth := 40) [*]

@[simp] theorem releaseGranules_keeps {σ : State} {gs : List Nat} {wait : Option Nat} {s : State} (hσ : Keeps σ s) : Keeps σ (releaseGranules gs wait s) := by
  unfold releaseGranules; split <;> simp (maxDischargeDepth := 40) [*]

@[simp] theorem granulesZeroed_keeps {σ : State} {gs : List Nat} {s : State} (hσ : Keeps σ s) : Keeps σ (granulesZeroed gs s) := by
  unfold granulesZeroed; simp (maxDischargeDepth := 40) [*]

@[simp] theorem State.copyMem_keeps {σ : State} {s : State} {dst src n : Nat} (hσ : Keeps σ s) : Keeps σ (State.copyMem s dst src n) := by
  unfold State.copyMem; dsimp only
  refine dramWrote_keeps (hσ.trans ⟨rfl, Nat.le_refl _, fun w => ?_, SecLe.rfl' _⟩)
  exact memFold_wf (memZero_wf w)

@[simp] theorem toSwap_keeps {σ : State} {x : Stream} {idx : List Nat} {s : State} (hσ : Keeps σ s) : Keeps σ (toSwap x idx s) := by
  unfold toSwap; refine keeps_foldl hσ (fun _ _ => ?_)
  split <;> simp (maxDischargeDepth := 40)

@[simp] theorem fromSwap_keeps {σ : State} {x : Stream} {idx : List Nat} {s : State} (hσ : Keeps σ s) : Keeps σ (fromSwap x idx s) := by
  unfold fromSwap; refine keeps_foldl hσ (fun _ _ => ?_)
  split <;> simp (maxDischargeDepth := 40)

@[simp] theorem beginSwapOut_keeps {σ : State} {kind d : Nat} {s : State} (hσ : Keeps σ s) : Keeps σ (beginSwapOut kind d s) := by
  unfold beginSwapOut; split <;> simp (maxDischargeDepth := 40) [*]

@[simp] theorem evictUntil_keeps {σ : State} {part : Option Nat} {y0 y1 : Nat} {y2 : State} (hσ : Keeps σ y2) : Keeps σ (evictUntil part y0 y1 y2) := by
  refine hσ.trans ?_
  clear hσ
  fun_induction evictUntil part y0 y1 y2 <;> (try dsimp only) <;> (try simp (maxDischargeDepth := 40) [*]) <;> (try (apply Keeps.trans _ (by assumption))) <;> simp (maxDischargeDepth := 40) [*]

@[simp] theorem noteFull_keeps {σ : State} {s : State} {p : Nat} (hσ : Keeps σ s) : Keeps σ (noteFull s p) := by
  unfold noteFull; split
  · split <;> simp (maxDischargeDepth := 40) [*]
  · assumption

@[simp] theorem makeQuota_keeps {σ : State} {p n : Nat} {s : State} (hσ : Keeps σ s) : Keeps σ (makeQuota p n s) := by
  unfold makeQuota; dsimp only; split
  · exact keeps_foldl (evictUntil_keeps hσ) (fun _ _ => noteFull_keeps (by simp))
  · exact evictUntil_keeps hσ

@[simp] theorem makeRoom_keeps {σ : State} {p n : Nat} {s : State} (hσ : Keeps σ s) : Keeps σ (makeRoom p n s) := by
  unfold makeRoom; dsimp only; split
  · exact keeps_foldl (evictUntil_keeps (makeQuota_keeps hσ)) (fun _ _ => noteFull_keeps (by simp))
  · exact evictUntil_keeps (makeQuota_keeps hσ)

@[simp] theorem swapOutDone_keeps {σ : State} {d : Nat} {s : State} (hσ : Keeps σ s) : Keeps σ (swapOutDone d s) := by
  unfold swapOutDone; (try dsimp only); (repeat' split) <;> simp (maxDischargeDepth := 40) [*]

@[simp] theorem swapEvict_keeps {σ : State} {s : State} (hσ : Keeps σ s) : Keeps σ (swapEvict s) := by
  unfold swapEvict; split
  · exact keeps_foldl (evictUntil_keeps hσ) (fun _ _ => noteFull_keeps (by simp))
  · assumption

/-! ## Lease -/

@[simp] theorem State.setLink_keeps {σ : State} {s : State} {l : Nat} {x : LinkState} (hσ : Keeps σ s) : Keeps σ (State.setLink s l x) := by
  unfold State.setLink; simp (maxDischargeDepth := 40) [*]

@[simp] theorem pumpLink_keeps {σ : State} {l : Nat} {s : State} (hσ : Keeps σ s) : Keeps σ (pumpLink l s) := by
  unfold pumpLink; simp (maxDischargeDepth := 40) [*]

@[simp] theorem transmit_keeps {σ : State} {m : FabMsg} {s : State} (hσ : Keeps σ s) : Keeps σ (transmit m s) := by
  unfold transmit; simp (maxDischargeDepth := 40) [*]

@[simp] theorem sendMsg_keeps {σ : State} {dst part link : Option Nat} {b : MsgBody} {s : State} (hσ : Keeps σ s) : Keeps σ (sendMsg dst part link b s) := by
  unfold sendMsg; simp (maxDischargeDepth := 40) [*]

@[simp] theorem broadcast_keeps {σ : State} {b : MsgBody} {s : State} (hσ : Keeps σ s) : Keeps σ (broadcast b s) := by
  unfold broadcast; simp (maxDischargeDepth := 40) [*]

@[simp] theorem unicast_keeps {σ : State} {bay : Nat} {b : MsgBody} {s : State} (hσ : Keeps σ s) : Keeps σ (unicast bay b s) := by
  unfold unicast; simp (maxDischargeDepth := 40) [*]

@[simp] theorem noteLease_keeps {σ : State} {h epoch bay : Nat} {released : Bool} {s : State} (hσ : Keeps σ s) : Keeps σ (noteLease h epoch bay released s) := by
  unfold noteLease; split <;> simp (maxDischargeDepth := 40) [*]

@[simp] theorem announce_keeps {σ : State} {h epoch : Nat} {released : Bool} {s : State} (hσ : Keeps σ s) : Keeps σ (announce h epoch released s) := by
  unfold announce; simp (maxDischargeDepth := 40) [*]

@[simp] theorem leaveSeats_keeps {σ : State} {d : Nat} {x : Stream} {s : State} (hσ : Keeps σ s) : Keeps σ (leaveSeats d x s) := by
  unfold leaveSeats; (repeat' split) <;> simp (maxDischargeDepth := 40) [*]

@[simp] theorem pairSync_keeps {σ : State} {port : Nat} {s : State} (hσ : Keeps σ s) : Keeps σ (pairSync port s) := by
  unfold pairSync; simp (maxDischargeDepth := 40) [*]

@[simp] theorem portSync_keeps {σ : State} {port : Nat} {s : State} (hσ : Keeps σ s) : Keeps σ (portSync port s) := by
  unfold portSync; (try dsimp only); (repeat' split) <;> simp (maxDischargeDepth := 40) [*]

@[simp] theorem followStream_keeps {σ : State} {p : StreamPar} {s : State} (hσ : Keeps σ s) : Keeps σ (followStream p s) := by
  unfold followStream; (try dsimp only); (repeat' split) <;> simp (maxDischargeDepth := 40) [*]

@[simp] theorem giveGranules_keeps {σ : State} {d : Nat} {x : Stream} {s : State} (hσ : Keeps σ s) : Keeps σ (giveGranules d x s) := by
  unfold giveGranules; (try dsimp only); (repeat' split) <;> simp (maxDischargeDepth := 40) [*]

@[simp] theorem endLeavers_keeps {σ : State} {id : Nat} {s : State} (hσ : Keeps σ s) : Keeps σ (endLeavers id s) :=
  keeps_foldl (keeps_mk hσ) (fun _ _ => releaseGranules_keeps (Keeps.self _))

@[simp] theorem flightSync_keeps {σ : State} {s : State} (hσ : Keeps σ s) : Keeps σ (flightSync s) := by
  unfold flightSync; simp (maxDischargeDepth := 40) [*]

@[simp] theorem abandonSends_keeps {σ : State} {handle : Nat} {s : State} (hσ : Keeps σ s) : Keeps σ (abandonSends handle s) := by
  unfold abandonSends; (try dsimp only); (repeat' split) <;> simp (maxDischargeDepth := 40) [*]

@[simp] theorem removeStream_keeps {σ : State} {d : Nat} {s : State} (hσ : Keeps σ s) : Keeps σ (removeStream d s) := by
  unfold removeStream; split
  · exact hσ
  · dsimp only
    exact countStreams_keeps (followStream_keeps (keeps_mk (keeps_foldl (flightSync_keeps (abandonSends_keeps (keeps_mk (giveGranules_keeps (leaveSeats_keeps hσ)))))
      (fun _ _ => unicast_keeps (Keeps.self _)))))

@[simp] theorem endClose_keeps {σ : State} {x : Stream} {status : Nat} {s : State} (hσ : Keeps σ s) : Keeps σ (endClose x status s) := by
  unfold endClose; simp (maxDischargeDepth := 40) [*]

@[simp] theorem departStream_keeps {σ : State} {d mode : Nat} {s : State} (hσ : Keeps σ s) : Keeps σ (departStream d mode s) := by
  unfold departStream; (repeat' split) <;> simp (maxDischargeDepth := 40) [*]

@[simp] theorem dropStream_keeps {σ : State} {d epoch newBay : Nat} {s : State} (hσ : Keeps σ s) : Keeps σ (dropStream d epoch newBay s) := by
  unfold dropStream; (try dsimp only); (repeat' split) <;> simp (maxDischargeDepth := 40) [*]

@[simp] theorem failStream_keeps {σ : State} {d cause : Nat} {s : State} (hσ : Keeps σ s) : Keeps σ (failStream d cause s) := by
  unfold failStream; split
  · exact hσ
  · exact emit_keeps (flightSync_keeps (countStreams_keeps (followStream_keeps (keeps_mk (State.setStream_keeps (giveGranules_keeps (leaveSeats_keeps hσ)))))))

/-! ## HostCmds -/

@[simp] theorem effSqTail_keeps {σ : State} {q : Nat} {v : Word} {s : State} (hσ : Keeps σ s) : Keeps σ (effSqTail q v s) := by
  unfold effSqTail; simp (maxDischargeDepth := 40) [*]

@[simp] theorem takeSlots_keeps {σ : State} {q : Nat} {y0 : Nat} {y1 : Nat} {y2 : List Byte} {y3 : State} (hσ : Keeps σ y3) : Keeps σ (takeSlots q y0 y1 y2 y3) := by
  refine hσ.trans ?_
  clear hσ
  induction y0 generalizing y1 y2 y3 with
  | zero => simp [takeSlots]
  | succ n ih =>
    unfold takeSlots; simp only [keeps_ite]
    refine ⟨fun _ => Keeps.self _, fun _ => Keeps.trans ?_ ih⟩
    simp

@[simp] theorem takeTurn_keeps {σ : State} {q : Nat} {s : State} (hσ : Keeps σ s) : Keeps σ (takeTurn q s) := by
  unfold takeTurn; (try dsimp only); (repeat' split) <;> simp (maxDischargeDepth := 40) [*]

@[simp] theorem effRqHead_keeps {σ : State} {q : Nat} {v : Word} {s : State} (hσ : Keeps σ s) : Keeps σ (effRqHead q v s) := by
  unfold effRqHead; simp (maxDischargeDepth := 40) [*]

@[simp] theorem effQueueEnable_keeps {σ : State} {q : Nat} {s : State} (hσ : Keeps σ s) : Keeps σ (effQueueEnable q s) := by
  unfold effQueueEnable; simp (maxDischargeDepth := 40) [*]

@[simp] theorem effQueueDisable_keeps {σ : State} {q : Nat} {s : State} (hσ : Keeps σ s) : Keeps σ (effQueueDisable q s) := by
  unfold effQueueDisable; simp (maxDischargeDepth := 40) [*]

@[simp] theorem ringReturn_keeps {σ : State} {q : Nat} {s : State} (hσ : Keeps σ s) : Keeps σ (ringReturn q s) := by
  unfold ringReturn; simp (maxDischargeDepth := 40) [*]

@[simp] theorem abortFetched_keeps {σ : State} {q : Nat} {y0 : Nat} {y1 : State} (hσ : Keeps σ y1) : Keeps σ (abortFetched q y0 y1) := by
  refine hσ.trans ?_
  clear hσ
  fun_induction abortFetched q y0 y1 <;> (try dsimp only) <;> (try simp (maxDischargeDepth := 40) [*]) <;> (try (apply Keeps.trans _ (by assumption))) <;> simp (maxDischargeDepth := 40) [*]

@[simp] theorem fetchReturn_keeps {σ : State} {q : Nat} {r : HostRead} {s : State} (hσ : Keeps σ s) : Keeps σ (fetchReturn q r s) := by
  unfold fetchReturn; (try dsimp only); (repeat' split) <;> simp (maxDischargeDepth := 40) [*]

@[simp] theorem effQueueReset_keeps {σ : State} {q : Nat} {s : State} (hσ : Keeps σ s) : Keeps σ (effQueueReset q s) := by
  unfold effQueueReset; simp (maxDischargeDepth := 40) [*]

@[simp] theorem flrQueue_keeps {σ : State} {q : Nat} {s : State} (hσ : Keeps σ s) : Keeps σ (flrQueue q s) := by
  unfold flrQueue; simp (maxDischargeDepth := 40) [*]

@[simp] theorem effQueueCfg_keeps {σ : State} {q : Nat} {f : State → State} {s : State} (hσ : Keeps σ s) (h_f : ∀ t, Keeps t (f t)) : Keeps σ (effQueueCfg q f s) := by
  replace h_f : ∀ {z} t, Keeps z t → Keeps z (f t) := fun t h => h.trans (h_f t)
  unfold effQueueCfg; simp (maxDischargeDepth := 40) [*]

@[simp] theorem evSilence_keeps {σ : State} {s : State} (hσ : Keeps σ s) : Keeps σ (evSilence s) := by
  unfold evSilence; (try dsimp only); (repeat' split) <;> simp (maxDischargeDepth := 40) [*]

@[simp] theorem effEvqCfg_keeps {σ : State} {v : Word} {s : State} (hσ : Keeps σ s) : Keeps σ (effEvqCfg v s) := by
  unfold effEvqCfg; simp (maxDischargeDepth := 40) [*]

@[simp] theorem effEvqHead_keeps {σ : State} {v : Word} {s : State} (hσ : Keeps σ s) : Keeps σ (effEvqHead v s) := by
  unfold effEvqHead; simp (maxDischargeDepth := 40) [*]

@[simp] theorem effEvqLostClear_keeps {σ : State} {s : State} (hσ : Keeps σ s) : Keeps σ (effEvqLostClear s) := by
  unfold effEvqLostClear; simp (maxDischargeDepth := 40) [*]

@[simp] theorem unmask_keeps {σ : State} {fn v : Nat} {s : State} (hσ : Keeps σ s) : Keeps σ (unmask fn v s) := by
  unfold unmask; simp (maxDischargeDepth := 40) [*]

@[simp] theorem execSqTailDoorbell_keeps {σ : State} {path : Path} {q : Fin 65} {v : Word} {s : State} (hσ : Keeps σ s) : Good σ (execSqTailDoorbell path q v s) := by
  unfold execSqTailDoorbell; simp (maxDischargeDepth := 40) [*]

@[simp] theorem execRqHeadWrite_keeps {σ : State} {path : Path} {q : Fin 65} {v : Word} {s : State} (hσ : Keeps σ s) : Good σ (execRqHeadWrite path q v s) := by
  unfold execRqHeadWrite; simp (maxDischargeDepth := 40) [*]

@[simp] theorem execQueueEnable_keeps {σ : State} {path : Path} {q : Fin 65} {s : State} (hσ : Keeps σ s) : Good σ (execQueueEnable path q s) := by
  unfold execQueueEnable; simp (maxDischargeDepth := 40) [*]

@[simp] theorem execQueueDisable_keeps {σ : State} {path : Path} {q : Fin 65} {s : State} (hσ : Keeps σ s) : Good σ (execQueueDisable path q s) := by
  unfold execQueueDisable; simp (maxDischargeDepth := 40) [*]

@[simp] theorem execQueueReset_keeps {σ : State} {path : Path} {q : Fin 65} {s : State} (hσ : Keeps σ s) : Good σ (execQueueReset path q s) := by
  unfold execQueueReset; simp (maxDischargeDepth := 40) [*]

@[simp] theorem queueCfgSet_keeps {σ : State} {q : Nat} {which : QueueCfg} {v : Dword} {s : State} (hσ : Keeps σ s) : Keeps σ (queueCfgSet q which v s) := by
  unfold queueCfgSet; split <;> simp (maxDischargeDepth := 40) [*]

@[simp] theorem execQueueCfgWrite_keeps {σ : State} {path : Path} {q : Fin 65} {which : QueueCfg} {v : Dword} {s : State} (hσ : Keeps σ s) : Good σ (execQueueCfgWrite path q which v s) := by
  unfold execQueueCfgWrite; simp (maxDischargeDepth := 40) [*]

@[simp] theorem execEvqCfgWrite_keeps {σ : State} {path : Path} {v : Word} {s : State} (hσ : Keeps σ s) : Good σ (execEvqCfgWrite path v s) := by
  unfold execEvqCfgWrite; simp (maxDischargeDepth := 40) [*]

@[simp] theorem execEvqHeadWrite_keeps {σ : State} {path : Path} {v : Word} {s : State} (hσ : Keeps σ s) : Good σ (execEvqHeadWrite path v s) := by
  unfold execEvqHeadWrite; simp (maxDischargeDepth := 40) [*]

@[simp] theorem execEvqLostClear_keeps {σ : State} {path : Path} {s : State} (hσ : Keeps σ s) : Good σ (execEvqLostClear path s) := by
  unfold execEvqLostClear; simp (maxDischargeDepth := 40) [*]

@[simp] theorem execMsixModerationTimer_keeps {σ : State} {fn : Fin 65} {vec : Fin 2} {s : State} (hσ : Keeps σ s) : Good σ (execMsixModerationTimer fn vec s) := by
  unfold execMsixModerationTimer; simp (maxDischargeDepth := 40) [*]

@[simp] theorem execMsixUnmask_keeps {σ : State} {fn : Fin 65} {vec : Fin 4} {s : State} (hσ : Keeps σ s) : Good σ (execMsixUnmask fn vec s) := by
  unfold execMsixUnmask; simp (maxDischargeDepth := 40) [*]

@[simp] theorem execKeyRefusalEnd_keeps {σ : State} {slot : Nat} {s : State} (hσ : Keeps σ s) : Good σ (execKeyRefusalEnd slot s) := by
  unfold execKeyRefusalEnd; simp (maxDischargeDepth := 40) [*]

/-! ## Fail -/

@[simp] theorem portsHiZ_keeps {σ : State} {s : State} (hσ : Keeps σ s) : Keeps σ (portsHiZ s) := by
  unfold portsHiZ; simp (maxDischargeDepth := 40) [*]

@[simp] theorem linksIdle_keeps {σ : State} {s : State} (hσ : Keeps σ s) : Keeps σ (linksIdle s) := by
  unfold linksIdle; dsimp only
  exact State.setFld_keeps (State.setReg_keeps (State.setReg_keeps (keeps_foldl hσ (fun _ _ => State.setLink_keeps (State.setReg_keeps (Keeps.self _))))))

@[simp] theorem enterNeap_keeps {σ : State} {reason : Nat} {s : State} (hσ : Keeps σ s) : Keeps σ (enterNeap reason s) := by
  unfold enterNeap; simp (maxDischargeDepth := 40) [*]

@[simp] theorem startFail_keeps {σ : State} {reason detail : Nat} {s : State} (hσ : Keeps σ s) : Keeps σ (startFail reason detail s) := by
  unfold startFail; simp (maxDischargeDepth := 40) [*]

@[simp] theorem haltModuleChan_keeps {σ : State} {c : Nat} {s : State} (hσ : Keeps σ s) : Keeps σ (haltModuleChan c s) := by
  unfold haltModuleChan; (try dsimp only); (repeat' split) <;> simp (maxDischargeDepth := 40) [*]

@[simp] theorem dmaHalt_keeps {σ : State} {s : State} (hσ : Keeps σ s) : Keeps σ (dmaHalt s) := by
  unfold dmaHalt; simp (maxDischargeDepth := 40) [*]

@[simp] theorem refuseAdmin_keeps {σ : State} {s : State} (hσ : Keeps σ s) : Keeps σ (refuseAdmin s) :=
  keeps_foldl hσ (fun _ _ => completeCmd_keeps (Keeps.self _))

@[simp] theorem abortPartitions_keeps {σ : State} {s : State} (hσ : Keeps σ s) : Keeps σ (abortPartitions s) := by
  refine keeps_foldl hσ (fun t q => ?_)
  split
  · exact refuseAdmin_keeps (Keeps.self _)
  · exact syncQ_keeps (abortFetched_keeps (State.setQueue_keeps (Keeps.self _)))

@[simp] theorem haltWork_keeps {σ : State} {s : State} (hσ : Keeps σ s) : Keeps σ (haltWork s) :=
  keeps_mk (keeps_foldl (dmaHalt_keeps hσ) (fun _ _ => endLeavers_keeps (Keeps.self _)))

@[simp] theorem latchLast_keeps {σ : State} {event unit cause : Nat} {s : State} (hσ : Keeps σ s) : Keeps σ (latchLast event unit cause s) := by
  unfold latchLast; simp (maxDischargeDepth := 40) [*]

@[simp] theorem failStop_keeps {σ : State} {event unit cause : Nat} {s : State} (hσ : Keeps σ s) : Keeps σ (failStop event unit cause s) := by
  unfold failStop; simp (maxDischargeDepth := 40) [*]

@[simp] theorem latchFault_keeps {σ : State} {off cause : Nat} {s : State} (hσ : Keeps σ s) : Keeps σ (latchFault off cause s) := by
  unfold latchFault; split <;> simp (maxDischargeDepth := 40) [*]

@[simp] theorem unitFault_keeps {σ : State} {off unit event cause code : Nat} {s : State} (hσ : Keeps σ s) : Keeps σ (unitFault off unit event cause code s) := by
  unfold unitFault; simp (maxDischargeDepth := 40) [*]

@[simp] theorem spFault_keeps {σ : State} {core cause : Nat} {s : State} (hσ : Keeps σ s) : Keeps σ (spFault core cause s) := by
  unfold spFault; simp (maxDischargeDepth := 40) [*]

@[simp] theorem meFault_keeps {σ : State} {core cause : Nat} {s : State} (hσ : Keeps σ s) : Keeps σ (meFault core cause s) := by
  unfold meFault; simp (maxDischargeDepth := 40) [*]

@[simp] theorem veFault_keeps {σ : State} {core cause : Nat} {s : State} (hσ : Keeps σ s) : Keeps σ (veFault core cause s) := by
  unfold veFault; simp (maxDischargeDepth := 40) [*]

@[simp] theorem ruFault_keeps {σ : State} {core cause : Nat} {s : State} (hσ : Keeps σ s) : Keeps σ (ruFault core cause s) := by
  unfold ruFault; simp (maxDischargeDepth := 40) [*]

@[simp] theorem tpFault_keeps {σ : State} {cause : Nat} {s : State} (hσ : Keeps σ s) : Keeps σ (tpFault cause s) := by
  unfold tpFault; simp (maxDischargeDepth := 40) [*]

@[simp] theorem mcFatal_keeps {σ : State} {cause addr : Nat} {s : State} (hσ : Keeps σ s) : Keeps σ (mcFatal cause addr s) := by
  unfold mcFatal; simp (maxDischargeDepth := 40) [*]

@[simp] theorem dmaFault_keeps {σ : State} {cause : Nat} {s : State} (hσ : Keeps σ s) : Keeps σ (dmaFault cause s) := by
  unfold dmaFault; simp (maxDischargeDepth := 40) [*]

end Sys2Proof.Machine
end

