-- ==== Sys2Proof/Laws/KeepsDma.lean ====
section
/-! SUPPORT. One lemma per operation: what translation, scratchpads, DMA and step boundaries keep. -/

set_option maxRecDepth 8000

namespace Sys2Proof.Machine

/-! ## Xlate -/

@[simp] theorem correctBurst_keeps {σ : State} {a : Nat} {s : State} (hσ : Keeps σ s) : Keeps σ (correctBurst a s) := by
  unfold correctBurst
  extract_lets c s1 due
  have h1 : Keeps σ s1 := State.count_keeps hσ
  split
  · exact emitM_keeps (keeps_mk h1)
  · exact h1

@[simp] theorem noteUe_keeps {σ : State} {a : Nat} {s : State} (hσ : Keeps σ s) : Keeps σ (noteUe a s) := by
  unfold noteUe; simp (maxDischargeDepth := 40) [*]

@[simp] theorem walkFail_keeps {σ : State} {code cause va ptr w0 w2 : Nat} {s : State} (hσ : Keeps σ s) : Keeps σ (walkFail code cause va ptr w0 w2 s) := by
  unfold walkFail; (try dsimp only); (repeat' split) <;> simp (maxDischargeDepth := 40) [*]

@[simp] theorem State.setChan_keeps {σ : State} {s : State} {c : Nat} {x : Chan} (hσ : Keeps σ s) : Keeps σ (State.setChan s c x) := by
  unfold State.setChan; simp (maxDischargeDepth := 40) [*]

@[simp] theorem walkOp_keeps {σ : State} {c p va access : Nat} {s : State} (hσ : Keeps σ s) : Keeps σ (walkOp c p va access s).2 := by
  unfold walkOp; (try dsimp only); (repeat' split) <;> simp (maxDischargeDepth := 40) [*]

@[simp] theorem translate_keeps {σ : State} {c p va access : Nat} {s : State} (hσ : Keeps σ s) : Keeps σ (translate c p va access s).2 := by
  unfold translate; dsimp only
  cases hh : (s.chan c).hit va with
  | some l => dsimp only; split <;> simp (maxDischargeDepth := 40) [*]
  | none =>
    have key := walkOp_keeps (c := c) (p := p) (va := va) (access := access) hσ
    dsimp only
    generalize walkOp c p va access s = r at key
    obtain ⟨_ | l, t⟩ := r
    · exact key
    · dsimp only at *; split <;> simp [key]

@[simp] theorem allocTable_keeps {σ : State} {p size : Nat} {s : State} (hσ : Keeps σ s) : Keeps σ (allocTable p size s).2 := by
  unfold allocTable; (try dsimp only); (repeat' split) <;> simp (maxDischargeDepth := 40) [*]

theorem putEntry_keeps {σ : State} {p va : Nat} {large : Bool} {e : Nat} {y0 : Nat} {y1 : Nat} {y2 : State} (hσ : Keeps σ y2) : ∀ t, putEntry p va large e y0 y1 y2 = some t → Keeps σ t := by
  intro t e0
  induction y0 generalizing y1 y2 σ with
  | zero => simp [putEntry] at e0
  | succ n ih =>
    unfold putEntry at e0; dsimp only at e0
    generalize y1 + 8 * _ = a0 at e0
    generalize bitsOf (leNat (y2.peek a0 8)) 47 8 * 256 = a1 at e0
    split at e0
    · cases e0; simp (maxDischargeDepth := 40) [*]
    · split at e0
      · exact ih hσ e0
      · have key := allocTable_keeps (p := p) (size := if 3 - n = 2 then 256 else 4096) hσ
        generalize allocTable p (if 3 - n = 2 then 256 else 4096) y2 = r at *
        obtain ⟨_ | a, s'⟩ := r
        · cases e0
        · exact ih (σ := σ) (State.pokeDram_keeps key) e0

@[simp] theorem flushTlb_keeps {σ : State} {p va n : Nat} {s : State} (hσ : Keeps σ s) : Keeps σ (flushTlb p va n s) := by
  unfold flushTlb; simp (maxDischargeDepth := 40) [*]

@[simp] theorem noteExtent_keeps {σ : State} {p va : Nat} {e : Option Nat} {s : State} (hσ : Keeps σ s) : Keeps σ (noteExtent p va e s) := by
  unfold noteExtent; simp (maxDischargeDepth := 40) [*]

theorem applyLeaves_keeps {σ : State} {p : Nat} {q : Quota} {m : MapEntry} {y0 : Nat} {y1 : Nat} {y2 : State} (hσ : Keeps σ y2) : ∀ t, applyLeaves p q m y0 y1 y2 = some t → Keeps σ t := by
  intro t e0
  induction y0 generalizing y1 y2 σ with
  | zero => simp only [applyLeaves, Option.some.injEq] at e0; cases e0; exact hσ
  | succ n ih =>
    unfold applyLeaves at e0; dsimp only at e0
    split at e0
    · rename_i h; exact ih (by simp [putEntry_keeps hσ _ h]) e0
    · cases e0

theorem applyMap_keeps {σ : State} {p : Nat} {q : Quota} {y0 : Nat} {y1 : List MapEntry} {y2 : State} (hσ : Keeps σ y2) : ∀ t, applyMap p q y0 y1 y2 = .ok t → Keeps σ t := by
  intro t e0
  induction y1 generalizing y0 y2 σ with
  | nil => simp only [applyMap] at e0; cases e0; exact hσ
  | cons m rest ih =>
    unfold applyMap at e0
    split at e0
    · rename_i h; exact ih (by simp [applyLeaves_keeps hσ _ h]) e0
    · cases e0

theorem mappingBlock_keeps {σ : State} {p : Nat} {b : List Byte} {s : State} (hσ : Keeps σ s) : ∀ t, mappingBlock p b s = .ok t → Keeps σ t := by
  intro t e0
  unfold mappingBlock at e0
  split at e0
  · split at e0
    · cases e0
    · exact applyMap_keeps hσ _ e0
  · cases e0

/-! ## Spad -/

@[simp] theorem State.setCore_keeps {σ : State} {s : State} {core : Nat} {c : CoreState} (hσ : Keeps σ s) : Keeps σ (State.setCore s core c) := by
  unfold State.setCore; simp (maxDischargeDepth := 40) [*]

@[simp] theorem unpoison_keeps {σ : State} {core a n : Nat} {s : State} (hσ : Keeps σ s) : Keeps σ (unpoison core a n s) := by
  unfold unpoison; simp (maxDischargeDepth := 40) [*]

@[simp] theorem pokeSpad_keeps {σ : State} {core a : Nat} {bs : List Byte} {s : State} (hσ : Keeps σ s) : Keeps σ (pokeSpad core a bs s) := by
  unfold pokeSpad; simp (maxDischargeDepth := 40) [*]

@[simp] theorem markErased_keeps {σ : State} {cmd : Option Nat} {s : State} (hσ : Keeps σ s) : Keeps σ (markErased cmd s) := by
  unfold markErased; (repeat' split) <;> simp (maxDischargeDepth := 40) [*]

@[simp] theorem retainedUe_keeps {σ : State} {core key w : Nat} {s : State} (hσ : Keeps σ s) : Keeps σ (retainedUe core key w s) := by
  unfold retainedUe; split <;> simp (maxDischargeDepth := 40) [*]

@[simp] theorem poisonWord_keeps {σ : State} {core w : Nat} {s : State} (hσ : Keeps σ s) : Keeps σ (poisonWord core w s) := by
  unfold poisonWord; simp (maxDischargeDepth := 40) [*]

@[simp] theorem readBad_keeps {σ : State} {core : Nat} {cmd : Option Nat} {y0 : List Nat} {y1 : State} (hσ : Keeps σ y1) : Keeps σ (readBad core cmd y0 y1).2 := by
  refine hσ.trans ?_
  clear hσ
  induction y0 generalizing y1 with
    | nil => simp (maxDischargeDepth := 40) [readBad]
    | cons a0 l0 ih => unfold readBad; (try dsimp only); (repeat' split) <;> (try refine Keeps.trans ?_ ih) <;> simp (maxDischargeDepth := 40) [*]

@[simp] theorem spadScan_keeps {σ : State} {core part : Nat} {cmd : Option Nat} {reads writes : List (Nat × Nat)} {u : Upset} {s : State} (hσ : Keeps σ s) : Keeps σ (spadScan core part cmd reads writes u s).2 := by
  unfold spadScan; split <;> simp (maxDischargeDepth := 40) [*]

@[simp] theorem spadEcc_keeps {σ : State} {e : Ecc} {s : State} (hσ : Keeps σ s) : Keeps σ (spadEcc e s) := by
  refine keeps_foldl (keeps_foldl hσ (fun _ _ => State.count_keeps (Keeps.self _))) (fun t c => ?_)
  dsimp only; (repeat' split) <;> simp

@[simp] theorem applyEcc_keeps {σ : State} {e : Ecc} {s : State} (hσ : Keeps σ s) : Keeps σ (applyEcc e s) := by
  have h : Keeps σ (e.link.foldl (fun s (c : Fin 12) => s.count (F.mcLinkEccCount c) 1) (e.corrected.foldl (fun s a => correctBurst a s) (spadEcc e s))) :=
    keeps_foldl (keeps_foldl (spadEcc_keeps hσ) (fun _ _ => correctBurst_keeps (Keeps.self _))) (fun _ _ => State.count_keeps (Keeps.self _))
  unfold applyEcc; dsimp only; split
  · exact h
  · exact poisonSync_keeps (keeps_mk h)

@[simp] theorem execTranslationWalk_keeps {σ : State} {c : Fin 64} {va : BitVec 48} {write : Bool} {ecc : Ecc} {s : State} (hσ : Keeps σ s) : Good σ (execTranslationWalk c va write ecc s) := by
  unfold execTranslationWalk; simp (maxDischargeDepth := 40) [*]

@[simp] theorem State.setEngines_keeps {σ : State} {s : State} {core : Nat} {e : Engines} (hσ : Keeps σ s) : Keeps σ (State.setEngines s core e) := by
  unfold State.setEngines; simp (maxDischargeDepth := 40) [*]

@[simp] theorem State.setMe_keeps {σ : State} {s : State} {core : Nat} {m : MeUnit} (hσ : Keeps σ s) : Keeps σ (State.setMe s core m) := by
  unfold State.setMe; simp (maxDischargeDepth := 40) [*]

@[simp] theorem State.setVe_keeps {σ : State} {s : State} {core : Nat} {v : VeUnit} (hσ : Keeps σ s) : Keeps σ (State.setVe s core v) := by
  unfold State.setVe; simp (maxDischargeDepth := 40) [*]

@[simp] theorem State.setRu_keeps {σ : State} {s : State} {core : Nat} {r : RuUnit} (hσ : Keeps σ s) : Keeps σ (State.setRu s core r) := by
  unfold State.setRu; simp (maxDischargeDepth := 40) [*]

@[simp] theorem State.setSeq_keeps {σ : State} {s : State} {core : Nat} {q : Option Seq} (hσ : Keeps σ s) : Keeps σ (State.setSeq s core q) := by
  unfold State.setSeq; simp (maxDischargeDepth := 40) [*]

@[simp] theorem wipeCore_keeps {σ : State} {core : Nat} {s : State} (hσ : Keeps σ s) : Keeps σ (wipeCore core s) := by
  unfold wipeCore; (try dsimp only); (repeat' split) <;> simp (maxDischargeDepth := 40) [*]

@[simp] theorem advance_keeps {σ : State} {core : Nat} {q : Seq} {r : Rec} {s : State} (hσ : Keeps σ s) : Keeps σ (advance core q r s) := by
  unfold advance; simp (maxDischargeDepth := 40) [*]

@[simp] theorem orReg_keeps {σ : State} {off mask : Nat} {s : State} (hσ : Keeps σ s) : Keeps σ (orReg off mask s) := by
  unfold orReg; simp (maxDischargeDepth := 40) [*]

/-! ## Dma -/

@[simp] theorem hostGot_keeps {σ : State} {fn : Nat} {ext : HostRead} {k n : Nat} {s : State} (hσ : Keeps σ s) : Keeps σ (hostGot fn ext k n s).2 := by
  unfold hostGot; (try dsimp only); (repeat' split) <;> simp (maxDischargeDepth := 40) [*]

@[simp] theorem weightUe_keeps {σ : State} {p va addr : Nat} {cmd : Option Nat} {s : State} (hσ : Keeps σ s) : Keeps σ (weightUe p va addr cmd s) := by
  unfold weightUe; (try dsimp only); (repeat' split) <;> simp (maxDischargeDepth := 40) [*]

@[simp] theorem gotDram_keeps {σ : State} {a n : Nat} {s : State} (hσ : Keeps σ s) : Keeps σ (gotDram a n s).2 := by
  unfold gotDram; split <;> simp (maxDischargeDepth := 40) [*]

@[simp] theorem gotPool_keeps {σ : State} {p a n : Nat} {s : State} (hσ : Keeps σ s) : Keeps σ (gotPool p a n s).2 := by
  unfold gotPool; simp (maxDischargeDepth := 40) [*]

@[simp] theorem excNote_keeps {σ : State} {c : Nat} {l : Leaf} {b : Nat} {k : State → State} {s : State} (hσ : Keeps σ s) (h_k : ∀ t, Keeps t (k t)) : Keeps σ (excNote c l b k s) := by
  unfold excNote; dsimp only; split
  · exact hσ
  · exact (State.setChan_keeps hσ).trans (h_k _)

@[simp] theorem gotExc_keeps {σ : State} {c p : Nat} {l : Leaf} {cmd : Option Nat} {y0 : Nat} {y1 : Nat} {y2 : Nat} {y3 : State} (hσ : Keeps σ y3) : Keeps σ (gotExc c p l cmd y0 y1 y2 y3).2 := by
  refine hσ.trans ?_
  clear hσ
  induction y0 generalizing y1 y2 y3 with
    | zero => simp (maxDischargeDepth := 40) [gotExc]
    | succ n ih =>
      unfold gotExc; dsimp only
      split
      · exact Keeps.self _
      · split <;> dsimp only
        · refine Keeps.trans (excNote_keeps (Keeps.self _) (fun t => ?_)) ih; simp (maxDischargeDepth := 40)
        · refine Keeps.trans (excNote_keeps (Keeps.self _) (fun t => ?_)) ih; simp (maxDischargeDepth := 40)
        · simp (maxDischargeDepth := 40)

@[simp] theorem gotLeaf_keeps {σ : State} {c p : Nat} {l : Leaf} {va n k : Nat} {cmd : Option Nat} {ext : HostRead} {s : State} (hσ : Keeps σ s) : Keeps σ (gotLeaf c p l va n k cmd ext s).2 := by
  unfold gotLeaf; (try dsimp only); (repeat' split) <;> simp (maxDischargeDepth := 40) [*]

@[simp] theorem gotVa_keeps {σ : State} {c p : Nat} {cmd : Option Nat} {ext : HostRead} {y0 : Nat} {y1 : Nat} {y2 : Nat} {y3 : Nat} {y4 : State} (hσ : Keeps σ y4) : Keeps σ (gotVa c p cmd ext y0 y1 y2 y3 y4).2 := by
  induction y0 generalizing σ y1 y2 y3 y4 with
  | zero => exact hσ
  | succ f ih =>
    unfold gotVa; dsimp only
    have key := translate_keeps (c := c) (p := p) (va := y1) (access := 1) hσ
    generalize translate c p y1 1 y4 = r at key
    obtain ⟨_ | l, t⟩ := r
    · exact key
    · dsimp only
      split
      · exact gotLeaf_keeps key
      · exact ih (gotLeaf_keeps key)

@[simp] theorem gotSeg_keeps {σ : State} {w : Who} {word a n k : Nat} {ext : HostRead} {s : State} (hσ : Keeps σ s) : Keeps σ (gotSeg w word a n k ext s).2 := by
  unfold gotSeg
  split
  · (repeat' split) <;> simp (maxDischargeDepth := 40) [*]
  · split
    · have key := spadScan_keeps (core := coreOf word) (part := w.part) (cmd := w.cmd) (reads := [(a, n)]) (writes := []) (u := {}) hσ
      generalize spadScan (coreOf word) w.part w.cmd [(a, n)] [] {} s = r at key
      obtain ⟨_ | _, t⟩ := r <;> exact key
    · simp (maxDischargeDepth := 40) [*]

@[simp] theorem putHost_keeps {σ : State} {w : Who} {a : Nat} {bs : List Byte} {s : State} (hσ : Keeps σ s) : Keeps σ (putHost w a bs s) := by
  unfold putHost; (try dsimp only); (repeat' split) <;> simp (maxDischargeDepth := 40) [*]

@[simp] theorem putPeer_keeps {σ : State} {w : Who} {bay a k : Nat} {frl : Nat} {bs : List Byte} {s : State} (hσ : Keeps σ s) : Keeps σ (putPeer w bay a k frl bs s) := by
  unfold putPeer; simp (maxDischargeDepth := 40) [*]

@[simp] theorem askPeer_keeps {σ : State} {w : Who} {bay a k n : Nat} {s : State} (hσ : Keeps σ s) : Keeps σ (askPeer w bay a k n s) := by
  unfold askPeer; simp (maxDischargeDepth := 40) [*]

@[simp] theorem putFrl_keeps {σ : State} {l : Leaf} {y0 : Nat} {y1 : Nat} {y2 : List Byte} {y3 : State} (hσ : Keeps σ y3) : Keeps σ (putFrl l y0 y1 y2 y3) := by
  refine hσ.trans ?_
  clear hσ
  induction y0 generalizing y1 y2 y3 with
    | zero => simp (maxDischargeDepth := 40) [putFrl]
    | succ n ih => unfold putFrl; (try dsimp only); (repeat' split) <;> (try refine Keeps.trans ?_ ih) <;> simp (maxDischargeDepth := 40) [*]

@[simp] theorem putLeaf_keeps {σ : State} {w : Who} {l : Leaf} {va k frl : Nat} {bs : List Byte} {s : State} (hσ : Keeps σ s) : Keeps σ (putLeaf w l va k frl bs s) := by
  unfold putLeaf; simp (maxDischargeDepth := 40) [*]

@[simp] theorem putVa_keeps {σ : State} {w : Who} {frl : Nat} {y0 : Nat} {y1 : Nat} {y2 : Nat} {y3 : List Byte} {y4 : State} (hσ : Keeps σ y4) : Keeps σ (putVa w frl y0 y1 y2 y3 y4).2 := by
  induction y0 generalizing σ y1 y2 y3 y4 with
  | zero => exact hσ
  | succ f ih =>
    unfold putVa
    split
    · exact hσ
    · dsimp only
      have key := translate_keeps (c := w.ch) (p := w.part) (va := y1) (access := 2) hσ
      generalize translate w.ch w.part y1 2 y4 = r at key
      obtain ⟨_ | l, t⟩ := r
      · exact key
      · exact ih (putLeaf_keeps key)

@[simp] theorem putSeg_keeps {σ : State} {w : Who} {word a k frl : Nat} {bs : List Byte} {s : State} (hσ : Keeps σ s) : Keeps σ (putSeg w word a k frl bs s).2 := by
  unfold putSeg; (repeat' split) <;> simp (maxDischargeDepth := 40) [*]

@[simp] theorem putPieces_keeps {σ : State} {w : Who} {word frl : Nat} {y0 : List (Nat × Nat)} {y1 : Nat} {y2 : List Byte} {y3 : State} (hσ : Keeps σ y3) : Keeps σ (putPieces w word frl y0 y1 y2 y3).2 := by
  induction y0 generalizing σ y1 y2 y3 with
  | nil => exact hσ
  | cons a rest ih =>
    obtain ⟨a, n⟩ := a
    unfold putPieces
    have key := putSeg_keeps (w := w) (word := word) (a := a) (k := y1) (frl := frl) (bs := y2.take n) hσ
    generalize putSeg w word a y1 frl (y2.take n) y3 = r at key
    obtain ⟨_ | _, t⟩ := r
    · exact key
    · exact ih key

@[simp] theorem putSegs_keeps {σ : State} {w : Who} {word frl : Nat} {y0 : List (Nat × Nat)} {y1 : Nat} {y2 : List Byte} {y3 : State} (hσ : Keeps σ y3) : Keeps σ (putSegs w word frl y0 y1 y2 y3).2 :=
  putPieces_keeps hσ

@[simp] theorem movePieces_keeps {σ : State} {w : Who} {d : Desc} {ext : HostRead} {s0 : State} {dst : Nat → Nat → List (Nat × Nat)} {y0 : List (Nat × Nat)} {y1 y2 : Nat} {y3 : State} (hσ : Keeps σ y3) : Keeps σ (movePieces w d ext s0 dst y0 y1 y2 y3).2.2.2 := by
  induction y0 generalizing σ y1 y2 y3 with
  | nil => exact hσ
  | cons a rest ih =>
    obtain ⟨a, n⟩ := a
    unfold movePieces; dsimp only
    have key := gotSeg_keeps (w := w) (word := d.src) (a := a) (n := n) (k := y1) (ext := ext) hσ
    generalize gotSeg w d.src a n y1 ext y3 = r at key
    obtain ⟨g, t⟩ := r
    dsimp only at key ⊢
    split
    · exact key
    · split
      · exact ih (askPeer_keeps key)
      · have h : ∀ b bs, Keeps σ (putSegs w d.dst g.frl (dst y2 n) y1 bs (if b = g.bytes then t else { t with free := t.free + n })).2 := by
          intro b bs
          refine putSegs_keeps ?_
          split
          · exact key
          · exact key.trans ⟨rfl, Nat.le_add_right _ _, id, SecLe.rfl' _⟩
        have h' := h (gotSeg w d.src a n y1 ext s0).1.bytes (if (gotSeg w d.src a n y1 ext s0).1.bytes = g.bytes then g.bytes else aliasBytes d t.free (gotSeg w d.src a n y1 ext s0).1.bytes g.bytes)
        generalize putSegs w d.dst g.frl (dst y2 n) y1 _ _ = z at h'
        obtain ⟨_ | _, t⟩ := z
        · exact h'
        · exact ih h'

@[simp] theorem moveBurst_keeps {σ : State} {w : Who} {d : Desc} {ext : HostRead} {s0 : State} {n : Nat} {s : State} (hσ : Keeps σ s) : Keeps σ (moveBurst w d ext s0 n s).2.2.2 := by
  unfold moveBurst; dsimp only
  (repeat' split) <;> simp (maxDischargeDepth := 40) [*]

@[simp] theorem moveBursts_keeps {σ : State} {w : Who} {d : Desc} {ext : HostRead} {s0 : State} {y0 : Nat} {y1 : Nat} {y2 : State} (hσ : Keeps σ y2) : Keeps σ (moveBursts w d ext s0 y0 y1 y2).2.2.2 := by
  induction y0 generalizing σ y1 y2 with
  | zero => exact hσ
  | succ n ih =>
    unfold moveBursts
    split
    · exact hσ
    · have key := moveBurst_keeps (w := w) (d := d) (ext := ext) (s0 := s0) (n := y1) hσ
      generalize moveBurst w d ext s0 y1 y2 = r at key
      obtain ⟨_ | st, why, m, t⟩ := r
      · exact ih key
      · exact key

@[simp] theorem dmaSync_keeps {σ : State} {c : Nat} {s : State} (hσ : Keeps σ s) : Keeps σ (dmaSync c s) := by
  unfold dmaSync; simp (maxDischargeDepth := 40) [*]

@[simp] theorem endDesc_keeps {σ : State} {c status residue : Nat} {s : State} (hσ : Keeps σ s) : Keeps σ (endDesc c status residue s) := by
  unfold endDesc; dsimp only
  split
  · exact hσ
  · rename_i r _
    have k1 : ∀ {t : State}, Keeps σ t → Keeps σ ((List.range (descOf r.raw).c1).foldl (fun s m =>
                let (h, valid, n) := memberEntry s r.core (descOf r.raw).members m
                match s.findHandle h with
                | some (e, y) => if valid then s.setStream e { y with full := y.full.filter (· ≠ n) } else s
                | none => s) t) := by
      intro t ht
      refine keeps_foldl ht (fun s m => ?_)
      dsimp only
      (repeat' split) <;> simp (maxDischargeDepth := 40)
    have k0 : Keeps σ (if (descOf r.raw).recordGood (s.who c r.cmd).module s.bay = true then
        (putSeg (s.who c r.cmd) (descOf r.raw).comp (addrOf (descOf r.raw).comp) 0 0
          (dmaRecord status c r.index (descOf r.raw).tag residue s.time) s).2 else s) := by
      split
      · exact putSeg_keeps hσ
      · exact hσ
    revert k0
    generalize (if (descOf r.raw).recordGood (s.who c r.cmd).module s.bay = true then _ else s) = u
    intro k0
    split
    · exact k0
    · refine dmaSync_keeps ?_
      split
      · (repeat' split) <;> simp (maxDischargeDepth := 40) [k0]
      · split
        · simp only [keeps_ite]
          refine ⟨fun _ => k1 ?_, fun _ => ?_⟩ <;> split <;> simp (maxDischargeDepth := 40) [k0]
        · simp (maxDischargeDepth := 40) [k0]

@[simp] theorem descAccess_keeps {σ : State} {c : Nat} {s : State} (hσ : Keeps σ s) : Keeps σ (descAccess c s).2 := by
  unfold descAccess; (try dsimp only); (repeat' split) <;> simp (maxDischargeDepth := 40) [*]

@[simp] theorem fetchFail_keeps {σ : State} {c : Nat} {fetch : HostRead} {s : State} (hσ : Keeps σ s) : Keeps σ (fetchFail c fetch s) := by
  unfold fetchFail; simp (maxDischargeDepth := 40) [*]

@[simp] theorem startDesc_keeps {σ : State} {c op : Nat} {fetch : HostRead} {k : DmaRun → Desc → State → State} {s : State} (hσ : Keeps σ s) (h_k : ∀ x0 x1 t, Keeps t (k x0 x1 t)) : Keeps σ (startDesc c op fetch k s) := by
  unfold startDesc; dsimp only
  split
  · exact hσ
  split
  · exact hσ
  have key := descAccess_keeps (c := c) hσ
  generalize descAccess c s = r at key
  obtain ⟨b, t⟩ := r
  dsimp only at key ⊢
  split
  · exact hσ
  split
  · exact fetchFail_keeps key
  have h : ∀ x, Keeps σ (dmaSync c ((t.setChan c x).setBit (F.dmaChStatusDrained c) false)) := fun _ => dmaSync_keeps (State.setBit_keeps (State.setChan_keeps key))
  split
  · exact endDesc_keeps (noteUe_keeps (State.setChan_keeps (h _)))
  · split
    · exact (h _).trans (h_k _ _ _)
    · split
      · exact endDesc_keeps (h _)
      · exact dmaFault_keeps (h _)

@[simp] theorem noteMove_keeps {σ : State} {c : Nat} {r : DmaRun} {status why m : Nat} {s : State} (hσ : Keeps σ s) : Keeps σ (noteMove c r status why m s) := by
  unfold noteMove; simp (maxDischargeDepth := 40) [*]

@[simp] theorem moveOn_keeps {σ : State} {c n : Nat} {ext : HostRead} {r : DmaRun} {s : State} (hσ : Keeps σ s) : Keeps σ (moveOn c n ext r s) := by
  unfold moveOn; dsimp only; exact noteMove_keeps (moveBursts_keeps hσ)

@[simp] theorem execCopy_keeps {σ : State} {c : Fin 64} {fetch ext : HostRead} {bursts : Nat} {ecc : Ecc} {s : State} (hσ : Keeps σ s) : Good σ (execCopy c fetch ext bursts ecc s) := by
  unfold execCopy; simp (maxDischargeDepth := 40) [*]

@[simp] theorem execFill_keeps {σ : State} {c : Fin 64} {fetch : HostRead} {bursts : Nat} {ecc : Ecc} {s : State} (hσ : Keeps σ s) : Good σ (execFill c fetch bursts s ecc) := by
  unfold execFill; simp (maxDischargeDepth := 40) [*]

@[simp] theorem memberIn_keeps {σ : State} {w : Who} {d : Desc} {core m : Nat} {s : State} (hσ : Keeps σ s) : Keeps σ (memberIn w d core m s).2.2 := by
  unfold memberIn; (try dsimp only); refine putSeg_keeps ?_; (repeat' split) <;> simp (maxDischargeDepth := 40) [*]

@[simp] theorem eachMember_keeps {σ : State} {f : Nat → State → Nat × Nat × State} {y0 : List Nat} {y1 : State} (hσ : Keeps σ y1) (h_f : ∀ x0 t, Keeps t (f x0 t).2.2) : Keeps σ (eachMember f y0 y1).2.2.2 := by
  replace h_f : ∀ {z} x0 t, Keeps z t → Keeps z (f x0 t).2.2 := fun x0 t h => h.trans (h_f x0 t)
  induction y0 generalizing σ y1 with
  | nil => exact hσ
  | cons a rest ih =>
    unfold eachMember
    have key := h_f a y1 hσ
    generalize f a y1 = r at key
    obtain ⟨_ | _, _, t⟩ := r
    · exact ih key
    · exact key

@[simp] theorem runMembers_keeps {σ : State} {c : Nat} {r : DmaRun} {d : Desc} {f : Nat → State → Nat × Nat × State} {s : State} (hσ : Keeps σ s) (h_f : ∀ x0 t, Keeps t (f x0 t).2.2) : Keeps σ (runMembers c r d f s) := by
  unfold runMembers
  have key := spadScan_keeps (core := r.core) (part := (s.who c r.cmd).part) (cmd := r.cmd) (reads := [(d.members, 32 * d.c1)]) (writes := []) (u := {}) hσ
  generalize spadScan r.core (s.who c r.cmd).part r.cmd [(d.members, 32 * d.c1)] [] {} s = x at key
  obtain ⟨_ | _, t⟩ := x
  · exact key
  · exact noteMove_keeps (eachMember_keeps key h_f)

@[simp] theorem execMemberIn_keeps {σ : State} {c : Fin 64} {ecc : Ecc} {fetch : HostRead} {s : State} (hσ : Keeps σ s) : Good σ (execMemberIn c ecc s fetch) := by
  unfold execMemberIn; simp (maxDischargeDepth := 40) [*]

@[simp] theorem putLane_keeps {σ : State} {n slot : Nat} {y0 : Nat} {y1 : List Byte} {y2 : Nat} {y3 : State} (hσ : Keeps σ y3) : Keeps σ (putLane n slot y0 y1 y2 y3) := by
  refine hσ.trans ?_
  clear hσ
  induction y0 generalizing y1 y2 y3 with
    | zero => simp (maxDischargeDepth := 40) [putLane]
    | succ n ih => unfold putLane; (try dsimp only); (repeat' split) <;> (try refine Keeps.trans ?_ ih) <;> simp (maxDischargeDepth := 40) [*]

@[simp] theorem bookPlay_keeps {σ : State} {e : Nat} {x : Stream} {chunk : Nat} {s : State} (hσ : Keeps σ s) : Keeps σ (bookPlay e x chunk s).2 := by
  unfold bookPlay; (try dsimp only); (repeat' split) <;> simp (maxDischargeDepth := 40) [*]

@[simp] theorem putEbb_keeps {σ : State} {x : Stream} {t o : Nat} {bs : List Byte} {s : State} (hσ : Keeps σ s) : Keeps σ (putEbb x t o bs s) := by
  unfold putEbb; (try dsimp only); (repeat' split) <;> simp (maxDischargeDepth := 40) [*]

@[simp] theorem gotParts_keeps {σ : State} {w : Who} {word : Nat} {ext : HostRead} {y0 : List (Nat × Nat)} {y1 : Nat} {y2 : State} (hσ : Keeps σ y2) : Keeps σ (gotParts w word ext y0 y1 y2).2.2.2 := by
  induction y0 generalizing σ y1 y2 with
  | nil => exact hσ
  | cons a rest ih =>
    obtain ⟨a, n⟩ := a
    unfold gotParts; dsimp only
    split
    · exact gotSeg_keeps hσ
    · exact ih (gotSeg_keeps hσ)

@[simp] theorem placePart_keeps {σ : State} {w : Who} {d : Desc} {x : Stream} {t : Nat} {s : State} {p : Nat × Nat × Got} (hσ : Keeps σ s) : Keeps σ (placePart w d x t s p) := by
  unfold placePart; (try dsimp only); (repeat' split) <;> simp (maxDischargeDepth := 40) [*]

@[simp] theorem memberOut_keeps {σ : State} {w : Who} {d : Desc} {core : Nat} {ext : HostRead} {m : Nat} {s : State} (hσ : Keeps σ s) : Keeps σ (memberOut w d core ext m s).2.2 := by
  unfold memberOut; dsimp only
  split
  · rename_i e x _
    split
    · split
      · have key := gotParts_keeps (w := w) (word := d.src) (ext := ext) (y0 := [(addrOf d.src + m * d.ss1, min d.c0 (0x1_0000 - (addrOf d.src + m * d.ss1) % 0x1_0000)), (addrOf d.src + m * d.ss1 + min d.c0 (0x1_0000 - (addrOf d.src + m * d.ss1) % 0x1_0000), d.c0 - min d.c0 (0x1_0000 - (addrOf d.src + m * d.ss1) % 0x1_0000))].filter (fun y => y.2 != 0)) (y1 := m * d.c0) hσ
        generalize gotParts w d.src ext _ _ s = r at key
        obtain ⟨_ | _, _, l, t⟩ := r <;> dsimp only at key ⊢
        · refine keeps_foldl ?_ (fun _ _ => placePart_keeps (Keeps.self _))
          split <;> simp (maxDischargeDepth := 40) [key]
        · exact key
      · exact hσ
    · exact hσ
  · exact hσ

@[simp] theorem execMemberOut_keeps {σ : State} {c : Fin 64} {ecc : Ecc} {fetch ext : HostRead} {s : State} (hσ : Keeps σ s) : Good σ (execMemberOut c s ecc fetch ext) := by
  unfold execMemberOut; simp (maxDischargeDepth := 40) [*]

@[simp] theorem closeAbort_keeps {σ : State} {c : Nat} {s : State} (hσ : Keeps σ s) : Keeps σ (closeAbort c s) := by
  unfold closeAbort; (try dsimp only); (repeat' split) <;> simp (maxDischargeDepth := 40) [*]

@[simp] theorem endRun_keeps {σ : State} {c : Nat} {s : State} (hσ : Keeps σ s) : Keeps σ (endRun c s) := by
  unfold endRun; (try dsimp only); (repeat' split) <;> simp (maxDischargeDepth := 40) [*]

@[simp] theorem settleAbort_keeps {σ : State} {c : Nat} {s : State} (hσ : Keeps σ s) : Keeps σ (settleAbort c s) := by
  unfold settleAbort; (try dsimp only); (repeat' split) <;> simp (maxDischargeDepth := 40) [*]

@[simp] theorem fenceDone_keeps {σ : State} {c : Nat} {ext : HostRead} {r : DmaRun} {s : State} (hσ : Keeps σ s) : Keeps σ (fenceDone c ext r s) := by
  unfold fenceDone; (try dsimp only); (repeat' split) <;> simp (maxDischargeDepth := 40) [*]

@[simp] theorem finishDesc_keeps {σ : State} {c : Nat} {ext : HostRead} {s : State} (hσ : Keeps σ s) : Keeps σ (finishDesc c ext s) := by
  unfold finishDesc
  split
  · exact hσ
  · rename_i r _
    dsimp only
    have key : Keeps σ (if r.fence = true then fenceDone c ext r s else if r.status = 0 ∧ r.moved < r.total then moveOn c (descOf r.raw).bursts ext r s else s) := by
      (repeat' split) <;> simp (maxDischargeDepth := 40) [*]
    generalize (if r.fence = true then _ else _) = t at key
    split
    · exact key
    · split
      · exact key
      · (repeat' split) <;> simp (maxDischargeDepth := 40) [key]

@[simp] theorem execDmaDescEnd_keeps {σ : State} {c : Fin 64} {ext : HostRead} {ecc : Ecc} {s : State} (hσ : Keeps σ s) : Good σ (execDmaDescEnd c ext ecc s) := by
  unfold execDmaDescEnd; simp (maxDischargeDepth := 40) [*]

@[simp] theorem abortChan_keeps {σ : State} {c : Nat} {s : State} (hσ : Keeps σ s) : Keeps σ (abortChan c s) := by
  unfold abortChan; (try dsimp only); (repeat' split) <;> simp (maxDischargeDepth := 40) [*]

@[simp] theorem execDmaAbort_keeps {σ : State} {path : Path} {c : Fin 64} {s : State} (hσ : Keeps σ s) : Good σ (execDmaAbort path c s) := by
  unfold execDmaAbort; simp (maxDischargeDepth := 40) [*]

@[simp] theorem effDmaTail_keeps {σ : State} {c : Nat} {v : Word} {s : State} (hσ : Keeps σ s) : Keeps σ (effDmaTail c v s) := by
  unfold effDmaTail; simp (maxDischargeDepth := 40) [*]

@[simp] theorem execDmaTailDoorbell_keeps {σ : State} {path : Path} {c : Fin 64} {v : Word} {s : State} (hσ : Keeps σ s) : Good σ (execDmaTailDoorbell path c v s) := by
  unfold execDmaTailDoorbell; simp (maxDischargeDepth := 40) [*]

@[simp] theorem effDmaEnable_keeps {σ : State} {c : Nat} {s : State} (hσ : Keeps σ s) : Keeps σ (effDmaEnable c s) := by
  unfold effDmaEnable; simp (maxDischargeDepth := 40) [*]

@[simp] theorem execDmaChEnable_keeps {σ : State} {path : Path} {c : Fin 64} {s : State} (hσ : Keeps σ s) : Good σ (execDmaChEnable path c s) := by
  unfold execDmaChEnable; simp (maxDischargeDepth := 40) [*]

@[simp] theorem drainChan_keeps {σ : State} {c : Nat} {s : State} (hσ : Keeps σ s) : Keeps σ (drainChan c s) := by
  unfold drainChan; simp (maxDischargeDepth := 40) [*]

@[simp] theorem peerSync_keeps {σ : State} {s : State} (hσ : Keeps σ s) : Keeps σ (peerSync s) := by
  unfold peerSync; (try dsimp only); (repeat' split) <;> simp (maxDischargeDepth := 40) [*]

/-! ## Sinks -/

@[simp] theorem iringTide_keeps {σ : State} {n : Nat} {s : State} (hσ : Keeps σ s) : Keeps σ (iringTide n s) := by
  unfold iringTide; simp (maxDischargeDepth := 40) [*]

@[simp] theorem iringWrite_keeps {σ : State} {n : Nat} {r : Result} {s : State} (hσ : Keeps σ s) : Keeps σ (iringWrite n r s) := by
  unfold iringWrite; simp (maxDischargeDepth := 40) [*]

@[simp] theorem sinkResult_keeps {σ : State} {sink part : Nat} {r : Result} {s : State} (hσ : Keeps σ s) : Keeps σ (sinkResult sink part r s) := by
  unfold sinkResult; simp (maxDischargeDepth := 40) [*]

@[simp] theorem giveResult_keeps {σ : State} {x : Stream} {r : Result} {s : State} (hσ : Keeps σ s) : Keeps σ (giveResult x r s) := by
  unfold giveResult; (try dsimp only); (repeat' split) <;> simp (maxDischargeDepth := 40) [*]

/-! ## Boundary -/

@[simp] theorem refuseStream_keeps {σ : State} {d reason : Nat} {s : State} (hσ : Keeps σ s) : Keeps σ (refuseStream d reason s) := by
  unfold refuseStream; split <;> simp (maxDischargeDepth := 40) [*]

@[simp] theorem takeAllocation_keeps {σ : State} {d : Nat} {s : State} (hσ : Keeps σ s) : Keeps σ (takeAllocation d s) := by
  unfold takeAllocation; split <;> simp (maxDischargeDepth := 40) [*]

@[simp] theorem tryJoin_keeps {σ : State} {d : Nat} {s : State} (hσ : Keeps σ s) : Keeps σ (tryJoin d s) := by
  unfold tryJoin; split <;> simp (maxDischargeDepth := 40) [*]

@[simp] theorem endUtterance_keeps {σ : State} {d : Nat} {s : State} (hσ : Keeps σ s) : Keeps σ (endUtterance d s) := by
  unfold endUtterance; (try dsimp only); (repeat' split) <;> simp (maxDischargeDepth := 40) [*]

@[simp] theorem departures_keeps {σ : State} {y0 : List (Nat × Stream)} {y1 : State} (hσ : Keeps σ y1) : Keeps σ (departures y0 y1) := by
  induction y0 generalizing σ y1 with
  | nil => exact hσ
  | cons a rest ih =>
    obtain ⟨d, x⟩ := a
    unfold departures
    refine ih ?_
    split <;> simp (maxDischargeDepth := 40) [*]

@[simp] theorem joins_keeps {σ : State} {y0 : List (Nat × Stream)} {y1 : State} (hσ : Keeps σ y1) : Keeps σ (joins y0 y1) := by
  refine hσ.trans ?_
  clear hσ
  fun_induction joins y0 y1 <;> (try dsimp only) <;> (try simp (maxDischargeDepth := 40) [*]) <;> (try (apply Keeps.trans _ (by assumption))) <;> simp (maxDischargeDepth := 40) [*]

@[simp] theorem openStream_keeps {σ : State} {p : StreamPar} {o : Origin} {sink : Nat} {standing : Option Nat} {leaseHeld : Bool} {s : State} (hσ : Keeps σ s) : Keeps σ (openStream p o sink standing leaseHeld s).2 := by
  unfold openStream; (try dsimp only); (repeat' split) <;> simp (maxDischargeDepth := 40) [*]

@[simp] theorem openStanding_keeps {σ : State} {r : Standing} {s : State} (hσ : Keeps σ s) : Keeps σ (openStanding r s).2 := by
  unfold openStanding; (try dsimp only); (repeat' split) <;> (repeat (rename_i e; first | (have e2 := congrArg Prod.snd e; dsimp only at e2; subst e2; clear e) | revert e)) <;> intros <;> simp (maxDischargeDepth := 40) [*]

@[simp] theorem openAllStanding_keeps {σ : State} {y0 : List Standing} {y1 : State} (hσ : Keeps σ y1) : Keeps σ (openAllStanding y0 y1) := by
  refine hσ.trans ?_
  clear hσ
  fun_induction openAllStanding y0 y1 <;> (try dsimp only) <;> (try simp (maxDischargeDepth := 40) [*]) <;> (try (apply Keeps.trans _ (by assumption))) <;> simp (maxDischargeDepth := 40) [*]

end Sys2Proof.Machine
end

