-- ==== Sys2Proof/Laws/KeepsPort.lean ====
section
/-! SUPPORT. One lemma per operation: what ports, partitions and the model cache keep. -/

set_option maxRecDepth 8000

namespace Sys2Proof.Machine

/-! ## Audio -/

@[simp] theorem steadySync_keeps {σ : State} {n : Nat} {s : State} (hσ : Keeps σ s) : Keeps σ (steadySync n s) := by
  unfold steadySync; simp (maxDischargeDepth := 40) [*]

@[simp] theorem acsHold_keeps {σ : State} {cause a : Nat} {s : State} (hσ : Keeps σ s) : Keeps σ (acsHold cause a s) := by
  unfold acsHold; simp (maxDischargeDepth := 40) [*]

@[simp] theorem acsResume_keeps {σ : State} {a : Nat} {s : State} (hσ : Keeps σ s) : Keeps σ (acsResume a s) := by
  unfold acsResume; simp (maxDischargeDepth := 40) [*]

@[simp] theorem apEnable_keeps {σ : State} {n role : Nat} {s : State} (hσ : Keeps σ s) : Keeps σ (apEnable n role s) := by
  unfold apEnable; split <;> simp (maxDischargeDepth := 40) [*]

@[simp] theorem releaseOld_keeps {σ : State} {n : Nat} {s : State} (hσ : Keeps σ s) : Keeps σ (releaseOld n s) := by
  unfold releaseOld; (try dsimp only); (repeat' split) <;> simp (maxDischargeDepth := 40) [*]

@[simp] theorem apDisable_keeps {σ : State} {n : Nat} {s : State} (hσ : Keeps σ s) : Keeps σ (apDisable n s) := by
  unfold apDisable; simp (maxDischargeDepth := 40) [*]

@[simp] theorem effApCtrl_keeps {σ : State} {n : Nat} {v : Word} {s : State} (hσ : Keeps σ s) : Keeps σ (effApCtrl n v s) := by
  unfold effApCtrl; simp (maxDischargeDepth := 40) [*]

@[simp] theorem execApEnable_keeps {σ : State} {path : Path} {n : Fin 8} {v : Word} {s : State} (hσ : Keeps σ s) : Good σ (execApEnable path n v s) := by
  unfold execApEnable; simp (maxDischargeDepth := 40) [*]

@[simp] theorem execApDisable_keeps {σ : State} {path : Path} {n : Fin 8} {v : Word} {s : State} (hσ : Keeps σ s) : Good σ (execApDisable path n v s) := by
  unfold execApDisable; simp (maxDischargeDepth := 40) [*]

@[simp] theorem effApCfg_keeps {σ : State} {n : Nat} {w : ApCfg} {v : Word} {s : State} (hσ : Keeps σ s) : Keeps σ (effApCfg n w v s) := by
  unfold effApCfg; (repeat' split) <;> simp (maxDischargeDepth := 40) [*]

@[simp] theorem execApCfgWrite_keeps {σ : State} {path : Path} {n : Fin 8} {which : ApCfg} {v : Word} {s : State} (hσ : Keeps σ s) : Good σ (execApCfgWrite path n which v s) := by
  unfold execApCfgWrite; simp (maxDischargeDepth := 40) [*]

@[simp] theorem flagSync_keeps {σ : State} {n : Nat} {s : State} (hσ : Keeps σ s) : Keeps σ (flagSync n s) := by
  unfold flagSync; dsimp only
  refine keeps_foldl (by simp (maxDischargeDepth := 40) [*]) (fun s y => ?_)
  (repeat' split) <;> simp (maxDischargeDepth := 40)

@[simp] theorem effVadSoft_keeps {σ : State} {n : Nat} {v : Word} {s : State} (hσ : Keeps σ s) : Keeps σ (effVadSoft n v s) := by
  unfold effVadSoft; simp (maxDischargeDepth := 40) [*]

@[simp] theorem effApCut_keeps {σ : State} {n : Nat} {v : Word} {s : State} (hσ : Keeps σ s) : Keeps σ (effApCut n v s) := by
  unfold effApCut; simp (maxDischargeDepth := 40) [*]

@[simp] theorem hear_keeps {σ : State} {n k : Nat} {rec : List Byte} {s : State} (hσ : Keeps σ s) : Keeps σ (hear n k rec s) := by
  unfold hear; (try dsimp only); (repeat' split) <;> simp (maxDischargeDepth := 40) [*]

@[simp] theorem detect_keeps {σ : State} {n : Nat} {s : State} (hσ : Keeps σ s) : Keeps σ (detect n s) := by
  unfold detect; simp (maxDischargeDepth := 40) [*]

@[simp] theorem execVadFlagLower_keeps {σ : State} {n : Fin 8} {slot : Fin 32} {s : State} (hσ : Keeps σ s) : Good σ (execVadFlagLower n slot s) := by
  unfold execVadFlagLower; simp (maxDischargeDepth := 40) [*]

@[simp] theorem ringCommit_keeps {σ : State} {n : Nat} {s : State} (hσ : Keeps σ s) : Keeps σ (ringCommit n s) := by
  unfold ringCommit; (try dsimp only); (repeat' split) <;> simp (maxDischargeDepth := 40) [*]

@[simp] theorem fetchEbb_keeps {σ : State} {n k : Nat} {s : State} (hσ : Keeps σ s) : Keeps σ (fetchEbb n k s).2 := by
  unfold fetchEbb; split <;> simp (maxDischargeDepth := 40) [*]

@[simp] theorem writeRef_keeps {σ : State} {n k : Nat} {driven : List (Nat × Nat)} {s : State} (hσ : Keeps σ s) : Keeps σ (writeRef n k driven s) := by
  unfold writeRef; simp (maxDischargeDepth := 40) [*]

@[simp] theorem overrun_keeps {σ : State} {n k : Nat} {s : State} (hσ : Keeps σ s) : Keeps σ (overrun n k s) := by
  unfold overrun; simp (maxDischargeDepth := 40) [*]

@[simp] theorem chunkEnds_keeps {σ : State} {n : Nat} {s : State} (hσ : Keeps σ s) : Keeps σ (chunkEnds n s) := by
  unfold chunkEnds; simp (maxDischargeDepth := 40) [*]

@[simp] theorem landRecord_keeps {σ : State} {n : Nat} {rec : List Byte} {s : State} (hσ : Keeps σ s) : Keeps σ (landRecord n rec s) := by
  unfold landRecord; simp (maxDischargeDepth := 40) [*]

@[simp] theorem landVirtuals_keeps {σ : State} {n : Nat} {y0 : Nat} {y1 : State} (hσ : Keeps σ y1) : Keeps σ (landVirtuals n y0 y1) := by
  refine hσ.trans ?_
  clear hσ
  induction y0 generalizing y1 with
    | zero => simp (maxDischargeDepth := 40) [landVirtuals]
    | succ n ih => unfold landVirtuals; (try dsimp only); (repeat' split) <;> (try refine Keeps.trans ?_ ih) <;> simp (maxDischargeDepth := 40) [*]

@[simp] theorem landInserted_keeps {σ : State} {n : Nat} {s : State} (hσ : Keeps σ s) : Keeps σ (landInserted n s) := by
  unfold landInserted; (try dsimp only); (repeat' split) <;> simp (maxDischargeDepth := 40) [*]

@[simp] theorem newUtterance_keeps {σ : State} {n k : Nat} {s : State} (hσ : Keeps σ s) : Keeps σ (newUtterance n k s) := by
  unfold newUtterance; (try dsimp only); (repeat' split) <;> simp (maxDischargeDepth := 40) [*]

@[simp] theorem insertFrames_keeps {σ : State} {n kb : Nat} {y0 : Nat} {y1 : Nat} {y2 : State} (hσ : Keeps σ y2) : Keeps σ (insertFrames n kb y0 y1 y2) := by
  refine hσ.trans ?_
  clear hσ
  induction y0 generalizing y1 y2 with
    | zero => simp (maxDischargeDepth := 40) [insertFrames]
    | succ n ih => unfold insertFrames; (try dsimp only); (repeat' split) <;> (try refine Keeps.trans ?_ ih) <;> simp (maxDischargeDepth := 40) [*]

@[simp] theorem slipNow_keeps {σ : State} {n : Nat} {s : State} (hσ : Keeps σ s) : Keeps σ (slipNow n s) := by
  unfold slipNow; (try dsimp only); (repeat' split) <;> simp (maxDischargeDepth := 40) [*]

@[simp] theorem boundaryAt_keeps {σ : State} {n : Nat} {s : State} (hσ : Keeps σ s) : Keeps σ (boundaryAt n s) := by
  unfold boundaryAt; simp (maxDischargeDepth := 40) [*]

@[simp] theorem execApRingCommit_keeps {σ : State} {n : Fin 8} {s : State} (hσ : Keeps σ s) : Good σ (execApRingCommit n s) := by
  unfold execApRingCommit; simp (maxDischargeDepth := 40) [*]

@[simp] theorem execApSlip_keeps {σ : State} {n : Fin 8} {s : State} (hσ : Keeps σ s) : Good σ (execApSlip n s) := by
  unfold execApSlip; simp (maxDischargeDepth := 40) [*]

@[simp] theorem cutFrame_keeps {σ : State} {n k : Nat} {firsts : List Nat} {s : State} (hσ : Keeps σ s) : Keeps σ (cutFrame n k firsts s) := by
  unfold cutFrame; simp (maxDischargeDepth := 40) [*]

@[simp] theorem playedOut_keeps {σ : State} {n k : Nat} {s : State} (hσ : Keeps σ s) : Keeps σ (playedOut n k s) := by
  unfold playedOut
  refine keeps_foldl hσ (fun s x => ?_)
  dsimp only
  split
  · simp (maxDischargeDepth := 40)
  · refine keeps_foldl (by simp) (fun s y => ?_)
    (repeat' split) <;> simp (maxDischargeDepth := 40)

@[simp] theorem markCut_keeps {σ : State} {n k : Nat} {s : State} (hσ : Keeps σ s) : Keeps σ (markCut n k s) := by
  unfold markCut; simp (maxDischargeDepth := 40) [*]

@[simp] theorem beginFrame_keeps {σ : State} {n : Nat} {s : State} (hσ : Keeps σ s) : Keeps σ (beginFrame n s) := by
  unfold beginFrame; (try dsimp only); (repeat' split) <;> simp (maxDischargeDepth := 40) [*]

@[simp] theorem execApEbbFetch_keeps {σ : State} {n : Fin 8} {ecc : Ecc} {s : State} (hσ : Keeps σ s) : Good σ (execApEbbFetch n ecc s) := by
  unfold execApEbbFetch; simp (maxDischargeDepth := 40) [*]

@[simp] theorem execApFrameBegin_keeps {σ : State} {n : Fin 8} {s : State} (hσ : Keeps σ s) : Good σ (execApFrameBegin n s) := by
  unfold execApFrameBegin; simp (maxDischargeDepth := 40) [*]

@[simp] theorem execApFloodLand_keeps {σ : State} {n : Fin 8} {samples : List Word} {s : State} (hσ : Keeps σ s) : Good σ (execApFloodLand n samples s) := by
  unfold execApFloodLand; simp (maxDischargeDepth := 40) [*]

@[simp] theorem noteLatency_keeps {σ : State} {e : Nat} {s : State} (hσ : Keeps σ s) : Keeps σ (noteLatency e s) := by
  unfold noteLatency; simp (maxDischargeDepth := 40) [*]

@[simp] theorem portCopy_keeps {σ : State} {d : Nat} {s : State} (hσ : Keeps σ s) : Keeps σ (portCopy d s) := by
  unfold portCopy; (repeat' split) <;> simp (maxDischargeDepth := 40) [*]

@[simp] theorem execPortChunkCopy_keeps {σ : State} {desc : Fin 4096} {ecc : Ecc} {s : State} (hσ : Keeps σ s) : Good σ (execPortChunkCopy desc ecc s) := by
  unfold execPortChunkCopy; simp (maxDischargeDepth := 40) [*]

@[simp] theorem effRingNext_keeps {σ : State} {n : Nat} {v : Dword} {s : State} (hσ : Keeps σ s) : Keeps σ (effRingNext n v s) := by
  unfold effRingNext; (try dsimp only); (repeat' split) <;> simp (maxDischargeDepth := 40) [*]

@[simp] theorem execApRingBaseNextWrite_keeps {σ : State} {path : Path} {n : Fin 8} {v : Dword} {s : State} (hσ : Keeps σ s) : Good σ (execApRingBaseNextWrite path n v s) := by
  unfold execApRingBaseNextWrite; simp (maxDischargeDepth := 40) [*]

@[simp] theorem execApOldRingRelease_keeps {σ : State} {n : Fin 8} {s : State} (hσ : Keeps σ s) : Good σ (execApOldRingRelease n s) := by
  unfold execApOldRingRelease; simp (maxDischargeDepth := 40) [*]

@[simp] theorem syncLoss_keeps {σ : State} {n : Nat} {s : State} (hσ : Keeps σ s) : Keeps σ (syncLoss n s) := by
  unfold syncLoss; simp (maxDischargeDepth := 40) [*]

@[simp] theorem execApMasterCheckEnd_keeps {σ : State} {n : Fin 8} {active : Bool} {s : State} (hσ : Keeps σ s) : Good σ (execApMasterCheckEnd n active s) := by
  unfold execApMasterCheckEnd; simp (maxDischargeDepth := 40) [*]

@[simp] theorem execApSyncLoss_keeps {σ : State} {n : Fin 8} {s : State} (hσ : Keeps σ s) : Good σ (execApSyncLoss n s) := by
  unfold execApSyncLoss; simp (maxDischargeDepth := 40) [*]

@[simp] theorem execApVirtualFrame_keeps {σ : State} {n : Fin 8} {s : State} (hσ : Keeps σ s) : Good σ (execApVirtualFrame n s) := by
  unfold execApVirtualFrame; simp (maxDischargeDepth := 40) [*]

@[simp] theorem syncRestored_keeps {σ : State} {n : Nat} {s : State} (hσ : Keeps σ s) : Keeps σ (syncRestored n s) := by
  unfold syncRestored; simp (maxDischargeDepth := 40) [*]

@[simp] theorem execApSyncRestore_keeps {σ : State} {n : Fin 8} {s : State} (hσ : Keeps σ s) : Good σ (execApSyncRestore n s) := by
  unfold execApSyncRestore; simp (maxDischargeDepth := 40) [*]

@[simp] theorem execApTakeover_keeps {σ : State} {n : Fin 8} {s : State} (hσ : Keeps σ s) : Good σ (execApTakeover n s) := by
  unfold execApTakeover; simp (maxDischargeDepth := 40) [*]

@[simp] theorem markNotify_keeps {σ : State} {m : Mark} {r : Bool × State} (hσ : Keeps σ r.2) : Keeps σ (markNotify m r) := by
  unfold markNotify; split <;> simp (maxDischargeDepth := 40) [*]

@[simp] theorem execTidemarkRearm_keeps {σ : State} {path : Path} {mark : Mark} {s : State} (hσ : Keeps σ s) : Good σ (execTidemarkRearm path mark s) := by
  unfold execTidemarkRearm; simp (maxDischargeDepth := 40) [*]

@[simp] theorem execTidemarkCfgWrite_keeps {σ : State} {path : Path} {mark : Mark} {v : Word} {s : State} (hσ : Keeps σ s) : Good σ (execTidemarkCfgWrite path mark v s) := by
  unfold execTidemarkCfgWrite; simp (maxDischargeDepth := 40) [*]

/-! ## Parts -/

@[simp] theorem zeroSync_keeps {σ : State} {s : State} (hσ : Keeps σ s) : Keeps σ (zeroSync s) := by
  unfold zeroSync; simp (maxDischargeDepth := 40) [*]

@[simp] theorem dirtyFrames_keeps {σ : State} {fs : List Nat} {s : State} (hσ : Keeps σ s) : Keeps σ (dirtyFrames fs s) := by
  unfold dirtyFrames; simp (maxDischargeDepth := 40) [*]

@[simp] theorem moveChannel_keeps {σ : State} {owner : Option Nat} {s : State} {c : Nat} (hσ : Keeps σ s) : Keeps σ (moveChannel owner s c) := by
  unfold moveChannel; split <;> simp (maxDischargeDepth := 40) [*]

@[simp] theorem setChannels_keeps {σ : State} {p n : Nat} {s : State} (hσ : Keeps σ s) : Keeps σ (setChannels p n s) := by
  unfold setChannels; simp (maxDischargeDepth := 40) [*]

@[simp] theorem State.setPartition_keeps {σ : State} {s : State} {p : Nat} {x : Partition} (hσ : Keeps σ s) : Keeps σ (State.setPartition s p x) := by
  unfold State.setPartition; simp (maxDischargeDepth := 40) [*]

theorem activate_keeps {σ : State} {p : Nat} {q : Quota} {s : State} (hσ : Keeps σ s) : ∀ t, activate p q s = some t → Keeps σ t := by
  intro t e0
  unfold activate at e0
  have key := allocTable_keeps (p := p) (size := 4096) hσ
  generalize allocTable p 4096 s = r at *
  obtain ⟨_ | a, u⟩ := r
  · cases e0
  · simp only [Option.some.injEq] at e0; subst e0
    dsimp only at key
    simp (maxDischargeDepth := 40) [key]

@[simp] theorem settleCreate_keeps {σ : State} {s : State} {x : Nat × (Quota × Nat)} (hσ : Keeps σ s) : Keeps σ (settleCreate s x) := by
  unfold settleCreate; dsimp only
  split
  · split
    · rename_i t h; exact completeCmd_keeps (activate_keeps (keeps_mk hσ) t h)
    · split <;> simp (maxDischargeDepth := 40) [*]
  · exact hσ

@[simp] theorem settleSet_keeps {σ : State} {s : State} {x : Nat × Partition} (hσ : Keeps σ s) : Keeps σ (settleSet s x) := by
  unfold settleSet; (repeat' split) <;> simp (maxDischargeDepth := 40) [*]

@[simp] theorem removeRegion_keeps {σ : State} {core key : Nat} {s : State} (hσ : Keeps σ s) : Keeps σ (removeRegion core key s) := by
  unfold removeRegion; (try dsimp only); (repeat' split) <;> simp (maxDischargeDepth := 40) [*]

@[simp] theorem removeRegions_keeps {σ : State} {p : Nat} {s : State} (hσ : Keeps σ s) : Keeps σ (removeRegions p s) := by
  unfold removeRegions; simp (maxDischargeDepth := 40) [*]

@[simp] theorem dropWork_keeps {σ : State} {p : Nat} {s : State} (hσ : Keeps σ s) : Keeps σ (dropWork p s) := by
  unfold dropWork; simp (maxDischargeDepth := 40) [*]

@[simp] theorem wipeEngines_keeps {σ : State} {p : Nat} {s : State} (hσ : Keeps σ s) : Keeps σ (wipeEngines p s) := by
  unfold wipeEngines; (try dsimp only); (repeat' split) <;> simp (maxDischargeDepth := 40) [*]

@[simp] theorem settleDestroy_keeps {σ : State} {s : State} {x : Nat × Partition} (hσ : Keeps σ s) : Keeps σ (settleDestroy s x) := by
  unfold settleDestroy; (repeat' split) <;> simp (maxDischargeDepth := 40) [*]

@[simp] theorem purgeLags_keeps {σ : State} {s : State} (hσ : Keeps σ s) : Keeps σ (purgeLags s) := by
  unfold purgeLags; (try dsimp only); (repeat' split) <;> simp (maxDischargeDepth := 40) [*]

@[simp] theorem settleParts_keeps {σ : State} {s : State} (hσ : Keeps σ s) : Keeps σ (settleParts s) := by
  unfold settleParts; simp (maxDischargeDepth := 40) [*]

@[simp] theorem execCommandFetch_keeps {σ : State} {q : Fin 65} {r : HostRead} {s : State} (hσ : Keeps σ s) : Good σ (execCommandFetch q r s) := by
  unfold execCommandFetch; rw [good_next]; dsimp only; split <;> simp (maxDischargeDepth := 40) [*]

@[simp] theorem settleMode_keeps {σ : State} {n : Nat} {s : State} (hσ : Keeps σ s) : Keeps σ (settleMode n s) := by
  unfold settleMode; (try dsimp only); (repeat' split) <;> simp (maxDischargeDepth := 40) [*]

@[simp] theorem settleModes_keeps {σ : State} {s : State} (hσ : Keeps σ s) : Keeps σ (settleModes s) := by
  unfold settleModes; (try dsimp only); (repeat' split) <;> simp (maxDischargeDepth := 40) [*]

@[simp] theorem beginDestroy_keeps {σ : State} {p id : Nat} {s : State} (hσ : Keeps σ s) : Keeps σ (beginDestroy p id s) := by
  unfold beginDestroy
  split
  · exact hσ
  · dsimp only
    refine settleParts_keeps (removeRegions_keeps (keeps_mk (keeps_mk (keeps_foldl (keeps_foldl (syncQ_keeps (abortFetched_keeps (effQueueDisable_keeps (settleModes_keeps (dropWork_keeps ?_)))))
      (fun _ _ => State.modStream_keeps (Keeps.self _))) (fun _ _ => abortChan_keeps (Keeps.self _))))))
    split <;> simp (maxDischargeDepth := 40) [*]

@[simp] theorem execPartitionCreate_keeps {σ : State} {d : HostRead} {s : State} (hσ : Keeps σ s) : Good σ (execPartitionCreate d s) := by
  unfold execPartitionCreate; simp (maxDischargeDepth := 40) [*]

@[simp] theorem execPartitionSet_keeps {σ : State} {d : HostRead} {s : State} (hσ : Keeps σ s) : Good σ (execPartitionSet d s) := by
  unfold execPartitionSet; (try simp only [good_next]); (first | refine beginCmd_keeps hσ (fun _ _ _ => ?_) | refine powered_keeps hσ (fun _ => ?_) | refine screen_keeps hσ (fun _ => ?_) | refine beginTable_keeps hσ (fun _ _ _ => ?_) | refine lhBegin_keeps hσ (fun _ _ _ => ?_) | refine withEntry_keeps hσ (fun _ _ => ?_) | refine keeps_foldl hσ (fun _ _ => ?_) | refine onLhQueue_keeps hσ (fun _ => ?_) | refine guarded_keeps hσ (fun _ => ?_) | refine meChecked_keeps hσ (fun _ => ?_) | refine veChecked_keeps hσ (fun _ => ?_) | refine ruChecked_keeps hσ (fun _ => ?_)| refine heard_keeps hσ (fun _ => ?_)| refine startDesc_keeps hσ (fun _ _ _ => ?_)| refine sourceTimer_keeps hσ (fun _ _ _ => ?_)| refine governed_keeps hσ (fun _ => ?_)| refine copyIn_keeps hσ (fun _ => ?_)| refine withPart_keeps hσ (fun _ _ _ => ?_)); (try dsimp only); (repeat' split) <;> (repeat (rename_i e; first | (have e2 := congrArg Prod.snd e; dsimp only at e2; subst e2; clear e) | revert e)) <;> intros <;> simp (maxDischargeDepth := 40) [*]

@[simp] theorem execPartitionDestroy_keeps {σ : State} {d : HostRead} {s : State} (hσ : Keeps σ s) : Good σ (execPartitionDestroy d s) := by
  unfold execPartitionDestroy; (try simp only [good_next]); (first | refine beginCmd_keeps hσ (fun _ _ _ => ?_) | refine powered_keeps hσ (fun _ => ?_) | refine screen_keeps hσ (fun _ => ?_) | refine beginTable_keeps hσ (fun _ _ _ => ?_) | refine lhBegin_keeps hσ (fun _ _ _ => ?_) | refine withEntry_keeps hσ (fun _ _ => ?_) | refine keeps_foldl hσ (fun _ _ => ?_) | refine onLhQueue_keeps hσ (fun _ => ?_) | refine guarded_keeps hσ (fun _ => ?_) | refine meChecked_keeps hσ (fun _ => ?_) | refine veChecked_keeps hσ (fun _ => ?_) | refine ruChecked_keeps hσ (fun _ => ?_)| refine heard_keeps hσ (fun _ => ?_)| refine startDesc_keeps hσ (fun _ _ _ => ?_)| refine sourceTimer_keeps hσ (fun _ _ _ => ?_)| refine governed_keeps hσ (fun _ => ?_)| refine copyIn_keeps hσ (fun _ => ?_)| refine withPart_keeps hσ (fun _ _ _ => ?_)); (try dsimp only); (repeat' split) <;> (repeat (rename_i e; first | (have e2 := congrArg Prod.snd e; dsimp only at e2; subst e2; clear e) | revert e)) <;> intros <;> simp (maxDischargeDepth := 40) [*]

@[simp] theorem execCoreModeSet_keeps {σ : State} {s : State} (hσ : Keeps σ s) : Good σ (execCoreModeSet s) := by
  unfold execCoreModeSet; simp (maxDischargeDepth := 40) [*]

@[simp] theorem unitsZeroed_keeps {σ : State} {core : Nat} {us : List Nat} {s : State} (hσ : Keeps σ s) : Keeps σ (unitsZeroed core us s) := by
  unfold unitsZeroed; simp (maxDischargeDepth := 40) [*]

@[simp] theorem execZeroLag_keeps {σ : State} {w : ZeroWait} {s : State} (hσ : Keeps σ s) : Good σ (execZeroLag w s) := by
  unfold execZeroLag; (try simp only [good_next]); (first | refine beginCmd_keeps hσ (fun _ _ _ => ?_) | refine powered_keeps hσ (fun _ => ?_) | refine screen_keeps hσ (fun _ => ?_) | refine beginTable_keeps hσ (fun _ _ _ => ?_) | refine lhBegin_keeps hσ (fun _ _ _ => ?_) | refine withEntry_keeps hσ (fun _ _ => ?_) | refine keeps_foldl hσ (fun _ _ => ?_) | refine onLhQueue_keeps hσ (fun _ => ?_) | refine guarded_keeps hσ (fun _ => ?_) | refine meChecked_keeps hσ (fun _ => ?_) | refine veChecked_keeps hσ (fun _ => ?_) | refine ruChecked_keeps hσ (fun _ => ?_)| refine heard_keeps hσ (fun _ => ?_)| refine startDesc_keeps hσ (fun _ _ _ => ?_)| refine sourceTimer_keeps hσ (fun _ _ _ => ?_)| refine governed_keeps hσ (fun _ => ?_)| refine copyIn_keeps hσ (fun _ => ?_)| refine withPart_keeps hσ (fun _ _ _ => ?_)); (try dsimp only); (repeat' split) <;> (repeat (rename_i e; first | (have e2 := congrArg Prod.snd e; dsimp only at e2; subst e2; clear e) | revert e)) <;> intros <;> simp (maxDischargeDepth := 40) [*]

@[simp] theorem execFrameZeroDone_keeps {σ : State} {frame : Nat} {s : State} (hσ : Keeps σ s) : Good σ (execFrameZeroDone frame s) := by
  unfold execFrameZeroDone; simp (maxDischargeDepth := 40) [*]

@[simp] theorem execDmaDrained_keeps {σ : State} {c : Fin 64} {s : State} (hσ : Keeps σ s) : Good σ (execDmaDrained c s) := by
  unfold execDmaDrained; simp (maxDischargeDepth := 40) [*]

/-! ## Cache -/

@[simp] theorem State.setEntry_keeps {σ : State} {s : State} {i : Nat} {e : Entry} (hσ : Keeps σ s) : Keeps σ (State.setEntry s i e) := by
  unfold State.setEntry; simp (maxDischargeDepth := 40) [*]

@[simp] theorem State.modEntry_keeps {σ : State} {s : State} {i : Nat} {f : Entry → Entry} (hσ : Keeps σ s) : Keeps σ (State.modEntry s i f) := by
  unfold State.modEntry; split <;> simp (maxDischargeDepth := 40) [*]

@[simp] theorem noteEviction_keeps {σ : State} {word part : Nat} {s : State} (hσ : Keeps σ s) : Keeps σ (noteEviction word part s) := by
  unfold noteEviction; simp (maxDischargeDepth := 40) [*]

@[simp] theorem dropHot_keeps {σ : State} {i core : Nat} {s : State} (hσ : Keeps σ s) : Keeps σ (dropHot i core s) := by
  unfold dropHot; split <;> simp (maxDischargeDepth := 40) [*]

@[simp] theorem evictHot_keeps {σ : State} {i core : Nat} {s : State} (hσ : Keeps σ s) : Keeps σ (evictHot i core s) := by
  unfold evictHot; split <;> simp (maxDischargeDepth := 40) [*]

@[simp] theorem freeEntry_keeps {σ : State} {i : Nat} {s : State} (hσ : Keeps σ s) : Keeps σ (freeEntry i s) := by
  unfold freeEntry; (try dsimp only); (repeat' split) <;> simp (maxDischargeDepth := 40) [*]

@[simp] theorem takeEntry_keeps {σ : State} {p : Nat} {s : State} (hσ : Keeps σ s) : Keeps σ (takeEntry p s).2 := by
  unfold takeEntry; (repeat' split) <;> simp (maxDischargeDepth := 40) [*]

@[simp] theorem makeUnits_keeps {σ : State} {p core n : Nat} {y0 : Nat} {y1 : State} (hσ : Keeps σ y1) : Keeps σ (makeUnits p core n y0 y1).2 := by
  refine hσ.trans ?_
  clear hσ
  induction y0 generalizing y1 with
    | zero => simp (maxDischargeDepth := 40) [makeUnits]
    | succ n ih => unfold makeUnits; (try dsimp only); (repeat' split) <;> (try refine Keeps.trans ?_ ih) <;> simp (maxDischargeDepth := 40) [*]

@[simp] theorem createRegion_keeps {σ : State} {w : RegionWait} {p core n : Nat} {retained : Bool} {s : State} (hσ : Keeps σ s) : Keeps σ (createRegion w p core n retained s).2 := by
  unfold createRegion; (try dsimp only); (repeat' split) <;> simp (maxDischargeDepth := 40) [*]

@[simp] theorem wantHot_keeps {σ : State} {i core : Nat} {s : State} (hσ : Keeps σ s) : Keeps σ (wantHot i core s).2 := by
  unfold wantHot; (try dsimp only); (repeat' split) <;> (repeat (rename_i e; first | (have e2 := congrArg Prod.snd e; dsimp only at e2; subst e2; clear e) | revert e)) <;> intros <;> simp (maxDischargeDepth := 40) [*]

@[simp] theorem fillHot_keeps {σ : State} {i core key : Nat} {s : State} (hσ : Keeps σ s) : Keeps σ (fillHot i core key s) := by
  unfold fillHot; split <;> simp (maxDischargeDepth := 40) [*]

@[simp] theorem settlePin_keeps {σ : State} {i : Nat} {s : State} (hσ : Keeps σ s) : Keeps σ (settlePin i s) := by
  unfold settlePin
  split
  · exact hσ
  · split
    · exact hσ
    · split
      · simp (maxDischargeDepth := 40) [*]
      · have key : ∀ {e : Entry}, Keeps σ ((List.range 8).foldl (fun (a : Bool × State) c =>
            if Nat.testBit e.pinMask c then (let b := wantHot i c a.2; (a.1 && b.1, b.2)) else a) (true, s)).2 := by
          intro e; refine keeps_foldl2 hσ (fun p a => ?_)
          split <;> simp (maxDischargeDepth := 40)
        dsimp only
        split <;> simp [key]

@[simp] theorem settlePins_keeps {σ : State} {s : State} (hσ : Keeps σ s) : Keeps σ (settlePins s) := by
  unfold settlePins; simp (maxDischargeDepth := 40) [*]

@[simp] theorem withEntry_keeps {σ : State} {q : Nat} {c : QCmd} {i : Nat} {k : Entry → State → State} {s : State} (hσ : Keeps σ s) (h_k : ∀ x0 t, Keeps t (k x0 t)) : Keeps σ (withEntry q c i k s) := by
  replace h_k : ∀ {z} x0 t, Keeps z t → Keeps z (k x0 t) := fun x0 t h => h.trans (h_k x0 t)
  unfold withEntry; split <;> simp (maxDischargeDepth := 40) [*]

@[simp] theorem pinEntry_keeps {σ : State} {q : Nat} {c : QCmd} {s : State} (hσ : Keeps σ s) : Keeps σ (pinEntry q c s) := by
  unfold pinEntry; simp (maxDischargeDepth := 40) [*]

@[simp] theorem copyImage_keeps {σ : State} {p : Nat} {y0 : List Leaf} {y1 : List Byte} {y2 : State} (hσ : Keeps σ y2) : Keeps σ (copyImage p y0 y1 y2) := by
  refine hσ.trans ?_
  clear hσ
  induction y0 generalizing y1 y2 with
    | nil => simp (maxDischargeDepth := 40) [copyImage]
    | cons a0 l0 ih => unfold copyImage; (try dsimp only); (repeat' split) <;> (try refine Keeps.trans ?_ ih) <;> simp (maxDischargeDepth := 40) [*]

@[simp] theorem loadModel_keeps {σ : State} {q : Nat} {c : QCmd} {b : List Byte} {copy : HostRead} {ecc : Ecc} {s : State} (hσ : Keeps σ s) : Keeps σ (loadModel q c b copy ecc s) := by
  unfold loadModel; (try dsimp only); (repeat' split) <;> (repeat (rename_i e; first | (have e2 := congrArg Prod.snd e; dsimp only at e2; subst e2; clear e) | revert e)) <;> intros <;> simp (maxDischargeDepth := 40) [*]

@[simp] theorem refuseVerify_keeps {σ : State} {q id check off : Nat} {s : State} (hσ : Keeps σ s) : Keeps σ (refuseVerify q id check off s) := by
  unfold refuseVerify; simp (maxDischargeDepth := 40) [*]

@[simp] theorem installTable_keeps {σ : State} {q : Nat} {c : QCmd} {b : List Byte} {s : State} (hσ : Keeps σ s) : Keeps σ (installTable q c b s) := by
  unfold installTable
  refine withEntry_keeps hσ (fun e s => ?_)
  split
  · simp (maxDischargeDepth := 40)
  · split
    · simp (maxDischargeDepth := 40)
    · split
      · simp (maxDischargeDepth := 40)
      · refine completeCmd_keeps (keeps_foldl (by simp) (fun s r => ?_))
        split <;> simp (maxDischargeDepth := 40)

@[simp] theorem rewriteBlock_keeps {σ : State} {ls : List Leaf} {p : Nat} {copy : List Byte} {a : Nat} {s : State} (hσ : Keeps σ s) : Keeps σ (rewriteBlock ls p copy a s) := by
  unfold rewriteBlock; split <;> simp (maxDischargeDepth := 40) [*]

@[simp] theorem rewriteUnits_keeps {σ : State} {e : Entry} {stale : List Nat} {s : State} (hσ : Keeps σ s) : Keeps σ (rewriteUnits e stale s) := by
  unfold rewriteUnits
  refine keeps_foldl hσ (fun s y => ?_)
  split
  · exact keeps_foldl (Keeps.self _) (fun _ _ => pokeSpad_keeps (Keeps.self _))
  · exact Keeps.self _

@[simp] theorem reloadEntry_keeps {σ : State} {i : Nat} {copy : HostRead} {s : State} (hσ : Keeps σ s) : Keeps σ (reloadEntry i copy s) := by
  unfold reloadEntry
  split
  · exact hσ
  · rename_i e _
    have key : Keeps σ (if e.damage.isEmpty = true then s else asFunction (queueFn e.part) s) := by
      split <;> simp (maxDischargeDepth := 40) [*]
    dsimp only
    generalize (if e.damage.isEmpty = true then s else _) = u at key ⊢
    split <;> simp (maxDischargeDepth := 40) [key]

@[simp] theorem execModelLoad_keeps {σ : State} {q : Fin 65} {d copy : HostRead} {ecc : Ecc} {s : State} (hσ : Keeps σ s) : Good σ (execModelLoad q d copy s ecc) := by
  unfold execModelLoad; simp (maxDischargeDepth := 40) [*]

@[simp] theorem execModelPin_keeps {σ : State} {q : Fin 65} {s : State} (hσ : Keeps σ s) : Good σ (execModelPin q s) := by
  unfold execModelPin; simp (maxDischargeDepth := 40) [*]

@[simp] theorem execModelUnpin_keeps {σ : State} {q : Fin 65} {s : State} (hσ : Keeps σ s) : Good σ (execModelUnpin q s) := by
  unfold execModelUnpin; simp (maxDischargeDepth := 40) [*]

@[simp] theorem beginTable_keeps {σ : State} {q : Nat} {act : Bool} {d : HostRead} {k : QCmd → List Byte → State → State} {s : State} (hσ : Keeps σ s) (h_k : ∀ x0 x1 t, Keeps t (k x0 x1 t)) : Keeps σ (beginTable q act d k s) := by
  replace h_k : ∀ {z} x0 x1 t, Keeps z t → Keeps z (k x0 x1 t) := fun x0 x1 t h => h.trans (h_k x0 x1 t)
  unfold beginTable; split <;> simp (maxDischargeDepth := 40) [*]

@[simp] theorem execTableInstallMapping_keeps {σ : State} {q : Fin 65} {d : HostRead} {s : State} (hσ : Keeps σ s) : Good σ (execTableInstallMapping q d s) := by
  unfold execTableInstallMapping
  simp only [good_next]
  refine beginTable_keeps hσ (fun c b t => ?_)
  split
  · simp (maxDischargeDepth := 40)
  · split
    · rename_i h; simp [mappingBlock_keeps (Keeps.self _) _ h]
    · split <;> simp (maxDischargeDepth := 40)

@[simp] theorem execTableInstallActivation_keeps {σ : State} {q : Fin 65} {d : HostRead} {s : State} (hσ : Keeps σ s) : Good σ (execTableInstallActivation q d s) := by
  unfold execTableInstallActivation; simp (maxDischargeDepth := 40) [*]

@[simp] theorem execModelReload_keeps {σ : State} {i : Fin 64} {copy : HostRead} {s : State} (hσ : Keeps σ s) : Good σ (execModelReload i copy s) := by
  unfold execModelReload; simp (maxDischargeDepth := 40) [*]

@[simp] theorem execModelReloadRetry_keeps {σ : State} {i : Fin 64} {copy : HostRead} {s : State} (hσ : Keeps σ s) : Good σ (execModelReloadRetry i copy s) := by
  unfold execModelReloadRetry; simp (maxDischargeDepth := 40) [*]

end Sys2Proof.Machine
end

