-- ==== Sys2Proof/Laws/KeepsEngine.lean ====
section
/-! SUPPORT. One lemma per operation: what the engines, the sequencer and the dispatcher keep. -/

set_option maxRecDepth 8000

namespace Sys2Proof.Machine

/-! ## Vector -/

@[simp] theorem storeRow_keeps {σ : State} {core fmt dst aux : Nat} {satinf zero : Bool} {xs : List (Option Nat)} {s : State} (hσ : Keeps σ s) : Keeps σ (storeRow core fmt dst aux satinf zero xs s).2 := by
  unfold storeRow; simp (maxDischargeDepth := 40) [*]

@[simp] theorem veFlags_keeps {σ : State} {core : Nat} {r : VeRec} {f : Fl} {s : State} (hσ : Keeps σ s) : Keeps σ (veFlags core r f s) := by
  unfold veFlags; simp (maxDischargeDepth := 40) [*]

@[simp] theorem veSync_keeps {σ : State} {core : Nat} {s : State} (hσ : Keeps σ s) : Keeps σ (veSync core s) := by
  unfold veSync; simp (maxDischargeDepth := 40) [*]

@[simp] theorem endRow_keeps {σ : State} {core : Nat} {r : VeRec} {gs : List Stage} {row : Nat} {fs : List Flow} {s : State} (hσ : Keeps σ s) : Keeps σ (endRow core r gs row fs s) := by
  unfold endRow; (try dsimp only); (repeat' split) <;> simp (maxDischargeDepth := 40) [*]

@[simp] theorem guarded_keeps {σ : State} {core : Nat} {reads writes : List (Nat × Nat)} {u : Upset} {k : State → State} {s : State} (hσ : Keeps σ s) (h_k : ∀ t, Keeps t (k t)) : Keeps σ (guarded core reads writes u k s) := by
  replace h_k : ∀ {z} t, Keeps z t → Keeps z (k t) := fun t h => h.trans (h_k t)
  unfold guarded; (try dsimp only); (repeat' split) <;> (repeat (rename_i e; first | (have e2 := congrArg Prod.snd e; dsimp only at e2; subst e2; clear e) | revert e)) <;> intros <;> simp (maxDischargeDepth := 40) [*]

@[simp] theorem spChain_keeps {σ : State} {core : Nat} {r : VeRec} {u : Upset} {s : State} (hσ : Keeps σ s) : Keeps σ (spChain core r u s) := by
  unfold spChain; simp (maxDischargeDepth := 40) [*]

@[simp] theorem spProgram_keeps {σ : State} {core : Nat} {r : VeRec} {u : Upset} {s : State} (hσ : Keeps σ s) : Keeps σ (spProgram core r u s) := by
  unfold spProgram; simp (maxDischargeDepth := 40) [*]

@[simp] theorem broadcastLoad_keeps {σ : State} {core : Nat} {r : VeRec} {u : Upset} {s : State} (hσ : Keeps σ s) : Keeps σ (broadcastLoad core r u s) := by
  unfold broadcastLoad; simp (maxDischargeDepth := 40) [*]

@[simp] theorem tableLoad_keeps {σ : State} {core : Nat} {r : VeRec} {u : Upset} {s : State} (hσ : Keeps σ s) : Keeps σ (tableLoad core r u s) := by
  unfold tableLoad; simp (maxDischargeDepth := 40) [*]

@[simp] theorem setVl_keeps {σ : State} {core : Nat} {r : VeRec} {s : State} (hσ : Keeps σ s) : Keeps σ (setVl core r s) := by
  unfold setVl; simp (maxDischargeDepth := 40) [*]

@[simp] theorem putVreg_keeps {σ : State} {core : Nat} {r : VeRec} {d : Nat} {new : List (Nat × Fl)} {s : State} (hσ : Keeps σ s) : Keeps σ (putVreg core r d new s) := by
  unfold putVreg; simp (maxDischargeDepth := 40) [*]

@[simp] theorem putPred_keeps {σ : State} {core : Nat} {r : VeRec} {d : Nat} {new : List Bool} {s : State} (hσ : Keeps σ s) : Keeps σ (putPred core r d new s) := by
  unfold putPred; simp (maxDischargeDepth := 40) [*]

@[simp] theorem vload_keeps {σ : State} {core : Nat} {r : VeRec} {i : VInstr} {u : Upset} {s : State} (hσ : Keeps σ s) : Keeps σ (vload core r i u s) := by
  unfold vload; simp (maxDischargeDepth := 40) [*]

@[simp] theorem vstore_keeps {σ : State} {core : Nat} {r : VeRec} {i : VInstr} {u : Upset} {s : State} (hσ : Keeps σ s) : Keeps σ (vstore core r i u s) := by
  unfold vstore; simp (maxDischargeDepth := 40) [*]

@[simp] theorem regRun_keeps {σ : State} {core : Nat} {r : VeRec} {u : Upset} {s : State} (hσ : Keeps σ s) : Keeps σ (regRun core r u s) := by
  unfold regRun; (try dsimp only); (repeat' split) <;> simp (maxDischargeDepth := 40) [*]

@[simp] theorem veChecked_keeps {σ : State} {core : Nat} {u : Upset} {k : State → State} {s : State} (hσ : Keeps σ s) (h_k : ∀ t, Keeps t (k t)) : Keeps σ (veChecked core u k s) := by
  replace h_k : ∀ {z} t, Keeps z t → Keeps z (k t) := fun t h => h.trans (h_k t)
  unfold veChecked; split <;> simp (maxDischargeDepth := 40) [*]

@[simp] theorem veRun_keeps {σ : State} {core : Nat} {r : VeRec} {u : Upset} {s : State} (hσ : Keeps σ s) : Keeps σ (veRun core r u s) := by
  unfold veRun; split
  · exact veFault_keeps hσ
  · refine veChecked_keeps hσ (fun t => ?_)
    split <;> simp (maxDischargeDepth := 40)

@[simp] theorem veDrain_keeps {σ : State} {core : Nat} {y0 : Nat} {y1 : State} (hσ : Keeps σ y1) : Keeps σ (veDrain core y0 y1) := by
  refine hσ.trans ?_
  clear hσ
  induction y0 generalizing y1 with
    | zero => simp (maxDischargeDepth := 40) [veDrain]
    | succ n ih => unfold veDrain; (try dsimp only); (repeat' split) <;> (try refine Keeps.trans ?_ ih) <;> simp (maxDischargeDepth := 40) [*]

@[simp] theorem veSettle_keeps {σ : State} {core : Nat} {s : State} (hσ : Keeps σ s) : Keeps σ (veSettle core s) := by
  unfold veSettle; simp (maxDischargeDepth := 40) [*]

@[simp] theorem veIssue_keeps {σ : State} {core : Nat} {r : VeRec} {u : Upset} {s : State} (hσ : Keeps σ s) : Keeps σ (veIssue core r u s) := by
  unfold veIssue; simp (maxDischargeDepth := 40) [*]

@[simp] theorem issueVe_keeps {σ : State} {core : Nat} {ok : VeRec → Bool} {u : Upset} {s : State} (hσ : Keeps σ s) : Keeps σ (issueVe core ok u s) := by
  unfold issueVe; split <;> simp (maxDischargeDepth := 40) [*]

@[simp] theorem veFeed_keeps {σ : State} {core : Nat} {rows : List (List (Bool × Nat))} {n : Nat} {s : State} (hσ : Keeps σ s) : Keeps σ (veFeed core rows n s) := by
  unfold veFeed; (try dsimp only); (repeat' split) <;> simp (maxDischargeDepth := 40) [*]

@[simp] theorem execVeChain_keeps {σ : State} {core : Fin 8} {u : Upset} {s : State} (hσ : Keeps σ s) : Good σ (execVeChain core u s) := by
  unfold execVeChain; simp (maxDischargeDepth := 40) [*]

@[simp] theorem execVeEprog_keeps {σ : State} {core : Fin 8} {u : Upset} {s : State} (hσ : Keeps σ s) : Good σ (execVeEprog core u s) := by
  unfold execVeEprog; simp (maxDischargeDepth := 40) [*]

@[simp] theorem execVeBcast_keeps {σ : State} {core : Fin 8} {u : Upset} {s : State} (hσ : Keeps σ s) : Good σ (execVeBcast core u s) := by
  unfold execVeBcast; simp (maxDischargeDepth := 40) [*]

@[simp] theorem execVeTload_keeps {σ : State} {core : Fin 8} {u : Upset} {s : State} (hσ : Keeps σ s) : Good σ (execVeTload core u s) := by
  unfold execVeTload; simp (maxDischargeDepth := 40) [*]

@[simp] theorem execVeSetvl_keeps {σ : State} {core : Fin 8} {u : Upset} {s : State} (hσ : Keeps σ s) : Good σ (execVeSetvl core u s) := by
  unfold execVeSetvl; simp (maxDischargeDepth := 40) [*]

@[simp] theorem execVeSync_keeps {σ : State} {core : Fin 8} {s : State} (hσ : Keeps σ s) : Good σ (execVeSync core s) := by
  unfold execVeSync; simp (maxDischargeDepth := 40) [*]

@[simp] theorem issueReg_keeps {σ : State} {core opc : Nat} {u : Upset} {s : State} (hσ : Keeps σ s) : Keeps σ (issueReg core opc u s) := by
  unfold issueReg; simp (maxDischargeDepth := 40) [*]

@[simp] theorem execVeNop_keeps {σ : State} {core : Fin 8} {u : Upset} {s : State} (hσ : Keeps σ s) : Good σ (execVeNop core u s) := by
  unfold execVeNop; simp (maxDischargeDepth := 40) [*]

@[simp] theorem execMov_keeps {σ : State} {core : Fin 8} {u : Upset} {s : State} (hσ : Keeps σ s) : Good σ (execMov core u s) := by
  unfold execMov; simp (maxDischargeDepth := 40) [*]

@[simp] theorem execAdd_keeps {σ : State} {core : Fin 8} {u : Upset} {s : State} (hσ : Keeps σ s) : Good σ (execAdd core u s) := by
  unfold execAdd; simp (maxDischargeDepth := 40) [*]

@[simp] theorem execSub_keeps {σ : State} {core : Fin 8} {u : Upset} {s : State} (hσ : Keeps σ s) : Good σ (execSub core u s) := by
  unfold execSub; simp (maxDischargeDepth := 40) [*]

@[simp] theorem execMul_keeps {σ : State} {core : Fin 8} {u : Upset} {s : State} (hσ : Keeps σ s) : Good σ (execMul core u s) := by
  unfold execMul; simp (maxDischargeDepth := 40) [*]

@[simp] theorem execFma_keeps {σ : State} {core : Fin 8} {u : Upset} {s : State} (hσ : Keeps σ s) : Good σ (execFma core u s) := by
  unfold execFma; simp (maxDischargeDepth := 40) [*]

@[simp] theorem execDiv_keeps {σ : State} {core : Fin 8} {u : Upset} {s : State} (hσ : Keeps σ s) : Good σ (execDiv core u s) := by
  unfold execDiv; simp (maxDischargeDepth := 40) [*]

@[simp] theorem execSqrt_keeps {σ : State} {core : Fin 8} {u : Upset} {s : State} (hσ : Keeps σ s) : Good σ (execSqrt core u s) := by
  unfold execSqrt; simp (maxDischargeDepth := 40) [*]

@[simp] theorem execMin_keeps {σ : State} {core : Fin 8} {u : Upset} {s : State} (hσ : Keeps σ s) : Good σ (execMin core u s) := by
  unfold execMin; simp (maxDischargeDepth := 40) [*]

@[simp] theorem execMax_keeps {σ : State} {core : Fin 8} {u : Upset} {s : State} (hσ : Keeps σ s) : Good σ (execMax core u s) := by
  unfold execMax; simp (maxDischargeDepth := 40) [*]

@[simp] theorem execAbs_keeps {σ : State} {core : Fin 8} {u : Upset} {s : State} (hσ : Keeps σ s) : Good σ (execAbs core u s) := by
  unfold execAbs; simp (maxDischargeDepth := 40) [*]

@[simp] theorem execNeg_keeps {σ : State} {core : Fin 8} {u : Upset} {s : State} (hσ : Keeps σ s) : Good σ (execNeg core u s) := by
  unfold execNeg; simp (maxDischargeDepth := 40) [*]

@[simp] theorem execAct_keeps {σ : State} {core : Fin 8} {u : Upset} {s : State} (hσ : Keeps σ s) : Good σ (execAct core u s) := by
  unfold execAct; simp (maxDischargeDepth := 40) [*]

@[simp] theorem execCmp_keeps {σ : State} {core : Fin 8} {u : Upset} {s : State} (hσ : Keeps σ s) : Good σ (execCmp core u s) := by
  unfold execCmp; simp (maxDischargeDepth := 40) [*]

@[simp] theorem execSel_keeps {σ : State} {core : Fin 8} {u : Upset} {s : State} (hσ : Keeps σ s) : Good σ (execSel core u s) := by
  unfold execSel; simp (maxDischargeDepth := 40) [*]

@[simp] theorem execRint_keeps {σ : State} {core : Fin 8} {u : Upset} {s : State} (hσ : Keeps σ s) : Good σ (execRint core u s) := by
  unfold execRint; simp (maxDischargeDepth := 40) [*]

@[simp] theorem execCvti_keeps {σ : State} {core : Fin 8} {u : Upset} {s : State} (hσ : Keeps σ s) : Good σ (execCvti core u s) := by
  unfold execCvti; simp (maxDischargeDepth := 40) [*]

@[simp] theorem execCvtf_keeps {σ : State} {core : Fin 8} {u : Upset} {s : State} (hσ : Keeps σ s) : Good σ (execCvtf core u s) := by
  unfold execCvtf; simp (maxDischargeDepth := 40) [*]

@[simp] theorem execRnd_keeps {σ : State} {core : Fin 8} {u : Upset} {s : State} (hσ : Keeps σ s) : Good σ (execRnd core u s) := by
  unfold execRnd; simp (maxDischargeDepth := 40) [*]

@[simp] theorem execPand_keeps {σ : State} {core : Fin 8} {u : Upset} {s : State} (hσ : Keeps σ s) : Good σ (execPand core u s) := by
  unfold execPand; simp (maxDischargeDepth := 40) [*]

@[simp] theorem execPor_keeps {σ : State} {core : Fin 8} {u : Upset} {s : State} (hσ : Keeps σ s) : Good σ (execPor core u s) := by
  unfold execPor; simp (maxDischargeDepth := 40) [*]

@[simp] theorem execPxor_keeps {σ : State} {core : Fin 8} {u : Upset} {s : State} (hσ : Keeps σ s) : Good σ (execPxor core u s) := by
  unfold execPxor; simp (maxDischargeDepth := 40) [*]

@[simp] theorem execPnot_keeps {σ : State} {core : Fin 8} {u : Upset} {s : State} (hσ : Keeps σ s) : Good σ (execPnot core u s) := by
  unfold execPnot; simp (maxDischargeDepth := 40) [*]

@[simp] theorem execPset_keeps {σ : State} {core : Fin 8} {u : Upset} {s : State} (hσ : Keeps σ s) : Good σ (execPset core u s) := by
  unfold execPset; simp (maxDischargeDepth := 40) [*]

@[simp] theorem execVld_keeps {σ : State} {core : Fin 8} {u : Upset} {s : State} (hσ : Keeps σ s) : Good σ (execVld core u s) := by
  unfold execVld; simp (maxDischargeDepth := 40) [*]

@[simp] theorem execVst_keeps {σ : State} {core : Fin 8} {u : Upset} {s : State} (hσ : Keeps σ s) : Good σ (execVst core u s) := by
  unfold execVst; simp (maxDischargeDepth := 40) [*]

@[simp] theorem execVbrow_keeps {σ : State} {core : Fin 8} {u : Upset} {s : State} (hσ : Keeps σ s) : Good σ (execVbrow core u s) := by
  unfold execVbrow; simp (maxDischargeDepth := 40) [*]

@[simp] theorem execVbcol_keeps {σ : State} {core : Fin 8} {u : Upset} {s : State} (hσ : Keeps σ s) : Good σ (execVbcol core u s) := by
  unfold execVbcol; simp (maxDischargeDepth := 40) [*]

@[simp] theorem execVidx_keeps {σ : State} {core : Fin 8} {u : Upset} {s : State} (hσ : Keeps σ s) : Good σ (execVidx core u s) := by
  unfold execVidx; simp (maxDischargeDepth := 40) [*]

@[simp] theorem execRsum_keeps {σ : State} {core : Fin 8} {u : Upset} {s : State} (hσ : Keeps σ s) : Good σ (execRsum core u s) := by
  unfold execRsum; simp (maxDischargeDepth := 40) [*]

@[simp] theorem execRmax_keeps {σ : State} {core : Fin 8} {u : Upset} {s : State} (hσ : Keeps σ s) : Good σ (execRmax core u s) := by
  unfold execRmax; simp (maxDischargeDepth := 40) [*]

@[simp] theorem execRmin_keeps {σ : State} {core : Fin 8} {u : Upset} {s : State} (hσ : Keeps σ s) : Good σ (execRmin core u s) := by
  unfold execRmin; simp (maxDischargeDepth := 40) [*]

/-! ## Recur -/

@[simp] theorem putAlloc_keeps {σ : State} {x : Stream} {o : Nat} {bs : List Byte} {s : State} (hσ : Keeps σ s) : Keeps σ (putAlloc x o bs s) := by
  unfold putAlloc; (try simp only [good_next]); (first | refine beginCmd_keeps hσ (fun _ _ _ => ?_) | refine powered_keeps hσ (fun _ => ?_) | refine screen_keeps hσ (fun _ => ?_) | refine beginTable_keeps hσ (fun _ _ _ => ?_) | refine lhBegin_keeps hσ (fun _ _ _ => ?_) | refine withEntry_keeps hσ (fun _ _ => ?_) | refine keeps_foldl hσ (fun _ _ => ?_) | refine onLhQueue_keeps hσ (fun _ => ?_) | refine guarded_keeps hσ (fun _ => ?_) | refine meChecked_keeps hσ (fun _ => ?_) | refine veChecked_keeps hσ (fun _ => ?_) | refine ruChecked_keeps hσ (fun _ => ?_)| refine heard_keeps hσ (fun _ => ?_)| refine startDesc_keeps hσ (fun _ _ _ => ?_)| refine sourceTimer_keeps hσ (fun _ _ _ => ?_)| refine governed_keeps hσ (fun _ => ?_)| refine copyIn_keeps hσ (fun _ => ?_)| refine withPart_keeps hσ (fun _ _ _ => ?_)); (try dsimp only); (repeat' split) <;> (repeat (rename_i e; first | (have e2 := congrArg Prod.snd e; dsimp only at e2; subst e2; clear e) | revert e)) <;> intros <;> simp (maxDischargeDepth := 40) [*]

@[simp] theorem ruFlags_keeps {σ : State} {core : Nat} {f : Fl} {s : State} (hσ : Keeps σ s) : Keeps σ (ruFlags core f s) := by
  unfold ruFlags; simp (maxDischargeDepth := 40) [*]

@[simp] theorem ruSync_keeps {σ : State} {core : Nat} {s : State} (hσ : Keeps σ s) : Keeps σ (ruSync core s) := by
  unfold ruSync; simp (maxDischargeDepth := 40) [*]

@[simp] theorem ruChecked_keeps {σ : State} {core : Nat} {u : Upset} {k : State → State} {s : State} (hσ : Keeps σ s) (h_k : ∀ t, Keeps t (k t)) : Keeps σ (ruChecked core u k s) := by
  replace h_k : ∀ {z} t, Keeps z t → Keeps z (k t) := fun t h => h.trans (h_k t)
  unfold ruChecked; split <;> simp (maxDischargeDepth := 40) [*]

@[simp] theorem withPart_keeps {σ : State} {core : Nat} {m : MemberRow} {o n : Nat} {k : Stream → Nat → State → State} {s : State} (hσ : Keeps σ s) (h_k : ∀ x0 x1 t, Keeps t (k x0 x1 t)) : Keeps σ (withPart core m o n k s) := by
  replace h_k : ∀ {z} x0 x1 t, Keeps z t → Keeps z (k x0 x1 t) := fun x0 x1 t h => h.trans (h_k x0 x1 t)
  unfold withPart; (repeat' split) <;> simp (maxDischargeDepth := 40) [*]

@[simp] theorem takeTable_keeps {σ : State} {core : Nat} {r : RuRec} {s : State} (hσ : Keeps σ s) : Keeps σ (takeTable core r s) := by
  unfold takeTable; simp (maxDischargeDepth := 40) [*]

@[simp] theorem stateLoad_keeps {σ : State} {core : Nat} {r : RuRec} {s : State} (hσ : Keeps σ s) : Keeps σ (stateLoad core r s) := by
  unfold stateLoad; simp (maxDischargeDepth := 40) [*]

@[simp] theorem stateStore_keeps {σ : State} {core : Nat} {r : RuRec} {s : State} (hσ : Keeps σ s) : Keeps σ (stateStore core r s) := by
  unfold stateStore; simp (maxDischargeDepth := 40) [*]

@[simp] theorem gateRows_keeps {σ : State} {core : Nat} {r : RuRec} {rows : List (List (Bool × Nat))} {s : State} (hσ : Keeps σ s) : Keeps σ (gateRows core r rows s) := by
  unfold gateRows; simp (maxDischargeDepth := 40) [*]

@[simp] theorem scanRun_keeps {σ : State} {core : Nat} {r : RuRec} {s : State} (hσ : Keeps σ s) : Keeps σ (scanRun core r s) := by
  unfold scanRun; simp (maxDischargeDepth := 40) [*]

@[simp] theorem toeplitz_keeps {σ : State} {core : Nat} {r : RuRec} {s : State} (hσ : Keeps σ s) : Keeps σ (toeplitz core r s) := by
  unfold toeplitz; simp (maxDischargeDepth := 40) [*]

@[simp] theorem ringGather_keeps {σ : State} {core : Nat} {r : RuRec} {s : State} (hσ : Keeps σ s) : Keeps σ (ringGather core r s) := by
  unfold ringGather; simp (maxDischargeDepth := 40) [*]

@[simp] theorem ringAppend_keeps {σ : State} {core : Nat} {r : RuRec} {s : State} (hσ : Keeps σ s) : Keeps σ (ringAppend core r s) := by
  unfold ringAppend; simp (maxDischargeDepth := 40) [*]

@[simp] theorem ruRun_keeps {σ : State} {core : Nat} {r : RuRec} {u : Upset} {s : State} (hσ : Keeps σ s) : Keeps σ (ruRun core r u s) := by
  unfold ruRun; (repeat' split) <;> simp (maxDischargeDepth := 40) [*]

@[simp] theorem ruIssue_keeps {σ : State} {core : Nat} {r : RuRec} {u : Upset} {s : State} (hσ : Keeps σ s) : Keeps σ (ruIssue core r u s) := by
  unfold ruIssue; (try dsimp only); (repeat' split) <;> simp (maxDischargeDepth := 40) [*]

@[simp] theorem issueRu_keeps {σ : State} {core : Nat} {ok : RuRec → Bool} {u : Upset} {s : State} (hσ : Keeps σ s) : Keeps σ (issueRu core ok u s) := by
  unfold issueRu; split <;> simp (maxDischargeDepth := 40) [*]

@[simp] theorem ruFeed_keeps {σ : State} {core : Nat} {rows : List (List (Bool × Nat))} {n : Nat} {s : State} (hσ : Keeps σ s) : Keeps σ (ruFeed core rows n s) := by
  unfold ruFeed; (try dsimp only); (repeat' split) <;> simp (maxDischargeDepth := 40) [*]

@[simp] theorem execRuSload_keeps {σ : State} {core : Fin 8} {u : Upset} {s : State} (hσ : Keeps σ s) : Good σ (execRuSload core u s) := by
  unfold execRuSload; simp (maxDischargeDepth := 40) [*]

@[simp] theorem execRuSstore_keeps {σ : State} {core : Fin 8} {u : Upset} {s : State} (hσ : Keeps σ s) : Good σ (execRuSstore core u s) := by
  unfold execRuSstore; simp (maxDischargeDepth := 40) [*]

@[simp] theorem execRuGate_keeps {σ : State} {core : Fin 8} {u : Upset} {s : State} (hσ : Keeps σ s) : Good σ (execRuGate core u s) := by
  unfold execRuGate; simp (maxDischargeDepth := 40) [*]

@[simp] theorem execRuScan_keeps {σ : State} {core : Fin 8} {u : Upset} {s : State} (hσ : Keeps σ s) : Good σ (execRuScan core u s) := by
  unfold execRuScan; simp (maxDischargeDepth := 40) [*]

@[simp] theorem execRuToep_keeps {σ : State} {core : Fin 8} {u : Upset} {s : State} (hσ : Keeps σ s) : Good σ (execRuToep core u s) := by
  unfold execRuToep; simp (maxDischargeDepth := 40) [*]

@[simp] theorem execRuRingGather_keeps {σ : State} {core : Fin 8} {u : Upset} {s : State} (hσ : Keeps σ s) : Good σ (execRuRingGather core u s) := by
  unfold execRuRingGather; simp (maxDischargeDepth := 40) [*]

@[simp] theorem execRuRingAppend_keeps {σ : State} {core : Fin 8} {u : Upset} {s : State} (hσ : Keeps σ s) : Good σ (execRuRingAppend core u s) := by
  unfold execRuRingAppend; simp (maxDischargeDepth := 40) [*]

@[simp] theorem execRuTload_keeps {σ : State} {core : Fin 8} {u : Upset} {s : State} (hσ : Keeps σ s) : Good σ (execRuTload core u s) := by
  unfold execRuTload; simp (maxDischargeDepth := 40) [*]

@[simp] theorem execRuSync_keeps {σ : State} {core : Fin 8} {s : State} (hσ : Keeps σ s) : Good σ (execRuSync core s) := by
  unfold execRuSync; simp (maxDischargeDepth := 40) [*]

/-! ## Matrix -/

@[simp] theorem deliver_keeps {σ : State} {core : Nat} {r : MeRec} {rows : List (List (Bool × Nat))} {s : State} (hσ : Keeps σ s) : Keeps σ (deliver core r rows s) := by
  unfold deliver; split <;> simp (maxDischargeDepth := 40) [*]

@[simp] theorem meSync_keeps {σ : State} {core : Nat} {s : State} (hσ : Keeps σ s) : Keeps σ (meSync core s) := by
  unfold meSync; simp (maxDischargeDepth := 40) [*]

@[simp] theorem meFlags_keeps {σ : State} {core : Nat} {f : Fl} {s : State} (hσ : Keeps σ s) : Keeps σ (meFlags core f s) := by
  unfold meFlags; simp (maxDischargeDepth := 40) [*]

@[simp] theorem meChecked_keeps {σ : State} {core : Nat} {u : Upset} {k : State → State} {s : State} (hσ : Keeps σ s) (h_k : ∀ t, Keeps t (k t)) : Keeps σ (meChecked core u k s) := by
  replace h_k : ∀ {z} t, Keeps z t → Keeps z (k t) := fun t h => h.trans (h_k t)
  unfold meChecked; split <;> simp (maxDischargeDepth := 40) [*]

@[simp] theorem tileLoad_keeps {σ : State} {core : Nat} {r : MeRec} {u : Upset} {s : State} (hσ : Keeps σ s) : Keeps σ (tileLoad core r u s) := by
  unfold tileLoad; simp (maxDischargeDepth := 40) [*]

@[simp] theorem swapTiles_keeps {σ : State} {core : Nat} {s : State} (hσ : Keeps σ s) : Keeps σ (swapTiles core s) := by
  unfold swapTiles; simp (maxDischargeDepth := 40) [*]

@[simp] theorem streamRow_keeps {σ : State} {core : Nat} {r : MeRec} {t : Tile} {miss : Bool} {i : Nat} {s : State} (hσ : Keeps σ s) : Keeps σ (streamRow core r t miss i s).2 := by
  unfold streamRow; simp (maxDischargeDepth := 40) [*]

@[simp] theorem streamRows_keeps {σ : State} {core : Nat} {r : MeRec} {tile : Nat → Tile} {miss : List Nat} {y0 : List Nat} {y1 : State} (hσ : Keeps σ y1) : Keeps σ (streamRows core r tile miss y0 y1).2 := by
  refine hσ.trans ?_
  clear hσ
  induction y0 generalizing y1 with
    | nil => simp (maxDischargeDepth := 40) [streamRows]
    | cons a0 l0 ih => unfold streamRows; (try dsimp only); (repeat' split) <;> (try refine Keeps.trans ?_ ih) <;> simp (maxDischargeDepth := 40) [*]

@[simp] theorem meErase_keeps {σ : State} {core : Nat} {s : State} (hσ : Keeps σ s) : Keeps σ (meErase core s) := by
  unfold meErase; simp (maxDischargeDepth := 40) [*]

@[simp] theorem streamRun_keeps {σ : State} {core : Nat} {r : MeRec} {u : Upset} {s : State} (hσ : Keeps σ s) : Keeps σ (streamRun core r u s) := by
  unfold streamRun; simp (maxDischargeDepth := 40) [*]

@[simp] theorem meRun_keeps {σ : State} {core : Nat} {r : MeRec} {u : Upset} {s : State} (hσ : Keeps σ s) : Keeps σ (meRun core r u s) := by
  unfold meRun; (repeat' split) <;> simp (maxDischargeDepth := 40) [*]

@[simp] theorem meDrain_keeps {σ : State} {core : Nat} {y0 : Nat} {y1 : State} (hσ : Keeps σ y1) : Keeps σ (meDrain core y0 y1) := by
  refine hσ.trans ?_
  clear hσ
  induction y0 generalizing y1 with
    | zero => simp (maxDischargeDepth := 40) [meDrain]
    | succ n ih => unfold meDrain; (try dsimp only); (repeat' split) <;> (try refine Keeps.trans ?_ ih) <;> simp (maxDischargeDepth := 40) [*]

@[simp] theorem meSettle_keeps {σ : State} {core : Nat} {s : State} (hσ : Keeps σ s) : Keeps σ (meSettle core s) := by
  unfold meSettle; simp (maxDischargeDepth := 40) [*]

@[simp] theorem issueMe_keeps {σ : State} {core op : Nat} {u : Upset} {s : State} (hσ : Keeps σ s) : Keeps σ (issueMe core op u s) := by
  unfold issueMe; split <;> simp (maxDischargeDepth := 40) [*]

@[simp] theorem loadDone_keeps {σ : State} {core : Nat} {s : State} (hσ : Keeps σ s) : Keeps σ (loadDone core s) := by
  unfold loadDone; (try dsimp only); (repeat' split) <;> simp (maxDischargeDepth := 40) [*]

@[simp] theorem execMeLoad_keeps {σ : State} {core : Fin 8} {u : Upset} {s : State} (hσ : Keeps σ s) : Good σ (execMeLoad core u s) := by
  unfold execMeLoad; simp (maxDischargeDepth := 40) [*]

@[simp] theorem execMeLoadDone_keeps {σ : State} {core : Fin 8} {s : State} (hσ : Keeps σ s) : Good σ (execMeLoadDone core s) := by
  unfold execMeLoadDone; simp (maxDischargeDepth := 40) [*]

@[simp] theorem execMeStream_keeps {σ : State} {core : Fin 8} {u : Upset} {s : State} (hσ : Keeps σ s) : Good σ (execMeStream core u s) := by
  unfold execMeStream; simp (maxDischargeDepth := 40) [*]

@[simp] theorem execMeDrain_keeps {σ : State} {core : Fin 8} {u : Upset} {s : State} (hσ : Keeps σ s) : Good σ (execMeDrain core u s) := by
  unfold execMeDrain; simp (maxDischargeDepth := 40) [*]

@[simp] theorem execMeClear_keeps {σ : State} {core : Fin 8} {u : Upset} {s : State} (hσ : Keeps σ s) : Good σ (execMeClear core u s) := by
  unfold execMeClear; simp (maxDischargeDepth := 40) [*]

/-! ## Verify -/

@[simp] theorem noteTags_keeps {σ : State} {p : Nat} {deps : List Nat} {s : State} (hσ : Keeps σ s) : Keeps σ (noteTags p deps s) := by
  unfold noteTags; (try simp only [good_next]); (first | refine beginCmd_keeps hσ (fun _ _ _ => ?_) | refine powered_keeps hσ (fun _ => ?_) | refine screen_keeps hσ (fun _ => ?_) | refine beginTable_keeps hσ (fun _ _ _ => ?_) | refine lhBegin_keeps hσ (fun _ _ _ => ?_) | refine withEntry_keeps hσ (fun _ _ => ?_) | refine keeps_foldl hσ (fun _ _ => ?_) | refine onLhQueue_keeps hσ (fun _ => ?_) | refine guarded_keeps hσ (fun _ => ?_) | refine meChecked_keeps hσ (fun _ => ?_) | refine veChecked_keeps hσ (fun _ => ?_) | refine ruChecked_keeps hσ (fun _ => ?_)| refine heard_keeps hσ (fun _ => ?_)| refine startDesc_keeps hσ (fun _ _ _ => ?_)| refine sourceTimer_keeps hσ (fun _ _ _ => ?_)| refine governed_keeps hσ (fun _ => ?_)| refine copyIn_keeps hσ (fun _ => ?_)| refine withPart_keeps hσ (fun _ _ _ => ?_)); (try dsimp only); (repeat' split) <;> (repeat (rename_i e; first | (have e2 := congrArg Prod.snd e; dsimp only at e2; subst e2; clear e) | revert e)) <;> intros <;> simp (maxDischargeDepth := 40) [*]

@[simp] theorem installSched_keeps {σ : State} {q : Nat} {c : QCmd} {b : List Byte} {s : State} (hσ : Keeps σ s) : Keeps σ (installSched q c b s) := by
  unfold installSched; (try dsimp only); (repeat' split) <;> simp (maxDischargeDepth := 40) [*]

@[simp] theorem dropSched_keeps {σ : State} {i : Nat} {s : State} (hσ : Keeps σ s) : Keeps σ (dropSched i s) := by
  unfold dropSched; simp (maxDischargeDepth := 40) [*]

@[simp] theorem removeSched_keeps {σ : State} {q : Nat} {c : QCmd} {s : State} (hσ : Keeps σ s) : Keeps σ (removeSched q c s) := by
  unfold removeSched; (try dsimp only); (repeat' split) <;> simp (maxDischargeDepth := 40) [*]

@[simp] theorem execSchedInstall_keeps {σ : State} {q : Fin 65} {d : HostRead} {s : State} (hσ : Keeps σ s) : Good σ (execSchedInstall q d s) := by
  unfold execSchedInstall; simp (maxDischargeDepth := 40) [*]

@[simp] theorem execSchedRemove_keeps {σ : State} {q : Fin 65} {s : State} (hσ : Keeps σ s) : Good σ (execSchedRemove q s) := by
  unfold execSchedRemove; simp (maxDischargeDepth := 40) [*]

/-! ## StreamCmds -/

@[simp] theorem execNop_keeps {σ : State} {q : Fin 65} {s : State} (hσ : Keeps σ s) : Good σ (execNop q s) := by
  unfold execNop; simp (maxDischargeDepth := 40) [*]

@[simp] theorem execStreamOpen_keeps {σ : State} {q : Fin 65} {d : HostRead} {s : State} (hσ : Keeps σ s) : Good σ (execStreamOpen q d s) := by
  unfold execStreamOpen; simp only [good_next]; split
  · exact hσ
  · (first | refine beginCmd_keeps hσ (fun _ _ _ => ?_) | refine powered_keeps hσ (fun _ => ?_) | refine screen_keeps hσ (fun _ => ?_) | refine beginTable_keeps hσ (fun _ _ _ => ?_) | refine lhBegin_keeps hσ (fun _ _ _ => ?_) | refine withEntry_keeps hσ (fun _ _ => ?_) | refine keeps_foldl hσ (fun _ _ => ?_) | refine onLhQueue_keeps hσ (fun _ => ?_) | refine guarded_keeps hσ (fun _ => ?_) | refine meChecked_keeps hσ (fun _ => ?_) | refine veChecked_keeps hσ (fun _ => ?_) | refine ruChecked_keeps hσ (fun _ => ?_)| refine heard_keeps hσ (fun _ => ?_)| refine startDesc_keeps hσ (fun _ _ _ => ?_)| refine sourceTimer_keeps hσ (fun _ _ _ => ?_)| refine governed_keeps hσ (fun _ => ?_)| refine copyIn_keeps hσ (fun _ => ?_)| refine withPart_keeps hσ (fun _ _ _ => ?_)); (try dsimp only); (repeat' split) <;> (repeat (rename_i e; first | (have e2 := congrArg Prod.snd e; dsimp only at e2; subst e2; clear e) | revert e)) <;> intros <;> simp (maxDischargeDepth := 40) [*]

@[simp] theorem dropInput_keeps {σ : State} {q h : Nat} {s : State} (hσ : Keeps σ s) : Keeps σ (dropInput q h s) := by
  unfold dropInput; (try dsimp only); (repeat' split) <;> simp (maxDischargeDepth := 40) [*]

@[simp] theorem drainStream_keeps {σ : State} {d : Nat} {s : State} (hσ : Keeps σ s) : Keeps σ (drainStream d s) := by
  unfold drainStream; split <;> simp (maxDischargeDepth := 40) [*]

@[simp] theorem closeStream_keeps {σ : State} {d mode q id : Nat} {s : State} (hσ : Keeps σ s) : Keeps σ (closeStream d mode q id s) := by
  unfold closeStream; simp (maxDischargeDepth := 40) [*]

@[simp] theorem beginClose_keeps {σ : State} {q mode : Nat} {s : State} (hσ : Keeps σ s) : Keeps σ (beginClose q mode s) := by
  unfold beginClose; split
  · split
    · exact hσ
    · refine beginCmd_keeps hσ (fun c b t => ?_)
      split <;> simp (maxDischargeDepth := 40)
  · exact hσ

@[simp] theorem execStreamCloseDrain_keeps {σ : State} {q : Fin 65} {s : State} (hσ : Keeps σ s) : Good σ (execStreamCloseDrain q s) := by
  unfold execStreamCloseDrain; simp (maxDischargeDepth := 40) [*]

@[simp] theorem execStreamCloseAbort_keeps {σ : State} {q : Fin 65} {s : State} (hσ : Keeps σ s) : Good σ (execStreamCloseAbort q s) := by
  unfold execStreamCloseAbort; simp (maxDischargeDepth := 40) [*]

@[simp] theorem execEbbInput_keeps {σ : State} {q : Fin 65} {s : State} (hσ : Keeps σ s) : Good σ (execEbbInput q s) := by
  unfold execEbbInput; (try simp only [good_next]); (first | refine beginCmd_keeps hσ (fun _ _ _ => ?_) | refine powered_keeps hσ (fun _ => ?_) | refine screen_keeps hσ (fun _ => ?_) | refine beginTable_keeps hσ (fun _ _ _ => ?_) | refine lhBegin_keeps hσ (fun _ _ _ => ?_) | refine withEntry_keeps hσ (fun _ _ => ?_) | refine keeps_foldl hσ (fun _ _ => ?_) | refine onLhQueue_keeps hσ (fun _ => ?_) | refine guarded_keeps hσ (fun _ => ?_) | refine meChecked_keeps hσ (fun _ => ?_) | refine veChecked_keeps hσ (fun _ => ?_) | refine ruChecked_keeps hσ (fun _ => ?_)| refine heard_keeps hσ (fun _ => ?_)| refine startDesc_keeps hσ (fun _ _ _ => ?_)| refine sourceTimer_keeps hσ (fun _ _ _ => ?_)| refine governed_keeps hσ (fun _ => ?_)| refine copyIn_keeps hσ (fun _ => ?_)| refine withPart_keeps hσ (fun _ _ _ => ?_)); (try dsimp only); (repeat' split) <;> (repeat (rename_i e; first | (have e2 := congrArg Prod.snd e; dsimp only at e2; subst e2; clear e) | revert e)) <;> intros <;> simp (maxDischargeDepth := 40) [*]

@[simp] theorem ebbArrived_keeps {σ : State} {q : Nat} {c : QCmd} {b : List Byte} {s : State} (hσ : Keeps σ s) : Keeps σ (ebbArrived q c b s) := by
  unfold ebbArrived; split <;> simp (maxDischargeDepth := 40) [*]

@[simp] theorem execEbbCancel_keeps {σ : State} {q : Fin 65} {s : State} (hσ : Keeps σ s) : Good σ (execEbbCancel q s) := by
  unfold execEbbCancel; (try simp only [good_next]); (first | refine beginCmd_keeps hσ (fun _ _ _ => ?_) | refine powered_keeps hσ (fun _ => ?_) | refine screen_keeps hσ (fun _ => ?_) | refine beginTable_keeps hσ (fun _ _ _ => ?_) | refine lhBegin_keeps hσ (fun _ _ _ => ?_) | refine withEntry_keeps hσ (fun _ _ => ?_) | refine keeps_foldl hσ (fun _ _ => ?_) | refine onLhQueue_keeps hσ (fun _ => ?_) | refine guarded_keeps hσ (fun _ => ?_) | refine meChecked_keeps hσ (fun _ => ?_) | refine veChecked_keeps hσ (fun _ => ?_) | refine ruChecked_keeps hσ (fun _ => ?_)| refine heard_keeps hσ (fun _ => ?_)| refine startDesc_keeps hσ (fun _ _ _ => ?_)| refine sourceTimer_keeps hσ (fun _ _ _ => ?_)| refine governed_keeps hσ (fun _ => ?_)| refine copyIn_keeps hσ (fun _ => ?_)| refine withPart_keeps hσ (fun _ _ _ => ?_)); (try dsimp only); (repeat' split) <;> (repeat (rename_i e; first | (have e2 := congrArg Prod.snd e; dsimp only at e2; subst e2; clear e) | revert e)) <;> intros <;> simp (maxDischargeDepth := 40) [*]

@[simp] theorem execStreamStandingRetry_keeps {σ : State} {q : Fin 65} {s : State} (hσ : Keeps σ s) : Good σ (execStreamStandingRetry q s) := by
  unfold execStreamStandingRetry; simp only [good_next]; split
  · exact hσ
  · (first | refine beginCmd_keeps hσ (fun _ _ _ => ?_) | refine powered_keeps hσ (fun _ => ?_) | refine screen_keeps hσ (fun _ => ?_) | refine beginTable_keeps hσ (fun _ _ _ => ?_) | refine lhBegin_keeps hσ (fun _ _ _ => ?_) | refine withEntry_keeps hσ (fun _ _ => ?_) | refine keeps_foldl hσ (fun _ _ => ?_) | refine onLhQueue_keeps hσ (fun _ => ?_) | refine guarded_keeps hσ (fun _ => ?_) | refine meChecked_keeps hσ (fun _ => ?_) | refine veChecked_keeps hσ (fun _ => ?_) | refine ruChecked_keeps hσ (fun _ => ?_)| refine heard_keeps hσ (fun _ => ?_)| refine startDesc_keeps hσ (fun _ _ _ => ?_)| refine sourceTimer_keeps hσ (fun _ _ _ => ?_)| refine governed_keeps hσ (fun _ => ?_)| refine copyIn_keeps hσ (fun _ => ?_)| refine withPart_keeps hσ (fun _ _ _ => ?_)); (try dsimp only); (repeat' split) <;> (repeat (rename_i e; first | (have e2 := congrArg Prod.snd e; dsimp only at e2; subst e2; clear e) | revert e)) <;> intros <;> simp (maxDischargeDepth := 40) [*]

/-! ## Sections -/

@[simp] theorem beginMove_keeps {σ : State} {m : Move} {s : State} (hσ : Keeps σ s) : Keeps σ (beginMove m s) := by
  unfold beginMove; simp (maxDischargeDepth := 40) [*]

@[simp] theorem endMove_keeps {σ : State} {m : Move} {s : State} (hσ : Keeps σ s) : Keeps σ (endMove m s) := by
  unfold endMove; simp (maxDischargeDepth := 40) [*]

@[simp] theorem fetchMember_keeps {σ : State} {ebb : Bool} {k : Nat} {g : Section} {s : State} {d : Nat} (hσ : Keeps σ s) : Keeps σ (fetchMember ebb k g s d) := by
  unfold fetchMember; split <;> simp (maxDischargeDepth := 40) [*]

@[simp] theorem retryFetches_keeps {σ : State} {s : State} (hσ : Keeps σ s) : Keeps σ (retryFetches s) := by
  unfold retryFetches
  refine keeps_foldl hσ (fun _ _ => ?_)
  split <;> simp (maxDischargeDepth := 40)

@[simp] theorem beginPrefetch_keeps {σ : State} {d : Nat} {s : State} (hσ : Keeps σ s) : Keeps σ (beginPrefetch d s) := by
  unfold beginPrefetch; split <;> simp (maxDischargeDepth := 40) [*]

@[simp] theorem fetchStart_keeps {σ : State} {t : SwapItem} {s : State} (hσ : Keeps σ s) : Keeps σ (fetchStart t s) := by
  unfold fetchStart; (repeat' split) <;> simp (maxDischargeDepth := 40) [*]

@[simp] theorem toRunning_keeps {σ : State} {d : Nat} {s : State} (hσ : Keeps σ s) : Keeps σ (toRunning d s) := by
  unfold toRunning; simp (maxDischargeDepth := 40) [*]

@[simp] theorem copyIn_keeps {σ : State} {x : Stream} {idx : List Nat} {k : State → State} {s : State} (hσ : Keeps σ s) (h_k : ∀ t, Keeps t (k t)) : Keeps σ (copyIn x idx k s) := by
  replace h_k : ∀ {z} t, Keeps z t → Keeps z (k t) := fun t h => h.trans (h_k t)
  unfold copyIn; split <;> simp (maxDischargeDepth := 40) [*]

@[simp] theorem sectionIn_keeps {σ : State} {ebb : Bool} {k : Nat} {g : Section} {s : State} {d : Nat} (hσ : Keeps σ s) : Keeps σ (sectionIn ebb k g s d) := by
  unfold sectionIn; split <;> simp (maxDischargeDepth := 40) [*]

@[simp] theorem wholeIn_keeps {σ : State} {d : Nat} {s : State} (hσ : Keeps σ s) : Keeps σ (wholeIn d s) := by
  unfold wholeIn; split <;> simp (maxDischargeDepth := 40) [*]

@[simp] theorem swapInDone_keeps {σ : State} {t : SwapItem} {s : State} (hσ : Keeps σ s) : Keeps σ (swapInDone t s) := by
  unfold swapInDone; (repeat' split) <;> simp (maxDischargeDepth := 40) [*]

@[simp] theorem releaseMember_keeps {σ : State} {ebb : Bool} {k : Nat} {g : Section} {s : State} {d : Nat} (hσ : Keeps σ s) : Keeps σ (releaseMember ebb k g s d) := by
  unfold releaseMember; split <;> simp (maxDischargeDepth := 40) [*]

@[simp] theorem sectionRelease_keeps {σ : State} {i k : Nat} {s : State} (hσ : Keeps σ s) : Keeps σ (sectionRelease i k s) := by
  unfold sectionRelease; (repeat' split) <;> simp (maxDischargeDepth := 40) [*]

@[simp] theorem memberIdle_keeps {σ : State} {ebb : Bool} {d : Nat} {s : State} (hσ : Keeps σ s) : Keeps σ (memberIdle ebb d s) := by
  unfold memberIdle; simp (maxDischargeDepth := 40) [*]

@[simp] theorem freeSection_keeps {σ : State} {ebb : Bool} {k : Nat} {g : Section} {d : Nat} {s : State} (hσ : Keeps σ s) : Keeps σ (freeSection ebb k g d s) := by
  unfold freeSection; (repeat' (first | split | dsimp only)) <;> simp (maxDischargeDepth := 40) [*]

@[simp] theorem writtenBack_keeps {σ : State} {ebb : Bool} {k : Nat} {g : Section} {s : State} {d : Nat} (hσ : Keeps σ s) : Keeps σ (writtenBack ebb k g s d) := by
  unfold writtenBack; split <;> simp (maxDischargeDepth := 40) [*]

@[simp] theorem writebackDone_keeps {σ : State} {i k : Nat} {s : State} (hσ : Keeps σ s) : Keeps σ (writebackDone i k s) := by
  unfold writebackDone; (repeat' split) <;> simp (maxDischargeDepth := 40) [*]

@[simp] theorem sendRecord_keeps {σ : State} {d bay : Nat} {ebb transfer remap : Bool} {body : List Byte} {s : State} (hσ : Keeps σ s) : Keeps σ (sendRecord d bay ebb transfer remap body s) := by
  unfold sendRecord; split
  · exact hσ
  · exact sendMsg_keeps (State.addPair_keeps (State.setStream_keeps hσ))

@[simp] theorem ckptSettle_keeps {σ : State} {d : Nat} {ebb : Bool} {s : State} (hσ : Keeps σ s) : Keeps σ (ckptSettle d ebb s) := by
  unfold ckptSettle; (repeat' split) <;> simp (maxDischargeDepth := 40) [*]

@[simp] theorem sectionRead_keeps {σ : State} {ebb : Bool} {k : Nat} {g : Section} {s : State} {d : Nat} (hσ : Keeps σ s) : Keeps σ (sectionRead ebb k g s d) := by
  unfold sectionRead; split <;> simp (maxDischargeDepth := 40) [*]

@[simp] theorem readPart_keeps {σ : State} {d : Nat} {ebb : Bool} {s : State} (hσ : Keeps σ s) : Keeps σ (readPart d ebb s) := by
  unfold readPart; simp (maxDischargeDepth := 40) [*]

@[simp] theorem partRead_keeps {σ : State} {d : Nat} {ebb : Bool} {s : State} (hσ : Keeps σ s) : Keeps σ (partRead d ebb s) := by
  unfold partRead; (try dsimp only); (repeat' split) <;> simp (maxDischargeDepth := 40) [*]

@[simp] theorem ckptReadDone_keeps {σ : State} {t : CkptItem} {s : State} (hσ : Keeps σ s) : Keeps σ (ckptReadDone t s) := by
  unfold ckptReadDone; (repeat' split) <;> simp (maxDischargeDepth := 40) [*]

@[simp] theorem planMiss_keeps {σ : State} {i k : Nat} {s : State} (hσ : Keeps σ s) : Keeps σ (planMiss i k s) := by
  unfold planMiss; split <;> simp (maxDischargeDepth := 40) [*]

@[simp] theorem boundaryFetches_keeps {σ : State} {s : State} (hσ : Keeps σ s) : Keeps σ (boundaryFetches s) := by
  unfold boundaryFetches; (try dsimp only); (repeat' split) <;> simp (maxDischargeDepth := 40) [*]

@[simp] theorem stepBoundary_keeps {σ : State} {s : State} (hσ : Keeps σ s) : Keeps σ (stepBoundary s) := by
  unfold stepBoundary; simp (maxDischargeDepth := 40) [*]

@[simp] theorem execAdmitSlackExpiry_keeps {σ : State} {desc : Fin 4096} {s : State} (hσ : Keeps σ s) : Good σ (execAdmitSlackExpiry desc s) := by
  unfold execAdmitSlackExpiry; split <;> simp (maxDischargeDepth := 40) [*]

@[simp] theorem execSectionFetchStart_keeps {σ : State} {t : SwapItem} {s : State} (hσ : Keeps σ s) : Good σ (execSectionFetchStart t s) := by
  unfold execSectionFetchStart; simp (maxDischargeDepth := 40) [*]

@[simp] theorem execSwapInDone_keeps {σ : State} {t : SwapItem} {ecc : Ecc} {s : State} (hσ : Keeps σ s) : Good σ (execSwapInDone t ecc s) := by
  unfold execSwapInDone; simp (maxDischargeDepth := 40) [*]

@[simp] theorem execSectionRelease_keeps {σ : State} {cohort : Nat} {sect : Fin 32} {s : State} (hσ : Keeps σ s) : Good σ (execSectionRelease cohort sect s) := by
  unfold execSectionRelease; simp (maxDischargeDepth := 40) [*]

@[simp] theorem execSectionWritebackDone_keeps {σ : State} {cohort : Nat} {sect : Fin 32} {s : State} (hσ : Keeps σ s) : Good σ (execSectionWritebackDone cohort sect s) := by
  unfold execSectionWritebackDone; simp (maxDischargeDepth := 40) [*]

@[simp] theorem execCkptReadDone_keeps {σ : State} {t : CkptItem} {ecc : Ecc} {s : State} (hσ : Keeps σ s) : Good σ (execCkptReadDone t ecc s) := by
  unfold execCkptReadDone; simp (maxDischargeDepth := 40) [*]

@[simp] theorem execSwapEvict_keeps {σ : State} {s : State} (hσ : Keeps σ s) : Good σ (execSwapEvict s) := by
  unfold execSwapEvict; simp (maxDischargeDepth := 40) [*]

@[simp] theorem execSwapOutDone_keeps {σ : State} {desc : Fin 4096} {s : State} (hσ : Keeps σ s) : Good σ (execSwapOutDone desc s) := by
  unfold execSwapOutDone; simp (maxDischargeDepth := 40) [*]

@[simp] theorem execPlanMiss_keeps {σ : State} {cohort : Nat} {sect : Fin 32} {s : State} (hσ : Keeps σ s) : Good σ (execPlanMiss cohort sect s) := by
  unfold execPlanMiss; simp (maxDischargeDepth := 40) [*]

/-! ## Sequencer -/

@[simp] theorem loopOpen_keeps {σ : State} {core : Nat} {s : State} (hσ : Keeps σ s) : Keeps σ (loopOpen core s) := by
  unfold loopOpen; split <;> simp (maxDischargeDepth := 40) [*]

@[simp] theorem loopEnd_keeps {σ : State} {core : Nat} {s : State} (hσ : Keeps σ s) : Keeps σ (loopEnd core s) := by
  unfold loopEnd; (repeat' split) <;> simp (maxDischargeDepth := 40) [*]

@[simp] theorem barrier_keeps {σ : State} {core : Nat} {s : State} (hσ : Keeps σ s) : Keeps σ (barrier core s) := by
  unfold barrier; split <;> simp (maxDischargeDepth := 40) [*]

@[simp] theorem peerWait_keeps {σ : State} {core : Nat} {s : State} (hσ : Keeps σ s) : Keeps σ (peerWait core s) := by
  unfold peerWait; split
  · dsimp only
    split
    · refine keeps_foldl (by simp (maxDischargeDepth := 40) [*]) (fun s k => ?_)
      split <;> simp (maxDischargeDepth := 40)
    · simp (maxDischargeDepth := 40) [*]
  · exact hσ

@[simp] theorem programEnd_keeps {σ : State} {core : Nat} {s : State} (hσ : Keeps σ s) : Keeps σ (programEnd core s) := by
  unfold programEnd; split <;> simp (maxDischargeDepth := 40) [*]

@[simp] theorem dmaSubmit_keeps {σ : State} {core : Nat} {s : State} (hσ : Keeps σ s) : Keeps σ (dmaSubmit core s) := by
  unfold dmaSubmit
  split
  · rename_i i c q ch off _
    split
    · split
      · exact hσ
      · dsimp only
        have key := spadScan_keeps (core := core) (part := c.part) (cmd := some i) (reads := [(s.placer c core off, 64)]) (writes := []) (u := {}) hσ
        generalize spadScan core c.part (some i) [(s.placer c core off, 64)] [] {} s = x at key
        obtain ⟨_ | _, t⟩ := x <;> simp_all (maxDischargeDepth := 40)
    · exact hσ
  · exact hσ

@[simp] theorem endPrograms_keeps {σ : State} {c : Cmd} {s : State} (hσ : Keeps σ s) : Keeps σ (endPrograms c s) := by
  unfold endPrograms; (try simp only [good_next]); (first | refine beginCmd_keeps hσ (fun _ _ _ => ?_) | refine powered_keeps hσ (fun _ => ?_) | refine screen_keeps hσ (fun _ => ?_) | refine beginTable_keeps hσ (fun _ _ _ => ?_) | refine lhBegin_keeps hσ (fun _ _ _ => ?_) | refine withEntry_keeps hσ (fun _ _ => ?_) | refine keeps_foldl hσ (fun _ _ => ?_) | refine onLhQueue_keeps hσ (fun _ => ?_) | refine guarded_keeps hσ (fun _ => ?_) | refine meChecked_keeps hσ (fun _ => ?_) | refine veChecked_keeps hσ (fun _ => ?_) | refine ruChecked_keeps hσ (fun _ => ?_)| refine heard_keeps hσ (fun _ => ?_)| refine startDesc_keeps hσ (fun _ _ _ => ?_)| refine sourceTimer_keeps hσ (fun _ _ _ => ?_)| refine governed_keeps hσ (fun _ => ?_)| refine copyIn_keeps hσ (fun _ => ?_)| refine withPart_keeps hσ (fun _ _ _ => ?_)); (try dsimp only); (repeat' split) <;> (repeat (rename_i e; first | (have e2 := congrArg Prod.snd e; dsimp only at e2; subst e2; clear e) | revert e)) <;> intros <;> simp (maxDischargeDepth := 40) [*]

@[simp] theorem dmaWait_keeps {σ : State} {core : Nat} {s : State} (hσ : Keeps σ s) : Keeps σ (dmaWait core s) := by
  unfold dmaWait; (repeat' split) <;> simp (maxDischargeDepth := 40) [*]

@[simp] theorem execSqLoop_keeps {σ : State} {core : Fin 8} {s : State} (hσ : Keeps σ s) : Good σ (execSqLoop core s) := by
  unfold execSqLoop; simp (maxDischargeDepth := 40) [*]

@[simp] theorem execSqEndloop_keeps {σ : State} {core : Fin 8} {s : State} (hσ : Keeps σ s) : Good σ (execSqEndloop core s) := by
  unfold execSqEndloop; simp (maxDischargeDepth := 40) [*]

@[simp] theorem execSqBarrier_keeps {σ : State} {core : Fin 8} {s : State} (hσ : Keeps σ s) : Good σ (execSqBarrier core s) := by
  unfold execSqBarrier; simp (maxDischargeDepth := 40) [*]

@[simp] theorem execSqPeer_keeps {σ : State} {core : Fin 8} {s : State} (hσ : Keeps σ s) : Good σ (execSqPeer core s) := by
  unfold execSqPeer; simp (maxDischargeDepth := 40) [*]

@[simp] theorem execSqEnd_keeps {σ : State} {core : Fin 8} {s : State} (hσ : Keeps σ s) : Good σ (execSqEnd core s) := by
  unfold execSqEnd; simp (maxDischargeDepth := 40) [*]

@[simp] theorem execDmaSubmit_keeps {σ : State} {core : Fin 8} {s : State} (hσ : Keeps σ s) : Good σ (execDmaSubmit core s) := by
  unfold execDmaSubmit; simp (maxDischargeDepth := 40) [*]

@[simp] theorem execDmaWait_keeps {σ : State} {core : Fin 8} {s : State} (hσ : Keeps σ s) : Good σ (execDmaWait core s) := by
  unfold execDmaWait; simp (maxDischargeDepth := 40) [*]

/-! ## Runs -/

@[simp] theorem storeRoom_keeps {σ : State} {core n : Nat} {y0 : Nat} {y1 : State} (hσ : Keeps σ y1) : Keeps σ (storeRoom core n y0 y1).2 := by
  refine hσ.trans ?_
  clear hσ
  induction y0 generalizing y1 with
    | zero => simp (maxDischargeDepth := 40) [storeRoom]
    | succ n ih => unfold storeRoom; (try dsimp only); (repeat' split) <;> (try refine Keeps.trans ?_ ih) <;> simp (maxDischargeDepth := 40) [*]

@[simp] theorem storeProgram_keeps {σ : State} {id : Nat} {h : Schedule} {core prog : Nat} {s : State} (hσ : Keeps σ s) : Keeps σ (storeProgram id h core prog s).2 := by
  unfold storeProgram; (try dsimp only); (repeat' split) <;> (repeat (rename_i e; first | (have e2 := congrArg Prod.snd e; dsimp only at e2; subst e2; clear e) | revert e)) <;> intros <;> simp (maxDischargeDepth := 40) [*]

@[simp] theorem ensureWorking_keeps {σ : State} {p core n : Nat} {s : State} (hσ : Keeps σ s) : Keeps σ (ensureWorking p core n s).2 := by
  unfold ensureWorking; (try dsimp only); (repeat' split) <;> simp (maxDischargeDepth := 40) [*]

@[simp] theorem ensureHot_keeps {σ : State} {part tag core : Nat} {s : State} (hσ : Keeps σ s) : Keeps σ (ensureHot part tag core s).2 := by
  unfold ensureHot; split <;> simp (maxDischargeDepth := 40) [*]

@[simp] theorem prepareCore_keeps {σ : State} {id : Nat} {h : Schedule} {a : Need × State} {x : Nat × Nat} (hσ : Keeps σ a.2) : Keeps σ (prepareCore id h a x).2 := by
  unfold prepareCore
  exact storeProgram_keeps (keeps_foldl2 hσ (fun _ _ => ensureHot_keeps (Keeps.self _)))

@[simp] theorem prepareHot_keeps {σ : State} {id : Nat} {h : Schedule} {cores : List Nat} {s : State} (hσ : Keeps σ s) : Keeps σ (prepareHot id h cores s).2 := by
  unfold prepareHot
  exact keeps_foldl2 hσ (fun _ _ => prepareCore_keeps (Keeps.self _))

@[simp] theorem prepare_keeps {σ : State} {id : Nat} {h : Schedule} {cores : List Nat} {s : State} (hσ : Keeps σ s) : Keeps σ (prepare id h cores s).2 := by
  unfold prepare
  exact keeps_foldl2 (prepareHot_keeps hσ) (fun _ _ => ensureWorking_keeps (Keeps.self _))

@[simp] theorem freshEngines_keeps {σ : State} {core : Nat} {s : State} (hσ : Keeps σ s) : Keeps σ (freshEngines core s) := by
  unfold freshEngines; (try dsimp only); (repeat' split) <;> simp (maxDischargeDepth := 40) [*]

@[simp] theorem startCore_keeps {σ : State} {id part prog core : Nat} {s : State} (hσ : Keeps σ s) : Keeps σ (startCore id part prog core s) := by
  unfold startCore; simp (maxDischargeDepth := 40) [*]

@[simp] theorem invoke_keeps {σ : State} {h : Schedule} {s : State} (hσ : Keeps σ s) : Keeps σ (invoke h s) := by
  unfold invoke; simp (maxDischargeDepth := 40) [*]

@[simp] theorem startCommand_keeps {σ : State} {h : Schedule} {c : Cmd} {s : State} (hσ : Keeps σ s) : Keeps σ (startCommand h c s).2 := by
  unfold startCommand; simp (maxDischargeDepth := 40) [*]

@[simp] theorem writeTables_keeps {σ : State} {h : Schedule} {c : Cmd} {s : State} (hσ : Keeps σ s) : Keeps σ (writeTables h c s) := by
  unfold writeTables; simp (maxDischargeDepth := 40) [*]

@[simp] theorem holdStep_keeps {σ : State} {d : Nat} {ebb : Bool} {s : State} (hσ : Keeps σ s) : Keeps σ (holdStep d ebb s) := by
  unfold holdStep; split <;> simp (maxDischargeDepth := 40) [*]

@[simp] theorem dropPlaced_keeps {σ : State} {w : Placeable} {s : State} (hσ : Keeps σ s) : Keeps σ (dropPlaced w s) := by
  unfold dropPlaced; (try dsimp only); (repeat' split) <;> simp (maxDischargeDepth := 40) [*]

@[simp] theorem takeStep_keeps {σ : State} {d : Nat} {ebb : Bool} {e : Nat} {s : State} (hσ : Keeps σ s) : Keeps σ (takeStep d ebb e s) := by
  unfold takeStep; split <;> simp (maxDischargeDepth := 40) [*]

@[simp] theorem runMember_keeps {σ : State} {c : Cohort} {start : Nat} {a : List Member × State} {d : Nat} (hσ : Keeps σ a.2) : Keeps σ (runMember c start a d).2 := by
  unfold runMember; (repeat' split) <;> simp (maxDischargeDepth := 40) [*]

@[simp] theorem runDispatch_keeps {σ : State} {i : Nat} {s : State} (hσ : Keeps σ s) : Keeps σ (runDispatch i s) := by
  unfold runDispatch
  split
  · exact hσ
  · split
    · exact hσ
    · split
      · dsimp only
        split
        · exact hσ
        · split
          · exact keeps_foldl (prepare_keeps (by simp (maxDischargeDepth := 40) [*])) (fun _ _ => memberIdle_keeps (Keeps.self _))
          · exact writeTables_keeps (startCommand_keeps (keeps_foldl2 (prepare_keeps (by simp (maxDischargeDepth := 40) [*])) (fun _ _ => runMember_keeps (Keeps.self _))))
      · exact hσ

@[simp] theorem place_keeps {σ : State} {w : Placeable} {id : Nat} {h : Schedule} {y0 : Nat} {y1 : List Nat} {y2 : State} (hσ : Keeps σ y2) : Keeps σ (place w id h y0 y1 y2).2 := by
  refine hσ.trans ?_
  clear hσ
  induction y0 generalizing y1 y2 with
  | zero => exact Keeps.self _
  | succ n ih =>
    unfold place
    split
    · exact Keeps.self _
    · dsimp only
      split
      · refine Keeps.trans ?_ ih
        exact dropPlaced_keeps (prepareHot_keeps (by simp (maxDischargeDepth := 40)))
      · exact prepareHot_keeps (by simp (maxDischargeDepth := 40))

@[simp] theorem placement_keeps {σ : State} {w : Placeable} {id : Nat} {h : Schedule} {s : State} (hσ : Keeps σ s) : Keeps σ (placement w id h s).2 := by
  unfold placement; split <;> simp (maxDischargeDepth := 40) [*]

@[simp] theorem takeBudget_keeps {σ : State} {p n : Nat} {cores : List Nat} {s : State} (hσ : Keeps σ s) : Keeps σ (takeBudget p n cores s) := by
  unfold takeBudget; split <;> simp (maxDischargeDepth := 40) [*]

@[simp] theorem noteSwapLate_keeps {σ : State} {d : Nat} {s : State} (hσ : Keeps σ s) : Keeps σ (noteSwapLate d s) := by
  unfold noteSwapLate; split <;> simp (maxDischargeDepth := 40) [*]

@[simp] theorem writeParam_keeps {σ : State} {h : Schedule} {cores : List Nat} {param : Nat} {s : State} (hσ : Keeps σ s) : Keeps σ (writeParam h cores param s) := by
  unfold writeParam; simp (maxDischargeDepth := 40) [*]

@[simp] theorem startJobStep_keeps {σ : State} {j : Nat} {x : Job} {id : Nat} {h : Schedule} {cores : List Nat} {s : State} (hσ : Keeps σ s) : Keeps σ (startJobStep j x id h cores s) := by
  unfold startJobStep; simp (maxDischargeDepth := 40) [*]

@[simp] theorem endJob_keeps {σ : State} {j status : Nat} {s : State} (hσ : Keeps σ s) : Keeps σ (endJob j status s) := by
  unfold endJob; (repeat' split) <;> simp (maxDischargeDepth := 40) [*]

@[simp] theorem startable_keeps {σ : State} {id : Nat} {h : Schedule} {cores : List Nat} {s : State} (hσ : Keeps σ s) : Keeps σ (startable id h cores s).2 := by
  unfold startable; (try dsimp only); (repeat' split) <;> simp (maxDischargeDepth := 40) [*]

@[simp] theorem tryPick_keeps {σ : State} {core : Nat} {a : Bool × State} {p : Pick} (hσ : Keeps σ a.2) : Keeps σ (tryPick core a p).2 := by
  unfold tryPick
  dsimp only
  split
  · exact hσ
  · split
    · exact hσ
    · rename_i id h _
      split
      · rename_i j _
        split
        · exact endJob_keeps hσ
        · have key := placement_keeps (w := .job j) (id := id) (h := h) hσ
          generalize placement (.job j) id h a.2 = x at key
          obtain ⟨_ | cores, t⟩ := x
          · exact key
          · dsimp only at key ⊢
            split
            · exact key
            · have k2 := startable_keeps (id := id) (h := h) (cores := cores) key
              generalize startable id h cores t = y at k2
              obtain ⟨ok, u⟩ := y
              dsimp only at k2 ⊢
              (repeat' split) <;> simp (maxDischargeDepth := 40) [*]
      · rename_i d ebb n e cu _
        have key := placement_keeps (w := .step d ebb) (id := id) (h := h) hσ
        generalize placement (.step d ebb) id h a.2 = x at key
        obtain ⟨_ | cores, t⟩ := x
        · exact key
        · dsimp only at key ⊢
          split
          · exact key
          · split
            · exact key
            · split
              · exact holdStep_keeps key
              · have k2 := startable_keeps (id := id) (h := h) (cores := cores) key
                generalize startable id h cores t = y at k2
                obtain ⟨ok, u⟩ := y
                dsimp only at k2 ⊢
                (repeat' split) <;> simp (maxDischargeDepth := 40) [*]

@[simp] theorem unreservedDispatch_keeps {σ : State} {core : Nat} {s : State} (hσ : Keeps σ s) : Keeps σ (unreservedDispatch core s) := by
  unfold unreservedDispatch; simp (maxDischargeDepth := 40) [*]

@[simp] theorem pumpJob_keeps {σ : State} {j : Nat} {s : State} (hσ : Keeps σ s) : Keeps σ (pumpJob j s) := by
  unfold pumpJob; (try dsimp only); (repeat' split) <;> simp (maxDischargeDepth := 40) [*]

@[simp] theorem pump_keeps {σ : State} {s : State} (hσ : Keeps σ s) : Keeps σ (pump s) := by
  unfold pump; simp (maxDischargeDepth := 40) [*]

@[simp] theorem exclusiveStart_keeps {σ : State} {s : State} (hσ : Keeps σ s) : Keeps σ (exclusiveStart s) := by
  unfold exclusiveStart; (repeat' split) <;> simp (maxDischargeDepth := 40) [*]

@[simp] theorem budgetRefill_keeps {σ : State} {s : State} (hσ : Keeps σ s) : Keeps σ (budgetRefill s) := by
  unfold budgetRefill; simp (maxDischargeDepth := 40) [*]

@[simp] theorem execRunDispatch_keeps {σ : State} {cohort : Nat} {s : State} (hσ : Keeps σ s) : Good σ (execRunDispatch cohort s) := by
  unfold execRunDispatch; simp (maxDischargeDepth := 40) [*]

@[simp] theorem execUnreservedDispatch_keeps {σ : State} {core : Fin 8} {s : State} (hσ : Keeps σ s) : Good σ (execUnreservedDispatch core s) := by
  unfold execUnreservedDispatch; simp (maxDischargeDepth := 40) [*]

@[simp] theorem execExclusiveJobStart_keeps {σ : State} {s : State} (hσ : Keeps σ s) : Good σ (execExclusiveJobStart s) := by
  unfold execExclusiveJobStart; simp (maxDischargeDepth := 40) [*]

@[simp] theorem execBudgetRefill_keeps {σ : State} {s : State} (hσ : Keeps σ s) : Good σ (execBudgetRefill s) := by
  unfold execBudgetRefill; simp (maxDischargeDepth := 40) [*]

end Sys2Proof.Machine
end

