-- ==== Sys2Proof/Laws/KeepsTray.lean ====
section
/-! SUPPORT. One lemma per operation: what the fabric, transfers and the time base keep. -/

set_option maxRecDepth 8000

namespace Sys2Proof.Machine

/-! ## Image -/

@[simp] theorem eraseFlash_keeps {σ : State} {off n : Nat} {s : State} (hσ : Keeps σ s) : Keeps σ (eraseFlash off n s) := by
  unfold eraseFlash; simp (maxDischargeDepth := 40) [*]

@[simp] theorem programFlash_keeps {σ : State} {off : Nat} {bs : List Byte} {s : State} (hσ : Keeps σ s) : Keeps σ (programFlash off bs s) := by
  unfold programFlash; simp (maxDischargeDepth := 40) [*]

@[simp] theorem noteSlot_keeps {σ : State} {slot : Nat} {tried : Bool} {cause : Option Nat} {version : Nat} {s : State} (hσ : Keeps σ s) : Keeps σ (noteSlot slot tried cause version s) := by
  unfold noteSlot; simp (maxDischargeDepth := 40) [*]

/-! ## LhOps -/

@[simp] theorem lhView_keeps {σ : State} {s : State} (hσ : Keeps σ s) : Keeps σ (lhView s) := by
  unfold lhView; simp (maxDischargeDepth := 40) [*]

@[simp] theorem onLhQueue_keeps {σ : State} {f : State → State} {s : State} (hσ : Keeps σ s) (h_f : ∀ t, Keeps t (f t)) : Keeps σ (onLhQueue f s) := by
  replace h_f : ∀ {z} t, Keeps z t → Keeps z (f t) := fun t h => h.trans (h_f t)
  unfold onLhQueue
  have k := h_f (lhView s) (Keeps.self _)
  exact hσ.trans ⟨rfl, Nat.le_refl _, fun w => k.mem w, SecLe.rfl' _⟩

@[simp] theorem emitLh_keeps {σ : State} {code unit inst w0 w1 w2 : Nat} {s : State} (hσ : Keeps σ s) : Keeps σ (emitLh code unit inst w0 w1 w2 s) := by
  unfold emitLh; simp (maxDischargeDepth := 40) [*]

@[simp] theorem emitBay_keeps {σ : State} {code bay w0 w1 w2 : Nat} {s : State} (hσ : Keeps σ s) : Keeps σ (emitBay code bay w0 w1 w2 s) := by
  unfold emitBay; simp (maxDischargeDepth := 40) [*]

@[simp] theorem State.setLhBay_keeps {σ : State} {s : State} {b : Nat} {x : LhBay} (hσ : Keeps σ s) : Keeps σ (State.setLhBay s b x) := by
  unfold State.setLhBay; simp (maxDischargeDepth := 40) [*]

@[simp] theorem sendFrame_keeps {σ : State} {f : Frame} {s : State} (hσ : Keeps σ s) : Keeps σ (sendFrame f s) := by
  unfold sendFrame; simp (maxDischargeDepth := 40) [*]

@[simp] theorem askFrame_keeps {σ : State} {f : Frame} {s : State} (hσ : Keeps σ s) : Keeps σ (askFrame f s) := by
  unfold askFrame; simp (maxDischargeDepth := 40) [*]

@[simp] theorem answered_keeps {σ : State} {fromLh : Bool} {bay op : Nat} {s : State} (hσ : Keeps σ s) : Keeps σ (answered fromLh bay op s) := by
  unfold answered; simp (maxDischargeDepth := 40) [*]

/-! ## Ends -/

@[simp] theorem sendPart_keeps {σ : State} {d : Nat} {ebb : Bool} {t : Xfer} {s : State} (hσ : Keeps σ s) : Keeps σ (sendPart d ebb t s) := by
  unfold sendPart; (try dsimp only); (repeat' split) <;> simp (maxDischargeDepth := 40) [*]

@[simp] theorem settleXfer_keeps {σ : State} {d : Nat} {s : State} (hσ : Keeps σ s) : Keeps σ (settleXfer d s) := by
  unfold settleXfer; (try dsimp only); (repeat' split) <;> simp (maxDischargeDepth := 40) [*]

@[simp] theorem spanWithin_keeps {σ : State} {a n : Nat} {s : State} (hσ : Keeps σ s) : Keeps σ (spanWithin a n s).2.2 := by
  unfold spanWithin; (try dsimp only); (repeat' split) <;> simp (maxDischargeDepth := 40) [*]

@[simp] theorem outSpan_keeps {σ : State} {c : Cmd} {s : State} (hσ : Keeps σ s) : Keeps σ (outSpan c s).2.2 := by
  unfold outSpan; (repeat' split) <;> first | exact hσ | exact spanWithin_keeps (State.freeNext_keeps hσ)

@[simp] theorem floodResult_keeps {σ : State} {x : Stream} {c : Cmd} {erased : Bool} {r : Nat} {s : State} (hσ : Keeps σ s) : Keeps σ (floodResult x c erased r s) := by
  unfold floodResult; simp (maxDischargeDepth := 40) [*]

@[simp] theorem stepDone_keeps {σ : State} {d : Nat} {ebb : Bool} {n : Nat} {s : State} (hσ : Keeps σ s) : Keeps σ (stepDone d ebb n s) := by
  unfold stepDone; simp (maxDischargeDepth := 40) [*]

@[simp] theorem owedPart_keeps {σ : State} {d : Nat} {ebb bySect : Bool} {s : State} (hσ : Keeps σ s) : Keeps σ (owedPart d ebb bySect s) := by
  unfold owedPart; split <;> simp (maxDischargeDepth := 40) [*]

@[simp] theorem floodEnd_keeps {σ : State} {c : Cmd} {erased held : Bool} {m : Member} {x : Stream} {s : State} (hσ : Keeps σ s) : Keeps σ (floodEnd c erased held m x s) := by
  unfold floodEnd; simp (maxDischargeDepth := 40) [*]

@[simp] theorem ebbEnd_keeps {σ : State} {c : Cmd} {erased : Bool} {last : List Nat} {m : Member} {x : Stream} {s : State} (hσ : Keeps σ s) : Keeps σ (ebbEnd c erased last m x s) := by
  unfold ebbEnd; simp (maxDischargeDepth := 40) [*]

@[simp] theorem memberEnd_keeps {σ : State} {c : Cmd} {erased : Bool} {last : List Nat} {s : State} {mh : Member × Bool} (hσ : Keeps σ s) : Keeps σ (memberEnd c erased last s mh) := by
  unfold memberEnd; dsimp only; (repeat' split) <;> first | exact hσ | exact settleXfer_keeps (owedPart_keeps (by simp (maxDischargeDepth := 40) [*])) | simp (maxDischargeDepth := 40) [*]

@[simp] theorem leaveCore_keeps {σ : State} {s : State} {core : Nat} (hσ : Keeps σ s) : Keeps σ (leaveCore s core) := by
  unfold leaveCore; simp (maxDischargeDepth := 40) [*]

@[simp] theorem forgetCmd_keeps {σ : State} {id : Nat} {s : State} (hσ : Keeps σ s) : Keeps σ (forgetCmd id s) := by
  unfold forgetCmd; simp (maxDischargeDepth := 40) [*]

@[simp] theorem repEnd_keeps {σ : State} {j : Nat} {c : Cmd} {erased : Bool} {s : State} (hσ : Keeps σ s) : Keeps σ (repEnd j c erased s) := by
  unfold repEnd; (try dsimp only); (repeat' split) <;> simp (maxDischargeDepth := 40) [*]

@[simp] theorem settleCores_keeps {σ : State} {cores : List Nat} {s : State} (hσ : Keeps σ s) : Keeps σ (settleCores cores s) := by
  unfold settleCores; simp (maxDischargeDepth := 40) [*]

@[simp] theorem commandEnd_keeps {σ : State} {core : Nat} {last : List Nat} {s : State} (hσ : Keeps σ s) : Keeps σ (commandEnd core last s) := by
  unfold commandEnd; (repeat' split) <;> simp (maxDischargeDepth := 40) [*]

@[simp] theorem submitJob_keeps {σ : State} {q : Nat} {c : QCmd} {b : List Byte} {s : State} (hσ : Keeps σ s) : Keeps σ (submitJob q c b s) := by
  unfold submitJob; simp (maxDischargeDepth := 40) [*]

@[simp] theorem abortFor_keeps {σ : State} {id : Nat} {s : State} (hσ : Keeps σ s) : Keeps σ (abortFor id s) := by
  unfold abortFor; simp (maxDischargeDepth := 40) [*]

@[simp] theorem cancelJob_keeps {σ : State} {q : Nat} {c : QCmd} {s : State} (hσ : Keeps σ s) : Keeps σ (cancelJob q c s) := by
  unfold cancelJob; split <;> simp (maxDischargeDepth := 40) [*]

@[simp] theorem beginChunk_keeps {σ : State} {q : Nat} {c : QCmd} {s : State} (hσ : Keeps σ s) : Keeps σ (beginChunk q c s) := by
  unfold beginChunk; (try dsimp only); (repeat' split) <;> first | exact hσ | simp (maxDischargeDepth := 40) [*]

@[simp] theorem chunkArrived_keeps {σ : State} {q : Nat} {c : QCmd} {d : HostRead} {s : State} (hσ : Keeps σ s) : Keeps σ (chunkArrived q c d s) := by
  unfold chunkArrived; (repeat' split) <;> simp (maxDischargeDepth := 40) [*]

@[simp] theorem dataArrived_keeps {σ : State} {q cmdId : Nat} {d : HostRead} {s : State} (hσ : Keeps σ s) : Keeps σ (dataArrived q cmdId d s) := by
  unfold dataArrived; (repeat' split) <;> simp (maxDischargeDepth := 40) [*]

@[simp] theorem hotLoaded_keeps {σ : State} {core i : Nat} {s : State} (hσ : Keeps σ s) : Keeps σ (hotLoaded core i s) := by
  unfold hotLoaded; (repeat' split) <;> simp (maxDischargeDepth := 40) [*]

@[simp] theorem zeroingDone_keeps {σ : State} {z : Zeroed} {s : State} (hσ : Keeps σ s) : Keeps σ (zeroingDone z s) := by
  unfold zeroingDone; split <;> simp (maxDischargeDepth := 40) [*]

@[simp] theorem scrubWord_keeps {σ : State} {core : Nat} {s : State} {a : Nat} (hσ : Keeps σ s) : Keeps σ (scrubWord core s a) := by
  unfold scrubWord; (try dsimp only); (repeat' split) <;> simp (maxDischargeDepth := 40) [*]

@[simp] theorem scrubGranule_keeps {σ : State} {s : State} {a : Nat} (hσ : Keeps σ s) : Keeps σ (scrubGranule s a) := by
  unfold scrubGranule; simp (maxDischargeDepth := 40) [*]

@[simp] theorem scrubPass_keeps {σ : State} {area : ScrubArea} {e : Ecc} {s : State} (hσ : Keeps σ s) : Keeps σ (scrubPass area e s) := by
  unfold scrubPass; split <;> simp (maxDischargeDepth := 40) [*]

@[simp] theorem scrubLag_keeps {σ : State} {area : LagArea} {n : Nat} {s : State} (hσ : Keeps σ s) : Keeps σ (scrubLag area n s) := by
  unfold scrubLag; dsimp only; split <;> (repeat' split) <;> simp (maxDischargeDepth := 40) [*]

@[simp] theorem refreshPoll_keeps {σ : State} {c rate temp : Nat} {s : State} (hσ : Keeps σ s) : Keeps σ (refreshPoll c rate temp s) := by
  unfold refreshPoll; simp (maxDischargeDepth := 40) [*]

@[simp] theorem execCommandEnd_keeps {σ : State} {core : Fin 8} {last : List Nat} {s : State} (hσ : Keeps σ s) : Good σ (execCommandEnd core last s) := by
  unfold execCommandEnd; simp (maxDischargeDepth := 40) [*]

@[simp] theorem execJobSubmit_keeps {σ : State} {q : Fin 65} {d : HostRead} {s : State} (hσ : Keeps σ s) : Good σ (execJobSubmit q d s) := by
  unfold execJobSubmit; simp (maxDischargeDepth := 40) [*]

@[simp] theorem execJobCancel_keeps {σ : State} {q : Fin 65} {s : State} (hσ : Keeps σ s) : Good σ (execJobCancel q s) := by
  unfold execJobCancel; simp (maxDischargeDepth := 40) [*]

@[simp] theorem execStreamChunk_keeps {σ : State} {q : Fin 65} {s : State} (hσ : Keeps σ s) : Good σ (execStreamChunk q s) := by
  unfold execStreamChunk; simp (maxDischargeDepth := 40) [*]

@[simp] theorem execCommandDataArrived_keeps {σ : State} {q : Fin 65} {cmdId : Nat} {d : HostRead} {s : State} (hσ : Keeps σ s) : Good σ (execCommandDataArrived q cmdId d s) := by
  unfold execCommandDataArrived; simp (maxDischargeDepth := 40) [*]

@[simp] theorem execHotSetLoaded_keeps {σ : State} {core : Fin 8} {entry : Fin 64} {s : State} (hσ : Keeps σ s) : Good σ (execHotSetLoaded core entry s) := by
  unfold execHotSetLoaded; simp (maxDischargeDepth := 40) [*]

@[simp] theorem execZeroingDone_keeps {σ : State} {z : Zeroed} {s : State} (hσ : Keeps σ s) : Good σ (execZeroingDone z s) := by
  unfold execZeroingDone; simp (maxDischargeDepth := 40) [*]

@[simp] theorem execScrubPass_keeps {σ : State} {area : ScrubArea} {ecc : Ecc} {s : State} (hσ : Keeps σ s) : Good σ (execScrubPass area ecc s) := by
  unfold execScrubPass; simp (maxDischargeDepth := 40) [*]

@[simp] theorem execScrubLag_keeps {σ : State} {area : LagArea} {n : BitVec 32} {s : State} (hσ : Keeps σ s) : Good σ (execScrubLag area n s) := by
  unfold execScrubLag; simp (maxDischargeDepth := 40) [*]

@[simp] theorem execRefreshStatusPoll_keeps {σ : State} {c : Fin 12} {rate : Fin 3} {temp : Byte} {s : State} (hσ : Keeps σ s) : Good σ (execRefreshStatusPoll c rate temp s) := by
  unfold execRefreshStatusPoll; simp (maxDischargeDepth := 40) [*]

/-! ## Links -/

@[simp] theorem sendHello_keeps {σ : State} {l : Nat} {s : State} (hσ : Keeps σ s) : Keeps σ (sendHello l s) := by
  unfold sendHello; simp (maxDischargeDepth := 40) [*]

@[simp] theorem sendLinkState_keeps {σ : State} {s : State} (hσ : Keeps σ s) : Keeps σ (sendLinkState s) := by
  unfold sendLinkState; simp (maxDischargeDepth := 40) [*]

@[simp] theorem renewPart_keeps {σ : State} {d : Nat} {s : State} {ebb : Bool} (hσ : Keeps σ s) : Keeps σ (renewPart d s ebb) := by
  unfold renewPart; split <;> simp (maxDischargeDepth := 40) [*]

@[simp] theorem setTarget_keeps {σ : State} {t : Option Nat} {s : State} (hσ : Keeps σ s) : Keeps σ (setTarget t s) := by
  unfold setTarget; simp (maxDischargeDepth := 40) [*]

@[simp] theorem retarget_keeps {σ : State} {s : State} (hσ : Keeps σ s) : Keeps σ (retarget s) := by
  unfold retarget; simp (maxDischargeDepth := 40) [*]

@[simp] theorem buddyBack_keeps {σ : State} {s : State} (hσ : Keeps σ s) : Keeps σ (buddyBack s) := by
  unfold buddyBack; simp (maxDischargeDepth := 40) [*]

@[simp] theorem resendRecords_keeps {σ : State} {s : State} (hσ : Keeps σ s) : Keeps σ (resendRecords s) := by
  unfold resendRecords; split
  · exact hσ
  · split
    · exact hσ
    · refine keeps_foldl hσ (fun s x => keeps_foldl (Keeps.self _) (fun s ebb => ?_))
      dsimp only
      split
      · split <;> simp (maxDischargeDepth := 40)
      · simp (maxDischargeDepth := 40)

theorem placeBody_keeps {σ : State} {i : Nat} {e : Entry} {digest body : List Byte} {s : State} (hσ : Keeps σ s) : ∀ t, placeBody i e digest body s = some t → Keeps σ t := by
  unfold placeBody; (try dsimp only); (repeat' split) <;> simp (maxDischargeDepth := 40) [*]

@[simp] theorem obtain_keeps {σ : State} {bodies : List (List Byte)} {s : State} (hσ : Keeps σ s) : Keeps σ (obtain bodies s) := by
  unfold obtain
  refine keeps_foldl hσ (fun s x => ?_)
  dsimp only
  split
  · split
    · rename_i h
      exact (placeBody_keeps (Keeps.self _) _ h).trans ⟨rfl, Nat.le_refl _, id, SecLe.rfl' _⟩
    · simp (maxDischargeDepth := 40)
  · simp (maxDischargeDepth := 40)

@[simp] theorem askPiece_keeps {σ : State} {f : StoreFetch} {s : State} (hσ : Keeps σ s) : Keeps σ (askPiece f s).2 := by
  unfold askPiece; split <;> simp (maxDischargeDepth := 40) [*]

@[simp] theorem beginBody_keeps {σ : State} {f : StoreFetch} {s : State} (hσ : Keeps σ s) : Keeps σ (beginBody f s).2 := askPiece_keeps hσ

@[simp] theorem nextBody_keeps {σ : State} {f : StoreFetch} {s : State} (hσ : Keeps σ s) : Keeps σ (nextBody f s).2 := beginBody_keeps hσ

theorem eachFetch_keeps {σ : State} {k : StoreFetch → State → StoreFetch × State} {s : State} (hσ : Keeps σ s) (h_k : ∀ f t, Keeps t (k f t).2) : Keeps σ (eachFetch k s) :=
  keeps_foldl hσ (fun t f => keeps_mk (h_k f t))

@[simp] theorem storeSync_keeps {σ : State} {s : State} (hσ : Keeps σ s) : Keeps σ (storeSync s) := by
  refine eachFetch_keeps hσ (fun f s => ?_); dsimp only; (repeat' split) <;> simp (maxDischargeDepth := 40)

@[simp] theorem bodyPiece_keeps {σ : State} {bay id : Nat} {denied : Bool} {data : List Byte} {s : State} (hσ : Keeps σ s) : Keeps σ (bodyPiece bay id denied data s) := by
  refine eachFetch_keeps hσ (fun f s => ?_); dsimp only; (repeat' split) <;> simp (maxDischargeDepth := 40)

@[simp] theorem routeSync_keeps {σ : State} {s : State} (hσ : Keeps σ s) : Keeps σ (routeSync s) := by
  unfold routeSync; simp (maxDischargeDepth := 40) [*]

@[simp] theorem linkChanged_keeps {σ : State} {s : State} (hσ : Keeps σ s) : Keeps σ (linkChanged s) := by
  unfold linkChanged; simp (maxDischargeDepth := 40) [*]

@[simp] theorem linkDown_keeps {σ : State} {l cause : Nat} {s : State} (hσ : Keeps σ s) : Keeps σ (linkDown l cause s) := by
  unfold linkDown; simp (maxDischargeDepth := 40) [*]

@[simp] theorem trainStart_keeps {σ : State} {l : Nat} {signal : Bool} {s : State} (hσ : Keeps σ s) : Keeps σ (trainStart l signal s) := by
  unfold trainStart; simp (maxDischargeDepth := 40) [*]

@[simp] theorem linkSettle_keeps {σ : State} {l : Nat} {s : State} (hσ : Keeps σ s) : Keeps σ (linkSettle l s) := by
  unfold linkSettle; split <;> simp (maxDischargeDepth := 40) [*]

@[simp] theorem setStage_keeps {σ : State} {st : Nat} {s : State} (hσ : Keeps σ s) : Keeps σ (setStage st s) := by
  unfold setStage; simp (maxDischargeDepth := 40) [*]

@[simp] theorem replayAll_keeps {σ : State} {l : Nat} {s : State} (hσ : Keeps σ s) : Keeps σ (replayAll l s) := by
  unfold replayAll; simp (maxDischargeDepth := 40) [*]

@[simp] theorem linkUpDone_keeps {σ : State} {l tx rx : Nat} {credits : List Nat} {s : State} (hσ : Keeps σ s) : Keeps σ (linkUpDone l tx rx credits s) := by
  unfold linkUpDone; (try dsimp only); (repeat' split) <;> simp (maxDischargeDepth := 40) [*]

@[simp] theorem retrain_keeps {σ : State} {l : Nat} {s : State} (hσ : Keeps σ s) : Keeps σ (retrain l s) := by
  unfold retrain; simp (maxDischargeDepth := 40) [*]

@[simp] theorem flitIn_keeps {σ : State} {l : Nat} {f : Flit} {s : State} (hσ : Keeps σ s) : Keeps σ (flitIn l f s) := by
  unfold flitIn; simp (maxDischargeDepth := 40) [*]

@[simp] theorem nakIn_keeps {σ : State} {l ack : Nat} {s : State} (hσ : Keeps σ s) : Keeps σ (nakIn l ack s) := by
  unfold nakIn; simp (maxDischargeDepth := 40) [*]

@[simp] theorem effLinkCtrl_keeps {σ : State} {l : Nat} {v : Word} {s : State} (hσ : Keeps σ s) : Keeps σ (effLinkCtrl l v s) := by
  unfold effLinkCtrl; (repeat' split) <;> simp (maxDischargeDepth := 40) [*]

@[simp] theorem keepKey_keeps {σ : State} {m : MsgHead} {s : State} (hσ : Keeps σ s) : Keeps σ (keepKey m s) := by
  unfold keepKey; simp (maxDischargeDepth := 40) [*]

@[simp] theorem forward_keeps {σ : State} {m : MsgHead} {b : MsgBody} {s : State} (hσ : Keeps σ s) : Keeps σ (forward m b s) := by
  unfold forward; simp (maxDischargeDepth := 40) [*]

@[simp] theorem heard_keeps {σ : State} {m : MsgHead} {b : MsgBody} {k : State → State} {s : State} (hσ : Keeps σ s) (h_k : ∀ t, Keeps t (k t)) : Keeps σ (heard m b k s) := by
  replace h_k : ∀ {z} t, Keeps z t → Keeps z (k t) := fun t h => h.trans (h_k t)
  unfold heard; simp (maxDischargeDepth := 40) [*]

@[simp] theorem trayFail_keeps {σ : State} {bay : Nat} {s : State} (hσ : Keeps σ s) : Keeps σ (trayFail bay s) := by
  unfold trayFail; simp (maxDischargeDepth := 40) [*]

@[simp] theorem declareLost_keeps {σ : State} {x : Nat} {s : State} (hσ : Keeps σ s) : Keeps σ (declareLost x s) := by
  unfold declareLost; simp (maxDischargeDepth := 40) [*]

@[simp] theorem failstopIn_keeps {σ : State} {m : MsgHead} {s : State} (hσ : Keeps σ s) : Keeps σ (failstopIn m s) := by
  unfold failstopIn; simp (maxDischargeDepth := 40) [*]

@[simp] theorem routeTimeout_keeps {σ : State} {b : Nat} {s : State} (hσ : Keeps σ s) : Keeps σ (routeTimeout b s) := by
  unfold routeTimeout; simp (maxDischargeDepth := 40) [*]

@[simp] theorem linkStateIn_keeps {σ : State} {m : MsgHead} {stage : Nat} {links : List LinkInfo} {s : State} (hσ : Keeps σ s) : Keeps σ (linkStateIn m stage links s) := by
  unfold linkStateIn; simp (maxDischargeDepth := 40) [*]

@[simp] theorem helloIn_keeps {σ : State} {l : Nat} {h : Hello} {s : State} (hσ : Keeps σ s) : Keeps σ (helloIn l h s) := by
  unfold helloIn; (try dsimp only); (repeat' split) <;> simp (maxDischargeDepth := 40) [*]

@[simp] theorem scopeHold_keeps {σ : State} {l : Nat} {s : State} (hσ : Keeps σ s) : Keeps σ (scopeHold l s) := by
  unfold scopeHold; simp (maxDischargeDepth := 40) [*]

@[simp] theorem trayFailedIn_keeps {σ : State} {bay : Nat} {s : State} (hσ : Keeps σ s) : Keeps σ (trayFailedIn bay s) := by
  unfold trayFailedIn; simp (maxDischargeDepth := 40) [*]

@[simp] theorem scopeChange_keeps {σ : State} {s : State} (hσ : Keeps σ s) : Keeps σ (scopeChange s) := by
  unfold scopeChange; dsimp only; split
  · refine keeps_foldl (keeps_foldl (by simp (maxDischargeDepth := 40) [*]) (fun s l => ?_)) (fun s l => by simp)
    split <;> simp (maxDischargeDepth := 40)
  · exact hσ

@[simp] theorem execLinkTrainStart_keeps {σ : State} {link : Fin 6} {signal : Bool} {s : State} (hσ : Keeps σ s) : Good σ (execLinkTrainStart link signal s) := by
  unfold execLinkTrainStart; simp (maxDischargeDepth := 40) [*]

@[simp] theorem execLinkUp_keeps {σ : State} {link : Fin 6} {tx rx : Byte} {credits : List Nat} {s : State} (hσ : Keeps σ s) : Good σ (execLinkUp link tx rx credits s) := by
  unfold execLinkUp; simp (maxDischargeDepth := 40) [*]

@[simp] theorem execLinkTrainTimeout_keeps {σ : State} {link : Fin 6} {s : State} (hσ : Keeps σ s) : Good σ (execLinkTrainTimeout link s) := by
  unfold execLinkTrainTimeout; simp (maxDischargeDepth := 40) [*]

@[simp] theorem execLaneFail_keeps {σ : State} {link : Fin 6} {_lane : Fin 8} {s : State} (hσ : Keeps σ s) : Good σ (execLaneFail link _lane s) := by
  unfold execLaneFail; simp (maxDischargeDepth := 40) [*]

@[simp] theorem execFlitReceive_keeps {σ : State} {link : Fin 6} {f : Flit} {s : State} (hσ : Keeps σ s) : Good σ (execFlitReceive link f s) := by
  unfold execFlitReceive; simp (maxDischargeDepth := 40) [*]

@[simp] theorem execLinkNakReceive_keeps {σ : State} {link : Fin 6} {ack : Fin 4096} {s : State} (hσ : Keeps σ s) : Good σ (execLinkNakReceive link ack s) := by
  unfold execLinkNakReceive; simp (maxDischargeDepth := 40) [*]

@[simp] theorem execLinkRetrainLimit_keeps {σ : State} {link : Fin 6} {s : State} (hσ : Keeps σ s) : Good σ (execLinkRetrainLimit link s) := by
  unfold execLinkRetrainLimit; simp (maxDischargeDepth := 40) [*]

@[simp] theorem execLinkRetrainTimeout_keeps {σ : State} {link : Fin 6} {s : State} (hσ : Keeps σ s) : Good σ (execLinkRetrainTimeout link s) := by
  unfold execLinkRetrainTimeout; simp (maxDischargeDepth := 40) [*]

@[simp] theorem execLinkRetrain_keeps {σ : State} {path : Path} {link : Fin 6} {v : Word} {s : State} (hσ : Keeps σ s) : Good σ (execLinkRetrain path link v s) := by
  unfold execLinkRetrain; simp (maxDischargeDepth := 40) [*]

@[simp] theorem execLinkDisable_keeps {σ : State} {path : Path} {link : Fin 6} {v : Word} {s : State} (hσ : Keeps σ s) : Good σ (execLinkDisable path link v s) := by
  unfold execLinkDisable; simp (maxDischargeDepth := 40) [*]

@[simp] theorem execHello_keeps {σ : State} {link : Fin 6} {h : Hello} {s : State} (hσ : Keeps σ s) : Good σ (execHello link h s) := by
  unfold execHello; simp (maxDischargeDepth := 40) [*]

@[simp] theorem execLinkState_keeps {σ : State} {m : MsgHead} {stage : Fin 5} {links : List LinkInfo} {s : State} (hσ : Keeps σ s) : Good σ (execLinkState m stage links s) := by
  unfold execLinkState; simp (maxDischargeDepth := 40) [*]

@[simp] theorem execLinkStatePeriodic_keeps {σ : State} {s : State} (hσ : Keeps σ s) : Good σ (execLinkStatePeriodic s) := by
  unfold execLinkStatePeriodic; simp (maxDischargeDepth := 40) [*]

@[simp] theorem execFailstop_keeps {σ : State} {m : MsgHead} {cause : BitVec 16} {s : State} (hσ : Keeps σ s) : Good σ (execFailstop m cause s) := by
  unfold execFailstop; simp (maxDischargeDepth := 40) [*]

@[simp] theorem execPeerRouteTimeout_keeps {σ : State} {bay : Fin 16} {s : State} (hσ : Keeps σ s) : Good σ (execPeerRouteTimeout bay s) := by
  unfold execPeerRouteTimeout; simp (maxDischargeDepth := 40) [*]

@[simp] theorem execBuddyRequalified_keeps {σ : State} {s : State} (hσ : Keeps σ s) : Good σ (execBuddyRequalified s) := by
  unfold execBuddyRequalified; simp (maxDischargeDepth := 40) [*]

@[simp] theorem execTrayFailed_keeps {σ : State} {m : MsgHead} {bay : Fin 16} {s : State} (hσ : Keeps σ s) : Good σ (execTrayFailed m bay s) := by
  unfold execTrayFailed; simp (maxDischargeDepth := 40) [*]

@[simp] theorem execMessageDiscard_keeps {σ : State} {link : Fin 6} {s : State} (hσ : Keeps σ s) : Good σ (execMessageDiscard link s) := by
  unfold execMessageDiscard; simp (maxDischargeDepth := 40) [*]

@[simp] theorem execScopeChange_keeps {σ : State} {s : State} (hσ : Keeps σ s) : Good σ (execScopeChange s) := by
  unfold execScopeChange; simp (maxDischargeDepth := 40) [*]

@[simp] theorem execScopeMismatchHold_keeps {σ : State} {link : Fin 6} {s : State} (hσ : Keeps σ s) : Good σ (execScopeMismatchHold link s) := by
  unfold execScopeMismatchHold; simp (maxDischargeDepth := 40) [*]

/-! ## Transfer -/

@[simp] theorem dropMoved_keeps {σ : State} {d epoch bay : Nat} {x : Stream} {s : State} (hσ : Keeps σ s) : Keeps σ (dropMoved d epoch bay x s) := by
  unfold dropMoved; simp (maxDischargeDepth := 40) [*]

@[simp] theorem dropRecords_keeps {σ : State} {handle epoch : Nat} {s : State} (hσ : Keeps σ s) : Keeps σ (dropRecords handle epoch s) := by
  unfold dropRecords; simp (maxDischargeDepth := 40) [*]

@[simp] theorem leaseMeets_keeps {σ : State} {handle epoch bay : Nat} {s : State} (hσ : Keeps σ s) : Keeps σ (leaseMeets handle epoch bay s) := by
  unfold leaseMeets; split <;> simp (maxDischargeDepth := 40) [*]

@[simp] theorem leaseIn_keeps {σ : State} {handle epoch bay : Nat} {released : Bool} {s : State} (hσ : Keeps σ s) : Keeps σ (leaseIn handle epoch bay released s) := by
  unfold leaseIn; simp (maxDischargeDepth := 40) [*]

@[simp] theorem transferStart_keeps {σ : State} {q : Nat} {standbyOk : Bool} {c : QCmd} {s : State} (hσ : Keeps σ s) : Keeps σ (transferStart q standbyOk c s) := by
  unfold transferStart; split <;> simp (maxDischargeDepth := 40) [*]

@[simp] theorem ebbIdleNow_keeps {σ : State} {d : Nat} {s : State} (hσ : Keeps σ s) : Keeps σ (ebbIdleNow d s) := by
  unfold ebbIdleNow; (repeat' split) <;> simp (maxDischargeDepth := 40) [*]

@[simp] theorem endTransfer_keeps {σ : State} {t : Xfer} {status reason handle : Nat} {s : State} (hσ : Keeps σ s) : Keeps σ (endTransfer t status reason handle s) := by
  unfold endTransfer; split <;> simp (maxDischargeDepth := 40) [*]

@[simp] theorem xferAccepted_keeps {σ : State} {handle bay : Nat} {s : State} (hσ : Keeps σ s) : Keeps σ (xferAccepted handle bay s) := by
  unfold xferAccepted; split <;> simp (maxDischargeDepth := 40) [*]

@[simp] theorem keepLease_keeps {σ : State} {d : Nat} {x : Stream} {t : Xfer} {s : State} (hσ : Keeps σ s) : Keeps σ (keepLease d x t s) := by
  unfold keepLease; simp (maxDischargeDepth := 40) [*]

@[simp] theorem xferRefused_keeps {σ : State} {handle bay reason : Nat} {s : State} (hσ : Keeps σ s) : Keeps σ (xferRefused handle bay reason s) := by
  unfold xferRefused; split <;> simp (maxDischargeDepth := 40) [*]

@[simp] theorem sendAbort_keeps {σ : State} {d : Nat} {x : Stream} {t : Xfer} {s : State} (hσ : Keeps σ s) : Keeps σ (sendAbort d x t s) := by
  unfold sendAbort; simp (maxDischargeDepth := 40) [*]

@[simp] theorem sourceTimer_keeps {σ : State} {d : Nat} {ok : Xfer → Bool} {k : Stream → Xfer → State → State} {s : State} (hσ : Keeps σ s) (h_k : ∀ x0 x1 t, Keeps t (k x0 x1 t)) : Keeps σ (sourceTimer d ok k s) := by
  replace h_k : ∀ {z} x0 x1 t, Keeps z t → Keeps z (k x0 x1 t) := fun x0 x1 t h => h.trans (h_k x0 x1 t)
  unfold sourceTimer; (repeat' split) <;> simp (maxDischargeDepth := 40) [*]

@[simp] theorem dropOffer_keeps {σ : State} {o : Offer} {s : State} (hσ : Keeps σ s) : Keeps σ (dropOffer o s) := by
  unfold dropOffer; simp (maxDischargeDepth := 40) [*]

@[simp] theorem loadBody_keeps {σ : State} {x : Stream} {base : Nat} {body : List Byte} {s : State} (hσ : Keeps σ s) : Keeps σ (loadBody x base body s) := by
  unfold loadBody; (try simp only [good_next]); (first | refine beginCmd_keeps hσ (fun _ _ _ => ?_) | refine powered_keeps hσ (fun _ => ?_) | refine screen_keeps hσ (fun _ => ?_) | refine beginTable_keeps hσ (fun _ _ _ => ?_) | refine lhBegin_keeps hσ (fun _ _ _ => ?_) | refine withEntry_keeps hσ (fun _ _ => ?_) | refine keeps_foldl hσ (fun _ _ => ?_) | refine onLhQueue_keeps hσ (fun _ => ?_) | refine guarded_keeps hσ (fun _ => ?_) | refine meChecked_keeps hσ (fun _ => ?_) | refine veChecked_keeps hσ (fun _ => ?_) | refine ruChecked_keeps hσ (fun _ => ?_)| refine heard_keeps hσ (fun _ => ?_)| refine startDesc_keeps hσ (fun _ _ _ => ?_)| refine sourceTimer_keeps hσ (fun _ _ _ => ?_)| refine governed_keeps hσ (fun _ => ?_)| refine copyIn_keeps hσ (fun _ => ?_)| refine withPart_keeps hσ (fun _ _ _ => ?_)); (try dsimp only); (repeat' split) <;> (repeat (rename_i e; first | (have e2 := congrArg Prod.snd e; dsimp only at e2; subst e2; clear e) | revert e)) <;> intros <;> simp (maxDischargeDepth := 40) [*]

@[simp] theorem State.pastEnds_keeps {σ : State} {s : State} {x : Stream} {n w : Nat} (hσ : Keeps σ s) : Keeps σ (State.pastEnds s x n w).2 := by
  unfold State.pastEnds; (try dsimp only); (repeat' split) <;> simp (maxDischargeDepth := 40) [*]

@[simp] theorem freshCut_keeps {σ : State} {p : StreamPar} {s : State} (hσ : Keeps σ s) : Keeps σ (freshCut p s) := by
  unfold freshCut; (try dsimp only); (repeat' split) <;> simp (maxDischargeDepth := 40) [*]

@[simp] theorem commit_keeps {σ : State} {d : Nat} {remap : Bool} {epoch : Nat} {s : State} (hσ : Keeps σ s) : Keeps σ (commit d remap epoch s) := by
  unfold commit; split <;> simp (maxDischargeDepth := 40) [*]

@[simp] theorem tryCommit_keeps {σ : State} {d : Nat} {s : State} (hσ : Keeps σ s) : Keeps σ (tryCommit d s) := by
  unfold tryCommit; (repeat' split) <;> simp (maxDischargeDepth := 40) [*]

@[simp] theorem failRemap_keeps {σ : State} {o : Offer} {cause : Nat} {s : State} (hσ : Keeps σ s) : Keeps σ (failRemap o cause s) := by
  unfold failRemap; simp (maxDischargeDepth := 40) [*]

@[simp] theorem refuseOffer_keeps {σ : State} {o : Offer} {reason : Nat} {s : State} (hσ : Keeps σ s) : Keeps σ (refuseOffer o reason s) := by
  unfold refuseOffer; simp (maxDischargeDepth := 40) [*]

@[simp] theorem takeOffer_keeps {σ : State} {o : Offer} {p : StreamPar} {plan : Option Cand × Option Cand} {s : State} (hσ : Keeps σ s) : Keeps σ (takeOffer o p plan s) := by
  unfold takeOffer; simp (maxDischargeDepth := 40) [*]

@[simp] theorem tryOffer_keeps {σ : State} {s : State} {o : Offer} (hσ : Keeps σ s) : Keeps σ (tryOffer s o) := by
  unfold tryOffer; (repeat' split) <;> simp (maxDischargeDepth := 40) [*]

@[simp] theorem reseat_keeps {σ : State} {s : State} {dx : Nat × Stream} (hσ : Keeps σ s) : Keeps σ (reseat s dx) := by
  unfold reseat; (try dsimp only); (repeat' split) <;> simp (maxDischargeDepth := 40) [*]

@[simp] theorem offerIn_keeps {σ : State} {src part handle epoch : Nat} {params : List Byte} {digests : List (List Byte)} {last : Nat} {s : State} (hσ : Keeps σ s) : Keeps σ (offerIn src part handle epoch params digests last s) := by
  unfold offerIn; simp (maxDischargeDepth := 40) [*]

@[simp] theorem offerTimeout_keeps {σ : State} {handle : Nat} {s : State} (hσ : Keeps σ s) : Keeps σ (offerTimeout handle s) := by
  unfold offerTimeout; split <;> simp (maxDischargeDepth := 40) [*]

@[simp] theorem xferAborted_keeps {σ : State} {handle src : Nat} {s : State} (hσ : Keeps σ s) : Keeps σ (xferAborted handle src s) := by
  unfold xferAborted; (try dsimp only); (repeat' split) <;> simp (maxDischargeDepth := 40) [*]

theorem storeRecord_keeps {σ : State} {r : CkptRecord} {s : State} (hσ : Keeps σ s) : ∀ t, storeRecord r s = some t → Keeps σ t := by
  unfold storeRecord; dsimp only
  intro t h
  split at h
  · cases h
  · split at h
    · cases h
    · cases h; simp (maxDischargeDepth := 40) [*]

@[simp] theorem partArrived_keeps {σ : State} {r : CkptRecord} {s : State} (hσ : Keeps σ s) : Keeps σ (partArrived r s) := by
  unfold partArrived; (repeat' split) <;> simp (maxDischargeDepth := 40) [*]

@[simp] theorem remapOffer_keeps {σ : State} {handle : Nat} {s : State} (hσ : Keeps σ s) : Keeps σ (remapOffer handle s) := by
  unfold remapOffer; split <;> simp (maxDischargeDepth := 40) [*]

@[simp] theorem refuseRec_keeps {σ : State} {r : CkptRecord} {x : RefusedRec} {s : State} (hσ : Keeps σ s) : Keeps σ (refuseRec r x s) := by
  unfold refuseRec; (try dsimp only); (repeat' split) <;> simp (maxDischargeDepth := 40) [*]

@[simp] theorem ckptIn_keeps {σ : State} {src part : Nat} {transfer remap : Bool} {b : List Byte} {s : State} (hσ : Keeps σ s) : Keeps σ (ckptIn src part transfer remap b s) := by
  unfold ckptIn; split
  · exact hσ
  · split
    · split <;> simp (maxDischargeDepth := 40) [*]
    · rename_i h
      have := storeRecord_keeps hσ _ h
      dsimp only; (repeat' split) <;> simp (maxDischargeDepth := 40) [*]

@[simp] theorem retryRecords_keeps {σ : State} {s : State} (hσ : Keeps σ s) : Keeps σ (retryRecords s) :=
  keeps_foldl (keeps_mk hσ) (fun _ _ => ckptIn_keeps (Keeps.self _))

@[simp] theorem boundaryOffers_keeps {σ : State} {s : State} (hσ : Keeps σ s) : Keeps σ (boundaryOffers s) := by
  unfold boundaryOffers
  split
  · exact hσ
  · exact retryRecords_keeps (keeps_foldl (keeps_foldl (keeps_foldl hσ (fun _ _ => tryOffer_keeps (Keeps.self _))) (fun _ _ => reseat_keeps (Keeps.self _))) (fun _ _ => settleXfer_keeps (Keeps.self _)))

@[simp] theorem ckptAcked_keeps {σ : State} {src handle : Nat} {ebb : Bool} {seq : Nat} {s : State} (hσ : Keeps σ s) : Keeps σ (ckptAcked src handle ebb seq s) := by
  unfold ckptAcked; (try dsimp only); (repeat' split) <;> simp (maxDischargeDepth := 40) [*]

@[simp] theorem ckptFreed_keeps {σ : State} {handle : Nat} {s : State} (hσ : Keeps σ s) : Keeps σ (ckptFreed handle s) := by
  unfold ckptFreed; simp (maxDischargeDepth := 40) [*]

@[simp] theorem sendRemap_keeps {σ : State} {bay part : Nat} {rs : List CkptRecord} {s : State} (hσ : Keeps σ s) : Keeps σ (sendRemap bay part rs s) := by
  unfold sendRemap; simp (maxDischargeDepth := 40) [*]

@[simp] theorem remapOne_keeps {σ : State} {s : State} {handle : Nat} (hσ : Keeps σ s) : Keeps σ (remapOne s handle) := by
  unfold remapOne; (try dsimp only); (repeat' split) <;> simp (maxDischargeDepth := 40) [*]

@[simp] theorem remapEnd_keeps {σ : State} {bay : Nat} {s : State} (hσ : Keeps σ s) : Keeps σ (remapEnd bay s) := by
  unfold remapEnd; simp (maxDischargeDepth := 40) [*]

@[simp] theorem execLease_keeps {σ : State} {m : MsgHead} {handle epoch : Word} {bay : Fin 16} {released : Bool} {s : State} (hσ : Keeps σ s) : Good σ (execLease m handle epoch bay released s) := by
  unfold execLease; simp (maxDischargeDepth := 40) [*]

@[simp] theorem execXferOffer_keeps {σ : State} {m : MsgHead} {handle epoch : Word} {params : List Byte} {digests : List (List Byte)} {last : BitVec 64} {s : State} (hσ : Keeps σ s) : Good σ (execXferOffer m handle epoch params digests last s) := by
  unfold execXferOffer; simp (maxDischargeDepth := 40) [*]

@[simp] theorem execXferOfferTimeout_keeps {σ : State} {handle : Word} {s : State} (hσ : Keeps σ s) : Good σ (execXferOfferTimeout handle s) := by
  unfold execXferOfferTimeout; simp (maxDischargeDepth := 40) [*]

@[simp] theorem execXferAccept_keeps {σ : State} {m : MsgHead} {handle _bf _be : Word} {s : State} (hσ : Keeps σ s) : Good σ (execXferAccept m handle _bf _be s) := by
  unfold execXferAccept; simp (maxDischargeDepth := 40) [*]

@[simp] theorem execEbbIdle_keeps {σ : State} {desc : Fin 4096} {s : State} (hσ : Keeps σ s) : Good σ (execEbbIdle desc s) := by
  unfold execEbbIdle; simp (maxDischargeDepth := 40) [*]

@[simp] theorem execXferEbbTimeout_keeps {σ : State} {desc : Fin 4096} {s : State} (hσ : Keeps σ s) : Good σ (execXferEbbTimeout desc s) := by
  unfold execXferEbbTimeout; simp (maxDischargeDepth := 40) [*]

@[simp] theorem execXferRefuse_keeps {σ : State} {m : MsgHead} {handle : Word} {reason : Byte} {s : State} (hσ : Keeps σ s) : Good σ (execXferRefuse m handle reason s) := by
  unfold execXferRefuse; simp (maxDischargeDepth := 40) [*]

@[simp] theorem execXferAbort_keeps {σ : State} {m : MsgHead} {handle : Word} {s : State} (hσ : Keeps σ s) : Good σ (execXferAbort m handle s) := by
  unfold execXferAbort; simp (maxDischargeDepth := 40) [*]

@[simp] theorem execXferLeaseTimeout_keeps {σ : State} {desc : Fin 4096} {s : State} (hσ : Keeps σ s) : Good σ (execXferLeaseTimeout desc s) := by
  unfold execXferLeaseTimeout; simp (maxDischargeDepth := 40) [*]

@[simp] theorem execXferReplyTimeout_keeps {σ : State} {desc : Fin 4096} {s : State} (hσ : Keeps σ s) : Good σ (execXferReplyTimeout desc s) := by
  unfold execXferReplyTimeout; simp (maxDischargeDepth := 40) [*]

@[simp] theorem execCkptData_keeps {σ : State} {m : MsgHead} {transfer remap : Bool} {record : List Byte} {s : State} (hσ : Keeps σ s) : Good σ (execCkptData m transfer remap record s) := by
  unfold execCkptData; simp (maxDischargeDepth := 40) [*]

@[simp] theorem execCkptAck_keeps {σ : State} {m : MsgHead} {handle : Word} {ebb : Bool} {seq : BitVec 64} {s : State} (hσ : Keeps σ s) : Good σ (execCkptAck m handle ebb seq s) := by
  unfold execCkptAck; simp (maxDischargeDepth := 40) [*]

@[simp] theorem execCkptFree_keeps {σ : State} {m : MsgHead} {handle : Word} {s : State} (hσ : Keeps σ s) : Good σ (execCkptFree m handle s) := by
  unfold execCkptFree; simp (maxDischargeDepth := 40) [*]

@[simp] theorem execRemapWaitEnd_keeps {σ : State} {bay : Fin 16} {s : State} (hσ : Keeps σ s) : Good σ (execRemapWaitEnd bay s) := by
  unfold execRemapWaitEnd; simp (maxDischargeDepth := 40) [*]

@[simp] theorem execStreamTransfer_keeps {σ : State} {q : Fin 65} {standbyOk : Bool} {s : State} (hσ : Keeps σ s) : Good σ (execStreamTransfer q standbyOk s) := by
  unfold execStreamTransfer; simp (maxDischargeDepth := 40) [*]

/-! ## Time -/

@[simp] theorem timeState_keeps {σ : State} {st : Nat} {s : State} (hσ : Keeps σ s) : Keeps σ (timeState st s) := by
  unfold timeState; simp (maxDischargeDepth := 40) [*]

@[simp] theorem untrust_keeps {σ : State} {cause : Nat} {s : State} (hσ : Keeps σ s) : Keeps σ (untrust cause s) := by
  unfold untrust; simp (maxDischargeDepth := 40) [*]

@[simp] theorem alarm_keeps {σ : State} {s : State} (hσ : Keeps σ s) : Keeps σ (alarm s) := by
  unfold alarm; simp (maxDischargeDepth := 40) [*]

@[simp] theorem noteOffset_keeps {σ : State} {off : Int} {s : State} (hσ : Keeps σ s) : Keeps σ (noteOffset off s) := by
  unfold noteOffset; simp (maxDischargeDepth := 40) [*]

@[simp] theorem classify_keeps {σ : State} {off : Int} {s : State} (hσ : Keeps σ s) : Keeps σ (classify off s) := by
  unfold classify; simp (maxDischargeDepth := 40) [*]

@[simp] theorem alarmClear_keeps {σ : State} {s : State} (hσ : Keeps σ s) : Keeps σ (alarmClear s) := by
  unfold alarmClear; simp (maxDischargeDepth := 40) [*]

@[simp] theorem trusted_keeps {σ : State} {s : State} (hσ : Keeps σ s) : Keeps σ (trusted s) := by
  unfold trusted; simp (maxDischargeDepth := 40) [*]

@[simp] theorem measure_keeps {σ : State} {s : State} (hσ : Keeps σ s) : Keeps σ (measure s) := by
  unfold measure; split <;> simp (maxDischargeDepth := 40) [*]

@[simp] theorem cycle_keeps {σ : State} {s : State} (hσ : Keeps σ s) : Keeps σ (cycle s) := by
  unfold cycle; simp (maxDischargeDepth := 40) [*]

@[simp] theorem passCycle_keeps {σ : State} {s : State} (hσ : Keeps σ s) : Keeps σ (passCycle s) := by
  unfold passCycle; simp (maxDischargeDepth := 40) [*]

@[simp] theorem latchSync_keeps {σ : State} {s : State} (hσ : Keeps σ s) : Keeps σ (latchSync s) := by
  unfold latchSync; simp (maxDischargeDepth := 40) [*]

@[simp] theorem anchorPort_keeps {σ : State} {n : Nat} {s : State} (hσ : Keeps σ s) : Keeps σ (anchorPort n s) := by
  unfold anchorPort; simp (maxDischargeDepth := 40) [*]

@[simp] theorem portPhase_keeps {σ : State} {n : Nat} {s : State} (hσ : Keeps σ s) : Keeps σ (portPhase n s) := by
  unfold portPhase; simp (maxDischargeDepth := 40) [*]

@[simp] theorem setPull_keeps {σ : State} {a : Nat} {p : Int} {s : State} (hσ : Keeps σ s) : Keeps σ (setPull a p s) := by
  unfold setPull; simp (maxDischargeDepth := 40) [*]

@[simp] theorem loopTick_keeps {σ : State} {a : Nat} {s : State} (hσ : Keeps σ s) : Keeps σ (loopTick a s) := by
  unfold loopTick; simp (maxDischargeDepth := 40) [*]

@[simp] theorem acsTick_keeps {σ : State} {a : Nat} {s : State} (hσ : Keeps σ s) : Keeps σ (acsTick a s) := by
  unfold acsTick; simp (maxDischargeDepth := 40) [*]

@[simp] theorem decideSlip_keeps {σ : State} {n : Nat} {s : State} (hσ : Keeps σ s) : Keeps σ (decideSlip n s) := by
  unfold decideSlip; simp (maxDischargeDepth := 40) [*]

@[simp] theorem standbyTick_keeps {σ : State} {n : Nat} {s : State} (hσ : Keeps σ s) : Keeps σ (standbyTick n s) := by
  unfold standbyTick; simp (maxDischargeDepth := 40) [*]

@[simp] theorem tickWork_keeps {σ : State} {s : State} (hσ : Keeps σ s) : Keeps σ (tickWork s) := by
  unfold tickWork; simp (maxDischargeDepth := 40) [*]

@[simp] theorem badMessage_keeps {σ : State} {s : State} (hσ : Keeps σ s) : Keeps σ (badMessage s) := by
  unfold badMessage; simp (maxDischargeDepth := 40) [*]

@[simp] theorem takeMessage_keeps {σ : State} {raw : List Byte} {s : State} (hσ : Keeps σ s) : Keeps σ (takeMessage raw s) := by
  unfold takeMessage; (try dsimp only); (repeat' split) <;> simp (maxDischargeDepth := 40) [*]

@[simp] theorem execTimeMsg_keeps {σ : State} {line : Option (List Byte)} {s : State} (hσ : Keeps σ s) : Good σ (execTimeMsg line s) := by
  unfold execTimeMsg; simp (maxDischargeDepth := 40) [*]

@[simp] theorem execTimeMsgErrorLimit_keeps {σ : State} {s : State} (hσ : Keeps σ s) : Good σ (execTimeMsgErrorLimit s) := by
  unfold execTimeMsgErrorLimit; simp (maxDischargeDepth := 40) [*]

@[simp] theorem execTickMissLimit_keeps {σ : State} {s : State} (hσ : Keeps σ s) : Good σ (execTickMissLimit s) := by
  unfold execTickMissLimit; simp (maxDischargeDepth := 40) [*]

@[simp] theorem execTimeAlarmClear_keeps {σ : State} {s : State} (hσ : Keeps σ s) : Good σ (execTimeAlarmClear s) := by
  unfold execTimeAlarmClear; simp (maxDischargeDepth := 40) [*]

@[simp] theorem execTimeTrusted_keeps {σ : State} {s : State} (hσ : Keeps σ s) : Good σ (execTimeTrusted s) := by
  unfold execTimeTrusted; simp (maxDischargeDepth := 40) [*]

@[simp] theorem execHoldoverExpiry_keeps {σ : State} {s : State} (hσ : Keeps σ s) : Good σ (execHoldoverExpiry s) := by
  unfold execHoldoverExpiry; simp (maxDischargeDepth := 40) [*]

@[simp] theorem acsEnable_keeps {σ : State} {a : Nat} {s : State} (hσ : Keeps σ s) : Keeps σ (acsEnable a s) := by
  unfold acsEnable; split <;> simp (maxDischargeDepth := 40) [*]

@[simp] theorem effAcsCtrl_keeps {σ : State} {a : Nat} {v : Word} {s : State} (hσ : Keeps σ s) : Keeps σ (effAcsCtrl a v s) := by
  unfold effAcsCtrl; simp (maxDischargeDepth := 40) [*]

@[simp] theorem execAcsCtrlWrite_keeps {σ : State} {path : Path} {n : Fin 4} {v : Word} {s : State} (hσ : Keeps σ s) : Good σ (execAcsCtrlWrite path n v s) := by
  unfold execAcsCtrlWrite; simp (maxDischargeDepth := 40) [*]

@[simp] theorem execAcsEnable_keeps {σ : State} {path : Path} {n : Fin 4} {v : Word} {s : State} (hσ : Keeps σ s) : Good σ (execAcsEnable path n v s) := by
  unfold execAcsEnable; simp (maxDischargeDepth := 40) [*]

@[simp] theorem execAcsAcquireEnd_keeps {σ : State} {n : Fin 4} {s : State} (hσ : Keeps σ s) : Good σ (execAcsAcquireEnd n s) := by
  unfold execAcsAcquireEnd; simp (maxDischargeDepth := 40) [*]

@[simp] theorem acsFail_keeps {σ : State} {a : Nat} {s : State} (hσ : Keeps σ s) : Keeps σ (acsFail a s) := by
  unfold acsFail; simp (maxDischargeDepth := 40) [*]

@[simp] theorem execAcsFailed_keeps {σ : State} {n : Fin 4} {s : State} (hσ : Keeps σ s) : Good σ (execAcsFailed n s) := by
  unfold execAcsFailed; simp (maxDischargeDepth := 40) [*]

@[simp] theorem execAcsRelock_keeps {σ : State} {n : Fin 4} {s : State} (hσ : Keeps σ s) : Good σ (execAcsRelock n s) := by
  unfold execAcsRelock; simp (maxDischargeDepth := 40) [*]

/-! ## Peer -/

@[simp] theorem answer_keeps {σ : State} {m : MsgHead} {b : MsgBody} {s : State} (hσ : Keeps σ s) : Keeps σ (answer m b s) := by
  unfold answer; simp (maxDischargeDepth := 40) [*]

@[simp] theorem peerWrite_keeps {σ : State} {m : MsgHead} {a fmt : Nat} {data : List Byte} {s : State} (hσ : Keeps σ s) : Keeps σ (peerWrite m a fmt data s) := by
  unfold peerWrite; simp (maxDischargeDepth := 40) [*]

@[simp] theorem peerRead_keeps {σ : State} {m : MsgHead} {a n : Nat} {s : State} (hσ : Keeps σ s) : Keeps σ (peerRead m a n s) := by
  unfold peerRead; (repeat' split) <;> simp (maxDischargeDepth := 40) [*]

@[simp] theorem dropWait_keeps {σ : State} {c : Nat} {w : PeerWait} {s : State} (hσ : Keeps σ s) : Keeps σ (dropWait c w s) := by
  unfold dropWait; simp (maxDischargeDepth := 40) [*]

@[simp] theorem peerDenied_keeps {σ : State} {c : Nat} {w : PeerWait} {s : State} (hσ : Keeps σ s) : Keeps σ (peerDenied c w s) := by
  unfold peerDenied; (try dsimp only); (repeat' split) <;> simp (maxDischargeDepth := 40) [*]

@[simp] theorem writeAcked_keeps {σ : State} {bay id : Nat} {denied : Bool} {s : State} (hσ : Keeps σ s) : Keeps σ (writeAcked bay id denied s) := by
  unfold writeAcked; split <;> simp (maxDischargeDepth := 40) [*]

@[simp] theorem memberGot_keeps {σ : State} {d : Desc} {r : DmaRun} {m o : Nat} {data : List Byte} {s : State} (hσ : Keeps σ s) : Keeps σ (memberGot d r m o data s) := by
  unfold memberGot; (try dsimp only); (repeat' split) <;> simp (maxDischargeDepth := 40) [*]

@[simp] theorem readArrived_keeps {σ : State} {bay id : Nat} {denied : Bool} {data : List Byte} {s : State} (hσ : Keeps σ s) : Keeps σ (readArrived bay id denied data s) := by
  unfold readArrived; (repeat' split) <;> simp (maxDischargeDepth := 40) [*]

@[simp] theorem shiftPort_keeps {σ : State} {n : Nat} {by_ : Int} {s : State} (hσ : Keeps σ s) : Keeps σ (shiftPort n by_ s) := by
  unfold shiftPort; simp (maxDischargeDepth := 40) [*]

@[simp] theorem standbySync_keeps {σ : State} {bay n idx time st : Nat} {s : State} (hσ : Keeps σ s) : Keeps σ (standbySync bay n idx time st s) := by
  unfold standbySync; simp (maxDischargeDepth := 40) [*]

@[simp] theorem standbyLost_keeps {σ : State} {n : Nat} {s : State} (hσ : Keeps σ s) : Keeps σ (standbyLost n s) := by
  unfold standbyLost; simp (maxDischargeDepth := 40) [*]

@[simp] theorem slipIn_keeps {σ : State} {bay n kb m : Nat} {drop : Bool} {s : State} (hσ : Keeps σ s) : Keeps σ (slipIn bay n kb m drop s) := by
  unfold slipIn; simp (maxDischargeDepth := 40) [*]

@[simp] theorem clockFlag_keeps {σ : State} {d : ClockDomain} {s : State} (hσ : Keeps σ s) : Keeps σ (clockFlag d s) := by
  unfold clockFlag; split <;> simp (maxDischargeDepth := 40) [*]

@[simp] theorem tickAll_keeps {σ : State} {s : State} (hσ : Keeps σ s) : Keeps σ (tickAll s) := by
  unfold tickAll; simp (maxDischargeDepth := 40) [*]

@[simp] theorem execTrayTick_keeps {σ : State} {ref : Bool} {s : State} (hσ : Keeps σ s) : Good σ (execTrayTick ref s) := by
  unfold execTrayTick; simp (maxDischargeDepth := 40) [*]

@[simp] theorem execTickMiss_keeps {σ : State} {s : State} (hσ : Keeps σ s) : Good σ (execTickMiss s) := by
  unfold execTickMiss; simp (maxDischargeDepth := 40) [*]

@[simp] theorem execWrite_keeps {σ : State} {m : MsgHead} {addr : BitVec 64} {fmt : Fin 3} {data : List Byte} {s : State} (hσ : Keeps σ s) : Good σ (execWrite m addr fmt data s) := by
  unfold execWrite; simp (maxDischargeDepth := 40) [*]

@[simp] theorem execWriteAck_keeps {σ : State} {m : MsgHead} {id : Word} {denied : Bool} {s : State} (hσ : Keeps σ s) : Good σ (execWriteAck m id denied s) := by
  unfold execWriteAck; simp (maxDischargeDepth := 40) [*]

@[simp] theorem execReadReq_keeps {σ : State} {m : MsgHead} {addr : BitVec 64} {len : Nat} {ecc : Ecc} {s : State} (hσ : Keeps σ s) : Good σ (execReadReq m addr len ecc s) := by
  unfold execReadReq; simp (maxDischargeDepth := 40) [*]

@[simp] theorem execReadData_keeps {σ : State} {m : MsgHead} {id : Word} {denied : Bool} {data : List Byte} {s : State} (hσ : Keeps σ s) : Good σ (execReadData m id denied data s) := by
  unfold execReadData; simp (maxDischargeDepth := 40) [*]

@[simp] theorem execStandbySync_keeps {σ : State} {m : MsgHead} {port : Fin 8} {idx time : BitVec 64} {state : Fin 4} {s : State} (hσ : Keeps σ s) : Good σ (execStandbySync m port idx time state s) := by
  unfold execStandbySync; simp (maxDischargeDepth := 40) [*]

@[simp] theorem execStandbySyncTimeout_keeps {σ : State} {port : Fin 8} {s : State} (hσ : Keeps σ s) : Good σ (execStandbySyncTimeout port s) := by
  unfold execStandbySyncTimeout; simp (maxDischargeDepth := 40) [*]

@[simp] theorem execSlip_keeps {σ : State} {m : MsgHead} {port : Fin 8} {kb : BitVec 64} {drop : Bool} {frames : Fin 65} {s : State} (hσ : Keeps σ s) : Good σ (execSlip m port kb drop frames s) := by
  unfold execSlip; simp (maxDischargeDepth := 40) [*]

@[simp] theorem execClockMonitorFlag_keeps {σ : State} {d : ClockDomain} {s : State} (hσ : Keeps σ s) : Good σ (execClockMonitorFlag d s) := by
  unfold execClockMonitorFlag; simp (maxDischargeDepth := 40) [*]

end Sys2Proof.Machine
end

