-- ==== Sys2Proof/Laws/KeepsBoot.lean ====
section
/-! SUPPORT. One lemma per operation: what start-up, the services and the security block keep. -/

set_option maxRecDepth 8000

namespace Sys2Proof.Machine

/-! ## Boot -/

/-- What keeps every burned copy of a state bit burned never takes the life-cycle state back. -/
theorem Sec.lc_le {x y : Sec} (h : (x.bits.maker ≠ 0 → y.bits.maker ≠ 0) ∧ (x.bits.owner ≠ 0 → y.bits.owner ≠ 0) ∧ (x.bits.field ≠ 0 → y.bits.field ≠ 0) ∧
    (x.bits.ret ≠ 0 → y.bits.ret ≠ 0) ∧ (x.bits.scrap ≠ 0 → y.bits.scrap ≠ 0)) : x.lc ≤ y.lc := by
  obtain ⟨h1, h2, h3, h4, h5⟩ := h
  unfold Sec.lc
  (repeat' split) <;> first | omega | simp_all

theorem atLeast_ne {a b : Fin 4} (h : a ≠ 0) : atLeast a b ≠ 0 := by
  unfold atLeast; split
  · rename_i k; intro e; rw [e] at k; exact absurd k (Fin.not_lt_zero a)
  · exact h

theorem wholeBit_ne {a : Fin 4} (h : a ≠ 0) : wholeBit a ≠ 0 := by unfold wholeBit; simp [h]

@[simp] theorem burnBits_le {target : Nat} {copies : Fin 4} {x : Sec} : SecLe x (burnBits target copies x) := by
  refine ⟨?_, ?_, ?_⟩
  · apply Sec.lc_le; unfold burnBits; dsimp only
    (repeat' split) <;> refine ⟨?_, ?_, ?_, ?_, ?_⟩ <;> first | exact id | exact atLeast_ne
  · unfold burnBits; dsimp only; (repeat' split) <;> exact id
  · unfold burnBits; dsimp only; (repeat' split) <;> exact Nat.le_refl _

theorem SecLe.trans {a b c : Sec} (h : SecLe a b) (k : SecLe b c) : SecLe a c :=
  ⟨Nat.le_trans h.lc k.lc, fun w => k.ret (h.ret w), Nat.le_trans h.floor k.floor⟩

@[simp] theorem destroyKeys_le {target : Nat} {x : Sec} : SecLe x (destroyKeys target x) := by
  unfold destroyKeys; dsimp only; (repeat' split) <;> exact ⟨Nat.le_refl _, id, Nat.le_refl _⟩

@[simp] theorem mendOtp_le {x : Sec} : SecLe x (mendOtp x) := by
  let y := { x with bits := { maker := wholeBit x.bits.maker, owner := wholeBit x.bits.owner, field := wholeBit x.bits.field, ret := wholeBit x.bits.ret, scrap := wholeBit x.bits.scrap },
                    ownerPrev := none, digestPrev := [] }
  have h : SecLe x y := ⟨Sec.lc_le ⟨wholeBit_ne, wholeBit_ne, wholeBit_ne, wholeBit_ne, wholeBit_ne⟩, id, Nat.le_refl _⟩
  exact h.trans (destroyKeys_le (target := y.lc))

@[simp] theorem tear_le {t : TornBurn} {x : Sec} : SecLe x (tear t x) := by
  unfold tear; dsimp only
  (repeat' split) <;> first
    | exact SecLe.rfl' _
    | exact burnBits_le
    | exact ⟨Nat.le_refl _, id, Nat.le_refl _⟩


@[simp] theorem drawChallenge_keeps {σ : State} {s : State} (hσ : Keeps σ s) : Keeps σ (drawChallenge s) := by
  exact hσ.trans ⟨rfl, Nat.le_add_right _ _, id, ⟨Nat.le_refl _, id, Nat.le_refl _⟩⟩

@[simp] theorem bareModule_keeps {σ : State} {s : State} (hσ : Keeps σ s) : Keeps σ (bareModule s) := by
  exact hσ.trans ⟨rfl, Nat.le_refl _, filter_wf, ⟨Nat.le_refl _, id, Nat.le_refl _⟩⟩

@[simp] theorem restartState_keeps {σ : State} {s : State} (hσ : Keeps σ s) : Keeps σ (restartState s) := by
  have key : Keeps σ { bareModule s with
      mem := s.mem.filter (fun c => outside c.1 || inDram c.1), boot := { stops := s.boot.stops },
      host := { vectors := s.host.vectors.map (fun v => (v.1, { v.2 with unsignalled := 0 })), msi := s.host.msi, vfEnable := s.host.vfEnable } } :=
    hσ.trans ⟨rfl, Nat.le_refl _, filter_wf, ⟨Nat.le_refl _, id, Nat.le_refl _⟩⟩
  exact State.setFld_keeps (State.setFld_keeps (State.setReg_keeps (State.setReg_keeps (State.setReg_keeps (State.setReg_keeps key)))))

@[simp] theorem powerOff_keeps {σ : State} {s : State} (hσ : Keeps σ s) : Keeps σ (powerOff s) := by
  unfold powerOff; simp (maxDischargeDepth := 40) [*]

@[simp] theorem powerOn_keeps {σ : State} {bay : Nat} {torn : Option TornBurn} {s : State} (hσ : Keeps σ s) : Keeps σ (powerOn bay torn s) := by
  have key : SecLe s.sec (match torn with | some t => tear t s.sec | none => s.sec) := by cases torn <;> simp
  unfold powerOn; dsimp only
  exact State.setFld_keeps (State.setReg_keeps (keeps_mk (powerOff_keeps (keeps_mk_sec hσ key))))

@[simp] theorem atStage_keeps {σ : State} {n : Nat} {s : State} (hσ : Keeps σ s) : Keeps σ (atStage n s) := by
  unfold atStage; simp (maxDischargeDepth := 40) [*]

@[simp] theorem takeStores_keeps {σ : State} {s : State} (hσ : Keeps σ s) : Keeps σ (takeStores s) := by
  refine keeps_foldl hσ (fun s x => ?_)
  have key := takeEntry_keeps (p := x.part) (Keeps.self s)
  generalize takeEntry x.part s = r at key
  obtain ⟨_ | i, u⟩ := r
  · exact key
  · exact keeps_mk (State.setEntry_keeps key)

@[simp] theorem settleStart_keeps {σ : State} {s : State} (hσ : Keeps σ s) : Keeps σ (settleStart s) := by
  exact eachFetch_keeps (by simp [*]) (fun _ _ => beginBody_keeps (Keeps.self _))

@[simp] theorem becomeReady_keeps {σ : State} {s : State} (hσ : Keeps σ s) : Keeps σ (becomeReady s) := by
  unfold becomeReady; simp (maxDischargeDepth := 40) [*]

@[simp] theorem quarantine_keeps {σ : State} {cause : Nat} {s : State} (hσ : Keeps σ s) : Keeps σ (quarantine cause s) := by
  unfold quarantine; simp (maxDischargeDepth := 40) [*]

@[simp] theorem joinTray_keeps {σ : State} {src : Bool} {r : TrayRecord} {s : State} (hσ : Keeps σ s) : Keeps σ (joinTray src r s) := by
  unfold joinTray; (try dsimp only); (repeat' split) <;> simp (maxDischargeDepth := 40) [*]

@[simp] theorem joinStart_keeps {σ : State} {s : State} (hσ : Keeps σ s) : Keeps σ (joinStart s) := by
  unfold joinStart; simp (maxDischargeDepth := 40) [*]

@[simp] theorem takeAll_keeps {k : List Byte → State → Option State} (hk : ∀ r s t, k r s = some t → Keeps s t) {l : List (List Byte)} : ∀ {σ s : State}, Keeps σ s → Keeps σ (takeAll k l s).2 := by
  induction l with
  | nil => intro σ s h; exact h
  | cons r rest ih =>
    intro σ s h
    unfold takeAll
    cases e : k r s with
    | none => exact h
    | some t => exact ih (h.trans (hk _ _ _ e))
theorem bootPartition_keeps {σ : State} {r : List Byte} {s : State} (hσ : Keeps σ s) : ∀ t, bootPartition r s = some t → Keeps σ t := by
  intro t e0
  unfold bootPartition at e0; dsimp only at e0
  split at e0
  · cases e0
  · exact activate_keeps hσ t e0

theorem bootMap_keeps {σ : State} {r : List Byte} {s : State} (hσ : Keeps σ s) : ∀ t, bootMap r s = some t → Keeps σ t := by
  intro t e0
  unfold bootMap at e0; dsimp only at e0
  split at e0
  · cases e0
  · split at e0
    · rename_i h; cases e0; exact mappingBlock_keeps hσ _ h
    · cases e0

@[simp] theorem declared_keeps {σ : State} {ms : List (List Byte)} {s : State} (hσ : Keeps σ s) : Keeps σ (declared ms s) := by
  unfold declared; simp (maxDischargeDepth := 40) [*]

theorem bootSchedule_keeps {σ : State} {ms : List (List Byte)} {r : List Byte} {s : State} (hσ : Keeps σ s) : ∀ t, bootSchedule ms r s = some t → Keeps σ t := by
  unfold bootSchedule; split <;> simp (maxDischargeDepth := 40) [*]

theorem bootModel_keeps {σ : State} {r : List Byte} {s : State} (hσ : Keeps σ s) : ∀ t, bootModel r s = some t → Keeps σ t := by
  intro t e0
  unfold bootModel at e0; dsimp only at e0
  split at e0
  · cases e0
  · split at e0
    · cases e0; simp (maxDischargeDepth := 40) [*]
    · have key := takeEntry_keeps (p := fieldAt r 0 1) hσ
      generalize takeEntry (fieldAt r 0 1) s = x at *
      obtain ⟨_ | i, u⟩ := x
      · cases e0
      · exact placeBody_keeps key _ e0

theorem bootRing_keeps {σ : State} {r : List Byte} {s : State} (hσ : Keeps σ s) : ∀ t, bootRing r s = some t → Keeps σ t := by
  unfold bootRing; (try dsimp only); (repeat' split) <;> simp (maxDischargeDepth := 40) [*]

theorem bootStanding_keeps {σ : State} {r : List Byte} {s : State} (hσ : Keeps σ s) : ∀ t, bootStanding r s = some t → Keeps σ t := by
  unfold bootStanding; simp (maxDischargeDepth := 40) [*]

@[simp] theorem bootEnable_keeps {σ : State} {s : State} (hσ : Keeps σ s) : Keeps σ (bootEnable s) := by
  unfold bootEnable; simp (maxDischargeDepth := 40) [*]

@[simp] theorem stage5_keeps {σ : State} {env : StartEnv} {s : State} (hσ : Keeps σ s) : Keeps σ (stage5 env s) := by
  unfold stage5; simp (maxDischargeDepth := 40) [*]

@[simp] theorem stage4Load_keeps {σ : State} {b : List Byte} {s : State} (hσ : Keeps σ s) : Keeps σ (stage4Load b s).2 := by
  unfold stage4Load; dsimp only
  have p1 : ∀ r s t, bootPartition r s = some t → Keeps s t := fun _ _ _ h => bootPartition_keeps (Keeps.self _) _ h
  have p2 : ∀ r s t, bootMap r s = some t → Keeps s t := fun _ _ _ h => bootMap_keeps (Keeps.self _) _ h
  have p3 : ∀ ms r s t, bootSchedule ms r s = some t → Keeps s t := fun _ _ _ _ h => bootSchedule_keeps (Keeps.self _) _ h
  have p4 : ∀ r s t, bootModel r s = some t → Keeps s t := fun _ _ _ h => bootModel_keeps (Keeps.self _) _ h
  have p5 : ∀ r s t, bootRing r s = some t → Keeps s t := fun _ _ _ h => bootRing_keeps (Keeps.self _) _ h
  have p6 : ∀ r s t, bootStanding r s = some t → Keeps s t := fun _ _ _ h => bootStanding_keeps (Keeps.self _) _ h
  have go : ∀ {k : List Byte → State → Option State} (hk : ∀ r s t, k r s = some t → Keeps s t) {l : List (List Byte)} {a : Bool × State},
      Keeps σ a.2 → Keeps σ (if a.1 then takeAll k l a.2 else a).2 := by
    intro k hk l a ha
    split
    · exact takeAll_keeps hk ha
    · exact ha
  exact go p6 (go p5 (go p4 (go (p3 _) (go p2 (go p1 hσ)))))

@[simp] theorem stage4_keeps {σ : State} {env : StartEnv} {b : List Byte} {s : State} (hσ : Keeps σ s) : Keeps σ (stage4 env b s) := by
  unfold stage4; dsimp only
  have k1 : ∀ {t : State}, Keeps σ t → Keeps σ { t with mem := t.mem.filter (fun c => outside c.1) } :=
    fun h => h.trans ⟨rfl, Nat.le_refl _, filter_wf, SecLe.rfl' _⟩
  split
  · exact startFail_keeps (atStage_keeps hσ)
  · split
    · exact poolSync_keeps (k1 (atStage_keeps hσ))
    · have k2 := stage4Load_keeps (b := b) (poolSync_keeps (k1 (atStage_keeps (n := 4) hσ)))
      generalize stage4Load b _ = r at k2 ⊢
      obtain ⟨_ | _, u⟩ := r
      · exact startFail_keeps k2
      · exact stage5_keeps (bootEnable_keeps k2)

@[simp] theorem bootReg_keeps {σ : State} {s : State} {e : Nat × Nat} (hσ : Keeps σ s) : Keeps σ (bootReg s e) := by
  unfold bootReg; dsimp only
  generalize ((List.range 8).find? (fun n => R.apCtrl n == e.1)) = o
  generalize ((List.range 4).find? (fun a => R.acsCtrl a == e.1)).map (· + 16) = o2
  cases o <;> cases o2 <;> dsimp only <;> (repeat' split) <;> simp (maxDischargeDepth := 40) [*]

@[simp] theorem stage3_keeps {σ : State} {env : StartEnv} {b : List Byte} {s : State} (hσ : Keeps σ s) : Keeps σ (stage3 env b s) := by
  unfold stage3; simp (maxDischargeDepth := 40) [*]

@[simp] theorem trySlot_keeps {σ : State} {env : StartEnv} {slot : Nat} {s : State} (hσ : Keeps σ s) : Keeps σ (trySlot env slot s).2 := by
  unfold trySlot; simp (maxDischargeDepth := 40) [*]

@[simp] theorem noImage_keeps {σ : State} {causes : List Nat} {s : State} (hσ : Keeps σ s) : Keeps σ (noImage causes s) := by
  unfold noImage; simp (maxDischargeDepth := 40) [*]

@[simp] theorem stage2_keeps {σ : State} {env : StartEnv} {s : State} (hσ : Keeps σ s) : Keeps σ (stage2 env s) := by
  unfold stage2; (try dsimp only); (repeat' split) <;> (repeat (rename_i e; first | (have e2 := congrArg Prod.snd e; dsimp only at e2; subst e2; clear e) | revert e)) <;> intros <;> simp (maxDischargeDepth := 40) [*]

@[simp] theorem returnErase_keeps {σ : State} {s : State} (hσ : Keeps σ s) : Keeps σ (returnErase s) := by
  unfold returnErase
  split
  · exact hσ
  · dsimp only
    exact (keeps_foldl hσ (fun s slot => by split <;> simp)).trans ⟨rfl, Nat.le_refl _, id, ⟨Nat.le_refl _, fun _ => rfl, Nat.le_refl _⟩⟩

@[simp] theorem stage1_keeps {σ : State} {env : StartEnv} {s : State} (hσ : Keeps σ s) : Keeps σ (stage1 env s) := by
  have key : ∀ u : State, Keeps σ u →
      Keeps σ (if u.sec.lc = 5 then startFail Neap.security 0 (eraseFlash 0 (2 * slotMax) u)
        else if !env.otpGood then startFail Neap.security 0 u
        else if u.fld F.hubBootAttemptsLimit ≤ u.fld F.hubBootAttemptsCount then enterNeap (u.fld F.hubBootLastReason) u
        else
          let u := u.setFld F.hubBootAttemptsCount (satAdd (u.fld F.hubBootAttemptsCount) 1 15)
          if env.hot then startFail Neap.thermal 0 u
          else if env.stall = some 1 then u
          else stage2 env (returnErase u)) := by
    intro u hu; simp (maxDischargeDepth := 40) [*]
  exact key _ (drawChallenge_keeps (State.setFld_keeps (atStage_keeps (keeps_mk_sec hσ mendOtp_le))))

@[simp] theorem clearAttempts_keeps {σ : State} {s : State} (hσ : Keeps σ s) : Keeps σ (clearAttempts s) := by
  unfold clearAttempts; simp (maxDischargeDepth := 40) [*]

@[simp] theorem advanceFloor_keeps {σ : State} {s : State} (hσ : Keeps σ s) : Keeps σ (advanceFloor s) := by
  unfold advanceFloor; dsimp only
  split
  · split
    · rename_i h
      split
      · rename_i h0
        refine hσ.trans ⟨rfl, Nat.le_refl _, id, ⟨Nat.le_refl _, id, ?_⟩⟩
        have := h.1
        rw [h0] at this
        exact Nat.le_of_lt this
      · exact hσ.trans ⟨rfl, Nat.le_refl _, id, ⟨Nat.le_refl _, id, Nat.le_refl _⟩⟩
    · exact hσ
  · exact hσ

@[simp] theorem bootStable_keeps {σ : State} {s : State} (hσ : Keeps σ s) : Keeps σ (bootStable s) := by
  unfold bootStable; simp (maxDischargeDepth := 40) [*]

@[simp] theorem effBootCtrl_keeps {σ : State} {v : Word} {s : State} (hσ : Keeps σ s) : Keeps σ (effBootCtrl v s) := by
  unfold effBootCtrl; dsimp only
  have key : Keeps σ (if v.getLsbD 1 then clearAttempts s else s) := by split <;> simp (maxDischargeDepth := 40) [*]
  generalize (if v.getLsbD 1 then clearAttempts s else s) = u at key
  split
  · exact key.trans ⟨rfl, Nat.le_refl _, id, SecLe.rfl' _⟩
  · exact key

@[simp] theorem execBayPowerApplied_keeps {σ : State} {bay : Fin 16} {env : StartEnv} {s : State} (hσ : Keeps σ s) : Good σ (execBayPowerApplied bay env s) := by
  unfold execBayPowerApplied; simp (maxDischargeDepth := 40) [*]

@[simp] theorem execModuleRestart_keeps {σ : State} {env : StartEnv} {s : State} (hσ : Keeps σ s) : Good σ (execModuleRestart env s) := by
  unfold execModuleRestart; simp (maxDischargeDepth := 40) [*]

@[simp] theorem execStartStageTimeout_keeps {σ : State} {s : State} (hσ : Keeps σ s) : Good σ (execStartStageTimeout s) := by
  unfold execStartStageTimeout; simp (maxDischargeDepth := 40) [*]

@[simp] theorem execStartLimitTimeout_keeps {σ : State} {s : State} (hσ : Keeps σ s) : Good σ (execStartLimitTimeout s) := by
  unfold execStartLimitTimeout; simp (maxDischargeDepth := 40) [*]

@[simp] theorem execTrayRecordTimeout_keeps {σ : State} {s : State} (hσ : Keeps σ s) : Good σ (execTrayRecordTimeout s) := by
  unfold execTrayRecordTimeout; simp (maxDischargeDepth := 40) [*]

@[simp] theorem execModuleReady_keeps {σ : State} {bodies : List (List Byte)} {s : State} (hσ : Keeps σ s) : Good σ (execModuleReady bodies s) := by
  unfold execModuleReady; simp (maxDischargeDepth := 40) [*]

@[simp] theorem execSettleTimeout_keeps {σ : State} {s : State} (hσ : Keeps σ s) : Good σ (execSettleTimeout s) := by
  unfold execSettleTimeout; simp (maxDischargeDepth := 40) [*]

@[simp] theorem execBootStable_keeps {σ : State} {s : State} (hσ : Keeps σ s) : Good σ (execBootStable s) := by
  unfold execBootStable; simp (maxDischargeDepth := 40) [*]

@[simp] theorem execHubBootRestart_keeps {σ : State} {path : Path} {clear : Bool} {s : State} (hσ : Keeps σ s) : Good σ (execHubBootRestart path clear s) := by
  unfold execHubBootRestart; simp (maxDischargeDepth := 40) [*]

@[simp] theorem execHubBootClear_keeps {σ : State} {path : Path} {s : State} (hσ : Keeps σ s) : Good σ (execHubBootClear path s) := by
  unfold execHubBootClear; simp (maxDischargeDepth := 40) [*]

@[simp] theorem execFwWatchdogExpiry_keeps {σ : State} {s : State} (hσ : Keeps σ s) : Good σ (execFwWatchdogExpiry s) := by
  unfold execFwWatchdogExpiry; simp (maxDischargeDepth := 40) [*]

/-! ## Service -/

@[simp] theorem failOn_keeps {σ : State} {c : Nat} {s : State} (hσ : Keeps σ s) : Keeps σ (failOn c s) := by
  unfold failOn; simp (maxDischargeDepth := 40) [*]

@[simp] theorem dropJobs_keeps {σ : State} {p : Nat} {s : State} (hσ : Keeps σ s) : Keeps σ (dropJobs p s) := by
  unfold dropJobs; simp (maxDischargeDepth := 40) [*]

@[simp] theorem vfReset_keeps {σ : State} {p : Nat} {s : State} (hσ : Keeps σ s) : Keeps σ (vfReset p s) := by
  unfold vfReset; simp (maxDischargeDepth := 40) [*]

@[simp] theorem trainPcie_keeps {σ : State} {l : PcieLink} {s : State} (hσ : Keeps σ s) : Keeps σ (trainPcie l s) := by
  unfold trainPcie; (try dsimp only); (repeat' split) <;> simp (maxDischargeDepth := 40) [*]

@[simp] theorem setD3hot_keeps {σ : State} {b : Bool} {s : State} (hσ : Keeps σ s) : Keeps σ (setD3hot b s) := by
  unfold setD3hot; simp [*]

@[simp] theorem pf0Reset_keeps {σ : State} {kind : Pf0Reset} {link : PcieLink} {s : State} (hσ : Keeps σ s) : Keeps σ (pf0Reset kind link s) := by
  unfold pf0Reset
  have k : Keeps σ (setD3hot (decide (kind = .d3hot)) (effEvqCfg (wset ((flrQueue adminQ ((s.disp.parts.map Prod.fst).foldl (fun s p => vfReset p s) s)).reg R.evqCfg) 8 8 0)
      (flrQueue adminQ ((s.disp.parts.map Prod.fst).foldl (fun s p => vfReset p s) s)))) := by simp (maxDischargeDepth := 40) [*]
  dsimp only
  split <;> split <;> simp (maxDischargeDepth := 40) [k]

@[simp] theorem eraseExtent_keeps {σ : State} {slot n : Nat} {s : State} (hσ : Keeps σ s) : Keeps σ (eraseExtent slot n s) := by
  unfold eraseExtent; simp (maxDischargeDepth := 40) [*]

@[simp] theorem verifySlot_keeps {σ : State} {slot : Nat} {s : State} (hσ : Keeps σ s) : Keeps σ (verifySlot slot s).2 := by
  unfold verifySlot; simp (maxDischargeDepth := 40) [*]

@[simp] theorem slotWritten_keeps {σ : State} {slot : Nat} {s : State} (hσ : Keeps σ s) : Keeps σ (slotWritten slot s) := by
  unfold slotWritten; simp (maxDischargeDepth := 40) [*]

@[simp] theorem programSlot_keeps {σ : State} {slot : Nat} {bytes digest : List Byte} {ok : Bool} {s : State} (hσ : Keeps σ s) : Keeps σ (programSlot slot bytes digest ok s).2 := by
  unfold programSlot; (try dsimp only); (repeat' split) <;> simp (maxDischargeDepth := 40) [*]

@[simp] theorem flashBusy_keeps {σ : State} {writer percent : Nat} {s : State} (hσ : Keeps σ s) : Keeps σ (flashBusy writer percent s) := by
  unfold flashBusy; simp (maxDischargeDepth := 40) [*]

@[simp] theorem flashIdle_keeps {σ : State} {s : State} (hσ : Keeps σ s) : Keeps σ (flashIdle s) := by
  unfold flashIdle; simp (maxDischargeDepth := 40) [*]

@[simp] theorem writeImage_keeps {σ : State} {c : QCmd} {d : List Byte} {again : HostRead} {ok : Bool} {s : State} (hσ : Keeps σ s) : Keeps σ (writeImage c d again ok s) := by
  unfold writeImage; dsimp only
  split
  · simp (maxDischargeDepth := 40) [*]
  · rename_i b _
    have key := programSlot_keeps (slot := fieldAt d 0 1) (bytes := b.take (fieldAt d 16 4)) (digest := (d.drop 24).take 32) (ok := ok) (eraseExtent_keeps (slot := fieldAt d 0 1) (n := fieldAt d 16 4) hσ)
    generalize programSlot (fieldAt d 0 1) (b.take (fieldAt d 16 4)) ((d.drop 24).take 32) ok _ = r at key
    obtain ⟨good, u⟩ := r
    dsimp only at key ⊢
    have k2 : Keeps σ (if (s.reg R.hubFlash).getLsbD 31 then u else flashIdle (flashBusy 1 (if good then 100 else 0) u)) := by split <;> simp (maxDischargeDepth := 40) [*]
    generalize (if (s.reg R.hubFlash).getLsbD 31 then u else flashIdle (flashBusy 1 (if good then 100 else 0) u)) = w at k2
    split
    · simp (maxDischargeDepth := 40) [*]
    · split
      · exact (completeCmd_keeps k2).trans ⟨rfl, Nat.le_refl _, id, SecLe.rfl' _⟩
      · simp (maxDischargeDepth := 40) [*]

@[simp] theorem execImageUpdate_keeps {σ : State} {q : Fin 65} {d image again : HostRead} {flashOk : Bool} {s : State} (hσ : Keeps σ s) : Good σ (execImageUpdate q d image again flashOk s) := by
  unfold execImageUpdate; (try simp only [good_next]); (first | refine beginCmd_keeps hσ (fun _ _ _ => ?_) | refine powered_keeps hσ (fun _ => ?_) | refine screen_keeps hσ (fun _ => ?_) | refine beginTable_keeps hσ (fun _ _ _ => ?_) | refine lhBegin_keeps hσ (fun _ _ _ => ?_) | refine withEntry_keeps hσ (fun _ _ => ?_) | refine keeps_foldl hσ (fun _ _ => ?_) | refine onLhQueue_keeps hσ (fun _ => ?_) | refine guarded_keeps hσ (fun _ => ?_) | refine meChecked_keeps hσ (fun _ => ?_) | refine veChecked_keeps hσ (fun _ => ?_) | refine ruChecked_keeps hσ (fun _ => ?_)| refine heard_keeps hσ (fun _ => ?_)| refine startDesc_keeps hσ (fun _ _ _ => ?_)| refine sourceTimer_keeps hσ (fun _ _ _ => ?_)| refine governed_keeps hσ (fun _ => ?_)| refine copyIn_keeps hσ (fun _ => ?_)| refine withPart_keeps hσ (fun _ _ _ => ?_)); (try dsimp only); (repeat' split) <;> (repeat (rename_i e; first | (have e2 := congrArg Prod.snd e; dsimp only at e2; subst e2; clear e) | revert e)) <;> intros <;> simp (maxDischargeDepth := 40) [*]

@[simp] theorem execFaultPolicySet_keeps {σ : State} {q : Fin 65} {d : HostRead} {s : State} (hσ : Keeps σ s) : Good σ (execFaultPolicySet q d s) := by
  unfold execFaultPolicySet; simp (maxDischargeDepth := 40) [*]

@[simp] theorem hwFault_keeps {σ : State} {f : HwFault} {s : State} (hσ : Keeps σ s) : Keeps σ (hwFault f s) := by
  unfold hwFault; split <;> simp (maxDischargeDepth := 40) [*]

@[simp] theorem execFailStop_keeps {σ : State} {f : HwFault} {s : State} (hσ : Keeps σ s) : Good σ (execFailStop f s) := by
  unfold execFailStop; simp (maxDischargeDepth := 40) [*]

@[simp] theorem zeroDies_keeps {σ : State} {s : State} (hσ : Keeps σ s) : Keeps σ (zeroDies s) := by
  unfold zeroDies
  refine poolSync_keeps (keeps_mk ?_)
  refine keeps_foldl (State.zeroDram_keeps (State.zeroDram_keeps (keeps_foldl (State.zeroMem_keeps hσ) fun _ _ => State.zeroMem_keeps (Keeps.self _)))) fun _ _ => wipeCore_keeps (Keeps.self _)

@[simp] theorem releaseStreams_keeps {σ : State} {s : State} (hσ : Keeps σ s) : Keeps σ (releaseStreams s) := by
  unfold releaseStreams; simp (maxDischargeDepth := 40) [*]

@[simp] theorem resumeQueues_keeps {σ : State} {s : State} (hσ : Keeps σ s) : Keeps σ (resumeQueues s) := by
  unfold resumeQueues; simp (maxDischargeDepth := 40) [*]

@[simp] theorem release_keeps {σ : State} {c : QCmd} {s : State} (hσ : Keeps σ s) : Keeps σ (release c s) := by
  unfold release; (try dsimp only); (repeat' split) <;> simp (maxDischargeDepth := 40) [*]

@[simp] theorem execFailstopRelease_keeps {σ : State} {q : Fin 65} {d : HostRead} {test : ReleaseTest} {hot : Bool} {s : State} (hσ : Keeps σ s) : Good σ (execFailstopRelease q d test hot s) := by
  unfold execFailstopRelease; split <;> simp (maxDischargeDepth := 40) [*]

@[simp] theorem execFailstopAgeOut_keeps {σ : State} {s : State} (hσ : Keeps σ s) : Good σ (execFailstopAgeOut s) := by
  unfold execFailstopAgeOut; simp (maxDischargeDepth := 40) [*]

@[simp] theorem effLeave_keeps {σ : State} {s : State} (hσ : Keeps σ s) : Keeps σ (effLeave s) := by
  unfold effLeave; simp (maxDischargeDepth := 40) [*]

@[simp] theorem execLeave_keeps {σ : State} {path : Path} {s : State} (hσ : Keeps σ s) : Good σ (execLeave path s) := by
  unfold execLeave; simp (maxDischargeDepth := 40) [*]

@[simp] theorem execVfFlr_keeps {σ : State} {p : Fin 64} {s : State} (hσ : Keeps σ s) : Good σ (execVfFlr p s) := by
  unfold execVfFlr; simp (maxDischargeDepth := 40) [*]

@[simp] theorem execPf0Reset_keeps {σ : State} {kind : Pf0Reset} {s : State} (hσ : Keeps σ s) : Good σ (execPf0Reset kind s) := by
  unfold execPf0Reset; simp (maxDischargeDepth := 40) [*]

/-! ## Security -/

@[simp] theorem installKey_keeps {σ : State} {target start : Nat} {x : List Byte} {s : State} (hσ : Keeps σ s) : Keeps σ (installKey target start x s) := by
  unfold installKey; simp (maxDischargeDepth := 40) [*]

@[simp] theorem keyInstall_keeps {σ : State} {c : QCmd} {b : List Byte} {s : State} (hσ : Keeps σ s) : Keeps σ (keyInstall c b s) := by
  unfold keyInstall; (try dsimp only); (repeat' split) <;> simp (maxDischargeDepth := 40) [*]

@[simp] theorem execKeyInstall_keeps {σ : State} {q : Fin 65} {d : HostRead} {s : State} (hσ : Keeps σ s) : Good σ (execKeyInstall q d s) := by
  unfold execKeyInstall; simp (maxDischargeDepth := 40) [*]

@[simp] theorem setSession_keeps {σ : State} {on : Bool} {port : Nat} {s : State} (hσ : Keeps σ s) : Keeps σ (setSession on port s) := by
  unfold setSession; simp (maxDischargeDepth := 40) [*]

@[simp] theorem burnState_keeps {σ : State} {target : Nat} {s : State} (hσ : Keeps σ s) : Keeps σ (burnState target s) := by
  unfold burnState; dsimp only
  exact emitM_keeps (setSession_keeps (keeps_mk_sec hσ (destroyKeys_le.trans burnBits_le)))

@[simp] theorem lifecycleStep_keeps {σ : State} {c : QCmd} {b : List Byte} {s : State} (hσ : Keeps σ s) : Keeps σ (lifecycleStep c b s) := by
  unfold lifecycleStep; dsimp only; (repeat' split) <;> simp (maxDischargeDepth := 40) [*]

@[simp] theorem execLifecycleStep_keeps {σ : State} {q : Fin 65} {d : HostRead} {s : State} (hσ : Keeps σ s) : Good σ (execLifecycleStep q d s) := by
  unfold execLifecycleStep; simp (maxDischargeDepth := 40) [*]

@[simp] theorem effDebugResp_keeps {σ : State} {jtag : Bool} {v : Word} {s : State} (hσ : Keeps σ s) : Keeps σ (effDebugResp jtag v s) := by
  unfold effDebugResp; simp (maxDischargeDepth := 40) [*]

@[simp] theorem execDebugResponse_keeps {σ : State} {jtag : Bool} {v : Word} {s : State} (hσ : Keeps σ s) : Good σ (execDebugResponse jtag v s) := by
  unfold execDebugResponse; simp (maxDischargeDepth := 40) [*]

@[simp] theorem execSecOtpProg_keeps {σ : State} {item : OtpItem} {s : State} (hσ : Keeps σ s) : Good σ (execSecOtpProg item s) := by
  unfold execSecOtpProg; simp only [good_next]
  split
  · rename_i h
    refine hσ.trans ⟨rfl, Nat.le_refl _, id, ?_⟩
    unfold provision
    split
    · exact ⟨Nat.le_refl _, id, Nat.le_refl _⟩
    · exact ⟨Nat.le_refl _, id, Nat.le_refl _⟩
    · exact ⟨Nat.le_refl _, id, Nat.le_refl _⟩
    · exact burnBits_le (target := 1) (copies := 3) (x := s.sec)
  · exact hσ

@[simp] theorem execDrbgReseed_keeps {σ : State} {s : State} (hσ : Keeps σ s) : Good σ (execDrbgReseed s) := by
  unfold execDrbgReseed; simp (maxDischargeDepth := 40) [*]

/-! ## Power -/

@[simp] theorem resumeWork_keeps {σ : State} {s : State} (hσ : Keeps σ s) : Keeps σ (resumeWork s) := by
  unfold resumeWork; simp (maxDischargeDepth := 40) [*]

@[simp] theorem thermalWarn_keeps {σ : State} {sensor temp : Nat} {s : State} (hσ : Keeps σ s) : Keeps σ (thermalWarn sensor temp s) := by
  unfold thermalWarn; simp (maxDischargeDepth := 40) [*]

@[simp] theorem thermalWarnEnd_keeps {σ : State} {sensor : Nat} {s : State} (hσ : Keeps σ s) : Keeps σ (thermalWarnEnd sensor s) := by
  unfold thermalWarnEnd; simp (maxDischargeDepth := 40) [*]

@[simp] theorem thermalTrip_keeps {σ : State} {sensor : Nat} {s : State} (hσ : Keeps σ s) : Keeps σ (thermalTrip sensor s) := by
  unfold thermalTrip; simp (maxDischargeDepth := 40) [*]

@[simp] theorem powerEvaluation_keeps {σ : State} {avg : Nat} {s : State} (hσ : Keeps σ s) : Keeps σ (powerEvaluation avg s) := by
  unfold powerEvaluation; simp (maxDischargeDepth := 40) [*]

@[simp] theorem execThermalWarn_keeps {σ : State} {sensor : Byte} {temp : BitVec 16} {s : State} (hσ : Keeps σ s) : Good σ (execThermalWarn sensor temp s) := by
  unfold execThermalWarn; simp (maxDischargeDepth := 40) [*]

@[simp] theorem execThermalWarnEnd_keeps {σ : State} {sensor : Byte} {s : State} (hσ : Keeps σ s) : Good σ (execThermalWarnEnd sensor s) := by
  unfold execThermalWarnEnd; simp (maxDischargeDepth := 40) [*]

@[simp] theorem execThermalTrip_keeps {σ : State} {sensor : Byte} {s : State} (hσ : Keeps σ s) : Good σ (execThermalTrip sensor s) := by
  unfold execThermalTrip; simp (maxDischargeDepth := 40) [*]

@[simp] theorem execPowerEvaluation_keeps {σ : State} {avg : BitVec 16} {s : State} (hσ : Keeps σ s) : Good σ (execPowerEvaluation avg s) := by
  unfold execPowerEvaluation; simp (maxDischargeDepth := 40) [*]

/-! ## Mgmt -/

@[simp] theorem answerFrame_keeps {σ : State} {op tag status : Nat} {body : List Byte} {s : State} (hσ : Keeps σ s) : Keeps σ (answerFrame op tag status body s) := by
  unfold answerFrame; simp (maxDischargeDepth := 40) [*]

@[simp] theorem mgmtWrite_keeps {σ : State} {off : Nat} {v : Word} {s : State} (hσ : Keeps σ s) : Keeps σ (mgmtWrite off v s).2 := by
  unfold mgmtWrite; split <;> simp (maxDischargeDepth := 40) [*]

@[simp] theorem reflashBegin_keeps {σ : State} {slot len : Nat} {digest : List Byte} {s : State} (hσ : Keeps σ s) : Keeps σ (reflashBegin slot len digest s).2 := by
  unfold reflashBegin; (repeat' split) <;> simp (maxDischargeDepth := 40) [*]

@[simp] theorem reflashOver_keeps {σ : State} {s : State} (hσ : Keeps σ s) : Keeps σ (reflashOver s) := by
  unfold reflashOver; simp (maxDischargeDepth := 40) [*]

@[simp] theorem firstPass_keeps {σ : State} {r : Reflash} {s : State} (hσ : Keeps σ s) : Keeps σ (firstPass r s).2 := by
  unfold firstPass; split <;> simp (maxDischargeDepth := 40) [*]

@[simp] theorem secondPass_keeps {σ : State} {r : Reflash} {ok : Bool} {s : State} (hσ : Keeps σ s) : Keeps σ (secondPass r ok s).2 := by
  unfold secondPass; simp (maxDischargeDepth := 40) [*]

@[simp] theorem reflashData_keeps {σ : State} {bytes : List Byte} {ok : Bool} {s : State} (hσ : Keeps σ s) : Keeps σ (reflashData bytes ok s).2 := by
  unfold reflashData; (try dsimp only); (repeat' split) <;> simp (maxDischargeDepth := 40) [*]

@[simp] theorem reflashAbandon_keeps {σ : State} {s : State} (hσ : Keeps σ s) : Keeps σ (reflashAbandon s) := by
  unfold reflashAbandon; split <;> simp (maxDischargeDepth := 40) [*]

end Sys2Proof.Machine
end

