-- ==== Sys2Proof/Laws/KeepsLh.lean ====
section
/-! SUPPORT. One lemma per operation: what the Lighthouse, Breakwater and the register paths keep. -/

set_option maxRecDepth 8000

namespace Sys2Proof.Machine

/-! ## Lighthouse -/

@[simp] theorem covered_keeps {σ : State} {bay : Nat} {rows : List Nat} {s : State} (hσ : Keeps σ s) : Keeps σ (covered bay rows s) := by
  unfold covered; simp (maxDischargeDepth := 40) [*]

@[simp] theorem governed_keeps {σ : State} {mode row bay : Nat} {k : State → State} {s : State} (hσ : Keeps σ s) (h_k : ∀ t, Keeps t (k t)) : Keeps σ (governed mode row bay k s) := by
  replace h_k : ∀ {z} t, Keeps z t → Keeps z (k t) := fun t h => h.trans (h_k t)
  unfold governed; simp (maxDischargeDepth := 40) [*]

@[simp] theorem lhFinish_keeps {σ : State} {status value : Nat} {s : State} (hσ : Keeps σ s) : Keeps σ (lhFinish status value s) := by
  unfold lhFinish; split <;> simp (maxDischargeDepth := 40) [*]

@[simp] theorem lhAdvance_keeps {σ : State} {y0 : Nat} {y1 : State} (hσ : Keeps σ y1) : Keeps σ (lhAdvance y0 y1) := by
  refine hσ.trans ?_
  clear hσ
  induction y0 generalizing y1 with
    | zero => simp (maxDischargeDepth := 40) [lhAdvance]
    | succ n ih => unfold lhAdvance; (try dsimp only); (repeat' split) <;> (try refine Keeps.trans ?_ ih) <;> simp (maxDischargeDepth := 40) [*]

@[simp] theorem lhComplete_keeps {σ : State} {status value : Nat} {s : State} (hσ : Keeps σ s) : Keeps σ (lhComplete status value s) := by
  unfold lhComplete; simp (maxDischargeDepth := 40) [*]

@[simp] theorem cycleOver_keeps {σ : State} {s : State} (hσ : Keeps σ s) : Keeps σ (cycleOver s) := by
  unfold cycleOver; split <;> simp (maxDischargeDepth := 40) [*]

@[simp] theorem startJob_keeps {σ : State} {bay slot : Nat} {restart cmd : Bool} {s : State} (hσ : Keeps σ s) : Keeps σ (startJob bay slot restart cmd s) := by
  unfold startJob; simp (maxDischargeDepth := 40) [*]

@[simp] theorem autoFlash_keeps {σ : State} {bay slot : Nat} {restart : Bool} {s : State} (hσ : Keeps σ s) : Keeps σ (autoFlash bay slot restart s) := by
  unfold autoFlash; simp (maxDischargeDepth := 40) [*]

@[simp] theorem finishJob_keeps {σ : State} {bay code : Nat} {s : State} (hσ : Keeps σ s) : Keeps σ (finishJob bay code s) := by
  unfold finishJob; simp (maxDischargeDepth := 40) [*]

@[simp] theorem completeFailed_keeps {σ : State} {s : State} (hσ : Keeps σ s) : Keeps σ (completeFailed s) := by
  unfold completeFailed; simp (maxDischargeDepth := 40) [*]

@[simp] theorem flashLost_keeps {σ : State} {bay : Nat} {j : FlashJob} {word : Nat} {s : State} (hσ : Keeps σ s) : Keeps σ (flashLost bay j word s) := by
  unfold flashLost; simp (maxDischargeDepth := 40) [*]

@[simp] theorem flashFailed_keeps {σ : State} {bay : Nat} {j : FlashJob} {status : Nat} {s : State} (hσ : Keeps σ s) : Keeps σ (flashFailed bay j status s) := by
  unfold flashFailed; simp (maxDischargeDepth := 40) [*]

@[simp] theorem flashDone_keeps {σ : State} {bay : Nat} {j : FlashJob} {s : State} (hσ : Keeps σ s) : Keeps σ (flashDone bay j s) := by
  unfold flashDone; simp (maxDischargeDepth := 40) [*]

@[simp] theorem sendBegin_keeps {σ : State} {bay answer : Nat} {s : State} (hσ : Keeps σ s) : Keeps σ (sendBegin bay answer s) := by
  unfold sendBegin; dsimp only
  split
  · exact hσ
  · rename_i j _
    split
    · exact hσ
    · have k0 : Keeps σ (sendFrame { fromLh := true, bay := bay, op := 5, arg := j.slot, body := leBytes 4 j.image.length ++ sha256 j.image } s) := sendFrame_keeps hσ
      generalize sendFrame { fromLh := true, bay := bay, op := 5, arg := j.slot, body := leBytes 4 j.image.length ++ sha256 j.image } s = u at k0
      have k1 : Keeps σ (if bay = u.myBay then reflashBegin j.slot j.image.length (sha256 j.image) u else (answer, u)).2 := by split <;> simp [k0]
      generalize (if bay = u.myBay then reflashBegin j.slot j.image.length (sha256 j.image) u else (answer, u)) = r at k1
      have k2 : Keeps σ (if bay = u.myBay then answerFrame 5 0 r.1 [] r.2 else r.2) := by split <;> simp [k1]
      generalize (if bay = u.myBay then answerFrame 5 0 r.1 [] r.2 else r.2) = w at k2
      (repeat' split)
      · exact State.setLhFld_keeps (State.setLhBay_keeps k2)
      · exact State.setLhBay_keeps k2
      · exact flashFailed_keeps k2

@[simp] theorem sendData_keeps {σ : State} {bay len : Nat} {ok : Bool} {answer : Nat} {s : State} (hσ : Keeps σ s) : Keeps σ (sendData bay len ok answer s) := by
  unfold sendData; dsimp only
  split
  · exact hσ
  · rename_i j _
    split
    · exact hσ
    · generalize (j.image.drop j.sent).take (min len 4096) = bytes
      have k0 : Keeps σ (sendFrame { fromLh := true, bay := bay, op := 6, arg := j.sent, body := bytes } s) := sendFrame_keeps hσ
      generalize sendFrame { fromLh := true, bay := bay, op := 6, arg := j.sent, body := bytes } s = u at k0
      have k1 : Keeps σ (if bay = u.myBay then reflashData bytes ok u else (answer, u)).2 := by split <;> simp [k0]
      generalize (if bay = u.myBay then reflashData bytes ok u else (answer, u)) = r at k1
      have k2 : Keeps σ (if bay = u.myBay then answerFrame 6 0 r.1 [] r.2 else r.2) := by split <;> simp [k1]
      generalize (if bay = u.myBay then answerFrame 6 0 r.1 [] r.2 else r.2) = w at k2
      split
      · exact flashFailed_keeps k2
      · split
        · exact State.setLhFld_keeps (State.setLhBay_keeps k2)
        · split
          · exact flashDone_keeps k2
          · exact State.setLhBay_keeps k2

@[simp] theorem clearPoints_keeps {σ : State} {bay : Nat} {s : State} (hσ : Keeps σ s) : Keeps σ (clearPoints bay s) := by
  unfold clearPoints; simp (maxDischargeDepth := 40) [*]

@[simp] theorem darkBay_keeps {σ : State} {bay : Nat} {s : State} (hσ : Keeps σ s) : Keeps σ (darkBay bay s) := by
  unfold darkBay; simp (maxDischargeDepth := 40) [*]

@[simp] theorem loseJob_keeps {σ : State} {bay : Nat} {s : State} (hσ : Keeps σ s) : Keeps σ (loseJob bay s) := by
  unfold loseJob; split <;> simp (maxDischargeDepth := 40) [*]

@[simp] theorem openSwitch_keeps {σ : State} {bay cause : Nat} {s : State} (hσ : Keeps σ s) : Keeps σ (openSwitch bay cause s) := by
  unfold openSwitch; simp (maxDischargeDepth := 40) [*]

@[simp] theorem inputLost_keeps {σ : State} {s : State} (hσ : Keeps σ s) : Keeps σ (inputLost s) := by
  unfold inputLost; simp (maxDischargeDepth := 40) [*]

@[simp] theorem closeSwitch_keeps {σ : State} {bay cause : Nat} {s : State} (hσ : Keeps σ s) : Keeps σ (closeSwitch bay cause s) := by
  unfold closeSwitch; simp (maxDischargeDepth := 40) [*]

@[simp] theorem cycleBay_keeps {σ : State} {bay cause : Nat} {s : State} (hσ : Keeps σ s) : Keeps σ (cycleBay bay cause s) := by
  unfold cycleBay; simp (maxDischargeDepth := 40) [*]

@[simp] theorem noteStatus_keeps {σ : State} {bay : Nat} {st : BayStatus} {s : State} (hσ : Keeps σ s) : Keeps σ (noteStatus bay st s) := by
  unfold noteStatus; dsimp only
  split
  · exact emitBay_keeps (State.setLhFld_keeps (State.setLhBay_keeps hσ))
  · exact State.setLhFld_keeps (State.setLhBay_keeps hσ)

@[simp] theorem noteHash_keeps {σ : State} {bay slot : Nat} {h : SlotHash} {s : State} (hσ : Keeps σ s) : Keeps σ (noteHash bay slot h s) := by
  unfold noteHash; (try dsimp only); (repeat' split) <;> simp (maxDischargeDepth := 40) [*]

@[simp] theorem hashBay_keeps {σ : State} {hashes : List BayHash} {bay : Nat} {s : State} (hσ : Keeps σ s) : Keeps σ (hashBay hashes bay s) := by
  unfold hashBay; simp (maxDischargeDepth := 40) [*]

@[simp] theorem faultFlash_keeps {σ : State} {bay : Nat} {s : State} (hσ : Keeps σ s) : Keeps σ (faultFlash bay s) := by
  unfold faultFlash; (repeat' split) <;> simp (maxDischargeDepth := 40) [*]

@[simp] theorem moduleFault_keeps {σ : State} {bay : Nat} {st : BayStatus} {s : State} (hσ : Keeps σ s) : Keeps σ (moduleFault bay st s) := by
  unfold moduleFault; simp (maxDischargeDepth := 40) [*]

@[simp] theorem moduleAlert_keeps {σ : State} {bay : Nat} {st : BayStatus} {s : State} (hσ : Keeps σ s) : Keeps σ (moduleAlert bay st s) := by
  unfold moduleAlert; simp (maxDischargeDepth := 40) [*]

@[simp] theorem heartbeatLost_keeps {σ : State} {bay : Nat} {s : State} (hσ : Keeps σ s) : Keeps σ (heartbeatLost bay s) := by
  unfold heartbeatLost; simp (maxDischargeDepth := 40) [*]

@[simp] theorem hbRestart_keeps {σ : State} {bay : Nat} {s : State} (hσ : Keeps σ s) : Keeps σ (hbRestart bay s) := by
  unfold hbRestart; simp (maxDischargeDepth := 40) [*]

@[simp] theorem takePending_keeps {σ : State} {s : State} {bay : Nat} (hσ : Keeps σ s) : Keeps σ (takePending s bay) := by
  unfold takePending; (try simp only [good_next]); (first | refine beginCmd_keeps hσ (fun _ _ _ => ?_) | refine powered_keeps hσ (fun _ => ?_) | refine screen_keeps hσ (fun _ => ?_) | refine beginTable_keeps hσ (fun _ _ _ => ?_) | refine lhBegin_keeps hσ (fun _ _ _ => ?_) | refine withEntry_keeps hσ (fun _ _ => ?_) | refine keeps_foldl hσ (fun _ _ => ?_) | refine onLhQueue_keeps hσ (fun _ => ?_) | refine guarded_keeps hσ (fun _ => ?_) | refine meChecked_keeps hσ (fun _ => ?_) | refine veChecked_keeps hσ (fun _ => ?_) | refine ruChecked_keeps hσ (fun _ => ?_)| refine heard_keeps hσ (fun _ => ?_)| refine startDesc_keeps hσ (fun _ _ _ => ?_)| refine sourceTimer_keeps hσ (fun _ _ _ => ?_)| refine governed_keeps hσ (fun _ => ?_)| refine copyIn_keeps hσ (fun _ => ?_)| refine withPart_keeps hσ (fun _ _ _ => ?_)); (try dsimp only); (repeat' split) <;> (repeat (rename_i e; first | (have e2 := congrArg Prod.snd e; dsimp only at e2; subst e2; clear e) | revert e)) <;> intros <;> simp (maxDischargeDepth := 40) [*]

@[simp] theorem silenceBegin_keeps {σ : State} {host rack : Bool} {s : State} (hσ : Keeps σ s) : Keeps σ (silenceBegin host rack s) := by
  unfold silenceBegin; simp (maxDischargeDepth := 40) [*]

@[simp] theorem containPort_keeps {σ : State} {bay : Nat} {s : State} (hσ : Keeps σ s) : Keeps σ (containPort bay s) := by
  unfold containPort; split <;> simp [*]

@[simp] theorem presenceChange_keeps {σ : State} {bay : Nat} {present : Bool} {s : State} (hσ : Keeps σ s) : Keeps σ (presenceChange bay present s) := by
  unfold presenceChange; simp (maxDischargeDepth := 40) [*]

@[simp] theorem bayStable_keeps {σ : State} {bay : Nat} {s : State} (hσ : Keeps σ s) : Keeps σ (bayStable bay s) := by
  unfold bayStable; simp (maxDischargeDepth := 40) [*]

@[simp] theorem thermtripOpen_keeps {σ : State} {bay : Nat} {s : State} (hσ : Keeps σ s) : Keeps σ (thermtripOpen bay s) := by
  unfold thermtripOpen; simp (maxDischargeDepth := 40) [*]

@[simp] theorem lhFunctionReset_keeps {σ : State} {s : State} (hσ : Keeps σ s) : Keeps σ (lhFunctionReset s) := by
  unfold lhFunctionReset; simp (maxDischargeDepth := 40) [*]

@[simp] theorem lhStart_keeps {σ : State} {reports : List BayReport} {hashes : List BayHash} {s : State} (hσ : Keeps σ s) : Keeps σ (lhStart reports hashes s) := by
  unfold lhStart; simp (maxDischargeDepth := 40) [*]

@[simp] theorem lhWatchdog_keeps {σ : State} {s : State} (hσ : Keeps σ s) : Keeps σ (lhWatchdog s) := by
  unfold lhWatchdog; simp (maxDischargeDepth := 40) [*]

@[simp] theorem trayPower_keeps {σ : State} {s : State} (hσ : Keeps σ s) : Keeps σ (trayPower s) := by
  unfold trayPower; simp (maxDischargeDepth := 40) [*]

@[simp] theorem execStatusGet_keeps {σ : State} {tag : Byte} {s : State} (hσ : Keeps σ s) : Good σ (execStatusGet tag s) := by
  unfold execStatusGet; simp (maxDischargeDepth := 40) [*]

@[simp] theorem execHashGet_keeps {σ : State} {tag slot : Byte} {s : State} (hσ : Keeps σ s) : Good σ (execHashGet tag slot s) := by
  unfold execHashGet; simp (maxDischargeDepth := 40) [*]

@[simp] theorem execReflashBegin_keeps {σ : State} {bay : Fin 16} {answer : Fin 6} {s : State} (hσ : Keeps σ s) : Good σ (execReflashBegin bay answer s) := by
  unfold execReflashBegin; simp (maxDischargeDepth := 40) [*]

@[simp] theorem execReflashData_keeps {σ : State} {bay : Fin 16} {len : Nat} {flashOk : Bool} {answer : Fin 6} {s : State} (hσ : Keeps σ s) : Good σ (execReflashData bay len flashOk answer s) := by
  unfold execReflashData; simp (maxDischargeDepth := 40) [*]

@[simp] theorem execReflashAbandon_keeps {σ : State} {s : State} (hσ : Keeps σ s) : Good σ (execReflashAbandon s) := by
  unfold execReflashAbandon; (try dsimp only); (repeat' split) <;> simp (maxDischargeDepth := 40) [*]

@[simp] theorem execReflashRetry_keeps {σ : State} {bay : Fin 16} {answer : Fin 6} {s : State} (hσ : Keeps σ s) : Good σ (execReflashRetry bay answer s) := by
  unfold execReflashRetry; simp (maxDischargeDepth := 40) [*]

@[simp] theorem execReflashBusyLimit_keeps {σ : State} {bay : Fin 16} {s : State} (hσ : Keeps σ s) : Good σ (execReflashBusyLimit bay s) := by
  unfold execReflashBusyLimit; split <;> simp (maxDischargeDepth := 40) [*]

@[simp] theorem execModuleFault_keeps {σ : State} {bay : Fin 16} {status : BayStatus} {s : State} (hσ : Keeps σ s) : Good σ (execModuleFault bay status s) := by
  unfold execModuleFault; simp (maxDischargeDepth := 40) [*]

@[simp] theorem execModuleAlert_keeps {σ : State} {bay : Fin 16} {status : BayStatus} {s : State} (hσ : Keeps σ s) : Good σ (execModuleAlert bay status s) := by
  unfold execModuleAlert; simp (maxDischargeDepth := 40) [*]

@[simp] theorem execHeartbeatLost_keeps {σ : State} {bay : Fin 16} {s : State} (hσ : Keeps σ s) : Good σ (execHeartbeatLost bay s) := by
  unfold execHeartbeatLost; simp (maxDischargeDepth := 40) [*]

@[simp] theorem execHbRestartTimeout_keeps {σ : State} {bay : Fin 16} {s : State} (hσ : Keeps σ s) : Good σ (execHbRestartTimeout bay s) := by
  unfold execHbRestartTimeout; simp (maxDischargeDepth := 40) [*]

@[simp] theorem execBayPresenceChange_keeps {σ : State} {bay : Fin 16} {present : Bool} {s : State} (hσ : Keeps σ s) : Good σ (execBayPresenceChange bay present s) := by
  unfold execBayPresenceChange; simp (maxDischargeDepth := 40) [*]

@[simp] theorem execBayStable_keeps {σ : State} {bay : Fin 16} {s : State} (hσ : Keeps σ s) : Good σ (execBayStable bay s) := by
  unfold execBayStable; simp (maxDischargeDepth := 40) [*]

@[simp] theorem execThermtripOpen_keeps {σ : State} {bay : Fin 16} {s : State} (hσ : Keeps σ s) : Good σ (execThermtripOpen bay s) := by
  unfold execThermtripOpen; simp (maxDischargeDepth := 40) [*]

@[simp] theorem execVerifyPeriod_keeps {σ : State} {hashes : List BayHash} {s : State} (hσ : Keeps σ s) : Good σ (execVerifyPeriod hashes s) := by
  unfold execVerifyPeriod; simp (maxDischargeDepth := 40) [*]

@[simp] theorem execSilenceBegin_keeps {σ : State} {host rack : Bool} {s : State} (hσ : Keeps σ s) : Good σ (execSilenceBegin host rack s) := by
  unfold execSilenceBegin; simp (maxDischargeDepth := 40) [*]

@[simp] theorem execCyclePowerOn_keeps {σ : State} {bay : Fin 16} {s : State} (hσ : Keeps σ s) : Good σ (execCyclePowerOn bay s) := by
  unfold execCyclePowerOn; split <;> simp (maxDischargeDepth := 40) [*]

@[simp] theorem execLhFlr_keeps {σ : State} {s : State} (hσ : Keeps σ s) : Good σ (execLhFlr s) := by
  unfold execLhFlr; simp (maxDischargeDepth := 40) [*]

@[simp] theorem execLhStart_keeps {σ : State} {reports : List BayReport} {hashes : List BayHash} {s : State} (hσ : Keeps σ s) : Good σ (execLhStart reports hashes s) := by
  unfold execLhStart; simp (maxDischargeDepth := 40) [*]

@[simp] theorem execLhWatchdogExpiry_keeps {σ : State} {s : State} (hσ : Keeps σ s) : Good σ (execLhWatchdogExpiry s) := by
  unfold execLhWatchdogExpiry; simp (maxDischargeDepth := 40) [*]

@[simp] theorem execTrayPowerApplied_keeps {σ : State} {s : State} (hσ : Keeps σ s) : Good σ (execTrayPowerApplied s) := by
  unfold execTrayPowerApplied; simp (maxDischargeDepth := 40) [*]

@[simp] theorem execRecordGet_keeps {σ : State} {bay : Fin 16} {s : State} (hσ : Keeps σ s) : Good σ (execRecordGet bay s) := by
  unfold execRecordGet; (try dsimp only); (repeat' split) <;> simp (maxDischargeDepth := 40) [*]

@[simp] theorem execStoreRead_keeps {σ : State} {bay : Fin 16} {off : Nat} {digest : List Byte} {len : Nat} {s : State} (hσ : Keeps σ s) : Good σ (execStoreRead bay off digest len s) := by
  unfold execStoreRead; simp (maxDischargeDepth := 40) [*]

@[simp] theorem execMgmtRetryTimeout_keeps {σ : State} {fromLh : Bool} {bay : Fin 16} {op : Byte} {s : State} (hσ : Keeps σ s) : Good σ (execMgmtRetryTimeout fromLh bay op s) := by
  unfold execMgmtRetryTimeout; split <;> simp (maxDischargeDepth := 40) [*]

/-! ## LhCmds -/

@[simp] theorem lhAuthFail_keeps {σ : State} {c : QCmd} {s : State} (hσ : Keeps σ s) : Keeps σ (lhAuthFail c s) := by
  unfold lhAuthFail; simp (maxDischargeDepth := 40) [*]

@[simp] theorem lhFailEvent_keeps {σ : State} {c : QCmd} {s : State} (hσ : Keeps σ s) : Keeps σ (lhFailEvent c s) := by
  unfold lhFailEvent; simp (maxDischargeDepth := 40) [*]

@[simp] theorem lhKeyCheck_keeps {σ : State} {rack : Bool} {c : QCmd} {d : Option (List Byte)} {s : State} (hσ : Keeps σ s) : Keeps σ (lhKeyCheck rack c d s).2 := by
  unfold lhKeyCheck; (try dsimp only); (repeat' split) <;> simp (maxDischargeDepth := 40) [*]

@[simp] theorem lhBegin_keeps {σ : State} {mine : QCmd → List Byte → Bool} {d : HostRead} {k : QCmd → List Byte → State → State} {s : State} (hσ : Keeps σ s) (h_k : ∀ x0 x1 t, Keeps t (k x0 x1 t)) : Keeps σ (lhBegin mine d k s) := by
  replace h_k : ∀ {z} x0 x1 t, Keeps z t → Keeps z (k x0 x1 t) := fun x0 x1 t h => h.trans (h_k x0 x1 t)
  unfold lhBegin; (try dsimp only); (repeat' split) <;> (repeat (rename_i e; first | (have e2 := congrArg Prod.snd e; dsimp only at e2; subst e2; clear e) | revert e)) <;> intros <;> simp (maxDischargeDepth := 40) [*]

@[simp] theorem bayPowerOff_keeps {σ : State} {ready : BitVec 16} {c : QCmd} {s : State} (hσ : Keeps σ s) : Keeps σ (bayPowerOff ready c s) := by
  unfold bayPowerOff; simp (maxDischargeDepth := 40) [*]

@[simp] theorem bayPowerOn_keeps {σ : State} {c : QCmd} {s : State} (hσ : Keeps σ s) : Keeps σ (bayPowerOn c s) := by
  unfold bayPowerOn; simp (maxDischargeDepth := 40) [*]

@[simp] theorem bayPowerCycle_keeps {σ : State} {ready : BitVec 16} {c : QCmd} {s : State} (hσ : Keeps σ s) : Keeps σ (bayPowerCycle ready c s) := by
  unfold bayPowerCycle; simp (maxDischargeDepth := 40) [*]

@[simp] theorem restartMine_keeps {σ : State} {v : Word} {s : State} (hσ : Keeps σ s) : Keeps σ (restartMine v s) := by
  unfold restartMine; simp (maxDischargeDepth := 40) [*]

@[simp] theorem moduleRestart_keeps {σ : State} {barred : BitVec 16} {c : QCmd} {s : State} (hσ : Keeps σ s) : Keeps σ (moduleRestart barred c s) := by
  unfold moduleRestart; simp (maxDischargeDepth := 40) [*]

@[simp] theorem lhReflash_keeps {σ : State} {c : QCmd} {s : State} (hσ : Keeps σ s) : Keeps σ (lhReflash c s) := by
  unfold lhReflash; (try dsimp only); (repeat' split) <;> simp (maxDischargeDepth := 40) [*]

@[simp] theorem setPolicyByte_keeps {σ : State} {i v : Nat} {s : State} (hσ : Keeps σ s) : Keeps σ (setPolicyByte i v s) := by
  unfold setPolicyByte; simp (maxDischargeDepth := 40) [*]

@[simp] theorem lhShutdown_keeps {σ : State} {c : QCmd} {s : State} (hσ : Keeps σ s) : Keeps σ (lhShutdown c s) := by
  unfold lhShutdown; simp (maxDischargeDepth := 40) [*]

@[simp] theorem graceEnd_keeps {σ : State} {s : State} (hσ : Keeps σ s) : Keeps σ (graceEnd s) := by
  unfold graceEnd; simp (maxDischargeDepth := 40) [*]

@[simp] theorem recordSet_keeps {σ : State} {c : QCmd} {b : List Byte} {s : State} (hσ : Keeps σ s) : Keeps σ (recordSet c b s) := by
  unfold recordSet; simp (maxDischargeDepth := 40) [*]

@[simp] theorem storeContent_keeps {σ : State} {b : List Byte} {content : HostRead} {s : State} (hσ : Keeps σ s) : Keeps σ (storeContent b content s).2 := by
  unfold storeContent; split <;> simp (maxDischargeDepth := 40) [*]

@[simp] theorem storeWrite_keeps {σ : State} {c : QCmd} {b : List Byte} {content : HostRead} {k : List Byte → State → State} {s : State} (hσ : Keeps σ s) (h_k : ∀ x0 t, Keeps t (k x0 t)) : Keeps σ (storeWrite c b content k s) := by
  replace h_k : ∀ {z} x0 t, Keeps z t → Keeps z (k x0 t) := fun x0 t h => h.trans (h_k x0 t)
  unfold storeWrite; (try dsimp only); (repeat' split) <;> (repeat (rename_i e; first | (have e2 := congrArg Prod.snd e; dsimp only at e2; subst e2; clear e) | revert e)) <;> intros <;> simp (maxDischargeDepth := 40) [*]

@[simp] theorem stored_keeps {σ : State} {kind : Nat} {s : State} (hσ : Keeps σ s) : Keeps σ (stored kind s) := by
  unfold stored; simp (maxDischargeDepth := 40) [*]

@[simp] theorem storeGolden_keeps {σ : State} {x : List Byte} {s : State} (hσ : Keeps σ s) : Keeps σ (storeGolden x s) := by
  unfold storeGolden; simp (maxDischargeDepth := 40) [*]

@[simp] theorem storeModel_keeps {σ : State} {x : List Byte} {s : State} (hσ : Keeps σ s) : Keeps σ (storeModel x s) := by
  unfold storeModel; simp (maxDischargeDepth := 40) [*]

@[simp] theorem storeFw_keeps {σ : State} {x : List Byte} {s : State} (hσ : Keeps σ s) : Keeps σ (storeFw x s) := by
  unfold storeFw; simp (maxDischargeDepth := 40) [*]

@[simp] theorem modelDelete_keeps {σ : State} {c : QCmd} {b : List Byte} {s : State} (hσ : Keeps σ s) : Keeps σ (modelDelete c b s) := by
  unfold modelDelete; simp (maxDischargeDepth := 40) [*]

@[simp] theorem policySet_keeps {σ : State} {c : QCmd} {b : List Byte} {s : State} (hσ : Keeps σ s) : Keeps σ (policySet c b s) := by
  unfold policySet; simp (maxDischargeDepth := 40) [*]

@[simp] theorem lhKeyInstall_keeps {σ : State} {c : QCmd} {b : List Byte} {s : State} (hσ : Keeps σ s) : Keeps σ (lhKeyInstall c b s) := by
  unfold lhKeyInstall; (repeat' split) <;> simp (maxDischargeDepth := 40) [*]

@[simp] theorem lhTake_keeps {σ : State} {c : LhCmd} {s : State} (hσ : Keeps σ s) : Keeps σ (lhTake c s) := by
  unfold lhTake; simp (maxDischargeDepth := 40) [*]

@[simp] theorem mailboxBell_keeps {σ : State} {v : Word} {s : State} (hσ : Keeps σ s) : Keeps σ (mailboxBell v s) := by
  unfold mailboxBell; (repeat' split) <;> simp (maxDischargeDepth := 40) [*]

@[simp] theorem httpAnswer_keeps {σ : State} {a : HttpAnswer} {s : State} (hσ : Keeps σ s) : Keeps σ (httpAnswer a s) := by
  unfold httpAnswer; simp (maxDischargeDepth := 40) [*]

@[simp] theorem rackHeard_keeps {σ : State} {s : State} (hσ : Keeps σ s) : Keeps σ (rackHeard s) := by
  unfold rackHeard; simp (maxDischargeDepth := 40) [*]

@[simp] theorem iardo_keeps {σ : State} {raw data : List Byte} {s : State} (hσ : Keeps σ s) : Keeps σ (iardo raw data s) := by
  unfold iardo; simp (maxDischargeDepth := 40) [*]

@[simp] theorem upload_keeps {σ : State} {bytes : List Byte} {s : State} (hσ : Keeps σ s) : Keeps σ (upload bytes s) := by
  unfold upload; simp (maxDischargeDepth := 40) [*]

@[simp] theorem execLhNop_keeps {σ : State} {d : HostRead} {s : State} (hσ : Keeps σ s) : Good σ (execLhNop d s) := by
  unfold execLhNop; simp (maxDischargeDepth := 40) [*]

@[simp] theorem execLhVerify_keeps {σ : State} {d : HostRead} {hashes : List BayHash} {s : State} (hσ : Keeps σ s) : Good σ (execLhVerify d hashes s) := by
  unfold execLhVerify; simp (maxDischargeDepth := 40) [*]

@[simp] theorem execLhBayPowerOff_keeps {σ : State} {d : HostRead} {ready : BitVec 16} {s : State} (hσ : Keeps σ s) : Good σ (execLhBayPowerOff d ready s) := by
  unfold execLhBayPowerOff; simp (maxDischargeDepth := 40) [*]

@[simp] theorem execLhBayPowerOn_keeps {σ : State} {d : HostRead} {s : State} (hσ : Keeps σ s) : Good σ (execLhBayPowerOn d s) := by
  unfold execLhBayPowerOn; simp (maxDischargeDepth := 40) [*]

@[simp] theorem execLhBayPowerCycle_keeps {σ : State} {d : HostRead} {ready : BitVec 16} {s : State} (hσ : Keeps σ s) : Good σ (execLhBayPowerCycle d ready s) := by
  unfold execLhBayPowerCycle; simp (maxDischargeDepth := 40) [*]

@[simp] theorem execLhModuleRestart_keeps {σ : State} {d : HostRead} {barred : BitVec 16} {s : State} (hσ : Keeps σ s) : Good σ (execLhModuleRestart d barred s) := by
  unfold execLhModuleRestart; simp (maxDischargeDepth := 40) [*]

@[simp] theorem execLhReflash_keeps {σ : State} {d : HostRead} {s : State} (hσ : Keeps σ s) : Good σ (execLhReflash d s) := by
  unfold execLhReflash; simp (maxDischargeDepth := 40) [*]

@[simp] theorem execLhShutdown_keeps {σ : State} {d : HostRead} {s : State} (hσ : Keeps σ s) : Good σ (execLhShutdown d s) := by
  unfold execLhShutdown; simp (maxDischargeDepth := 40) [*]

@[simp] theorem execLhRecordSet_keeps {σ : State} {d : HostRead} {s : State} (hσ : Keeps σ s) : Good σ (execLhRecordSet d s) := by
  unfold execLhRecordSet; simp (maxDischargeDepth := 40) [*]

@[simp] theorem execLhStoreWriteGolden_keeps {σ : State} {d content : HostRead} {s : State} (hσ : Keeps σ s) : Good σ (execLhStoreWriteGolden d content s) := by
  unfold execLhStoreWriteGolden; simp (maxDischargeDepth := 40) [*]

@[simp] theorem execLhStoreWriteModel_keeps {σ : State} {d content : HostRead} {s : State} (hσ : Keeps σ s) : Good σ (execLhStoreWriteModel d content s) := by
  unfold execLhStoreWriteModel; simp (maxDischargeDepth := 40) [*]

@[simp] theorem execLhStoreWriteFw_keeps {σ : State} {d content : HostRead} {s : State} (hσ : Keeps σ s) : Good σ (execLhStoreWriteFw d content s) := by
  unfold execLhStoreWriteFw; simp (maxDischargeDepth := 40) [*]

@[simp] theorem execModelDelete_keeps {σ : State} {d : HostRead} {s : State} (hσ : Keeps σ s) : Good σ (execModelDelete d s) := by
  unfold execModelDelete; simp (maxDischargeDepth := 40) [*]

@[simp] theorem execLhPolicySet_keeps {σ : State} {d : HostRead} {s : State} (hσ : Keeps σ s) : Good σ (execLhPolicySet d s) := by
  unfold execLhPolicySet; simp (maxDischargeDepth := 40) [*]

@[simp] theorem execLhKeyInstall_keeps {σ : State} {d : HostRead} {s : State} (hσ : Keeps σ s) : Good σ (execLhKeyInstall d s) := by
  unfold execLhKeyInstall; simp (maxDischargeDepth := 40) [*]

@[simp] theorem execLhHostPing_keeps {σ : State} {_v : Word} {s : State} (hσ : Keeps σ s) : Good σ (execLhHostPing _v s) := by
  unfold execLhHostPing; simp (maxDischargeDepth := 40) [*]

@[simp] theorem execMbDoorbell_keeps {σ : State} {v : Word} {s : State} (hσ : Keeps σ s) : Good σ (execMbDoorbell v s) := by
  unfold execMbDoorbell; simp (maxDischargeDepth := 40) [*]

@[simp] theorem execShutdownGraceEnd_keeps {σ : State} {s : State} (hσ : Keeps σ s) : Good σ (execShutdownGraceEnd s) := by
  unfold execShutdownGraceEnd; simp (maxDischargeDepth := 40) [*]

@[simp] theorem execIardoCommand_keeps {σ : State} {raw data : List Byte} {s : State} (hσ : Keeps σ s) : Good σ (execIardoCommand raw data s) := by
  unfold execIardoCommand; simp (maxDischargeDepth := 40) [*]

@[simp] theorem execStagingUpload_keeps {σ : State} {bytes : List Byte} {s : State} (hσ : Keeps σ s) : Good σ (execStagingUpload bytes s) := by
  unfold execStagingUpload; simp (maxDischargeDepth := 40) [*]

/-! ## LhSense -/

@[simp] theorem alarmPoint_keeps {σ : State} {p : Nat} {v : Int} {s : State} (hσ : Keeps σ s) : Keeps σ (alarmPoint p v s) := by
  unfold alarmPoint; simp (maxDischargeDepth := 40) [*]

@[simp] theorem notePoint_keeps {σ : State} {p : Nat} {v : Int} {s : State} (hσ : Keeps σ s) : Keeps σ (notePoint p v s) := by
  unfold notePoint; simp (maxDischargeDepth := 40) [*]

@[simp] theorem pointSample_keeps {σ : State} {p : Nat} {v : Int} {s : State} (hσ : Keeps σ s) : Keeps σ (pointSample p v s) := by
  unfold pointSample; simp (maxDischargeDepth := 40) [*]

@[simp] theorem setLimits_keeps {σ : State} {p : Nat} {low high : Option Int} {s : State} (hσ : Keeps σ s) : Keeps σ (setLimits p low high s) := by
  unfold setLimits; simp (maxDischargeDepth := 40) [*]

@[simp] theorem powerMs_keeps {σ : State} {r : Nat} {xs : List (BitVec 16)} {s : State} (hσ : Keeps σ s) : Keeps σ (powerMs r xs s) := by
  unfold powerMs; simp (maxDischargeDepth := 40) [*]

@[simp] theorem powerHigh_keeps {σ : State} {r avg : Nat} {s : State} (hσ : Keeps σ s) : Keeps σ (powerHigh r avg s) := by
  unfold powerHigh; simp (maxDischargeDepth := 40) [*]

@[simp] theorem powerRow_keeps {σ : State} {r : Nat} {s : State} (hσ : Keeps σ s) : Keeps σ (powerRow r s) := by
  unfold powerRow
  extract_lets ms l1 s1 secs l2 s2 avg s3 s4
  have h1 : Keeps σ s1 := keeps_mk hσ
  have h2 : Keeps σ s2 := keeps_mk h1
  have h3 : Keeps σ s3 := State.setLhFld_keeps (State.setLhFld_keeps h2)
  have h4 : Keeps σ s4 := State.setLhFld_keeps (State.setLhFld_keeps h3)
  split
  · exact h1
  · exact powerHigh_keeps h4

@[simp] theorem coolingUpdate_keeps {σ : State} {pumpsHeld fansHeld : Bool} {s : State} (hσ : Keeps σ s) : Keeps σ (coolingUpdate pumpsHeld fansHeld s) := by
  unfold coolingUpdate
  split
  · exact hσ
  · exact State.freeNext_keeps (keeps_mk (State.freeNext_keeps (keeps_mk (keeps_mk hσ))))

@[simp] theorem unitFails_keeps {σ : State} {u : Nat} {s : State} (hσ : Keeps σ s) : Keeps σ (unitFails u s) := by
  unfold unitFails; simp (maxDischargeDepth := 40) [*]

@[simp] theorem unitInserted_keeps {σ : State} {u : Nat} {s : State} (hσ : Keeps σ s) : Keeps σ (unitInserted u s) := by
  unfold unitInserted; simp (maxDischargeDepth := 40) [*]

@[simp] theorem steerFor_keeps {σ : State} {v : Int} {s : State} (hσ : Keeps σ s) : Keeps σ (steerFor v s) := by
  unfold steerFor; (try dsimp only); (repeat' split) <;> simp (maxDischargeDepth := 40) [*]

@[simp] theorem ptpLock_keeps {σ : State} {tai : Nat} {steer : Int} {s : State} (hσ : Keeps σ s) : Keeps σ (ptpLock tai steer s) := by
  unfold ptpLock; simp (maxDischargeDepth := 40) [*]

@[simp] theorem ptpLoss_keeps {σ : State} {s : State} (hσ : Keeps σ s) : Keeps σ (ptpLoss s) := by
  unfold ptpLoss; simp (maxDischargeDepth := 40) [*]

@[simp] theorem redfish_keeps {σ : State} {authentic : Bool} {r : Redfish} {s : State} (hσ : Keeps σ s) : Keeps σ (redfish authentic r s) := by
  unfold redfish; (repeat' split) <;> simp (maxDischargeDepth := 40) [*]

@[simp] theorem execPointSample_keeps {σ : State} {point : Fin 368} {value : BitVec 16} {s : State} (hσ : Keeps σ s) : Good σ (execPointSample point value s) := by
  unfold execPointSample; simp (maxDischargeDepth := 40) [*]

@[simp] theorem execPowerSample1ms_keeps {σ : State} {samples : List (List (BitVec 16))} {s : State} (hσ : Keeps σ s) : Good σ (execPowerSample1ms samples s) := by
  unfold execPowerSample1ms; simp (maxDischargeDepth := 40) [*]

@[simp] theorem execPowerReport1s_keeps {σ : State} {s : State} (hσ : Keeps σ s) : Good σ (execPowerReport1s s) := by
  unfold execPowerReport1s; simp (maxDischargeDepth := 40) [*]

@[simp] theorem execCoolingUpdate_keeps {σ : State} {pumpsHeld fansHeld : Bool} {s : State} (hσ : Keeps σ s) : Good σ (execCoolingUpdate pumpsHeld fansHeld s) := by
  unfold execCoolingUpdate; simp (maxDischargeDepth := 40) [*]

@[simp] theorem execCoolingUnitFail_keeps {σ : State} {unit : Fin 22} {s : State} (hσ : Keeps σ s) : Good σ (execCoolingUnitFail unit s) := by
  unfold execCoolingUnitFail; simp (maxDischargeDepth := 40) [*]

@[simp] theorem execCoolingUnitInsert_keeps {σ : State} {unit : Fin 22} {s : State} (hσ : Keeps σ s) : Good σ (execCoolingUnitInsert unit s) := by
  unfold execCoolingUnitInsert; simp (maxDischargeDepth := 40) [*]

@[simp] theorem execPtpLock_keeps {σ : State} {tai : BitVec 64} {steer : BitVec 32} {s : State} (hσ : Keeps σ s) : Good σ (execPtpLock tai steer s) := by
  unfold execPtpLock; simp (maxDischargeDepth := 40) [*]

@[simp] theorem execPtpLoss_keeps {σ : State} {s : State} (hσ : Keeps σ s) : Good σ (execPtpLoss s) := by
  unfold execPtpLoss; simp (maxDischargeDepth := 40) [*]

@[simp] theorem execRedfishRequest_keeps {σ : State} {authentic : Bool} {r : Redfish} {s : State} (hσ : Keeps σ s) : Good σ (execRedfishRequest authentic r s) := by
  unfold execRedfishRequest; simp (maxDischargeDepth := 40) [*]

/-! ## Breakwater -/

@[simp] theorem emitBw_keeps {σ : State} {code w0 w1 : Nat} {s : State} (hσ : Keeps σ s) : Keeps σ (emitBw code w0 w1 s) := by
  unfold emitBw; simp (maxDischargeDepth := 40) [*]

@[simp] theorem bwWet_keeps {σ : State} {zone : Nat} {s : State} (hσ : Keeps σ s) : Keeps σ (bwWet zone s) := by
  unfold bwWet; simp (maxDischargeDepth := 40) [*]

@[simp] theorem openAll_keeps {σ : State} {cause : Nat} {s : State} (hσ : Keeps σ s) : Keeps σ (openAll cause s) := by
  unfold openAll; simp (maxDischargeDepth := 40) [*]

@[simp] theorem bwTrip_keeps {σ : State} {us : Nat} {s : State} (hσ : Keeps σ s) : Keeps σ (bwTrip us s) := by
  unfold bwTrip; simp (maxDischargeDepth := 40) [*]

@[simp] theorem bwGlitch_keeps {σ : State} {zone : Nat} {s : State} (hσ : Keeps σ s) : Keeps σ (bwGlitch zone s) := by
  unfold bwGlitch; simp (maxDischargeDepth := 40) [*]

@[simp] theorem bwSensor_keeps {σ : State} {zone : Nat} {s : State} (hσ : Keeps σ s) : Keeps σ (bwSensor zone s) := by
  unfold bwSensor; simp (maxDischargeDepth := 40) [*]

@[simp] theorem testEvents_keeps {σ : State} {channel : Nat} {was now : List Nat} {s : State} (hσ : Keeps σ s) : Keeps σ (testEvents channel was now s) := by
  unfold testEvents; simp (maxDischargeDepth := 40) [*]

@[simp] theorem bwTest_keeps {σ : State} {a b : List Nat} {s : State} (hσ : Keeps σ s) : Keeps σ (bwTest a b s) := by
  unfold bwTest; simp (maxDischargeDepth := 40) [*]

@[simp] theorem bwReset_keeps {σ : State} {s : State} (hσ : Keeps σ s) : Keeps σ (bwReset s) := by
  unfold bwReset; simp (maxDischargeDepth := 40) [*]

@[simp] theorem bwSupplyLoss_keeps {σ : State} {s : State} (hσ : Keeps σ s) : Keeps σ (bwSupplyLoss s) := by
  unfold bwSupplyLoss; simp (maxDischargeDepth := 40) [*]

@[simp] theorem execBwWet_keeps {σ : State} {zone : Fin 20} {s : State} (hσ : Keeps σ s) : Good σ (execBwWet zone s) := by
  unfold execBwWet; simp (maxDischargeDepth := 40) [*]

@[simp] theorem execBwTrip_keeps {σ : State} {us : Word} {s : State} (hσ : Keeps σ s) : Good σ (execBwTrip us s) := by
  unfold execBwTrip; simp (maxDischargeDepth := 40) [*]

@[simp] theorem execBwGlitch_keeps {σ : State} {zone : Fin 20} {s : State} (hσ : Keeps σ s) : Good σ (execBwGlitch zone s) := by
  unfold execBwGlitch; simp (maxDischargeDepth := 40) [*]

@[simp] theorem execBwSensorFault_keeps {σ : State} {zone : Fin 20} {s : State} (hσ : Keeps σ s) : Good σ (execBwSensorFault zone s) := by
  unfold execBwSensorFault; simp (maxDischargeDepth := 40) [*]

@[simp] theorem execBwSelftest_keeps {σ : State} {failA failB : List (Fin 20)} {s : State} (hσ : Keeps σ s) : Good σ (execBwSelftest failA failB s) := by
  unfold execBwSelftest; simp (maxDischargeDepth := 40) [*]

@[simp] theorem execBwReset_keeps {σ : State} {s : State} (hσ : Keeps σ s) : Good σ (execBwReset s) := by
  unfold execBwReset; simp (maxDischargeDepth := 40) [*]

@[simp] theorem execBwSupplyLoss_keeps {σ : State} {s : State} (hσ : Keeps σ s) : Good σ (execBwSupplyLoss s) := by
  unfold execBwSupplyLoss; simp (maxDischargeDepth := 40) [*]

@[simp] theorem execBusbarDip_keeps {σ : State} {s : State} (hσ : Keeps σ s) : Good σ (execBusbarDip s) := by
  unfold execBusbarDip; simp (maxDischargeDepth := 40) [*]

/-! ## RegAccess -/

@[simp] theorem popLatch_keeps {σ : State} {p : Path} {lo : Nat} {s : State} (hσ : Keeps σ s) : Keeps σ (popLatch p lo s) := by
  unfold popLatch; simp (maxDischargeDepth := 40) [*]

@[simp] theorem readReg_keeps {σ : State} {p : Path} {off : Nat} {r : RegDef} {s : State} (hσ : Keeps σ s) : Keeps σ (readReg p off r s).2 := by
  unfold readReg; split
  · exact State.setPath_keeps hσ
  · split
    · exact popLatch_keeps hσ
    · exact hσ
  · split
    · exact hσ.trans ⟨rfl, Nat.le_succ _, id, ⟨Nat.le_refl _, id, Nat.le_refl _⟩⟩
    · dsimp only; split
      · exact State.setReg_keeps hσ
      · exact hσ

@[simp] theorem readWord_keeps {σ : State} {p : Path} {off : Nat} {s : State} (hσ : Keeps σ s) : Keeps σ (readWord p off s).2 := by
  unfold readWord; (repeat' split) <;> simp (maxDischargeDepth := 40) [*]

@[simp] theorem plainWrite_keeps {σ : State} {off : Nat} {r : RegDef} {v : Word} {s : State} (hσ : Keeps σ s) : Keeps σ (plainWrite off r v s) := by
  unfold plainWrite; simp (maxDischargeDepth := 40) [*]

@[simp] theorem writeQueue_keeps {σ : State} {off : Nat} {r : RegDef} {v : Word} {s : State} (hσ : Keeps σ s) : Keeps σ (writeQueue off r v s) := by
  unfold writeQueue; (repeat' split) <;> simp (maxDischargeDepth := 40) [*]

@[simp] theorem writeEvq_keeps {σ : State} {off : Nat} {r : RegDef} {v : Word} {s : State} (hσ : Keeps σ s) : Keeps σ (writeEvq off r v s) := by
  unfold writeEvq; (repeat' split) <;> simp (maxDischargeDepth := 40) [*]

@[simp] theorem writePort_keeps {σ : State} {off : Nat} {r : RegDef} {v : Word} {s : State} (hσ : Keeps σ s) : Keeps σ (writePort off r v s) := by
  unfold writePort; simp (maxDischargeDepth := 40) [*]

@[simp] theorem writeDma_keeps {σ : State} {off : Nat} {r : RegDef} {v : Word} {s : State} (hσ : Keeps σ s) : Keeps σ (writeDma off r v s) := by
  unfold writeDma; (repeat' split) <;> simp (maxDischargeDepth := 40) [*]

@[simp] theorem writeUnit_keeps {σ : State} {p : Path} {off : Nat} {r : RegDef} {v : Word} {s : State} (hσ : Keeps σ s) : Keeps σ (writeUnit p off r v s) := by
  unfold writeUnit; dsimp only
  simp (maxDischargeDepth := 40) only [keeps_ite, plainWrite_keeps, effBootCtrl_keeps, writeQueue_keeps, writeEvq_keeps, effDebugResp_keeps, State.setReg_keeps, writePort_keeps, effAcsCtrl_keeps, writeDma_keeps, iringTide_keeps, effLinkCtrl_keeps, effLeave_keeps, hσ, implies_true, and_self]

@[simp] theorem effWrite_keeps {σ : State} {p : Path} {off : Nat} {r : RegDef} {v : Word} {s : State} (hσ : Keeps σ s) : Keeps σ (effWrite p off r v s) := by
  unfold effWrite; split
  · exact State.setPath_keeps hσ
  · split
    · exact markNotify_keeps (tmConfig_keeps hσ)
    · split
      · split
        · exact markNotify_keeps (tmRearm_keeps hσ)
        · exact hσ
      · exact writeUnit_keeps hσ

@[simp] theorem commitPair_keeps {σ : State} {lo : Nat} {v : Nat} {s : State} (hσ : Keeps σ s) : Keeps σ (commitPair lo v s) := by
  unfold commitPair; split <;> simp (maxDischargeDepth := 40) [*]

@[simp] theorem writeReg_keeps {σ : State} {p : Path} {off : Nat} {r : RegDef} {v : Word} {s : State} (hσ : Keeps σ s) : Keeps σ (writeReg p off r v s) := by
  unfold writeReg; split <;> simp (maxDischargeDepth := 40) [*]

@[simp] theorem writeWord_keeps {σ : State} {p : Path} {off : Nat} {be : BitVec 4} {v : Word} {s : State} (hσ : Keeps σ s) : Keeps σ (writeWord p off be v s) := by
  unfold writeWord; split <;> simp (maxDischargeDepth := 40) [*]

@[simp] theorem lhRead_keeps {σ : State} {off : Nat} {s : State} (hσ : Keeps σ s) : Keeps σ (lhRead off s).2 := by
  unfold lhRead; (try dsimp only); (repeat' split) <;> simp (maxDischargeDepth := 40) [*]

@[simp] theorem lhWriteEvq_keeps {σ : State} {o : Nat} {r : RegDef} {v : Word} {s : State} (hσ : Keeps σ s) : Keeps σ (lhWriteEvq o r v s) := by
  unfold lhWriteEvq; (repeat' split) <;> simp (maxDischargeDepth := 40) [*]

@[simp] theorem lhWriteReg_keeps {σ : State} {off : Nat} {r : RegDef} {v : Word} {s : State} (hσ : Keeps σ s) : Keeps σ (lhWriteReg off r v s) := by
  unfold lhWriteReg; split <;> simp (maxDischargeDepth := 40) [*]

@[simp] theorem lhWrite_keeps {σ : State} {off : Nat} {v : Word} {s : State} (hσ : Keeps σ s) : Keeps σ (lhWrite off v s) := by
  unfold lhWrite; (repeat' split) <;> simp (maxDischargeDepth := 40) [*]

@[simp] theorem setVector_keeps {σ : State} {lh : Bool} {fn v : Nat} {x : Vector} {s : State} (hσ : Keeps σ s) : Keeps σ (setVector lh fn v x s) := by
  unfold setVector; simp (maxDischargeDepth := 40) [*]

@[simp] theorem tableWrite_keeps {σ : State} {lh : Bool} {fn off : Nat} {w : Word} {s : State} (hσ : Keeps σ s) : Keeps σ (tableWrite lh fn off w s) := by
  unfold tableWrite; (repeat' split) <;> simp (maxDischargeDepth := 40) [*]

@[simp] theorem barRead_keeps {σ : State} {bar : Bar} {off : Nat} {s : State} (hσ : Keeps σ s) : Keeps σ (barRead bar off s).2 := by
  unfold barRead; (repeat' split) <;> simp (maxDischargeDepth := 40) [*]

@[simp] theorem barWrite_keeps {σ : State} {bar : Bar} {off : Nat} {w : Word} {s : State} (hσ : Keeps σ s) : Keeps σ (barWrite bar off w s) := by
  unfold barWrite; (repeat' split) <;> simp (maxDischargeDepth := 40) [*]

@[simp] theorem readWords_keeps {σ : State} {f : Nat → State → Word × State} {y0 : Nat} {y1 : Nat} {y2 : State} (hσ : Keeps σ y2) (h_f : ∀ x0 t, Keeps t (f x0 t).2) : Keeps σ (readWords f y0 y1 y2).2 := by
  replace h_f : ∀ {z} x0 t, Keeps z t → Keeps z (f x0 t).2 := fun x0 t h => h.trans (h_f x0 t)
  refine hσ.trans ?_
  clear hσ
  induction y0 generalizing y1 y2 with
    | zero => simp (maxDischargeDepth := 40) [readWords]
    | succ n ih => unfold readWords; (try dsimp only); (repeat' split) <;> (try refine Keeps.trans ?_ ih) <;> simp (maxDischargeDepth := 40) [*]

@[simp] theorem writeWords_keeps {σ : State} {f : Nat → Word → State → State} {y0 : List Word} {y1 : Nat} {y2 : State} (hσ : Keeps σ y2) (h_f : ∀ x0 x1 t, Keeps t (f x0 x1 t)) : Keeps σ (writeWords f y0 y1 y2) := by
  replace h_f : ∀ {z} x0 x1 t, Keeps z t → Keeps z (f x0 x1 t) := fun x0 x1 t h => h.trans (h_f x0 x1 t)
  refine hσ.trans ?_
  clear hσ
  induction y0 generalizing y1 y2 with
    | nil => simp (maxDischargeDepth := 40) [writeWords]
    | cons a0 l0 ih => unfold writeWords; (try dsimp only); (repeat' split) <;> (try refine Keeps.trans ?_ ih) <;> simp (maxDischargeDepth := 40) [*]

@[simp] theorem noteAccess_keeps {σ : State} {data : List Word} {aborted : Bool} {s : State} (hσ : Keeps σ s) : Keeps σ (noteAccess data aborted s) := by
  unfold noteAccess; simp (maxDischargeDepth := 40) [*]

@[simp] theorem noteAer_keeps {σ : State} {fn : Nat} {s : State} (hσ : Keeps σ s) : Keeps σ (noteAer fn s) := by
  unfold noteAer; split <;> simp [*]

@[simp] theorem barRequest_keeps {σ : State} {bar : Bar} {off words : Nat} {data : Option (List Word)} {s : State} (hσ : Keeps σ s) : Keeps σ (barRequest bar off words data s) := by
  have h : Keeps σ ((barFunction bar).toList.foldl (fun s fn => noteAer fn s) s) := keeps_foldl hσ (fun _ _ => noteAer_keeps (Keeps.self _))
  unfold barRequest; dsimp only
  refine keeps_ite.mpr ⟨fun _ => noteAccess_keeps h, fun _ => ?_⟩
  split <;> simp (maxDischargeDepth := 40) [*]

@[simp] theorem readKind_keeps {σ : State} {p : Path} {off : Nat} {k : RegKind} {s : State} (hσ : Keeps σ s) : Keeps σ (readKind p off k s) := by
  unfold readKind; split <;> simp (maxDischargeDepth := 40) [*]

@[simp] theorem writeKind_keeps {σ : State} {p : Path} {off : Nat} {k : RegKind} {be : BitVec 4} {v : Word} {s : State} (hσ : Keeps σ s) : Keeps σ (writeKind p off k be v s) := by
  unfold writeKind; split <;> simp (maxDischargeDepth := 40) [*]

@[simp] theorem execRegisterWrite_keeps {σ : State} {path : Path} {off : Nat} {be : BitVec 4} {v : Word} {s : State} (hσ : Keeps σ s) : Good σ (execRegisterWrite path off be v s) := by
  unfold execRegisterWrite; simp (maxDischargeDepth := 40) [*]

@[simp] theorem execLoRead_keeps {σ : State} {path : Path} {off : Nat} {s : State} (hσ : Keeps σ s) : Good σ (execLoRead path off s) := by
  unfold execLoRead; simp (maxDischargeDepth := 40) [*]

@[simp] theorem execHiRead_keeps {σ : State} {path : Path} {off : Nat} {s : State} (hσ : Keeps σ s) : Good σ (execHiRead path off s) := by
  unfold execHiRead; simp (maxDischargeDepth := 40) [*]

@[simp] theorem execLoWrite_keeps {σ : State} {path : Path} {off : Nat} {be : BitVec 4} {v : Word} {s : State} (hσ : Keeps σ s) : Good σ (execLoWrite path off be v s) := by
  unfold execLoWrite; simp (maxDischargeDepth := 40) [*]

@[simp] theorem execHiWrite_keeps {σ : State} {path : Path} {off : Nat} {be : BitVec 4} {v : Word} {s : State} (hσ : Keeps σ s) : Good σ (execHiWrite path off be v s) := by
  unfold execHiWrite; simp (maxDischargeDepth := 40) [*]

@[simp] theorem execRcRead_keeps {σ : State} {path : Path} {off : Nat} {s : State} (hσ : Keeps σ s) : Good σ (execRcRead path off s) := by
  unfold execRcRead; simp (maxDischargeDepth := 40) [*]

@[simp] theorem execBarRequest_keeps {σ : State} {bar : Bar} {off words : Nat} {data : Option (List Word)} {s : State} (hσ : Keeps σ s) : Good σ (execBarRequest bar off words data s) := by
  unfold execBarRequest; simp (maxDischargeDepth := 40) [*]

@[simp] theorem execSecRngRead_keeps {σ : State} {path : Path} {s : State} (hσ : Keeps σ s) : Good σ (execSecRngRead path s) := by
  unfold execSecRngRead; simp (maxDischargeDepth := 40) [*]

@[simp] theorem execRegRead_keeps {σ : State} {tag : Byte} {off len : Nat} {s : State} (hσ : Keeps σ s) : Good σ (execRegRead tag off len s) := by
  unfold execRegRead; simp (maxDischargeDepth := 40) [*]

@[simp] theorem execRegWrite_keeps {σ : State} {tag : Byte} {off : Nat} {v : Word} {s : State} (hσ : Keeps σ s) : Good σ (execRegWrite tag off v s) := by
  unfold execRegWrite; simp (maxDischargeDepth := 40) [*]

end Sys2Proof.Machine
end

