-- ==== Sys2Proof/WellFormed.lean ====
section
/-! DEFINITION. Which commands can come about: operands the types leave wider than what the manual lets arrive. The meanings are total, and
say what happens on any operand; this says which ones a sender can bring. -/

namespace Sys2Proof

/-- An access names a register: offsets are multiples of 4 (R8). -/
def aligned (off : Nat) : Bool := off % 4 == 0

/-- What error correction reports: an address is corrected or uncorrectable, not both (R409, R503). -/
def Ecc.wf (e : Ecc) : Bool := e.bad.all (fun a => !e.corrected.contains a)

/-- What an engine's checks report: a cause code of one byte, and weights within a tile of 512 by 512 (R301). -/
def Upset.wf (u : Upset) : Bool :=
  (u.fatal.getD 0 < 256) && (u.tile.map (fun t => t.2.all (fun p => p.1 < 512 && p.2 < 512))).getD true

/-- A HELLO body within its fields (R618). -/
def Hello.wf (h : Hello) : Bool :=
  h.bay < 16 && h.stage < 5 && h.scope < 2 && h.time < 4 && h.uid < 2 ^ 64 && h.epoch < 2 ^ 64 && h.fw.length == 32 && h.link < 6

/-- What LINK_STATE says of one link, within its fields (R608). -/
def LinkInfo.wf (l : LinkInfo) : Bool := l.far < 16 && l.state < 16 && l.width ≤ 8

/-- A digest is 32 bytes (R723). -/
def SlotHash.wf (h : SlotHash) : Bool := h.digest.length == 32

/-- A maker key is 32 bytes and a signing-key digest 48 (R685). -/
def OtpItem.wf : OtpItem → Bool
  | .uid _ => true
  | .makerKey b => b.length == 32
  | .makerDigest b => b.length == 48
  | .burnMaker => true

/-- A command whose operands can arrive. -/
def Instr.wf : Instr → Bool
  | .registerWrite _ off _ _ => aligned off
  | .loRead _ off => aligned off
  | .hiRead _ off => aligned off
  | .loWrite _ off _ _ => aligned off
  | .hiWrite _ off _ _ => aligned off
  | .rcRead _ off => aligned off
  | .barRequest _ off words data => aligned off && decide (1 ≤ words) && (data.getD (List.replicate words 0)).length == words
  | .meLoad _ u => u.wf
  | .meStream _ u => u.wf
  | .meDrain _ u => u.wf
  | .meClear _ u => u.wf
  | .veChain _ u => u.wf
  | .veEprog _ u => u.wf
  | .veBcast _ u => u.wf
  | .veTload _ u => u.wf
  | .veSetvl _ u => u.wf
  | .veNop _ u => u.wf
  | .mov _ u => u.wf
  | .add _ u => u.wf
  | .sub _ u => u.wf
  | .mul _ u => u.wf
  | .fma _ u => u.wf
  | .div _ u => u.wf
  | .sqrt _ u => u.wf
  | .min _ u => u.wf
  | .max _ u => u.wf
  | .abs _ u => u.wf
  | .neg _ u => u.wf
  | .act _ u => u.wf
  | .cmp _ u => u.wf
  | .sel _ u => u.wf
  | .rint _ u => u.wf
  | .cvti _ u => u.wf
  | .cvtf _ u => u.wf
  | .rnd _ u => u.wf
  | .pand _ u => u.wf
  | .por _ u => u.wf
  | .pxor _ u => u.wf
  | .pnot _ u => u.wf
  | .pset _ u => u.wf
  | .vld _ u => u.wf
  | .vst _ u => u.wf
  | .vbrow _ u => u.wf
  | .vbcol _ u => u.wf
  | .vidx _ u => u.wf
  | .rsum _ u => u.wf
  | .rmax _ u => u.wf
  | .rmin _ u => u.wf
  | .ruSload _ u => u.wf
  | .ruSstore _ u => u.wf
  | .ruGate _ u => u.wf
  | .ruScan _ u => u.wf
  | .ruToep _ u => u.wf
  | .ruRingGather _ u => u.wf
  | .ruRingAppend _ u => u.wf
  | .ruTload _ u => u.wf
  | .copy _ _ _ _ ecc => ecc.wf
  | .memberIn _ ecc _ => ecc.wf
  | .fill _ _ _ ecc => ecc.wf
  | .memberOut _ ecc _ _ => ecc.wf
  | .dmaDescEnd _ _ ecc => ecc.wf
  | .translationWalk _ _ _ ecc => ecc.wf
  | .swapInDone _ ecc => ecc.wf
  | .ckptReadDone _ ecc => ecc.wf
  | .scrubPass _ ecc => ecc.wf
  | .apEbbFetch _ ecc => ecc.wf
  | .apFloodLand _ samples => decide (samples.length ≤ 32)
  | .portChunkCopy _ ecc => ecc.wf
  | .linkUp _ tx rx credits => decide (tx.toNat ≤ 8) && decide (rx.toNat ≤ 8) && credits.all (fun c => decide (c < 1024))
  | .hello _ h => h.wf
  | .linkState _ _ links => links.all LinkInfo.wf
  | .xferOffer _ _ _ params digests _ => params.length == 64 && digests.all (fun d => d.length == 32)
  | .ckptData _ _ _ record => decide (128 ≤ record.length)
  | .readReq _ _ _ ecc => ecc.wf
  | .regWrite _ off _ => aligned off
  | .storeRead _ _ digest _ => digest.length == 32
  | .secOtpProg item => item.wf
  | .lhVerify _ hashes => hashes.all (fun h => h.hash.wf)
  | .lhStart _ hashes => hashes.all (fun h => h.hash.wf)
  | .powerSample1ms samples => samples.length == 17 && samples.all (fun r => r.length == 100)
  | .verifyPeriod hashes => hashes.all (fun h => h.hash.wf)
  | .iardoCommand raw data => decide (raw.length ≤ 128) && decide (data.length ≤ 4096)
  | .sqTailDoorbell _ _ _ | .commandFetch _ _ | .rqHeadWrite _ _ _ | .queueEnable _ _ | .queueDisable _ _ | .queueReset _ _
  | .queueCfgWrite _ _ _ _ | .evqCfgWrite _ _ | .evqHeadWrite _ _ | .evqLostClear _ | .msixModerationTimer _ _ | .msixUnmask _ _ | .vfFlr _
  | .pf0Reset _ _ | .keyRefusalEnd _ | .nop _ | .streamOpen _ _ | .streamCloseDrain _ | .streamCloseAbort _ | .streamChunk _
  | .commandDataArrived _ _ _ | .ebbInput _ | .ebbCancel _ | .streamStandingRetry _ | .schedInstall _ _ | .schedRemove _ | .tableInstallMapping _ _
  | .tableInstallActivation _ _ | .modelLoad _ _ _ _ | .modelPin _ | .modelUnpin _ | .jobSubmit _ _ | .jobCancel _ | .partitionSet _ | .coreModeSet
  | .partitionCreate _ | .partitionDestroy _ | .keyInstall _ _ | .lifecycleStep _ _ | .imageUpdate _ _ _ _ _ | .faultPolicySet _ _
  | .failstopRelease _ _ _ _ | .streamTransfer _ _ | .sqLoop _ | .sqEndloop _ | .sqBarrier _ | .sqPeer _ | .sqEnd _ | .commandEnd _ _
  | .dmaSubmit _ | .dmaWait _ | .meLoadDone _ | .veSync _ | .ruSync _ | .dmaTailDoorbell _ _ _ | .dmaChEnable _ _
  | .dmaAbort _ _ | .dmaDrained _ | .runDispatch _ | .unreservedDispatch _ | .exclusiveJobStart | .budgetRefill | .sectionFetchStart _
  | .sectionRelease _ _ | .sectionWritebackDone _ _ | .swapEvict | .swapOutDone _ | .planMiss _ _ | .zeroingDone _ | .zeroLag _ | .scrubLag _ _
  | .frameZeroDone _ | .hotSetLoaded _ _ | .modelReload _ _ | .modelReloadRetry _ _ | .refreshStatusPoll _ _ _ | .apEnable _ _ _ | .apDisable _ _ _
  | .apCfgWrite _ _ _ _ | .apMasterCheckEnd _ _ | .apFrameBegin _ | .vadFlagLower _ _ | .apRingBaseNextWrite _ _ _ | .apRingCommit _
  | .apOldRingRelease _ | .apSyncLoss _ | .apVirtualFrame _ | .apSyncRestore _ | .apTakeover _ | .apSlip _ | .tidemarkRearm _ _
  | .tidemarkCfgWrite _ _ _ | .trayTick _ | .timeMsg _ | .timeMsgErrorLimit | .tickMiss | .tickMissLimit | .timeAlarmClear | .timeTrusted
  | .clockMonitorFlag _ | .holdoverExpiry | .acsCtrlWrite _ _ _ | .acsEnable _ _ _ | .acsAcquireEnd _ | .acsFailed _ | .acsRelock _
  | .admitSlackExpiry _ | .linkTrainStart _ _ | .linkTrainTimeout _ | .laneFail _ _ | .flitReceive _ _ | .linkNakReceive _ _ | .linkRetrainLimit _
  | .linkRetrainTimeout _ | .linkRetrain _ _ _ | .linkDisable _ _ _ | .linkStatePeriodic | .failstop _ _ | .peerRouteTimeout _ | .lease _ _ _ _ _
  | .xferOfferTimeout _ | .xferAccept _ _ _ _ | .ebbIdle _ | .xferEbbTimeout _ | .xferRefuse _ _ _ | .xferAbort _ _ | .xferLeaseTimeout _
  | .xferReplyTimeout _ | .ckptAck _ _ _ _ | .ckptFree _ _ | .buddyRequalified | .standbySync _ _ _ _ _ | .standbySyncTimeout _ | .slip _ _ _ _ _
  | .trayFailed _ _ | .write _ _ _ _ | .writeAck _ _ _ | .readData _ _ _ _ | .messageDiscard _ | .remapWaitEnd _ | .trayRecordTimeout
  | .scopeChange | .scopeMismatchHold _ | .regRead _ _ _ | .statusGet _ | .hashGet _ _ | .reflashBegin _ _ | .reflashData _ _ _ _ | .reflashAbandon
  | .recordGet _ | .mgmtRetryTimeout _ _ _ | .bayPowerApplied _ _ | .moduleRestart _ | .startStageTimeout | .startLimitTimeout | .moduleReady _
  | .settleTimeout | .bootStable | .hubBootRestart _ _ | .hubBootClear _ | .fwWatchdogExpiry | .debugResponse _ _ | .secRngRead _ | .drbgReseed
  | .failStop _ | .failstopAgeOut | .leave _ | .thermalWarn _ _ | .thermalTrip _ | .powerEvaluation _ | .busbarDip | .lhNop _ | .lhBayPowerOff _ _
  | .lhBayPowerOn _ | .lhBayPowerCycle _ _ | .lhModuleRestart _ _ | .lhReflash _ | .lhShutdown _ | .lhRecordSet _ | .lhStoreWriteGolden _ _
  | .lhStoreWriteModel _ _ | .lhStoreWriteFw _ _ | .modelDelete _ | .lhPolicySet _ | .lhKeyInstall _ | .lhHostPing _ | .lhFlr | .lhWatchdogExpiry
  | .pointSample _ _ | .powerReport1s | .coolingUpdate _ _ | .coolingUnitFail _ | .moduleFault _ _ | .moduleAlert _ _ | .heartbeatLost _
  | .hbRestartTimeout _ | .bayPresenceChange _ _ | .bayStable _ | .thermtripOpen _ | .reflashRetry _ _ | .reflashBusyLimit _ | .silenceBegin _ _
  | .redfishRequest _ _ | .stagingUpload _ | .ptpLock _ _ | .ptpLoss | .bwWet _ | .bwTrip _ | .bwGlitch _ | .bwSensorFault _ | .bwSelftest _ _
  | .bwReset | .bwSupplyLoss | .thermalWarnEnd _ | .mbDoorbell _ | .shutdownGraceEnd | .cyclePowerOn _ | .trayPowerApplied | .coolingUnitInsert _ => true

end Sys2Proof
end

