-- ==== Sys2Proof/Tests/Slice0.lean ====
section
/-! SUPPORT. Small tests of the model's own, and witnesses: for each statement with hypotheses, concrete states and operands that meet those
of its main clauses together. -/

namespace Sys2Proof.Machine

set_option Elab.async false

/-! ## Small states -/

/-- The module at a stage of its start, with nothing running. -/
def testAt (stage : Nat) : State := State.reset.setFld F.hubBootStatusStage stage

/-- A module in Ready, with nothing running. -/
def testReady : State := testAt 8

/-- What a command leaves; a stop would leave the state as it is. -/
def testRun (c : Instr) (s : State) : State :=
  match exec c s with
  | .next t => t
  | _ => s

/-- A 64-byte command slot. -/
def testSlot (op cmdId handle len arg0 arg1 : Nat) : List Byte :=
  leBytes 1 op ++ leBytes 1 0 ++ leBytes 2 cmdId ++ leBytes 4 handle ++ leBytes 8 0 ++ leBytes 4 len ++ leBytes 4 arg0 ++ leBytes 8 arg1 ++ leBytes 32 0

/-- A fetched command that has not begun. -/
def testCmd (raw : List Byte) : QCmd := { id := 0, slot := 0, raw := raw, doorbell := 0, begun := false }

/-- An enabled queue with rings of 16 entries and the commands given fetched. -/
def testQueue (q : Nat) (cs : List QCmd) (s : State) : State :=
  (((s.setBit (F.qCtrlEn (page q)) true).setFld (F.sqCfgLog2 (page q)) 4).setFld (F.rqCfgLog2 (page q)) 4).setQueue q { cmds := cs, nextId := 1 }

/-- Partition 3 is ACTIVE, with a quota that allows some of everything. -/
def testPart (s : State) : State :=
  let q : Quota := { raw := [], dramBase := 0x1000_0000, dramSize := 0x1000_0000, swapBase := 0, swapSize := 0, granules := 64, descriptors := 16,
                     spadUnits := 64, retQuota := 16, pinUnits := 16, channels := 4, entries := 4, exclMax := 2, budget := 100,
                     audio := List.replicate 8 0xFFFF_FFFF }
  s.setPartition 3 { state := .active, quota := q, remain := List.replicate 8 100 }

/-- Parameters of a stream of partition 3: ELASTIC, fed by the host at 8 kHz, flood and ebb, chunks of 20 ms. -/
def testPar : StreamPar where
  handle := 0x1_2000
  cls := 1
  floodEn := true
  ebbEn := true
  hostFed := true
  part := 3
  period := 1
  rate := 0
  lookahead := 0
  cadence := 1
  port := 0
  stbyValid := false
  stbyBay := 0
  floodSlot := 0
  ebbSlot := 0
  floodSched := 0
  ebbSched := 1
  granules := 2
  slack := 100
  fLimit := 0
  eLimit := 0
  hostPhase := 0
  userTag := 0

/-- An IDLE stream with those parameters. -/
def testStream : Stream := newStream testPar .idle 1 0 0 0 0 none {} {} 0

/-- An installed schedule of partition 3 whose one program is the records given. -/
def testSched (ebb : Bool) (rs : List Rec) : Schedule where
  part := 3
  kernel := false
  ebb := ebb
  exclOnly := false
  period := 1
  window := 0
  bmax := 4
  k := 8
  statePart := 1
  programs := 1
  working := 16
  wcet := 0
  anchor := 0
  deps := []
  progs := [(0, (rs.flatMap encodeRec).length)]
  sections := [{ first := 0, grans := 1, useFrom := 0, useUntil := 100 }]
  refs := []
  body := rs.flatMap encodeRec

/-- Schedules 0 (flood) and 1 (ebb) of partition 3, both of the records given. -/
def testScheds (rs : List Rec) (s : State) : State := { s with disp := { s.disp with scheds := [(0, testSched false rs), (1, testSched true rs)] } }

/-- A Ready module with partition 3 and two schedules, and the command on queue 3. -/
def testHost (raw : List Byte) : State := testQueue 3 [testCmd raw] (testScheds [] (testPart testReady))

/-- The same, with an IDLE stream. -/
def testHeld (raw : List Byte) : State := (testHost raw).setStream 5 testStream

/-- A step of that stream's flood runs as a command on core 0. -/
def testCommand : Cmd where
  work := .streamStep 5 false 0
  sched := 0
  part := 3
  cores := [0]
  ebb := false
  start := 0
  members := [{ desc := 5, valid := true, chunk := 0 }]
  catchup := false
  erased := false
  hostErr := false

/-- Core 0 stands at the first of the records, its WORKING region of 16 units at the bottom of its scratchpad. -/
def testCore (rs : List Rec) : State :=
  let s := testScheds rs ((testPart testReady).setStream 5 testStream)
  let s := { s with disp := { s.disp with cmds := [(0, testCommand)], nextCmd := 1 } }
  (s.setCore 0 { cmd := some 0, regions := [(0, { retained := false, part := 3, base := 0, units := 16 })] }).setEngines 0 { seq := some { prog := 0 } }

/-! ## The block and its registers -/

/-- No word spells a command. -/
theorem test_no_word : decodeTableWord 32 0 = none := by decide

theorem test_stepRunsFront : ({ State.reset with pending := [.lhFlr, .lhWatchdogExpiry] } : State).pending = .lhFlr :: [.lhWatchdogExpiry] ∧
    State.reset.pending = [] := ⟨rfl, rfl⟩

theorem test_stepKeepsInv : ∃ t, step State.reset = .next t ∧ State.reset.Inv := ⟨_, rfl, rfl⟩

/-- A step with RETURN_DONE set. -/
theorem test_securityOneWay : let s : State := { State.reset with sec := { State.reset.sec with returnDone := true } }
    s.sec.returnDone = true ∧ ∃ t, step s = .next t := ⟨rfl, _, rfl⟩

theorem test_resetValues : (findReg deviceBlocks R.evqCfg).any (fun r => r.apart && !r.fields.isEmpty) = true ∧
    (findReg lighthouseBlocks R.lhStatus).any (fun r => r.apart && !r.fields.isEmpty) = true := by decide +kernel

/-- Each condition of R865 is met by some write, and one write meets none. -/
theorem test_registerWriteScreen : testReady.boot.powered = true ∧ implemented 0x50 = false ∧ inWindow (.vf 0) 0x180000 = false ∧
    (implemented (R.apCtrl 0) = true ∧ (testAt 10).answers (R.apCtrl 0) = false) ∧
    (implemented 0x500058 = true ∧ testReady.answers 0x500058 = true ∧ findReg deviceBlocks 0x500058 = none) ∧
    (testReady.answers (R.sqTail (page 3)) = true ∧ testReady.mayWrite .pf0 (R.sqTail (page 3)) = false) ∧
    ({ testReady with boot := { testReady.boot with locked := true } } : State).unlocked (R.mcDieSlots) = false ∧
    testReady.passes .pf0 R.evqCfg = true := by decide +kernel

theorem test_accessCodes : (findReg deviceBlocks R.evqCfg).any (fun r => r.apart && r.fields.any (fun f => f.acc == .rw)) = true ∧
    (findReg deviceBlocks (R.apCut 0)).any (fun r => r.apart && r.fields.any (fun f => f.acc == .w1c)) = true := by decide +kernel

theorem test_plainWriteFrame : pathOffset .pf0 R.hubAlert = some R.hubAlert ∧ (findReg deviceBlocks R.hubAlert).any (fun r => r.kind == .one) = true ∧
    testReady.passes .pf0 R.hubAlert = true ∧ plainAt R.hubAlert = true := by decide +kernel

/-- A LO half, a HI half with a latch, and a HI half without one. -/
theorem test_splitReads : (findReg deviceBlocks 0x40).any (fun r => r.kind == .lo) = true ∧ testReady.reads .pf0 0x40 = true ∧
    (findReg deviceBlocks 0x44).any (fun r => r.kind == .hi) = true ∧ testReady.reads .pf0 0x44 = true ∧
    tfind ((testRun (.loRead .pf0 0x40) testReady).pathState .pf0).latch 0x40 = some 0 ∧
    tfind (testReady.pathState .pf0).latch 0x40 = none := by decide +kernel

/-- A LO half, a HI half, and a pair with no rule of its own. -/
theorem test_splitWrites : (findReg deviceBlocks R.evqBase).any (fun r => r.kind == .lo) = true ∧ testReady.passes .pf0 R.evqBase = true ∧
    (findReg deviceBlocks (R.evqBase + 4)).any (fun r => r.kind == .hi) = true ∧ testReady.passes .pf0 (R.evqBase + 4) = true ∧
    (findReg deviceBlocks 0x28).isSome = true ∧ (findReg deviceBlocks 0x2C).isSome = true ∧ plainAt 0x28 = true := by decide +kernel

theorem test_readsAndRequests : (findReg deviceBlocks R.hubId).any (fun r => r.kind == .one) = true ∧ testReady.reads .pf0 R.hubId = true ∧
    testReady.reads .pf0 R.secRng = true ∧ 64 < 0x3C / 4 * 4 % 64 + 4 * 2 := by decide +kernel

theorem test_managementRegisters : testReady.boot.powered = true ∧ R.evqCfg % 4 = 0 ∧ R.evqCfg ≠ R.hubBootCtrl ∧ implemented 0x50 = false ∧
    implemented R.evqCfg = true ∧ testReady.answers R.evqCfg = true ∧ (findReg deviceBlocks R.evqCfg).isSome = true ∧
    (testAt 9).mayRestart = true := by decide +kernel

/-! ## Queues and events -/

/-- Doorbells out of range, at the tail and beyond it, and a write of RQ_HEAD along the span and off it. -/
theorem test_queues_pointers : (testHost []).passes (.vf 3) (R.sqTail (page 3)) = true ∧ testReady.bit (F.qCtrlEn (page 3)) = false ∧
    (testHost []).bit (F.qCtrlEn (page 3)) = true ∧ (testHost []).sqSize 3 = 16 ∧ (testHost []).fld (F.sqTailTail (page 3)) = 0 ∧
    (testHost []).passes (.vf 3) (R.rqHead (page 3)) = true ∧ (testHost []).rqSize 3 = 16 ∧ (testHost []).fld (F.rqHeadHead (page 3)) = 0 ∧
    ((testHost []).setFld (F.rqTailTail (page 3)) 2).fld (F.rqTailTail (page 3)) = 2 := by decide +kernel

theorem test_queues_control : (testHost []).passes (.vf 3) (R.qCtrl (page 3)) = true ∧ (testHost []).queueOwner 3 = true ∧
    ((testHost []).setBit (F.qCtrlEn (page 3)) false).bit (F.qCtrlEn (page 3)) = false ∧ (testHost []).fld (F.sqCfgLog2 (page 3)) = 4 ∧
    (testHost []).fld (F.rqCfgLog2 (page 3)) = 4 ∧ testReady.queueOwner 3 = false ∧ (testHost []).passes (.vf 3) (queueCfgOff 3 .sqBase) = true ∧
    ((testHost []).queue 3).cmds.length = 1 := by decide +kernel

/-- An event queue of 64 records, enabled. -/
def testEvq : State := (testReady.setFld F.evqCfgLog2 6).setBit F.evqCfgEn true

theorem test_eventQueue : testReady.passes .pf0 R.evqCfg = true ∧ testReady.bit F.evqCfgEn = false ∧ testEvq.bit F.evqCfgEn = true ∧
    testReady.host.backlog = [] ∧ testReady.host.episode = none ∧ tmAlarm (testReady.reg R.evqTmCfg) 0 = false ∧
    testReady.passes .pf0 R.evqHead = true ∧ testEvq.fld F.evqCfgLog2 = 6 ∧ (testEvq.setFld F.evqTailTail 2).fld F.evqTailTail = 2 ∧
    testReady.passes .pf0 R.evqStatus = true ∧ testReady.boot.powered = true ∧
    (testReady.setKey 1 { testReady.key 1 with refusing := true }).key 1 = { testReady.key 1 with refusing := true } ∧
    (let s : State := { testReady with host := { testReady.host with vectors := [(vectorKey 1 0, { unsignalled := 1 })] } }
     (tget s.host.vectors (vectorKey 1 0) {}).unsignalled = 1) := by decide +kernel

/-- A fetch under way on queue 3, whose tail is one slot on. -/
def testFetch : State := ((testHost []).setFld (F.sqTailTail (page 3)) 1).setQueue 3 { reading := true }

theorem test_commandsBegin_fetch : testFetch.fetchTurn = some 3 ∧ testReady.fetchTurn ≠ some 3 ∧ (testSlot 0 7 0 0 0 0).length = 64 ∧
    fieldAt (testSlot 0 7 0 0 0 0) 1 1 % 2 = 0 ∧ testFetch.sqAvail 3 = 1 ∧ (testFetch.queue 3).cmds = [] ∧ testFetch.rqFree 3 = 15 ∧
    testFetch.destroying 3 = false := by decide +kernel

theorem test_commandsBegin_nop : (testHost (testSlot 0 7 0 0 0 0)).takes 3 0x00 (testCmd (testSlot 0 7 0 0 0 0)) ∧
    ((testHost (testSlot 0 7 0 0 0 0)).queue 3).cmds = [testCmd (testSlot 0 7 0 0 0 0)] := by unfold State.takes; decide +kernel

/-- A plain command that fails each check, and one that passes all. -/
theorem test_commandChecks_plain : (testCmd (testSlot 0 7 0 0 0 0)).isCritical = false ∧ bitsOf (testCmd (testSlot 0 7 0 0 0 0)).flags 7 3 = 0 ∧
    (∀ r ∈ opTable, r.1 ≠ (testCmd (testSlot 0x7F 7 0 0 0 0)).opcode) ∧ (0x10, false, true) ∈ opTable ∧
    stateAllows 3 0x10 (testAt 5) = false ∧ stateAllows 3 0x10 testReady = true := by decide +kernel

/-- A critical command of the admin queue, its key slot 1 open. -/
def testCritical (op counter : Nat) : List Byte :=
  leBytes 1 op ++ leBytes 1 1 ++ leBytes 62 0 ++ leBytes 8 counter ++ leBytes 1 1 ++ leBytes 7 0 ++ leBytes 16 0 ++ leBytes 32 0

theorem test_commandChecks_critical : (testCmd (testCritical 0x86 5)).isCritical = true ∧ bitsOf (testCmd (testCritical 0x86 5)).flags 7 3 = 0 ∧
    fieldAt (testCritical 0x86 5) 73 7 = 0 ∧ (testCmd (testCritical 0x86 5)).len ≤ 4096 ∧ (testCmd (testCritical 0x86 5)).critical = true ∧
    (testCmd (testCritical 0x86 5)).opcode = 0x86 ∧ (testCmd (testCritical 0x86 5)).slot % 2 = 0 ∧
    (testReady.key 1).locked = false ∧ (testReady.key 1).refusing = false ∧ (testReady.key 1).ctr < (testCmd (testCritical 0x86 5)).counter ∧
    (testCmd (testCritical 0x86 5)).counter < counterMax := by decide +kernel

theorem test_recordsWritten : testEvq.bit F.evqCfgEn = true ∧ testEvq.evFull = false ∧ testEvq.host.backlog = [] ∧ testReady.bit F.evqCfgEn = false ∧
    testReady.host.backlog.length < 48 ∧ ({ testReady with host := { testReady.host with backlog := List.replicate 64 { code := 1, sev := 2, part := none, unit := 0, inst := 0, time := 0, w0 := 0, w1 := 0, w2 := 0, seq := 0 } } } : State).host.backlog.length = 64 := by
  decide +kernel

/-! ## Streams -/

/-- A standing record that is not open yet. -/
def testStanding (opened : Bool) (s : State) : State :=
  { s with strm := { s.strm with standingOpened := opened, standing := [{ index := 1, par := testPar, sink := 0, raw := [] }] } }

/-- The command STREAM_OPEN on queue 3. -/
def testOpen : State := testHost (testSlot 0x10 7 0 64 0 0)

theorem test_streamOpen_takes : testOpen.standingDue = false ∧ (testStanding false testReady).standingDue = true ∧
    testOpen.takes 3 0x10 (testCmd (testSlot 0x10 7 0 64 0 0)) ∧ parOf testPar.bytes = testPar := by unfold State.takes; decide +kernel

/-- A stream with an invalid field is refused by a check, one whose limit no run can meet by the plan. -/
theorem test_streamOpen_refused : testOpen.admitCheck { testPar with cls := 3 } (.host 3) = some 1 ∧
    (testOpen.admitPlan testPar true).toOption = some (none, none) ∧
    (testOpen.admitPlan { testPar with cls := 0, floodEn := false, ebbSched := 7 } true).toOption = none := by decide +kernel

set_option maxRecDepth 100000 in
theorem test_streamOpen_admitted : testOpen.admitCheck testPar (.host 3) = none := by decide +kernel

theorem test_streamCommands_close : (testHeld (testSlot 0x11 7 0x1_2000 0 0 0)).ownHandle 3 0x1_2000 = some (5, testStream) ∧
    (testHeld (testSlot 0x11 7 0x1_2000 0 0 0)).takes 3 0x11 (testCmd (testSlot 0x11 7 0x1_2000 0 0 0)) ∧
    (testHeld (testSlot 0x11 7 0x1_2000 0 1 0)).takes 3 0x11 (testCmd (testSlot 0x11 7 0x1_2000 0 1 0)) ∧ testStream.state = .idle := by
  unfold State.takes; decide +kernel

theorem test_streamCommands_ebb : (testHeld (testSlot 0x13 7 0x1_2000 64 0 0)).takes 3 0x13 (testCmd (testSlot 0x13 7 0x1_2000 64 0 0)) ∧
    testStream.leased = true ∧ testStream.takesEbb = true ∧ testStream.ebb.stepping = false ∧
    (testHeld (testSlot 0x14 7 0x1_2000 0 0 0)).takes 3 0x14 (testCmd (testSlot 0x14 7 0x1_2000 0 0 0)) ∧
    ((testHost (testSlot 0x13 7 0x1_2000 64 0 0)).ebbVerdict 3 (testCmd (testSlot 0x13 7 0x1_2000 64 0 0))) = some St.handle := by
  unfold State.takes; decide +kernel

/-- A chunk of 160 frames of 4 bytes, before and after it has begun. -/
theorem test_streamCommands_chunk : (testHeld (testSlot 0x12 7 0x1_2000 640 0 0)).takes 3 0x12 (testCmd (testSlot 0x12 7 0x1_2000 640 0 0)) ∧
    testStream.closing = none ∧ testStream.xfer = none ∧ testPar.hostFed = true ∧ testStream.nextIn = 0 ∧ testStream.full = [] ∧
    (testHeld []).framesOf testPar * 4 = 640 ∧
    ((testHost (testSlot 0x12 7 0x1_2000 640 0 0)).chunkVerdict 3 (testCmd (testSlot 0x12 7 0x1_2000 640 0 0))) = some St.handle ∧
    ((testRun (.streamChunk 3) (testHeld (testSlot 0x12 7 0x1_2000 640 0 0))).queue 3).cmds.any (fun y => y.begun && y.cmdId == 7 && y.verdict.isNone) = true := by
  unfold State.takes; decide +kernel

/-- The stream at its admission, with its granules. -/
def testJoin (granules : Nat) : Stream := { testStream with state := .admitWait, par := { testPar with granules := granules } }

theorem test_streamCommandsWait_standing : (testStanding true (testQueue 64 [testCmd (testSlot 0x15 7 0 0 1 0)] testReady)).takes 64 0x15 (testCmd (testSlot 0x15 7 0 0 1 0)) ∧
    (testStanding true testReady).standingDue = false ∧ (testStanding false testReady).standingDue = true := by unfold State.takes; decide +kernel

theorem test_streamCommandsWait_joins : ((testHeld []).setStream 5 (testJoin 2)).stream 5 = some (testJoin 2) ∧ (testJoin 2).state = .admitWait ∧
    (testJoin 2).accepted + (testJoin 2).par.slack * 1000 ≤ 100000 ∧ (testHeld []).shortOf (testJoin 2) = (0, 0) ∧ (testHeld []).shortOf (testJoin 256) ≠ (0, 0) ∧
    (testHeld []).ebbIdle testStream = true := by decide +kernel

/-! ## Cores -/

/-- The position a program starts at. -/
def testSeq : Seq := { prog := 0 }

theorem test_sequencer_control : (testCore [.loop 2 false]).nextRec 0 = some (0, testCommand, testSeq, .loop 2 false) ∧
    (testCore [.barrier]).nextRec 0 = some (0, testCommand, testSeq, .barrier) ∧ (testCore [.peer 1]).nextRec 0 = some (0, testCommand, testSeq, .peer 1) ∧
    (testCore [.fin]).nextRec 0 = some (0, testCommand, testSeq, .fin) ∧
    ((testCore [.endloop]).setSeq 0 (some { prog := 0, loops := [(0, 2)] })).nextRec 0 = some (0, testCommand, { prog := 0, loops := [(0, 2)] }, .endloop) ∧
    testCommand.cores.Nodup := ⟨rfl, rfl, rfl, rfl, rfl, by decide⟩

/-- Channel 9 belongs to partition 3. -/
def testOwned (s : State) : State := (s.setBit (F.dmaChOwnerModule 9) false).setFld (F.dmaChOwnerPartition 9) 3

theorem test_sequencer_dma : (testOwned (testCore [.submit 0 64])).nextRec 0 = some (0, testCommand, testSeq, .submit 0 64) ∧
    (testOwned (testCore [.wait 0 1])).nextRec 0 = some (0, testCommand, testSeq, .wait 0 1) := ⟨rfl, rfl⟩

theorem test_sequencer_channel : (testOwned (testCore [.submit 0 64])).partChannel 3 0 = some 9 ∧ ((testOwned (testCore [.submit 0 64])).chan 9).queue = [] ∧
    (testOwned (testCore [.wait 0 1])).cancelled testCommand = false ∧ ((testOwned (testCore [.wait 0 0])).chan 9).failed.contains 0 = false := by decide +kernel

/-- A matrix record over 16 rows, destination the scratchpad. -/
def testMe (op : Nat) : MeRec where
  op := op
  wfmt := 0
  rfmt := 0
  accum := false
  swap := false
  indirect := false
  dest := if op = 2 ∨ op = 3 then 3 else 0
  src := 0x2000
  scaleSrc := 0
  m := 16
  accBase := 0
  rowStride := 256
  dst := 0x4_0000
  nActive := 512
  scaleStride := 0

/-- A core at a matrix record, both its tiles valid. -/
def testMatrix (op : Nat) : State := ((testCore [.me (testMe op)]).setBit (F.meStatusActiveValid 0) true).setBit (F.meStatusShadowValid 0) true

/-- The record with its addresses absolute. -/
def testMeAt (op : Nat) : MeRec := (testMe op).reloc ((testMatrix op).placer testCommand 0)

theorem test_matrixEngine_records : (testMatrix 1).nextRec 0 = some (0, testCommand, testSeq, .me (testMe 1)) ∧
    (testMatrix 2).nextRec 0 = some (0, testCommand, testSeq, .me (testMe 2)) ∧ (testMatrix 3).nextRec 0 = some (0, testCommand, testSeq, .me (testMe 3)) ∧
    (testMatrix 4).nextRec 0 = some (0, testCommand, testSeq, .me (testMe 4)) := ⟨rfl, rfl, rfl, rfl⟩

/-- A load, a stream, a drain and a clear that nothing holds, and a tile still loading. -/
theorem test_matrixEngine_runs : (testMeAt 1).bad = false ∧ (testMeAt 2).bad = false ∧ (testMeAt 3).bad = false ∧ (testMeAt 4).bad = false ∧
    ((testMatrix 1).engines 0).me = {} ∧ (testMeAt 2).dest = 3 ∧ (testMeAt 2).indirect = false ∧ (testMeAt 2).swap = false ∧ isMx (testMeAt 2).rfmt = false ∧
    density (testMeAt 2).rfmt = density 0 ∧ (testMatrix 2).bit (F.meStatusActiveValid 0) = true ∧
    ((testRun (.meLoad 0 {}) (testMatrix 1)).engines 0).me.loading.isSome = true := by decide +kernel

theorem test_matrixEngine_ranges : (testMatrix 1).fits 0 [((testMeAt 1).src, tileBytes 0)] ∧ (testMatrix 2).fitsOut 0 (testMeAt 2).outs ∧
    (testMatrix 2).fits 0 ((List.range (testMeAt 2).m).map (fun j => ((testMeAt 2).src + j * (testMeAt 2).rowStride, 256))) := by
  unfold State.fits State.fitsOut; decide +kernel

/-- A vector record on the SP channel over one row of FP32 elements. -/
def testVe (op cfg : Nat) : VeRec where
  op := op
  sp := true
  zero := true
  satinf := false
  nextbeat := false
  usePred := false
  pred := 0
  rows := 1
  cfg := cfg
  srcA := 0x1000
  srcB := 0x2000
  dst := 0x3000
  dstAux := 0x4000
  aStride := 2048
  bStride := 2048
  dStride := 2048
  auxStride := 2048
  aFmt := 0
  bFmt := 0
  dFmt := if op = 0x21 then 8 else 0
  tslot := 0
  browBase := 0
  bcast := 3
  count := 256

/-- A core at a vector record, with VLEN 256. -/
def testVector (op cfg : Nat) : State := (testCore [.ve (testVe op cfg)]).setFld (F.veVlenVlen 0) 256

/-- The record with its addresses absolute. -/
def testVeAt (op cfg : Nat) : VeRec := (testVe op cfg).reloc ((testVector op cfg).placer testCommand 0)

set_option maxRecDepth 4000 in
/-- MOV of vector register 1 to vector register 2. -/
theorem test_vectorLanes : (testVector 0x23 0x0441_0000).regMode 0 testSeq (testVeAt 0x23 0x0441_0000) (decodeV 0x0441_0000) ∧
    (testVeAt 0x23 0x0441_0000).bad = false ∧ (decodeV 0x0441_0000).opc = 0x01 ∧ (∀ k, (((testVector 0x23 0x0441_0000).engines 0).ve.reg k).length = 512) ∧
    (∀ k, (((testVector 0x23 0x0441_0000).engines 0).ve.pred k).length = 512) :=
  ⟨⟨rfl, rfl, rfl, rfl, rfl, 0, testCommand, testVe 0x23 0x0441_0000, rfl, rfl⟩, by decide +kernel, rfl, fun _ => rfl, fun _ => rfl⟩

/-- VLD and VST of vector register 1, and RSUM. -/
theorem test_vectorTransfers : (testVector 0x23 0x8020_0000).regMode 0 testSeq (testVeAt 0x23 0x8020_0000) (decodeV 0x8020_0000) ∧
    (testVector 0x23 0x8401_0000).regMode 0 testSeq (testVeAt 0x23 0x8401_0000) (decodeV 0x8401_0000) ∧
    (testVector 0x23 0xA041_0000).regMode 0 testSeq (testVeAt 0x23 0xA041_0000) (decodeV 0xA041_0000) :=
  ⟨⟨rfl, rfl, rfl, rfl, rfl, 0, testCommand, testVe 0x23 0x8020_0000, rfl, rfl⟩, ⟨rfl, rfl, rfl, rfl, rfl, 0, testCommand, testVe 0x23 0x8401_0000, rfl, rfl⟩,
   ⟨rfl, rfl, rfl, rfl, rfl, 0, testCommand, testVe 0x23 0xA041_0000, rfl, rfl⟩⟩

theorem test_vectorTransfers_ranges : (testVeAt 0x23 0x8020_0000).bad = false ∧ (testVeAt 0x23 0x8401_0000).bad = false ∧ (testVeAt 0x23 0xA041_0000).bad = false ∧
    (decodeV 0x8020_0000).opc = 0x20 ∧ (decodeV 0x8401_0000).opc = 0x21 ∧ (decodeV 0xA041_0000).opc = 0x28 ∧
    (testVector 0x23 0x8020_0000).fits 0 [(0x1000, fmtBytes 0 256)] ∧ (testVector 0x23 0x8401_0000).fitsOut 0 [(0x3000, fmtBytes 0 256)] ∧ isMx 0 = false := by
  unfold State.fits State.fitsOut; decide +kernel

theorem test_vectorChains_stands : (testVector 0x26 0).vecAt 0 testSeq (testVeAt 0x26 0) ∧ (testVector 0x25 0x8000).vecAt 0 testSeq (testVeAt 0x25 0x8000) ∧
    (testVector 0x24 0x8000).vecAt 0 testSeq (testVeAt 0x24 0x8000) ∧ (testVector 0x27 0).vecAt 0 testSeq (testVeAt 0x27 0) :=
  ⟨⟨rfl, rfl, 0, testCommand, testVe 0x26 0, rfl, rfl⟩, ⟨rfl, rfl, 0, testCommand, testVe 0x25 0x8000, rfl, rfl⟩, ⟨rfl, rfl, 0, testCommand, testVe 0x24 0x8000, rfl, rfl⟩,
   ⟨rfl, rfl, 0, testCommand, testVe 0x27 0, rfl, rfl⟩⟩

theorem test_vectorChains_ranges : (testVector 0x25 0x8000).fits 0 [(0x8000, 4128)] ∧ (testVeAt 0x24 0x8000).bad = false ∧
    (testVector 0x24 0x8000).fits 0 [(0x8000, fmtBytes 0 256)] ∧ (testVector 0x24 0x8000).fits 0 [((testVeAt 0x24 0x8000).srcB, fmtBytes 0 1)] := by
  unfold State.fits; decide +kernel

/-- A core at a chain whose descriptor is eight stages that pass the element on, and one at a program of one instruction. -/
def testChain (op : Nat) (desc : List Byte) : State := (testVector op 0x8000).poke (spadPlace 0 + 0x8000) desc

theorem test_vectorChains_chain : (testChain 0x21 []).vecAt 0 testSeq (testVeAt 0x21 0x8000) ∧ (testVeAt 0x21 0x8000).bad = false ∧
    chainOk ((testChain 0x21 []).peek (spadPlace 0 + (testVeAt 0x21 0x8000).cfg) 128) = true ∧
    chainFits (stagesOf ((testChain 0x21 []).peek (spadPlace 0 + (testVeAt 0x21 0x8000).cfg) 128)) 8 = true :=
  ⟨⟨rfl, rfl, 0, testCommand, testVe 0x21 0x8000, rfl, rfl⟩, by decide +kernel, by decide +kernel, by decide +kernel⟩

theorem test_vectorChains_eprog : (testChain 0x22 [1]).vecAt 0 testSeq (testVeAt 0x22 0x8000) ∧ (testVeAt 0x22 0x8000).bad = false ∧
    progOk ((testChain 0x22 [1]).peek (spadPlace 0 + (testVeAt 0x22 0x8000).cfg) 52) = true ∧
    leNat ((testChain 0x22 [1]).peek (spadPlace 0 + (testVeAt 0x22 0x8000).cfg) 1) = 1 :=
  ⟨⟨rfl, rfl, 0, testCommand, testVe 0x22 0x8000, rfl, rfl⟩, by decide +kernel, by decide +kernel, by decide +kernel⟩

/-- A recurrence record over one member. -/
def testRu (op : Nat) : RuRec where
  op := op
  prec := 0
  gru := false
  append := false
  hold := false
  outAll := true
  tslot := 0
  rows := 1
  members := 0
  src := 0x1000
  src2 := 0x2000
  dst := 0x3000
  stateOff := 0
  elems := 16
  bufOff := 0
  sStride := 64
  dStride := 64
  pStride := 64
  tPos := 1
  layer := 0
  units := 1
  count := 1
  unitBytes := 2
  inFmt := 0
  outFmt := 0
  delta := 0

/-- A core at a recurrence record. -/
def testRecur (op : Nat) : State := testCore [.ru (testRu op)]

/-- The record with its addresses absolute. -/
def testRuAt (op : Nat) : RuRec := (testRu op).reloc ((testRecur op).placer testCommand 0)

theorem test_recurrence_stands : (testRecur 0x31).ruAt 0 testSeq (testRuAt 0x31) ∧ (testRecur 0x32).ruAt 0 testSeq (testRuAt 0x32) ∧
    (testRecur 0x34).ruAt 0 testSeq (testRuAt 0x34) ∧ (testRecur 0x35).ruAt 0 testSeq (testRuAt 0x35) ∧ (testRecur 0x36).ruAt 0 testSeq (testRuAt 0x36) ∧
    (testRecur 0x37).ruAt 0 testSeq (testRuAt 0x37) ∧ (testRecur 0x33).ruAt 0 testSeq (testRuAt 0x33) ∧ (testRecur 0x38).ruAt 0 testSeq (testRuAt 0x38) :=
  ⟨⟨0, testCommand, testRu 0x31, rfl, rfl⟩, ⟨0, testCommand, testRu 0x32, rfl, rfl⟩, ⟨0, testCommand, testRu 0x34, rfl, rfl⟩, ⟨0, testCommand, testRu 0x35, rfl, rfl⟩,
   ⟨0, testCommand, testRu 0x36, rfl, rfl⟩, ⟨0, testCommand, testRu 0x37, rfl, rfl⟩, ⟨0, testCommand, testRu 0x33, rfl, rfl⟩, ⟨0, testCommand, testRu 0x38, rfl, rfl⟩⟩

theorem test_recurrenceRuns_ranges : ∀ op ∈ [0x31, 0x32, 0x34, 0x35, 0x36, 0x37], (testRuAt op).bad = false ∧ (testRecur op).fits 0 (testRuAt op).ranges.1 ∧
    (testRecur op).fitsOut 0 (testRuAt op).ranges.2 := by unfold State.fits State.fitsOut; decide +kernel

/-- The member table of core 0 names the stream's flood part, which is resident. -/
def testMember : State :=
  let s := testRecur 0x31
  (s.setStream 5 { testStream with grans := [(0, 9), (1, 10)], resident := true }).poke (spadPlace 0) (leBytes 4 0x1_2000 ++ leBytes 4 1 ++ leBytes 16 0 ++ leBytes 4 10 ++ leBytes 4 0)

/-- Its state as each operation of the tide-pool group reads it: 16 narrow elements, or a ring of 16 units of two bytes. -/
theorem test_recurrenceRuns_holds : ∀ n ∈ [16 * storeSize 0, ringBytes (testRuAt 0x36)], testMember.tokenStream 0 (testMember.memberEntry 0 0 0) = testMember.stream 5 ∧
    (testMember.memberEntry 0 0 0).valid = true ∧ (testMember.stream 5).any (fun x => x.inPoolRange (testMember.partBase x false + (testRuAt 0x31).stateOff) n) = true ∧
    (testMember.stream 5).any (fun x => x.grans.all (fun g => ((testRuAt 0x36).ranges.1 ++ (testRuAt 0x36).ranges.2).all (fun w => !rangesMeet (granAddr g.2) 16384 (spadPlace 0 + w.1) w.2))) = true := by
  decide +kernel

/-- An ME_DRAIN to the gates. -/
def testToGate : MeRec := { testMe 3 with dest := 2, nActive := 64 }

theorem test_recurrenceStateAndWaits : testMember.failStopped = false ∧ Memory.wf (testMember.engines 0).ru.buf = true ∧ (testRuAt 0x34).rows = 1 ∧
    ((testRecur 0x33).engines 0).ru.gates = [] ∧ (((testRecur 0x38).setRu 0 { gates := [(testRuAt 0x33, {})] }).engines 0).ru.gates ≠ [] ∧
    (testRuAt 0x33).bad = false ∧ (testRecur 0x33).fits 0 (testRuAt 0x33).ranges.1 ∧ (testRecur 0x33).fitsOut 0 (testRuAt 0x33).ranges.2 ∧
    (testCore [.me testToGate]).nextRec 0 = some (0, testCommand, testSeq, .me testToGate) ∧ (testToGate.reloc ((testCore [.me testToGate]).placer testCommand 0)).bad = false ∧
    (testToGate.reloc ((testCore [.me testToGate]).placer testCommand 0)).dest = 2 ∧ ((testCore [.me testToGate]).engines 0).me.waiting = [] := by
  unfold State.fits State.fitsOut; decide +kernel

/-! ## DMA -/

/-- A descriptor of operation `op`, 64 bytes in DRAM from `src` to `dst`. -/
def testDesc (op src dst : Nat) : List Byte :=
  leBytes 4 op ++ leBytes 4 64 ++ leBytes 2 1 ++ leBytes 2 1 ++ leBytes 4 0 ++ leBytes 8 src ++ leBytes 8 dst ++ leBytes 32 0

/-- Module channel 0 with a ring of 16 entries in DRAM, the descriptor at its HEAD. -/
def testChannel (d : List Byte) : State :=
  ((((testReady.setFld (F.dmaChRingCfgLog2 0) 4).setBit (F.dmaChCtrlEn 0) true).setPair (R.dmaChRingBase 0) 0x10_0000).setFld (F.dmaChTailTail 0) 1).poke 0x10_0000 d

/-- A copy within DRAM, and a fill. -/
def testCopy : List Byte := testDesc 1 (2 * 2 ^ 60 + 0x20_0000) (2 * 2 ^ 60 + 0x30_0000)
def testFill : List Byte := testDesc 2 0 (2 * 2 ^ 60 + 0x30_0000)

/-- The descriptor as the channel runs it. -/
def testDma (d : List Byte) (total : Nat) : DmaRun := { raw := d, index := 0, cmd := none, core := 0, moved := 0, total := total, status := 0, why := 0 }

theorem test_dmaStarts : ∀ d ∈ [(testCopy, 1), (testFill, 2)], (testChannel d.1).failStopped = false ∧ ((testChannel d.1).chan 0).run = none ∧
    nextDesc 0 .timeout (testChannel d.1) = some (.ok d.1, testDma d.1 0) ∧ (descOf d.1).op = d.2 ∧ (descOf d.1).total = 64 ∧ (descOf d.1).c0 ≠ 0 ∧
    (testChannel d.1).bit (F.dmaChOwnerModule 0) = true ∧ (descOf d.1).check true (testChannel d.1).bay = 0 := by decide +kernel

/-- No fetch of them is damaged, and no MEMBER_OUT waits for a peer. -/
theorem test_dmaStarts_fetch : (descAccess 0 (testChannel testCopy)).1 = none ∧ (testChannel testCopy).outWaits 0 = false := by decide +kernel

theorem test_dmaStarts_refused : (descOf (testDesc 5 0 0)).check true 0 ≠ 0 ∧ (descOf (testDesc 1 0 0)).check true 0 ≠ 0 := by decide +kernel

theorem test_dmaMoves : Memory.wf (testChannel testCopy).mem = true ∧ (testChannel testCopy).bit (F.dmaChOwnerModule 0) = true ∧
    (descOf testCopy).shape = 0 ∧ (descOf testCopy).bursts ≤ 1 ∧ inDram (addrOf (descOf testCopy).dst) = true ∧ inDram (addrOf (descOf testCopy).src) = true ∧
    (testChannel testCopy).badIn (addrOf (descOf testCopy).src) 64 = [] ∧ (descOf testFill).shape = 0 ∧ (descOf testFill).bursts ≤ 1 ∧
    (descOf testFill).op = 2 := by decide +kernel

/-- A descriptor that has moved all, and one that ended with a status. -/
theorem test_dmaEndsAndChannels_ends : ((testReady.setChan 0 { run := some { testDma testCopy 64 with moved := 64 } }).chan 0).run = some { testDma testCopy 64 with moved := 64 } ∧
    ((testReady.setChan 0 { run := some { testDma testCopy 64 with moved := 64 } }).chan 0).waits = [] ∧
    ({ testDma testCopy 64 with status := 5 } : DmaRun).status ≠ 0 ∧ (testDma testCopy 64).fence = false ∧ (descOf testCopy).arrive = false ∧ (testReady.chan 0).toHost = false ∧
    (testReady.setChan 0 { toHost := true, run := some { testDma (testDesc 0x101 0 0) 64 with moved := 64 } } |>.chan 0).toHost = true ∧
    (∃ w ∈ ((testReady.setChan 0 { waits := [{ id := 7, bay := 1, ch := 0, at_ := 0, len := 64, read := true }] }).chan 0).waits, w.own = true ∧ w.read = true) ∧ (descOf testCopy).record = false ∧ (descOf testCopy).op ≠ 3 ∧
    testReady.passes .pf0 (R.dmaChCtrl 0) = true := by decide +kernel

theorem test_dmaEndsAndChannels : (testChannel testCopy).passes .pf0 (R.dmaChTail 0) = true ∧ (testChannel testCopy).dmaSize 0 = 16 ∧
    (testChannel testCopy).bit (F.dmaChCtrlEn 0) = true ∧ testReady.bit (F.dmaChCtrlEn 0) = false ∧ testReady.fld (F.dmaChRingCfgLog2 0) = 0 ∧
    inDevice ((testChannel testCopy).pair (R.dmaChRingBase 0)) = false ∧ inPool ((testChannel testCopy).pair (R.dmaChRingBase 0)) = false ∧
    (testOwned testReady).bit (F.dmaChOwnerModule 9) = false ∧ ((testOwned testReady).chan 9).hit 0x1000 = none := by decide +kernel

/-- Tables of partition 3 with one leaf at address 0. -/
def testTables : State := (((testOwned testReady).poke 0 (leBytes 8 0x1001)).poke 0x1000 (leBytes 8 0x2001)).poke 0x2000 (leBytes 8 3)

theorem test_dmaEndsAndChannels_walks : (match testTables.walk 3 0x1000 with | .leaf _ => true | _ => false) = true ∧ (testOwned testReady).walk 3 0x1000 = .denied 0 := by decide +kernel

/-- A table whose words are all 0x01010101 breaks no check of R323. -/
theorem test_tableGood (n : Nat) (hn : 4 ≤ n) : tableBad (List.replicate n 1) = none := by
  have h : ∀ o, fieldAt (List.replicate n (1 : Byte)) o 4 = leNat (List.replicate (min 4 (n - o)) 1) := by
    intro o; simp [fieldAt, List.drop_replicate, List.take_replicate]
  have g : ∀ k, k ≤ 4 → finite32 (leNat (List.replicate k (1 : Byte))) = true := by decide
  simp only [tableBad, h]
  rw [if_neg (by rw [Nat.sub_zero, Nat.min_eq_left hn]; decide), List.find?_eq_none]
  intro o _
  simpa using g (min 4 (n - o)) (Nat.min_le_left _ _)

/-! ## Critical commands -/

/-- The first 80 bytes of a critical command. -/
def testHead (op handle len arg0 arg1 slot : Nat) : List Byte :=
  leBytes 1 op ++ leBytes 1 1 ++ leBytes 2 7 ++ leBytes 4 handle ++ leBytes 8 0 ++ leBytes 4 len ++ leBytes 4 arg0 ++ leBytes 8 arg1 ++ leBytes 32 0 ++
    leBytes 8 5 ++ leBytes 1 slot ++ leBytes 7 0

/-- A critical command, its CHECK made with a key for a device. -/
def testSign (op handle len arg0 arg1 slot : Nat) (data key : List Byte) (uid : Nat) : List Byte :=
  let head := testHead op handle len arg0 arg1 slot
  head ++ ((hmacSha256 key (head ++ leBytes 32 0 ++ leBytes 8 uid ++ (if len = 0 then [] else data.take len))).take 16 ++ leBytes 32 0)

theorem test_head (op handle len arg0 arg1 slot : Nat) : (testHead op handle len arg0 arg1 slot).length = 80 := by simp [testHead]

theorem test_rounds (h : Sha2) (ks : List Nat) (s : List Nat × List Nat) (hs : s.1.length = 8) : (ks.foldl h.round s).1.length = 8 := by
  induction ks generalizing s with
  | nil => exact hs
  | cons k ks ih =>
    apply ih
    unfold Sha2.round
    split
    · rfl
    · exact hs

theorem test_blocks (h : Sha2) (bs : List (List Byte)) (cv : List Nat) (hc : cv.length = 8) : (bs.foldl h.block cv).length = 8 := by
  induction bs generalizing cv with
  | nil => exact hc
  | cons b bs ih => exact ih _ (by simp [Sha2.block, test_rounds h h.k (cv, _) hc, hc])

theorem test_words (n : Nat) (l : List Nat) : (l.flatMap (beBytes n)).length = n * l.length := by
  have h : ∀ n v, (beBytes n v).length = n := by
    intro n; induction n with
    | zero => intro v; rfl
    | succ n ih => intro v; simp [beBytes, ih]
  induction l with
  | nil => rfl
  | cons a l ih => simp [h, ih, Nat.mul_succ, Nat.add_comm]

theorem test_sha256 (m : List Byte) : (sha256 m).length = 32 := by
  rw [sha256, Sha2.digest, test_words, test_blocks _ _ sha256Init rfl]
  rfl

theorem test_field (a b : List Byte) (i n : Nat) (h : i + n ≤ a.length) : fieldAt (a ++ b) i n = fieldAt a i n := by
  simp only [fieldAt, List.drop_append, List.take_append, List.length_drop]
  simp [show n - (a.length - i) = 0 by omega]

/-- Its CHECK is right. -/
theorem test_sign (op handle len arg0 arg1 slot : Nat) (data key : List Byte) (uid : Nat) (c : QCmd) (hc : c = testCmd (testSign op handle len arg0 arg1 slot data key uid))
    (hl : fieldAt (testHead op handle len arg0 arg1 slot) 16 4 = len) :
    ((hmacSha256 key (c.raw.take 80 ++ (c.raw.drop 96).take 32 ++ leBytes 8 uid ++ (if c.len = 0 then [] else data.take c.len))).take 16 == c.checkBytes) = true := by
  have hn := test_head op handle len arg0 arg1 slot
  have h : ∀ m, ((hmacSha256 key m).take 16).length = 16 := by intro m; simp [hmacSha256, test_sha256]
  have h1 : c.len = len := by rw [hc]; exact (test_field _ _ _ _ (by omega)).trans hl
  have h3 : ∀ x : List Byte, x.length = 16 → (testHead op handle len arg0 arg1 slot ++ (x ++ leBytes 32 0)).drop 96 = leBytes 32 0 := by
    intro x hx; rw [← List.append_assoc, List.drop_left' (by simp [hn, hx])]
  simp only [h1, QCmd.checkBytes, beq_iff_eq]
  simp only [hc, testSign, testCmd, List.take_left' hn, List.drop_left' hn, h3 _ (h _), List.take_left' (h _)]
  congr 1

/-- A critical command that passes every other check takes effect. -/
theorem test_critical (q op : Nat) (c : QCmd) (reads : Bool) (d : HostRead) (s u : State) (hu : u = s.begins q c reads) (h1 : s.nextCmd q = some c)
    (h2 : c.opcode = op) (h3 : (c.isCritical && (criticalForm q c).isNone && keyPermitted q c u && !((u.key c.keySlot).locked || (u.key c.keySlot).refusing) &&
      decide ((u.key c.keySlot).ctr < c.counter) && !(c.len ≠ 0 && d.bytes?.isNone) && (storeCounter c u).1.isNone && stateAllows q c.opcode (storeCounter c u).2) = true)
    (h4 : checkRight c (d.bytes?.getD []) u = true) : ∃ t, s.takesCritical q op c reads d t := by
  refine ⟨(storeCounter c u).2, h1, h2, ?_⟩
  subst hu
  simp only [Bool.and_eq_true, Option.isNone_iff_eq_none, decide_eq_true_eq, Bool.not_eq_true'] at h3
  obtain ⟨⟨⟨⟨⟨⟨⟨a, b⟩, e⟩, f⟩, g⟩, i⟩, j⟩, k⟩ := h3
  have hc : criticalKey q c d (s.begins q c reads) = (none, (storeCounter c (s.begins q c reads)).2) := by
    unfold criticalKey
    simp only [e, f, i, h4, Bool.not_true, Bool.false_eq_true, if_false, Nat.not_le.mpr g]
    exact Prod.ext j rfl
  simp [checkCmd, a, b, hc, k]

/-- A module of the owner, its root key present. -/
def testOwner (s : State) : State :=
  { s with sec := { s.sec with bits := { s.sec.bits with owner := 3 }, owner := { s.sec.owner with present := true, bytes := List.replicate 32 1 }, ownerGen := 1, signGen := 1 } }

/-- A command of the admin queue, signed with that key. -/
def testSigned (op handle len arg0 arg1 : Nat) (data : List Byte) (s : State) : QCmd :=
  testCmd (testSign op handle len arg0 arg1 1 data (List.replicate 32 1) s.sec.uid)

/-- That module with the command next on the admin queue. -/
def testAdmin (op handle len arg0 arg1 : Nat) (data : List Byte) (s : State) : State := testQueue adminQ [testSigned op handle len arg0 arg1 data s] (testOwner s)

/-- A quota block of 2 MiB of DRAM at 512 MiB and one channel. -/
def testQuota : List Byte := leBytes 8 0x2000_0000 ++ leBytes 8 0x20_0000 ++ leBytes 26 0 ++ leBytes 1 1 ++ leBytes 53 0

/-- Each critical command of the module, some with the data at its ADDR. -/
theorem test_admin (x : Nat × Nat × Nat × Nat × List Byte) (h : x ∈ [(0x80, 4, 96, 0, testQuota), (0x81, 3, 0, 0, []), (0x82, 0, 95, 0, []), (0x83, 0, 0, 3, []),
      (0x84, 0, 63, 0, []), (0x85, 0, 0, 0, []), (0x86, 0, 0, 0, []), (0x87, 0x1_2000, 0, 0, [])]) :
    ∃ t, (testAdmin x.1 x.2.1 x.2.2.1 x.2.2.2.1 0 x.2.2.2.2 testReady).takesCritical adminQ x.1 (testSigned x.1 x.2.1 x.2.2.1 x.2.2.2.1 0 x.2.2.2.2 testReady) true
      (.ok x.2.2.2.2) t := by
  simp only [List.mem_cons, List.mem_nil_iff, or_false] at h
  rcases h with rfl | rfl | rfl | rfl | rfl | rfl | rfl | rfl <;>
    exact test_critical _ _ _ _ _ _ _ rfl rfl (by decide +kernel) (by decide +kernel) (test_sign _ _ _ _ _ _ _ _ _ _ rfl (by decide +kernel))

/-! ## Schedules, tables and models -/

/-- A command of queue 3 with a length and two arguments. -/
def testArgs (op len arg0 arg1 : Nat) : List Byte := testSlot op 7 0 len arg0 arg1

/-- A READY entry of partition 3. -/
def testEntry : Entry where
  state := .ready
  part := 3
  tag := 1
  hostAddr := 0
  va := 0
  bytes := 0x1_0000
  hotVa := 0
  hotUnits := 1
  fmt := 0
  pinned := false
  pinMask := 0
  resident := []
  loading := []
  lru := 0
  cmd := none

/-- Entry 5 holds a model of partition 3. -/
def testModel (e : Entry) (s : State) : State := s.setEntry 5 e

theorem test_installs_schedule : (testHost (testArgs 0x20 128 0 0)).takes 3 0x20 (testCmd (testArgs 0x20 128 0 0)) ∧
    (verify 3 128 (List.replicate 128 0) ((testHost (testArgs 0x20 128 0 0)).begins 3 (testCmd (testArgs 0x20 128 0 0)) true)).isSome = true ∧
    (testHost (testArgs 0x21 0 1 0)).takes 3 0x21 (testCmd (testArgs 0x21 0 1 0)) ∧ (testHost []).schedNamed 3 1 = false := by unfold State.takes; decide +kernel

/-- One mapping that stands, and one that maps nothing. -/
theorem test_installs_mapped : (mappingBlock 3 (leBytes 16 1 ++ leBytes 2 0x100 ++ leBytes 6 1 ++ leBytes 8 0x1_0000 ++ leBytes 16 0) (testHost [])).toOption.isSome = true ∧
    (match mappingBlock 3 (leBytes 16 1 ++ leBytes 32 0) (testHost []) with | .error e => e.1 == St.verify | .ok _ => false) = true := by decide +kernel

theorem test_installs_mapping : (testHost (testArgs 0x22 48 0 0)).takes 3 0x22 (testCmd (testArgs 0x22 48 0 0)) := by unfold State.takes; decide +kernel

theorem test_installs_activation : (testModel testEntry (testHost (testArgs 0x22 4128 1 5))).takes 3 0x22 (testCmd (testArgs 0x22 4128 1 5)) ∧
    (testModel testEntry (testHost [])).entryInUse testEntry = false ∧ testEntry.tableSpot.isSome = true ∧
    bitsOf (testCmd (testArgs 0x22 4128 1 5)).arg1 5 0 = 5 := by unfold State.takes; decide +kernel

theorem test_modelsReload_commands : (testHost (testArgs 0x23 64 0 0)).takes 3 0x23 (testCmd (testArgs 0x23 64 0 0)) ∧
    loadBad 64 (List.replicate 64 0) = true ∧ loadBad 64 (leBytes 8 1 ++ List.replicate 32 0 ++ leBytes 24 1) = false ∧
    (testModel testEntry (testHost (testArgs 0x24 0 5 0))).takes 3 0x24 (testCmd (testArgs 0x24 0 5 0)) ∧
    (testModel testEntry (testHost (testArgs 0x25 0 5 0))).takes 3 0x25 (testCmd (testArgs 0x25 0 5 0)) ∧
    (testModel testEntry (testHost [])).pinClaim 3 0 5 + testEntry.hotUnits ≤ ((testHost []).quota 3).pinUnits := by unfold State.takes; decide +kernel

/-- A load block of one 2 MiB leaf, and partition 3 with that leaf, RET and read-only, at virtual address 0. -/
def testLoadBlock : List Byte := leBytes 8 1 ++ leBytes 8 0 ++ leBytes 8 0 ++ leBytes 8 0x20_0000 ++ leBytes 8 0 ++ leBytes 24 1
def testLoad : State := (((testHost (testArgs 0x23 64 0 0)).poke 0 (leBytes 8 0x1001)).poke 0x1000 (leBytes 8 0x2001)).poke 0x2000 (leBytes 8 (3 + 0x1000_0000 + 2 ^ 50 + 2 ^ 54))

theorem test_modelsReload_load : loadBad 64 testLoadBlock = false ∧ testLoad.entryByTag 3 (loadEntry 3 testLoadBlock).tag = none ∧ (takeEntry 3 testLoad).1 = some 0 ∧
    (takeEntry 3 testLoad).2.loadFits (loadEntry 3 testLoadBlock) = true ∧
    ((takeEntry 3 testLoad).2.imageOf 3 0 0x20_0000).any (fun ls => ls.length == 1 && (testLoad.pagesBad 3 ls).isEmpty && testLoad.imageGood (loadEntry 3 testLoadBlock) ls) = true ∧
    (takeEntry 3 testReady).2.loadFits (loadEntry 3 testLoadBlock) = false := by decide +kernel

theorem test_modelsReload_sets : ({ testEntry with loading := [(0, 0)] } : Entry).loading.find? (fun r => r.1 == 0) = some (0, 0) ∧
    ({ testEntry with state := .broken, damage := [0x20_0000] } : Entry).damage ≠ [] ∧
    (testModel { testEntry with state := .broken, damage := [0x20_0000] } testReady).copyOf { testEntry with state := .broken, damage := [0x20_0000] } .timeout = .timeout ∧
    ({ testEntry with state := .reloading } : Entry).damage = [] := by decide +kernel

/-! ## Jobs, cores and the dispatcher -/

/-- A job block of one step that runs schedule 0 twice, and the same with a step that names no schedule. -/
def testJobBlock (sched : Nat) : List Byte := leBytes 2 0 ++ leBytes 2 1 ++ leBytes 12 0 ++ leBytes 2 sched ++ leBytes 2 2 ++ leBytes 12 0

/-- A job of partition 3. -/
def testJob (excl : Bool) : Job where
  part := 3
  cmd := 0
  cmdId := 7
  excl := excl
  cores := if excl then 1 else 0
  steps := jobSteps (testJobBlock 0) 1
  step := 0
  rep := 0
  done := 0
  held := []
  running := false
  order := 0
  doorbell := 0
  cancel := []

/-- Schedule 0 is a kernel, and a job of it waits. -/
def testJobs (excl : Bool) (s : State) : State :=
  { s with disp := { s.disp with scheds := [(0, { testSched false [] with kernel := true })], jobs := [(0, testJob excl)], nextJob := 1 } }

theorem test_jobs_submit : (testJobs false (testHost (testArgs 0x28 32 0 0))).takes 3 0x28 (testCmd (testArgs 0x28 32 0 0)) ∧
    jobBad ((testHost []).quota 3) 32 (testJobBlock 0) = false ∧ (jobSteps (testJobBlock 0) 1).any ((testJobs false (testHost [])).stepBad 3 false 0) = false ∧
    (jobSteps (testJobBlock 9) 1).any ((testJobs false (testHost [])).stepBad 3 false 0) = true ∧ jobBad ((testHost []).quota 3) 33 (testJobBlock 0) = true := by
  unfold State.takes; decide +kernel

theorem test_jobs_cancel : (testJobs false (testHost (testArgs 0x29 0 0 7))).takes 3 0x29 (testCmd (testArgs 0x29 0 0 7)) ∧
    ((testJobs false (testHost [])).disp.jobs.find? (fun j => j.2.part == 3 && j.2.cmdId == 7)).isSome = true ∧
    (testQueue 64 [testCmd (testArgs 0x41 0 0x100 0)] testReady).takes 64 0x41 (testCmd (testArgs 0x41 0 0x100 0)) ∧ bitsOf 0x100 31 9 = 0 ∧
    testReady.coreIdle 0 = true ∧ (testCore []).coreIdle 0 = false ∧ testReady.runsOn 0 = [] ∧ ({ testJob false with running := true } : Job).running = true := by unfold State.takes; decide +kernel

/-- Core 0 is EXCLUSIVE and idle. -/
def testExcl : State := (testJobs true (testPart testReady)).setCore 0 { excl := true }

theorem test_dispatchOrder_jobs : testExcl.mayDispatch = true ∧ testExcl.firstExcl = some (0, testJob true) ∧
    (testExcl.pickSched (.job 0)).map Prod.fst = some 0 ∧ (testExcl.coreSt 0).excl = true ∧ testExcl.coreIdle 0 = true ∧
    testReady.withheld = false ∧ testReady.sharedIdle 0 = true ∧ testReady.picks = [] ∧ (testAt 5).mayDispatch = false ∧ testExcl.sharedIdle 0 = false := by decide +kernel

/-- A flood run of stream 5 whose reserved start is now. -/
def testCohort : Cohort := { sched := 0, ebb := false, period := 1, k := 8, bmax := 4, die := 0, offset := 0, members := [5], xfers := [], windows := [] }

/-- That run in the plan. -/
def testRuns : State := let s := testScheds [] ((testPart testReady).setStream 5 testStream); { s with strm := { s.strm with cohorts := [(1, testCohort)] } }

theorem test_dispatchOrder_run : testRuns.mayDispatch = true ∧ tfind testRuns.strm.cohorts 1 = some testCohort ∧ (tfind testRuns.disp.scheds testCohort.sched).isSome = true ∧
    (testCohort.startAt testRuns.time).isSome = true ∧ testCohort.ran = none ∧ testRuns.sharedIdle 0 = true ∧ testRuns.sharedIdle 1 = true := by decide +kernel

theorem test_jobs_reserved : testRuns.runsOn 0 ≠ [] ∧ (tget testRuns.disp.cores 0 {}).excl = false ∧ bitsOf 0x100 8 8 = 1 := by decide +kernel

/-- A SHARED job, its place kept, once its program stands there. -/
theorem test_dispatchOrder_shared : let s := testJobs false (testPart testReady); let h : Schedule := { testSched false [] with kernel := true }
    s.picks = [(2, 0, .job 0)] ∧ s.pickSched (.job 0) = some (0, h) ∧ s.depGone h = false ∧ (placement (.job 0) 0 h s).1 = some [0] ∧
    (placement (.job 0) 0 h s).2.sharedIdle 0 = true ∧ (startable 0 h [0] (placement (.job 0) 0 h s).2).1 = true ∧
    (placement (.job 0) 0 h (testJobs false testReady)).1 = none ∧ ({ h with deps := [1] } : Schedule).deps.any (fun t => (s.entryByTag 3 t).isNone) = true := by decide +kernel

theorem test_dispatchOrder_prepared : (prepare 0 (testSched false []) [0, 1] testRuns).1 = true ∧
    (prepare 0 { testSched false [] with deps := [1] } [0, 1] testRuns).1 = false := by decide +kernel

theorem test_commandEnds : ((testCore []).coreSt 0).cmd = some 0 ∧ tfind (testCore []).disp.cmds 0 = some testCommand ∧ (testCore []).enginesQuiet 0 = true ∧
    (testCore []).dmaQuiet 0 none = true ∧ (testCore []).cancelDrains testCommand = false ∧ ((testCore []).engines 0).seq.any Seq.ended = false ∧
    (((testCore []).setSeq 0 (some { prog := 0, ended := true })).engines 0).seq.any Seq.ended = true := by decide +kernel

/-! ## Partitions and zeroing -/

theorem test_partitions : quotaBad 96 testQuota = false ∧ quotaBad 95 testQuota = true ∧ testReady.partition 4 = none ∧ tfind testReady.disp.creating 4 = none ∧
    testReady.quotaOver 4 (quotaOf testQuota) = false ∧ ((testPart testReady).partition 3).map Partition.state = some .active ∧
    testReady.clean 0x2000_0000 0x20_0000 = true ∧ 1 ≤ testReady.freeChannels.length ∧ testReady.emptied 5 = true ∧
    (testPart testReady).takesBusy 3 1 = false ∧ ((testOwned (testPart testReady)).setChan 9 { run := some (testDma testCopy 64) }).takesBusy 3 0 = true ∧
    (allocTable 4 4096 testReady).1 ≠ none ∧ (allocTable 4 4096 (testReady.setFld F.xlTableMibMib 0)).1 = none ∧
    ({ testReady with mc := { testReady.mc with dirty := [testReady.pair R.xlTableBase / 0x1_0000] } } : State).tablesDirty = true ∧ testReady.tablesDirty = false := by decide +kernel

theorem test_resetsAndZeroing : testReady.boot.powered = true ∧ 7 ∉ testReady.mc.dirty ∧ 7 ∈ ({ testReady with mc := { testReady.mc with dirty := [7] } } : State).mc.dirty ∧
    testReady.zeroWaits (.part 4) = none ∧ ((testPart testReady).channelsOf 3) = [] ∧ testReady.partWriting 3 = false ∧
    (3, 3) ∈ ({ testReady with tide := { testReady.tide with zeroing := [(3, 3)] } } : State).tide.zeroing := by decide +kernel

/-! ## Sections, swap and scrub -/

/-- The move of a section of stream 5. -/
def testMove (sect kind : Nat) : Move := { desc := 5, ebb := false, sect := sect, kind := kind }

/-- A transfer under way. -/
def testMoving (m : Move) : State := { testRuns with tide := { testRuns.tide with moves := [m] } }

/-- A section to fetch, one under way at its planned time, and a plan with none. -/
theorem test_sectionMoves : (testRuns.sectionOf testCohort 0).isSome = true ∧ testRuns.boot.powered = true ∧
    ((testRuns.sectionOf testCohort 0).all (fun g => (testRuns.sectIdx testStream false g).length == 1 && (testRuns.badPages testStream (testRuns.sectIdx testStream false g)).isEmpty)) = true ∧
    testRuns.quotaFull 3 1 = false ∧ testRuns.tide.moves = [] ∧ testStream.inShare = false ∧ testRuns.failStopped = false ∧
    (∃ m ∈ (testMoving (testMove 0 0)).tide.moves, m.desc ∈ testCohort.members ∧ m.ebb = testCohort.ebb ∧ m.sect = 0 ∧ (m.kind ≤ 2 ∨ m.kind = 6)) ∧ testRuns.quotaFull 3 65 = true ∧
    testRuns.ckptOwed testStream false = false := by decide +kernel

/-- A stream with work whose whole allocation lies in swap, and one that leaves the pool. -/
theorem test_wholeMoves : ({ testStream with pages := [0, 1], ready := [(0, 160)] } : Stream).hasWork = true ∧ testStream.leased = true ∧ testStream.grans = [] ∧
    testRuns.roomFor 3 2 = true ∧ testRuns.roomFor 3 65 = false ∧ ({ testStream with swapping := true } : Stream).swapping = true ∧
    testMove 0 4 ∈ (testMoving (testMove 0 4)).tide.moves ∧ testReady.fld F.tpSwapCfgSwapLow ≤ testReady.shareFree ∧
    (testReady.setFld F.tpSwapCfgSwapLow 20000).shareFree < (testReady.setFld F.tpSwapCfgSwapLow 20000).fld F.tpSwapCfgSwapLow ∧
    testReady.evictList = [] ∧ (testMoving (testMove wholePart 2)).tide.target = none ∧ (testMoving (testMove 0 4)).tide.moves.any (fun m => m.desc == 5 && m.kind == 3) = false ∧
    (testMoving (testMove 0 3)).tide.moves.any (fun m => m.desc == 5 && m.kind == 3) = true := by decide +kernel

theorem test_scrubAndRefresh : (testCore []).regionAt 0 0 = some (0, { retained := false, part := 3, base := 0, units := 16 }) ∧
    (testCore []).regionAt 0 0x10_0000 = none ∧ testReady.fld (F.spScrubStatLagMs 0) = 0 ∧ testReady.fld F.tpScrubStatLagMs = 0 ∧
    testReady.fld F.mcScrubStatLagS = 0 ∧ (testReady.setFld F.mcScrubStatLagS 9).fld F.mcScrubStatLagS ≠ 0 ∧ testReady.mc.poison = [] ∧ (tget testReady.mc.demand 0 (0, 0)).1 = 0 ∧ 9 ∉ testReady.tide.held := by decide +kernel

/-! ## Serial audio ports -/

/-- Port 0 as an I2S port of 16-bit slots at 8 kHz with a ring in DRAM, and EN as given. -/
def testAudio (en : Bool) : State :=
  ((((testReady.setFld (F.apCfgBclkDiv 0) 16).setReg (R.apFloodMask 0) 1).setReg (R.apEbbMask 0) 1).setPair (R.apRingBase 0) (0x1000_0000 + 16)).setBit (F.apCtrlEn 0) en

theorem test_portSetup : (testAudio false).passes .pf0 (R.apCtrl 0) = true ∧ (testAudio false).bit (F.apCtrlEn 0) = false ∧ (testAudio false).apCheck 0 2 = none ∧
    testReady.apCheck 0 2 ≠ none ∧ (testAudio true).bit (F.apCtrlEn 0) = true ∧ (testAudio true).strm.table = [] ∧
    ((testAudio true).setPort 0 { observing := true }).outputsOff = false ∧ (testAudio true).fld (F.acsStatusState 0) ≠ 4 ∧
    (testAudio true).nextBad 0 (0x2000_0000 + 16) = none ∧ (testAudio true).nextBad 0 (0x1000_0000 + 16) = some 0x0A ∧ (testAudio true).passes .pf0 (R.apRingBaseNext 0 + 4) = true := by
  decide +kernel

/-- The port with the values given beside its registers. -/
def testPort (p : Port) : State := (testAudio true).setPort 0 p

theorem test_portFrames : (testPort {}).framing 0 = true ∧ (testAudio false).framing 0 = false ∧ ((testPort { dropping := 2 }).port 0).dropping = 2 ∧
    (testPort {}).apMask 0 true ≠ 0 ∧ ((testPort { idx := 5, landed := 4 }).port 0).landed < ((testPort { idx := 5, landed := 4 }).port 0).idx ∧
    ((testPort { idx := 8, commit := some (0x2000_0010, 8) }).port 0).commit = some (0x2000_0010, 8) ∧ ((testPort { idx := 8, slip := some (true, 1, 8) }).port 0).slip = some (true, 1, 8) ∧
    (testPort { idx := 12, landed := 12, old := some (0x2000_0010, 8, 10) }).oldConsumed 0 = true ∧ (testPort {}).oldConsumed 0 = false ∧
    (testPort {}).bit (F.apStatusSyncLost 0) = false ∧ ((testPort {}).setFld F.timeStatusState 0).fld F.timeStatusState ≠ 2 ∧
    (testPort {}).floodAddr 0 4 + (testPort {}).stride 0 false ≤ hostWindow := by decide +kernel

/-- A chunk that has ended at a port, its slot free, and one whose slot is full. -/
theorem test_portFrames_chunks : ({ testStream with par := { testPar with hostFed := false }, ended := [(0, 160)], grans := [(0, 1)] } : Stream).ended = (0, 160) :: [] ∧
    (∀ j ∈ testStream.full, j % 2 ≠ 0) ∧ (∃ j ∈ ({ testStream with full := [2] } : Stream).full, j % 2 = 0 % 2) ∧ Nat.testBit (tget testStream.flags 0 0) 16 = false ∧
    testReady.failStopped = false ∧ (testReady.setBit F.errFsStatusActive true).failStopped = true := by decide +kernel

theorem test_portSync : let s := ((testPort { virt := 4 }).setBit (F.apStatusRunning 0) true).setFld (F.apStatusRoleNow 0) 2
    s.bit (F.apStatusRunning 0) = true ∧ s.fld (F.apStatusRoleNow 0) = 2 ∧ s.bit (F.apStatusSyncLost 0) = false ∧ s.outputsOff = false ∧
    (s.setBit (F.apStatusSyncLost 0) true).bit (F.apStatusSyncLost 0) = true ∧ (s.port 0).commit = none ∧ 4 ≤ (s.port 0).virt ∧ s.fld (F.acsStatusState (s.fld (F.apCfgAcs 0))) ≠ 4 ∧ (s.setFld (F.acsStatusState 0) 4).fld (F.acsStatusState (s.fld (F.apCfgAcs 0))) = 4 ∧
    ((s.setStream 5 { testStream with par := { testPar with hostFed := false } }).boundTo 0).any (fun x => x.2.leased) = true ∧
    Nat.testBit ((testPort { hwFlag := 1, quiet := [(0, 9)] }).port 0).hwFlag 0 = true ∧ (tfind ((testPort { hwFlag := 1, quiet := [(0, 9)] }).port 0).quiet 0).isSome = true := by decide +kernel

theorem test_tidemarks : testReady.passes .pf0 (markOff .evq + 4) = true ∧ testReady.passes .pf0 (markOff .evq) = true ∧ tmAlarm 5 5 = false ∧ tmAlarm 5 6 = true := by decide +kernel

/-! ## Links and what a module knows of its tray -/

/-- What the module in bay 1 says. -/
def testHello : Hello := { bay := 1, stage := 1, scope := 0, time := 0, uid := 2, epoch := 0, fw := [], link := 0 }

/-- Link 0 in a state, its far end bay 1 as it said hello. -/
def testLink (st : Nat) (l : LinkState) : State := ((testReady.setFld F.fabStatusStage 1).setFld (F.linkStatusState 0) st).setLink 0 l

/-- A flit in sequence, and one whose CRC is wrong. -/
def testFlit (ok : Bool) : Flit := { crcOk := ok, corrected := 0, uncorrectable := 0, data := true, seq := 0, ack := 0, credit := 0, cvl := 0, cclass := 0 }

theorem test_links : (testLink 0 {}).deaf = false ∧ (testLink 0 {}).bit (F.linkCtrlDisable 0) = false ∧ (testLink 0 {}).fld (F.linkStatusState 0) = 0 ∧
    (testLink 1 {}).fld (F.linkStatusState 0) = 1 ∧ (testLink 3 {}).fld (F.linkStatusState 0) = 3 ∧ widthOf 255 255 true = some (0, 8) ∧ widthOf 0xF0 0xF0 true = some (4, 4) ∧
    widthOf 3 3 true = none ∧ ((testLink 3 { naks := 8 }).link 0).naks = 8 ∧ (testLink 3 {}).passes .pf0 (R.linkCtrl 0) = true ∧
    (testFlit true).seq.val = ((testLink 3 {}).link 0).rxSeq ∧ (testFlit true).seq.val ≠ ((testLink 3 { rxSeq := 1 }).link 0).rxSeq ∧ (testFlit false).crcOk = false ∧
    ((testLink 3 { scopeDiffer := true }).link 0).scopeDiffer = true ∧ (testLink 3 {}).linkUp 0 = true := by decide +kernel

/-- The head of a message from bay 1 by link 0. -/
def testHeadOf : MsgHead := { src := 1, id := 7, hops := 0, link := 0, part := some 3 }

/-- The link is open to that bay. -/
def testOpenLink : State := testPart (testLink 3 { far := some testHello })

theorem test_fabricState : testOpenLink.hears testHeadOf = true ∧ testOpenLink.firstSeen testHeadOf = true ∧ testReady.hears testHeadOf = false ∧
    (testLink 1 {}).deaf = false ∧ testHello.bay < 16 ∧ testHello.scope = testReady.fld F.errScopeScope ∧ testOpenLink.ready = true ∧ testOpenLink.bay = 0 ∧
    testOpenLink.routeOf 1 = none ∧ (tfind ({ testOpenLink.fab with table := [(1, {})] } : Fab).table 1).isSome = true ∧
    ((testReady.setBit F.errScopePending true).bit F.errScopePending = true) ∧ (testReady.setBit F.errScopePending true).pair R.errScopeTime ≤ testReady.time ∧
    (testReady.setBit F.errScopeScope true).fab.failedSent = false := by decide +kernel

/-! ## Leases, transfers, checkpoints and peer data -/

/-- A transfer of the stream to bay 1, from the source's side. -/
def testXfer (stage : Nat) : Xfer := { source := true, bay := 1, offered := true, stage := stage, gotFlood := false, gotEbb := false, epoch := 1, cmd := none, remap := false }

theorem test_leaseTransfer : ((testOpenLink.setStream 5 testStream).findHandle 0x1_2000) = some (5, testStream) ∧ testStream.epoch = 1 ∧ testStream.leased = true ∧
    (testOpenLink.findHandle 9 = none) ∧ (testOpenLink.setStream 5 { testStream with xfer := some (testXfer 0) }).xferSource 0x1_2000 1 =
      some (5, { testStream with xfer := some (testXfer 0) }, testXfer 0) ∧ testOpenLink.fab.offers = [] ∧ testStream.ebbQueued ≤ 0x100000 ∧
    (let s := ({ testOpenLink with fab := { testOpenLink.fab with table := [(1, { stage := 1 })] } } : State).setFld F.fabReachReachable 2; s.stageOf 1 = 1 ∧ s.reaches 1 = true) := by decide +kernel

/-- The admin queue's STREAM_TRANSFER of a stream of partition 3 passes the checks of R245. -/
theorem test_leaseTransfer_command : ∃ t, (testAdmin 0x87 0x1_2000 0 1 0 [] (testOpenLink.setStream 5 testStream)).takesCritical adminQ 0x87
    (testSigned 0x87 0x1_2000 0 1 0 [] (testOpenLink.setStream 5 testStream)) true (.ok []) t :=
  test_critical _ _ _ _ _ _ _ rfl rfl (by decide +kernel) (by decide +kernel) (test_sign _ _ _ _ _ _ _ _ _ _ rfl (by decide +kernel))

/-- A record without a body, its check sums not those of R429. -/
theorem test_checkpoints : parseRecord [] = none ∧ testOpenLink.tide.old = [] ∧ 2 ∉ testOpenLink.fab.remap ∧ 1 ∈ ({ testOpenLink.fab with remap := [1] } : Fab).remap ∧
    ({ testOpenLink with tide := { testOpenLink.tide with target := some 1 } } : State).tide.target = some (testHeadOf.src : Nat) ∧ (testStream.dir false).ckptLast = 0 := by decide +kernel

theorem test_checkpoints_record : (parseRecord (ckptRecord { testStream with raw := List.replicate 64 0 } false 0 1 0 1 [])).any (fun r => r.handle == 0x1_2000 && r.seq == 1 && r.srcBay == 1 &&
    (storeRecord r testOpenLink).isSome && testOpenLink.staleRec r == false) = true := by decide +kernel

theorem test_peerData : testOpenLink.peerGood (some 3) 0x1000_0000 64 = true ∧ testOpenLink.peerGood (some 3) 0x2000_0000 64 = false ∧
    testOpenLink.badIn 0x1000_0000 64 = [] ∧ testOpenLink.waiter 1 7 true = none ∧ testOpenLink.boot.fetches = [] ∧
    (testOpenLink.setChan 9 { waits := [{ id := 7, bay := 1, ch := 9, at_ := 0, len := 64, read := true }] }).waiter 1 7 true =
      some (9, { id := 7, bay := 1, ch := 9, at_ := 0, len := 64, read := true }) := by decide +kernel

/-- A LISTEN port that runs, its first pair latched. -/
theorem test_peerData_standby : let s := (((testOpenLink.setPort 0 { idx := 9, latched := true, homeBay := some 1 }).setBit (F.apCtrlEn 0) true).setFld (F.apCtrlRole 0) 2).setBit (F.apStatusRunning 0) true |>.setFld F.timeStatusState 0
    s.hears testHeadOf = true ∧ s.bit (F.apCtrlEn 0) = true ∧ s.fld (F.apCtrlRole 0) = 2 ∧ s.fld F.timeStatusState ≠ 2 ∧ s.bit (F.apStatusRunning 0) = true ∧
    (s.port 0).idx ≠ 0 ∧ (s.port 0).latched = true ∧ (s.port 0).homeBay = some (testHeadOf.src : Nat) ∧ (s.port 0).idx ≤ 9 ∧ 8 < (s.port 0).idx := by decide +kernel

/-- A descriptor that runs, one of its own peer accesses and one of an earlier descriptor's. -/
theorem test_peerData_waits : ∀ own, ((testReady.setChan 9 { run := some (testDma testCopy 64), waits := [{ id := 7, bay := 1, ch := 9, at_ := 0, len := 64, read := true, own := own }] }).chan 9).run
    = some (testDma testCopy 64) ∧ testReady.bit (F.dmaChCtrlAbort 9) = false := by decide +kernel

/-! ## Time and synthesizers -/

/-- The time base with the values given, TIME_STATUS.STATE as given. -/
def testTime (st : Nat) (b : TimeB) : State := { testReady.setFld F.timeStatusState st with timeB := b }

theorem test_timeStatus : ([] : List Byte).length ≠ 22 ∧ testReady.timeMessage.length = 22 ∧ 16 ≤ (testTime 0 { bad := 16 }).timeB.bad ∧ 100 ≤ (testTime 1 { missed := 100 }).timeB.missed ∧
    (testTime 1 {}).fld F.timeStatusState = 1 ∧ (testTime 0 {}).bit F.timeStatusHoldover = false ∧ (testTime 1 { good := 100 }).fld F.timeStatusState = 1 ∧
    1000 ≤ (testTime 2 { good := 1000 }).timeB.good ∧ (testReady.setBit (F.acsCtrlEn 0) true).fld (F.acsStatusState 0) ≠ 4 := by decide +kernel

/-- An announced time that is the first, one within 10 us, and one beyond it. -/
theorem test_trayTicks : (testTime 0 { next := some 5 }).timeB.loaded = false ∧ ((testTime 0 { next := some 5, loaded := true }).time : Int) - 5 ≤ 10000 ∧
    10000 < (((testTime 0 { next := some 20000, loaded := true }).time : Int) - 20000).natAbs ∧ (testTime 0 { next := some 5, loaded := true, stepDue := true }).timeB.stepDue = true := by
  decide +kernel

theorem test_synthesizers : testReady.passes .pf0 (R.acsCtrl 0) = true ∧ testReady.acsBusy 0 = false ∧ (testAudio true).acsBusy 0 = true ∧ testReady.bit (F.acsCtrlEn 0) = false ∧
    (testReady.setReg (R.acsCtrl 0) 0).acsCheck 0 = none ∧ (testReady.setReg (R.acsCtrl 0) 6).acsCheck 0 = some 1 ∧
    101 ≤ (tget ({ testReady with acs := [(0, { ticks := 101 })] } : State).acs 0 {}).ticks ∧ (testReady.setFld (F.acsStatusState 0) 4).fld (F.acsStatusState 0) = 4 := by decide +kernel

/-! ## Keys, life cycle, debug, service, faults and start-up -/

theorem test_securityCommands : stepListed 2 3 = true ∧ stepListed 2 1 = false ∧ (testOwner testReady).sec.lc = 2 ∧ (testOwner testReady).targetGood 1 = true ∧
    (testOwner testReady).sec.ownerGen + (testOwner testReady).sec.ownerVoid < 8 ∧ (testOwner testReady).sec.lockout = false ∧ testReady.sec.lc = 0 ∧
    (testOwner testReady).passes .debug R.secDbgResp7 = true ∧ testReady.boot.powered = true := by decide +kernel

/-- A policy change at a tick 200 ms ahead, and one too early. -/
theorem test_serviceCommands : updateBad 64 (leBytes 16 0 ++ leBytes 48 256) = false ∧ updateBad 63 [] = true ∧ (200000000 % 1000000 = 0 ∧ testReady.time + 100000000 ≤ 200000000) ∧
    testReady.ready = true ∧ testReady.failStopped = false ∧ testReady.anyLost = false ∧ testReady.passes .pf0 R.errSvcCtrl = true ∧ testReady.releasable false = false ∧
    (testReady.setBit F.errFsStatusActive true).releasable false = true ∧ (testReady.setFld F.fabStatusStage 1).fld F.fabStatusStage = 1 ∧ testReady.strm.table = [] ∧ testReady.disp.jobs = [] := by
  decide +kernel

theorem test_faultsAndLimits : (testReady.reg (R.meFault 0)).getLsbD 31 = false ∧ testReady.failStopped = false ∧ testReady.stage = 8 ∧ (testAt 5).stage < 8 ∧ 9 ≤ (testAt 9).stage ∧
    0x10 ∈ sensorCodes ∧ 0x10 ∉ testReady.boot.warm ∧ testReady.pins.thermtripN = false ∧ testReady.boot.powerLimit * 98 < 1100 * 100 ∧ testReady.bit F.hubAlertPower = false ∧
    900 * 100 < testReady.boot.powerLimit * 95 ∧ testReady.bw.tripped = false ∧ ({ testReady.bw with wet := [3], supply := true } : Breakwater).wet ≠ [] := by decide +kernel

/-- A start that meets nothing unusual. -/
def testEnv : StartEnv := { torn := none, otpGood := true, hot := false, badFlash := [], dram := true, links := true, stall := none }

theorem test_starts : ({ testReady with boot := { testReady.boot with restartDue := true } } : State).boot.restartDue = true ∧ testReady.sec.lc ≠ 5 ∧ testEnv.otpGood = true ∧
    testReady.fld F.hubBootAttemptsCount < testReady.fld F.hubBootAttemptsLimit ∧ testReady.bit F.hubBootAttemptsSkipA = false ∧ (testAt 5).boot.powered = true ∧
    (testAt 5).boot.restartDue = false ∧ (testAt 5).stage = 5 ∧ ({ testReady with pins := { testReady.pins with heartbeat := true } } : State).pins.heartbeat = true := by decide +kernel

/-- A record that agrees with the module's own, and one of another epoch. -/
theorem test_readiness : (testAt 7).stage = 7 ∧ (testAt 7).boot.restartDue = false ∧ (testAt 7).modelsReady = true ∧ (testAt 7).portsSteady = true ∧ (testAt 6).stage = 6 ∧
    (testAt 6).disagrees (testAt 6).ownRecord = none ∧ (testAt 6).disagrees { (testAt 6).ownRecord with epoch := 9 } = some 1 ∧
    testReady.ready = true ∧ testReady.boot.stable = false ∧ ({ testReady with time := 600000000000 } : State).boot.readySince + 600000000000 ≤ 600000000000 ∧
    testReady.passes .pf0 R.hubBootCtrl = true := by decide +kernel

/-! ## The management link and the Lighthouse -/

/-- The Lighthouse runs, and bay 2 is present, powered and steady. -/
def testLh : State :=
  (((testReady.setLhBit F.lhStatusRunning true).setLhBit (F.lhBayStatePowered 2) true).setLhBit (F.lhBayStatePresent 2) true).setLhBay 2 { steady := true }

/-- A re-flash of bay 2. -/
def testJobOf (begun : Bool) : FlashJob := { slot := 0, image := List.replicate 8 1, begun := begun }

theorem test_managementLink : testReady.boot.powered = true ∧ testLh.lhUp = true ∧ testLh.myBay ≠ 2 ∧ ((testLh.setLhBay 2 { job := some (testJobOf false) }).lhBay 2).job = some (testJobOf false) ∧
    (testLh.setLhBay 2 { job := some (testJobOf false) }).mayBegin 2 = true ∧ ((testJobOf true).image.drop 0).take (min 8 4096) ≠ [] ∧ testReady.boot.reflash = none ∧
    testLh.lhRecord = none ∧ (testLh.setLhBit F.lhRecordScopeSet true).lhRecord.isSome = true ∧ testLh.lh.asked = [] ∧ testReady.lhUp = false := by decide +kernel

/-- A command of the Lighthouse, and one signed with its host key. -/
def testLhCmd (op len arg0 : Nat) (data : List Byte) : List Byte :=
  if 0x80 ≤ op then testSign op 0 len arg0 0 1 data (List.replicate 32 2) (testLh.lhPair R.lhUid) else testSlot op 7 0 len arg0 0

/-- The command at the head of the Lighthouse's queue. -/
def testMailbox (op len arg0 : Nat) (data : List Byte) : State :=
  let s := testLh.setKey (lhSlot 1) { present := true, bytes := List.replicate 32 2 }
  { s with lh := { s.lh with queue := [{ raw := testLhCmd op len arg0 data, rack := false, data := [] }] } }

/-- A store descriptor of a kind whose content comes from host memory. -/
def testStore (kind : Nat) : List Byte := leBytes 1 kind ++ leBytes 7 0 ++ leBytes 8 (if kind = 3 then 0 else 4096) ++ leBytes 8 (if kind = 3 then 0 else 16) ++ leBytes 40 0

theorem test_lighthouseCommands_plain : (testMailbox 0 0 0 []).lhTakes (isOp 0x00) (.ok []) (testCmd (testLhCmd 0 0 0 [])) [] (testMailbox 0 0 0 []) ∧
    (testMailbox 0x61 0 4 []).lhTakes (isOp 0x61) (.ok []) (testCmd (testLhCmd 0x61 0 4 [])) [] (testMailbox 0x61 0 4 []) :=
  ⟨⟨by decide +kernel, rfl, _, _, rfl, rfl, rfl, by decide +kernel, by decide +kernel, by rw [if_neg (by decide +kernel)]⟩,
   ⟨by decide +kernel, rfl, _, _, rfl, rfl, rfl, by decide +kernel, by decide +kernel, by rw [if_neg (by decide +kernel)]⟩⟩

/-- A critical command that passes every other check takes effect. -/
theorem test_lhCritical (mine : QCmd → List Byte → Bool) (op len arg0 : Nat) (data : List Byte) (c : QCmd) (s : State) (hs : s = testMailbox op len arg0 data)
    (hc : c = testCmd (testLhCmd op len arg0 data)) (h : 0x80 ≤ op) (hl : fieldAt (testHead op 0 len arg0 0 1) 16 4 = len) (hk : c.keySlot = 1)
    (hx : (s.lhUp && mine c data && (lhForm c).isNone && c.isCritical && lhKeyPermitted false c s && decide (0 < c.counter)) = true) : ∃ t, s.lhTakes mine (.ok data) c data t := by
  have hr : c = testCmd (testSign op 0 len arg0 0 1 data (List.replicate 32 2) (testLh.lhPair R.lhUid)) := by rw [hc, testLhCmd, if_pos h]
  have hm := test_sign op 0 len arg0 0 1 data _ _ c hr hl
  simp only [Bool.and_eq_true, Option.isNone_iff_eq_none, decide_eq_true_eq] at hx
  obtain ⟨⟨⟨⟨⟨a, b⟩, e⟩, f⟩, g⟩, i⟩ := hx
  have hq : s.key (lhSlot c.keySlot) = { present := true, bytes := List.replicate 32 2 } := by rw [hk, hs]; rfl
  have hu : s.lhPair R.lhUid = testLh.lhPair R.lhUid := by rw [hs]; rfl
  refine ⟨(lhKeyCheck false c (some data) s).2, a, by rw [hs]; rfl, { raw := testLhCmd op len arg0 data, rack := false, data := [] }, [], by rw [hs]; rfl, hc, rfl, b, e, ?_⟩
  rw [if_pos f]
  refine Prod.ext ?_ rfl
  simp only [lhKeyCheck, g, hq, Bool.not_true, Bool.false_eq_true, if_false, Bool.or_self, Nat.not_le.mpr i, lhMessage, hu]
  simp only [lhData, HostRead.bytes?, Option.isNone_some, Bool.and_false, Option.getD_some, bne, hm, Bool.not_true, Bool.false_eq_true, if_false]

theorem test_lighthouseCommands : ∀ x ∈ [(0x88, 0, 0x4_0004), (0x88, 0, 0x1_0004), (0x88, 0, 0x6_0004), (0x89, 0, 4), (0x8A, 0, 2), (0x8B, 0, 0), (0x8C, 48, 0), (0x8E, 32, 0), (0x8F, 96, 0)],
    ∃ t, (testMailbox x.1 x.2.1 x.2.2 (List.replicate x.2.1 0)).lhTakes (if x.1 = 0x88 then isPower (bitsOf x.2.2 17 16) else isOp x.1) (.ok (List.replicate x.2.1 0))
      (testCmd (testLhCmd x.1 x.2.1 x.2.2 (List.replicate x.2.1 0))) (List.replicate x.2.1 0) t := by
  intro x h
  simp only [List.mem_cons, List.mem_nil_iff, or_false] at h
  rcases h with rfl | rfl | rfl | rfl | rfl | rfl | rfl | rfl | rfl <;>
    exact test_lhCritical _ _ _ _ _ _ _ rfl rfl (by decide) (by decide +kernel) (by decide +kernel) (by decide +kernel)

theorem test_lighthouseCommands_store : ∀ k ∈ [0, 1, 2, 3], storeBad (testCmd (testLhCmd 0x8D 64 0 (testStore k))) (testStore k) = false ∧
    ∃ t, (testMailbox 0x8D 64 0 (testStore k)).lhTakes (isKind k) (.ok (testStore k)) (testCmd (testLhCmd 0x8D 64 0 (testStore k))) (testStore k) t := by
  intro k h
  simp only [List.mem_cons, List.mem_nil_iff, or_false] at h
  rcases h with rfl | rfl | rfl | rfl <;>
    exact ⟨by decide +kernel, test_lhCritical _ _ _ _ _ _ _ rfl rfl (by decide) (by decide +kernel) (by decide +kernel) (by decide +kernel)⟩

theorem test_lighthouseRuns : testLh.lhUp = true ∧ testReady.lhUp = false ∧ (1 : Word).getLsbD 0 = true ∧ testLh.lhBit F.mbStatusBusy = false ∧ testLh.lh.grace = false ∧
    (testSlot 0 7 0 0 0 0).length = 64 ∧ (testMailbox 0 0 0 []).lh.queue.length = 1 ∧ testLh.allowed 1 = false := by decide +kernel

/-- A point of a powered bay within its limits, and one of an unpowered bay. -/
theorem test_sensing : ofModule 43 = true ∧ testLh.lhBit (F.lhBayStatePowered (43 / 20)) = true ∧ testLh.lhBit (F.lhBayStatePowered (63 / 20)) = false ∧ isUnit 16 = true ∧
    16 ∉ testLh.lh.failed ∧ testLh.lh.taiSet = false ∧ testLh.lhFld F.lhPtpState ≠ 1 ∧ (testLh.setLhFld F.lhPtpState 1).lhFld F.lhPtpState = 1 ∧
    (tget ({ testLh.lh with ms := [(0, List.replicate 1000 9)] } : Lh).ms 0 []).length = 1000 := by decide +kernel

/-- What a module in bay 2 reports. -/
def testStatus (alert : Word) : BayStatus := { boot := 8, neap := 0, fab := 0, alert := alert, last := 0, sessions := 0, time := 0, epoch := 0, power := 0, image := 0 }

theorem test_bays : testLh.watched 2 = true ∧ testLh.watched 3 = false ∧ (testLh.heardStatus 2 (testStatus 1)).alert ≠ 0 ∧ (testLh.heardStatus 2 (testStatus 0)).alert = 0 ∧ (testLh.lhBay 2).hbLost = false ∧
    ((testLh.setLhBay 2 { hbLost := true }).lhBay 2).hbLost = true ∧ testLh.faultNow 2 = false ∧ testLh.allowed 2 = true ∧ testLh.allowed 1 = false ∧
    testLh.lhBit (F.lhBayStatePresent 2) = true ∧ testLh.lhBit (F.lhBayStatePresent 3) = false ∧ testLh.mayClose 2 = true ∧ testLh.mayClose 3 = false ∧
    ((testLh.setLhBay 2 { steady := true, cycling := some 0 }).lhBay 2).cycling = some 0 := by decide +kernel

end Sys2Proof.Machine
end

section
/-! PROOFS. Register accesses: what a fold over the fields of a register does to each field, what the screen lets through, and what a read or a
write on a path leaves. -/

namespace Sys2Proof.Machine

/-! ## Fields of a word -/

theorem wfield_and (w v : Word) (hi lo : Nat) : wfield (w &&& v) hi lo = wfield w hi lo &&& wfield v hi lo := by
  apply Nat.eq_of_testBit_eq
  intro i
  rw [Nat.testBit_and]
  simp only [wfield_testBit, BitVec.getLsbD_and]
  cases decide (i < hi - lo + 1) <;> simp

theorem wfield_or (w v : Word) (hi lo : Nat) : wfield (w ||| v) hi lo = wfield w hi lo ||| wfield v hi lo := by
  apply Nat.eq_of_testBit_eq
  intro i
  rw [Nat.testBit_or]
  simp only [wfield_testBit, BitVec.getLsbD_or]
  cases decide (i < hi - lo + 1) <;> simp

@[simp] theorem wfield_mod_width (w : Word) (hi lo : Nat) : wfield w hi lo % 2 ^ (hi - lo + 1) = wfield w hi lo := Nat.mod_eq_of_lt (wfield_lt w hi lo)

/-- A number shifted to a field stands in that field, cut to its width. -/
theorem wfield_shiftLeft_self (n hi lo : Nat) (h : hi < 32) (hl : lo ≤ hi) : wfield (BitVec.ofNat 32 n <<< lo) hi lo = n % 2 ^ (hi - lo + 1) := by
  apply Nat.eq_of_testBit_eq
  intro i
  rw [wfield_testBit, Nat.testBit_mod_two_pow]
  by_cases hi2 : i < hi - lo + 1
  · have a : lo + i < 32 := by omega
    have b : i < 32 := by omega
    simp [hi2, a, b, BitVec.getLsbD_ofNat, -BitVec.getLsbD_eq_getElem]
  · simp [hi2]

/-- A number that fits a field, shifted to it, leaves every field that does not meet it zero. -/
theorem wfield_shiftLeft_apart (n hi lo hi' lo' : Nat) (hn : n < 2 ^ (hi - lo + 1)) (hl : lo ≤ hi) (hl' : lo' ≤ hi') (hd : hi < lo' ∨ hi' < lo) :
    wfield (BitVec.ofNat 32 n <<< lo) hi' lo' = 0 := by
  apply Nat.eq_of_testBit_eq
  intro i
  rw [wfield_testBit, Nat.zero_testBit]
  by_cases hi2 : i < hi' - lo' + 1
  · rcases hd with hd | hd
    · have hz : n.testBit (lo' + i - lo) = false :=
        Nat.testBit_lt_two_pow (Nat.lt_of_lt_of_le hn (Nat.pow_le_pow_right (by decide) (by omega)))
      simp [BitVec.getLsbD_ofNat, hz]
    · have hlow : lo' + i < lo := by omega
      simp [hlow]
  · simp [hi2]

/-! ## Fields of a register that lie apart -/

/-- A field of a register whose fields lie apart lies within the word, and divides the list of fields into those before it and those after it,
none of which meets it. -/
theorem RegDef.apart_split {r : RegDef} {f : FieldDef} (h : r.apart = true) (hf : f ∈ r.fields) : f.lo ≤ f.hi ∧ f.hi < 32 ∧
    ∃ pre post, r.fields = pre ++ f :: post ∧ ∀ g ∈ pre ++ post, g ∈ r.fields ∧ g.lo ≤ g.hi ∧ (g.hi < f.lo ∨ f.hi < g.lo) := by
  simp only [RegDef.apart, Bool.and_eq_true, List.all_eq_true, decide_eq_true_eq] at h
  obtain ⟨hin, hpair⟩ := h
  obtain ⟨pre, post, e⟩ := List.append_of_mem hf
  rw [e, List.pairwise_append, List.pairwise_cons] at hpair
  obtain ⟨-, ⟨hpost, -⟩, hpre⟩ := hpair
  refine ⟨(hin f hf).1, (hin f hf).2, pre, post, e, fun g hg => ?_⟩
  have hgr : g ∈ r.fields := by
    rw [e]
    exact List.mem_append.mpr ((List.mem_append.mp hg).imp_right (List.mem_cons_of_mem f))
  refine ⟨hgr, (hin g hgr).1, ?_⟩
  rcases List.mem_append.mp hg with hg | hg
  · exact hpre g hg f List.mem_cons_self
  · exact (hpost g hg).symm

theorem wfield_foldl_unchanged {hi lo : Nat} (step : Word → FieldDef → Word) (l : List FieldDef)
    (h : ∀ w, ∀ g ∈ l, wfield (step w g) hi lo = wfield w hi lo) (w : Word) : wfield (l.foldl step w) hi lo = wfield w hi lo := by
  induction l generalizing w with
  | nil => rfl
  | cons g l ih => rw [List.foldl_cons, ih (fun w k hk => h w k (List.mem_cons_of_mem _ hk)), h w g List.mem_cons_self]

/-- A fold over the fields of a register, each step of which leaves the fields that do not meet its own as they were, does to a field what that
field's own step does to a word in which the field still is what it was. -/
theorem RegDef.wfield_foldl {r : RegDef} {f : FieldDef} (h : r.apart = true) (hf : f ∈ r.fields) (step : Word → FieldDef → Word)
    (hstep : ∀ w, ∀ g ∈ r.fields, g.lo ≤ g.hi → (g.hi < f.lo ∨ f.hi < g.lo) → wfield (step w g) f.hi f.lo = wfield w f.hi f.lo) (old : Word) :
    ∃ w, wfield w f.hi f.lo = wfield old f.hi f.lo ∧ wfield (r.fields.foldl step old) f.hi f.lo = wfield (step w f) f.hi f.lo := by
  obtain ⟨-, -, pre, post, e, hother⟩ := RegDef.apart_split h hf
  have hsame : ∀ w, ∀ g ∈ pre ++ post, wfield (step w g) f.hi f.lo = wfield w f.hi f.lo := by
    intro w g hg
    obtain ⟨hgr, hgl, hd⟩ := hother g hg
    exact hstep w g hgr hgl hd
  refine ⟨pre.foldl step old, ?_, ?_⟩
  · exact wfield_foldl_unchanged step pre (fun w g hg => hsame w g (List.mem_append_left _ hg)) old
  · rw [e, List.foldl_append, List.foldl_cons]
    exact wfield_foldl_unchanged step post (fun w g hg => hsame w g (List.mem_append_right _ hg)) _

/-! ## Access codes (R9) -/

/-- What a write of `v` leaves in a field of a word `w` that stands there. -/
def FieldDef.taken (f : FieldDef) (v w : Word) : Nat :=
  match f.acc with
  | .rw => wfield v f.hi f.lo
  | .rwl => wfield v f.hi f.lo
  | .w1c => wfield (w &&& ~~~v) f.hi f.lo
  | .w1s => wfield (w ||| v) f.hi f.lo
  | _ => wfield w f.hi f.lo

/-- A word after a write of `v` to one field. -/
def FieldDef.put (f : FieldDef) (v w : Word) : Word :=
  match f.acc with
  | .ro => w
  | .wo => w
  | .rc => w
  | _ => wset w f.hi f.lo (f.taken v w)

/-- A word after a read, as far as one field goes. -/
def FieldDef.readOut (f : FieldDef) (w : Word) : Word := if f.acc = .rc then wset w f.hi f.lo 0 else w

theorem RegDef.written_eq_foldl_put (r : RegDef) (old v : Word) : r.written old v = r.fields.foldl (fun w f => f.put v w) old := by
  unfold RegDef.written
  congr 1
  funext w f
  unfold FieldDef.put FieldDef.taken
  cases f.acc <;> rfl

theorem RegDef.afterRead_eq_foldl_readOut (r : RegDef) (old : Word) : r.afterRead old = r.fields.foldl (fun w f => f.readOut w) old := rfl

theorem FieldDef.taken_congr {f : FieldDef} {v w w' : Word} (h : wfield w f.hi f.lo = wfield w' f.hi f.lo) : f.taken v w = f.taken v w' := by
  unfold FieldDef.taken
  cases f.acc <;> simp only [wfield_and, wfield_or, h]

theorem FieldDef.wfield_put_self {f : FieldDef} (v w : Word) (hl : f.lo ≤ f.hi) (h : f.hi < 32) : wfield (f.put v w) f.hi f.lo = f.taken v w := by
  unfold FieldDef.put FieldDef.taken
  cases f.acc <;> simp [wfield_wset, h, hl]

theorem FieldDef.wfield_put_apart {f g : FieldDef} (v w : Word) (hl : f.lo ≤ f.hi) (hg : g.lo ≤ g.hi) (hd : g.hi < f.lo ∨ f.hi < g.lo) :
    wfield (g.put v w) f.hi f.lo = wfield w f.hi f.lo := by
  unfold FieldDef.put
  cases g.acc <;> simp [wfield_wset_other, hd, hg, hl]

theorem FieldDef.wfield_readOut_self {f : FieldDef} (w : Word) (hl : f.lo ≤ f.hi) (h : f.hi < 32) :
    wfield (f.readOut w) f.hi f.lo = if f.acc = .rc then 0 else wfield w f.hi f.lo := by
  unfold FieldDef.readOut
  split <;> simp [wfield_wset, h, hl]

theorem FieldDef.wfield_readOut_apart {f g : FieldDef} (w : Word) (hl : f.lo ≤ f.hi) (hg : g.lo ≤ g.hi) (hd : g.hi < f.lo ∨ f.hi < g.lo) :
    wfield (g.readOut w) f.hi f.lo = wfield w f.hi f.lo := by
  unfold FieldDef.readOut
  split
  · exact wfield_wset_other w _ _ _ _ _ hd hg hl
  · rfl

theorem RegDef.wfield_written {r : RegDef} {f : FieldDef} (h : r.apart = true) (hf : f ∈ r.fields) (old v : Word) :
    wfield (r.written old v) f.hi f.lo = f.taken v old := by
  obtain ⟨hl, h32, -⟩ := RegDef.apart_split h hf
  obtain ⟨w, hw, e⟩ := RegDef.wfield_foldl h hf (fun w g => g.put v w) (fun w g _ hg hd => FieldDef.wfield_put_apart v w hl hg hd) old
  rw [RegDef.written_eq_foldl_put, e, FieldDef.wfield_put_self v w hl h32, FieldDef.taken_congr hw]

theorem RegDef.wfield_afterRead {r : RegDef} {f : FieldDef} (h : r.apart = true) (hf : f ∈ r.fields) (old : Word) :
    wfield (r.afterRead old) f.hi f.lo = if f.acc = .rc then 0 else wfield old f.hi f.lo := by
  obtain ⟨hl, h32, -⟩ := RegDef.apart_split h hf
  obtain ⟨w, hw, e⟩ := RegDef.wfield_foldl h hf (fun w g => g.readOut w) (fun w g _ hg hd => FieldDef.wfield_readOut_apart w hl hg hd) old
  rw [RegDef.afterRead_eq_foldl_readOut, e, FieldDef.wfield_readOut_self w hl h32, hw]

/-- Settles O6: each step of a write or read leaves the fields apart from its own as they were, so a field gets what its own code gives it. -/
theorem accessCodes : Obligations.AccessCodes := by
  intro r f old v h hf
  refine ⟨?_, RegDef.wfield_afterRead h hf old⟩
  rw [RegDef.wfield_written h hf]
  unfold FieldDef.taken
  cases f.acc <;> rfl

/-! ## Reset values -/

/-- Every reset value of a register fits its field. -/
def RegDef.resetFits (r : RegDef) : Bool := r.fields.all (fun f => decide (f.rst < 2 ^ (f.hi - f.lo + 1)))

/-- The word a register holds at reset has each field at its reset value. -/
theorem RegDef.wfield_reset {r : RegDef} {f : FieldDef} (h : r.apart = true) (hfit : r.resetFits = true) (hf : f ∈ r.fields) :
    wfield r.reset f.hi f.lo = f.rst % 2 ^ (f.hi - f.lo + 1) := by
  obtain ⟨hl, h32, -⟩ := RegDef.apart_split h hf
  simp only [RegDef.resetFits, List.all_eq_true, decide_eq_true_eq] at hfit
  obtain ⟨w, hw, e⟩ := RegDef.wfield_foldl h hf (fun w g => w ||| (BitVec.ofNat 32 g.rst <<< g.lo))
    (fun w g hg hgl hd => by rw [wfield_or, wfield_shiftLeft_apart _ _ _ _ _ (hfit g hg) hgl hl hd, Nat.or_zero]) 0
  have hzero : wfield (0 : Word) f.hi f.lo = 0 := by simp [wfield]
  rw [RegDef.reset, e, wfield_or, hw, hzero, Nat.zero_or, wfield_shiftLeft_self _ _ _ h32 hl]

/-- A register found in a table of blocks stands in one of them. -/
theorem exists_block_of_findReg {bs : List Block} {off : Nat} {r : RegDef} (h : findReg bs off = some r) : ∃ b ∈ bs, r ∈ b.regs := by
  obtain ⟨b, hb, hfind⟩ := List.exists_of_findSome?_eq_some h
  unfold Block.find at hfind
  split at hfind
  · exact ⟨b, hb, List.mem_of_find?_eq_some hfind⟩
  · cases hfind

theorem deviceBlocks_resetFits : deviceBlocks.all (fun b => b.regs.all RegDef.resetFits) = true := by decide +kernel

theorem lighthouseBlocks_resetFits : lighthouseBlocks.all (fun b => b.regs.all RegDef.resetFits) = true := by decide +kernel

theorem wfield_regReset {bs : List Block} (hbs : bs.all (fun b => b.regs.all RegDef.resetFits) = true) {off : Nat} {r : RegDef}
    (hr : findReg bs off = some r) (h : r.apart = true) {f : FieldDef} (hf : f ∈ r.fields) :
    wfield (regReset bs off) f.hi f.lo = f.rst % 2 ^ (f.hi + 1 - f.lo) := by
  obtain ⟨b, hb, hrb⟩ := exists_block_of_findReg hr
  have hfit : r.resetFits = true := List.all_eq_true.mp (List.all_eq_true.mp hbs b hb) r hrb
  have hl : f.lo ≤ f.hi := (RegDef.apart_split h hf).1
  rw [regReset, hr, Nat.sub_add_comm hl]
  exact RegDef.wfield_reset h hfit hf

/-- Settles O4: a register no command has written reads as its table gives it, and every reset value of the two tables fits its field. -/
theorem resetValues : Obligations.ResetValues := by
  refine ⟨fun off r hr h f hf => wfield_regReset deviceBlocks_resetFits hr h hf,
    fun off r hr h f hf => wfield_regReset lighthouseBlocks_resetFits hr h hf, rfl, rfl, ?_⟩
  decide +kernel

/-! ## What a path holds, and the record of an access -/

@[simp] theorem State.pathState_setPath_self (s : State) (p : Path) (x : PathState) : (s.setPath p x).pathState p = x := by
  simp [State.pathState, State.setPath]

theorem State.pathState_setPath (s : State) (p q : Path) (x : PathState) (h : q.code ≠ p.code) : (s.setPath p x).pathState q = s.pathState q :=
  tget_tset _ _ _ _ _ h.symm

@[simp] theorem pathState_noteAccess (d : List Word) (b : Bool) (s : State) (p : Path) : (noteAccess d b s).pathState p = s.pathState p := rfl

/-! ## The screen (R865) -/

section
variable {s : State} {p : Path} {off : Nat} {be : BitVec 4} {k : State → State}

theorem State.passes_iff : s.passes p off = true ↔ s.boot.powered = true ∧ implemented off = true ∧ inWindow p off = true ∧ s.answers off = true ∧
    s.mayWrite p off = true ∧ s.unlocked off = true := by
  simp only [State.passes, Bool.and_eq_true, and_assoc]

theorem State.reads_iff : s.reads p off = true ↔ s.boot.powered = true ∧ implemented off = true ∧ inWindow p off = true ∧ s.answers off = true ∧
    s.mayRead p off = true := by
  simp only [State.reads, Bool.and_eq_true, and_assoc]

theorem State.unlocked_eq {r : RegDef} (hr : findReg deviceBlocks off = some r) : s.unlocked off = !(s.boot.locked && r.fields.any (fun f => f.acc == .rwl)) := by
  simp only [State.unlocked, hr, Option.any_some]

theorem screen_of_unreached (h : implemented off = false ∨ inWindow p off = false) : screen p off be k s = s := by
  unfold screen
  rcases h with h | h <;> simp [h]

/-- The screen past its first condition: the module has power and the offset is an implemented one of the path's window. -/
theorem screen_of_reached (hp : s.boot.powered = true) (hi : implemented off = true) (hw : inWindow p off = true) : screen p off be k s =
    if s.answers off = false then emitM Ev.regPoweredOff (unitOf off) (instOf off) off 0 0 s
    else if s.mayWrite p off = false then emitM Ev.regPathDenied (unitOf off) (instOf off) off p.code 0 s
    else if be ≠ 0xF#4 then emitM Ev.regPartialWrite (unitOf off) (instOf off) off be.toNat 0 s
    else if (findReg deviceBlocks off).isNone = true then s
    else if s.unlocked off = false then emitM Ev.regLockedWrite (unitOf off) (instOf off) off 0 0 s
    else k s := by
  unfold screen
  cases hr : findReg deviceBlocks off with
  | none => simp [hp, hi, hw]
  | some r => simp [hp, hi, hw, State.unlocked_eq hr]

/-- A whole-word write that meets no condition reaches the register's own rule. -/
theorem screen_of_passes (h : s.passes p off = true) : screen p off 0xF#4 k s = k s := by
  obtain ⟨hp, hi, hw, ha, hm, hu⟩ := State.passes_iff.mp h
  have hreg : (findReg deviceBlocks off).isNone = false := by
    unfold State.unlocked at hu
    cases hf : findReg deviceBlocks off with
    | none => simp [hf] at hu
    | some r => rfl
  simp [screen_of_reached hp hi hw, ha, hm, hu, hreg]

end

/-! ## Commands that write a register -/

section
variable {s : State} {p : Path} {off o : Nat} {be : BitVec 4} {v : Word} {k : RegKind} {c : Instr} {r : RegDef}

theorem exec_write (hc : (k, c) ∈ [(RegKind.one, Instr.registerWrite p off be v), (RegKind.lo, Instr.loWrite p off be v), (RegKind.hi, Instr.hiWrite p off be v)])
    (s : State) : exec c s = .next (writeKind p off k be v s) := by
  simp only [List.mem_cons, Prod.mk.injEq, List.not_mem_nil, or_false] at hc
  rcases hc with ⟨rfl, rfl⟩ | ⟨rfl, rfl⟩ | ⟨rfl, rfl⟩
  · rfl
  · rfl
  · rfl

/-- A path's offset is taken as it is unless a register of another kind stands there. -/
theorem regOf_of_kind (ho : pathOffset p off = some o) (hk : ∀ r, findReg deviceBlocks o = some r → r.kind = k) : regOf p off k = some o := by
  cases hr : findReg deviceBlocks o with
  | none => simp [regOf, ho, Option.filter, hr]
  | some r => simp [regOf, ho, Option.filter, hr, hk r hr]

theorem kind_of_findReg (hr : findReg deviceBlocks o = some r) (hk : r.kind = k) : ∀ x, findReg deviceBlocks o = some x → x.kind = k := by
  intro x hx
  rw [hr, Option.some.injEq] at hx
  rw [← hx, hk]

theorem writeKind_of_kind (ho : pathOffset p off = some o) (hk : ∀ r, findReg deviceBlocks o = some r → r.kind = k) :
    writeKind p off k be v s = writeWord p o be v s := by
  rw [writeKind, regOf_of_kind ho hk]

/-- A write of an offset its path does not reach, or of an unimplemented one, has no effect. -/
theorem writeKind_of_unreached (h : pathOffset p off = none ∨ (pathOffset p off = some o ∧ (implemented o = false ∨ inWindow p o = false))) :
    writeKind p off k be v s = s := by
  unfold writeKind
  split
  · next x hx =>
    have hpx : pathOffset p off = some x := (Option.filter_eq_some_iff.mp hx).1
    rcases h with hnone | ⟨ho, hout⟩
    · rw [hnone] at hpx
      cases hpx
    · rw [ho, Option.some.injEq] at hpx
      rw [← hpx]
      exact screen_of_unreached hout
  · rfl

/-- A whole-word write that meets no condition is a write of the register that stands there. -/
theorem writeKind_of_passes (ho : pathOffset p off = some o) (hr : findReg deviceBlocks o = some r) (h : s.passes p o = true) :
    writeKind p off r.kind 0xF#4 v s = writeReg p o r v s := by
  rw [writeKind_of_kind ho (kind_of_findReg hr rfl), writeWord, screen_of_passes h, hr]

theorem writeReg_of_lo (hk : r.kind = .lo) :
    writeReg p off r v s = s.setPath p { s.pathState p with staged := tset (s.pathState p).staged off v } := by
  rw [writeReg, hk]

theorem writeReg_of_hi (hk : r.kind = .hi) : writeReg p off r v s =
    commitPair (off - 4) (((tfind (s.pathState p).staged (off - 4)).getD (s.reg (off - 4))).toNat + 2 ^ 32 * v.toNat) (dropStaged p (off - 4) s) := by
  rw [writeReg, hk]

theorem writeReg_of_one (hk : r.kind = .one) : writeReg p off r v s = effWrite p off r v s := by
  rw [writeReg, hk]

/-! ## Registers without a rule of their own -/

theorem plainAt_iff : plainAt off = true ↔ isSelector off = false ∧ markAt off = none ∧ markAt (off - 4) = none ∧ off ≠ R.hubBootCtrl ∧ off ≠ R.errSvcCtrl ∧
    unitOf off ∈ [0, 6, 7, 8, 0xB, 0xC] := by
  simp only [plainAt, Bool.and_eq_true, Bool.not_eq_true', Option.isNone_iff_eq_none, bne_iff_ne, List.contains_eq_mem, decide_eq_true_eq, and_assoc]

theorem effWrite_of_plain (h : plainAt off = true) : effWrite p off r v s = plainWrite off r v s := by
  obtain ⟨hsel, hmark, hmark4, hboot, hsvc, hunit⟩ := plainAt_iff.mp h
  have hrule : writeUnit p off r v s = plainWrite off r v s := by
    simp only [List.mem_cons, List.not_mem_nil, or_false] at hunit
    unfold writeUnit
    rcases hunit with hu | hu | hu | hu | hu | hu <;> simp only [hu, hboot, hsvc] <;> rfl
  simp only [effWrite, hsel, hmark, hmark4, hrule, Bool.false_eq_true, if_false]

theorem commitPair_of_plain {a b : RegDef} {lo w : Nat} (ha : findReg deviceBlocks lo = some a) (hb : findReg deviceBlocks (lo + 4) = some b)
    (h : plainAt lo = true) : commitPair lo w s = plainWrite (lo + 4) b (half w true) (plainWrite lo a (half w false) s) := by
  obtain ⟨-, -, -, -, -, hunit⟩ := plainAt_iff.mp h
  have hu : unitOf lo ≠ 1 ∧ unitOf lo ≠ 3 ∧ unitOf lo ≠ 5 := by
    simp only [List.mem_cons, List.not_mem_nil, or_false] at hunit
    omega
  have hevq : lo ≠ R.evqBase := fun e => hu.1 (by rw [e]; decide)
  simp [commitPair, ha, hb, hu, hevq]

@[simp] theorem reg_plainWrite_self : (plainWrite off r v s).reg off = r.written (s.reg off) v := State.reg_setReg_self s off _

theorem reg_plainWrite (h : o ≠ off) : (plainWrite off r v s).reg o = s.reg o := State.reg_setReg s off o _ h.symm

/-! ## Staging and commit (R13, R14) -/

/-- A commit of a 64-bit value without a rule of its own, seen in the registers. -/
theorem reg_commitPair_of_plain {a b : RegDef} {lo w : Nat} (ha : findReg deviceBlocks lo = some a) (hb : findReg deviceBlocks (lo + 4) = some b)
    (h : plainAt lo = true) : (commitPair lo w s).reg lo = a.written (s.reg lo) (half w false) ∧
      (commitPair lo w s).reg (lo + 4) = b.written (s.reg (lo + 4)) (half w true) ∧
      ∀ o, o ≠ lo → o ≠ lo + 4 → (commitPair lo w s).reg o = s.reg o := by
  rw [commitPair_of_plain ha hb h]
  refine ⟨?_, ?_, fun o ho ho4 => ?_⟩
  · rw [reg_plainWrite (by omega), reg_plainWrite_self]
  · rw [reg_plainWrite_self, reg_plainWrite (by omega)]
  · rw [reg_plainWrite ho4, reg_plainWrite ho]

/-! ## Commands that read a register -/

theorem readWord_of_reads (hr : findReg deviceBlocks off = some r) (h : s.reads p off = true) : readWord p off s = readReg p off r s := by
  obtain ⟨hp, hi, hw, ha, hm⟩ := State.reads_iff.mp h
  simp [readWord, hp, hi, hw, ha, hr, hm]

theorem readKind_of_reads (ho : pathOffset p off = some o) (hr : findReg deviceBlocks o = some r) (h : s.reads p o = true) :
    readKind p off r.kind s = noteAccess [(readReg p o r s).1] false (readReg p o r s).2 := by
  simp only [readKind, regOf_of_kind ho (kind_of_findReg hr rfl), readWord_of_reads hr h]

theorem readReg_of_lo (hk : r.kind = .lo) : readReg p off r s =
    (s.live p off, s.setPath p { s.pathState p with latch := tset (s.pathState p).latch off (s.live p (off + 4)) }) := by
  rw [readReg, hk]

theorem readReg_of_latched {w : Word} (hk : r.kind = .hi) (hw : tfind (s.pathState p).latch (off - 4) = some w) :
    readReg p off r s = (w, popLatch p (off - 4) s) := by
  simp only [readReg, hk, hw]

theorem readReg_of_unlatched (hk : r.kind = .hi) (hw : tfind (s.pathState p).latch (off - 4) = none) : readReg p off r s = (s.live p off, s) := by
  simp only [readReg, hk, hw]

theorem readReg_of_one (hk : r.kind = .one) (ho : off ≠ R.secRng) : readReg p off r s =
    (s.live p off, if r.fields.any (fun f => f.acc == .rc) then s.setReg off (r.afterRead (s.reg off)) else s) := by
  rw [readReg, hk]
  exact if_neg ho

theorem readReg_secRng (hk : r.kind = .one) : readReg p R.secRng r s =
    (BitVec.ofNat 32 s.freeNow, { s.freeNext with sec := { s.sec with drbg := s.sec.drbg + 1 } }) := by
  rw [readReg, hk]
  exact if_pos rfl

theorem findReg_secRng : ∃ r, findReg deviceBlocks R.secRng = some r ∧ r.kind = .one := ⟨_, rfl, rfl⟩

/-! ## Memory requests to BAR0 of PF0 (R822) -/

theorem mem_aer_noteAer (fn : Nat) (s : State) : fn ∈ (noteAer fn s).pcie.aer := by
  unfold noteAer
  split
  · next h => exact List.contains_iff_mem.mp h
  · simp

theorem noteAer_changes_pcie (fn : Nat) (s : State) : noteAer fn s = { s with pcie := (noteAer fn s).pcie } := by
  unfold noteAer
  split <;> rfl

theorem barRequest_of_tooWide {words : Nat} {data : Option (List Word)} (h : tooWide (off / 4 * 4) words = true) :
    barRequest .pf0Bar0 off words data s = noteAccess [] true (noteAer 0 s) := by
  simp [barRequest, h, barFunction]

theorem tooWide_iff {words : Nat} : tooWide off words = true ↔ 16 < words ∨ 64 < off % 64 + 4 * words := by
  simp only [tooWide, Bool.or_eq_true, decide_eq_true_eq]

/-- An aligned word crosses no 64-byte boundary. -/
theorem tooWide_word (h : off % 4 = 0) : tooWide off 1 = false := by
  rw [Bool.eq_false_iff, ne_eq, tooWide_iff]
  omega

theorem barRequest_readWord (h : off % 4 = 0) :
    barRequest .pf0Bar0 off 1 none s = noteAccess [(readWord .pf0 off s).1] false (readWord .pf0 off s).2 := by
  have hoff : off / 4 * 4 = off := Nat.div_mul_cancel (Nat.dvd_of_mod_eq_zero h)
  simp [barRequest, hoff, tooWide_word h, readWords, barRead]

theorem barRequest_writeWord {w : Word} (h : off % 4 = 0) :
    barRequest .pf0Bar0 off 1 (some [w]) s = noteAccess [] false (writeWord .pf0 off 0xF#4 w s) := by
  have hoff : off / 4 * 4 = off := Nat.div_mul_cancel (Nat.dvd_of_mod_eq_zero h)
  simp [barRequest, hoff, tooWide_word h, writeWords, barWrite]

/-- A read of a register that is no half and not SEC_RNG changes that register alone, and it only if it has an RC field. -/
theorem rcRead_effect (ho : pathOffset p off = some o) (hr : findReg deviceBlocks o = some r) (hk : r.kind = .one) (h : s.reads p o = true)
    (hrng : o ≠ R.secRng) : ∃ t, exec (.rcRead p off) s = .next t ∧ t.host.readData = [s.live p o] ∧
      (r.fields.any (fun f => f.acc == .rc) = true → t.reg o = r.afterRead (s.reg o)) ∧
      (r.fields.any (fun f => f.acc == .rc) = false → t.reg o = s.reg o) ∧ (∀ o', o' ≠ o → t.reg o' = s.reg o') ∧ t.mem = s.mem := by
  have hexec : exec (.rcRead p off) s = .next (readKind p off r.kind s) := by rw [hk]; rfl
  rw [hexec, readKind_of_reads ho hr h, readReg_of_one hk hrng]
  refine ⟨_, rfl, rfl, ?_⟩
  cases hrc : r.fields.any (fun f => f.acc == .rc) with
  | true => exact ⟨fun _ => State.reg_setReg_self s o _, nofun, fun o' ho' => State.reg_setReg s o o' _ ho'.symm, rfl⟩
  | false => exact ⟨nofun, fun _ => rfl, fun _ _ => rfl, rfl⟩

theorem secRngRead_effect (h : s.reads p R.secRng = true) : ∃ t, exec (.secRngRead p) s = .next t ∧ t.host.readData = [BitVec.ofNat 32 s.freeNow] ∧
    t.free = s.free + 1 ∧ t.sec.drbg = s.sec.drbg + 1 ∧ t.regs = s.regs ∧ t.mem = s.mem := by
  obtain ⟨r, hr, hk⟩ := findReg_secRng
  have hexec : exec (.secRngRead p) s = .next (noteAccess [(readWord p R.secRng s).1] false (readWord p R.secRng s).2) := rfl
  rw [hexec, readWord_of_reads hr h, readReg_secRng hk]
  exact ⟨_, rfl, rfl, rfl, rfl, rfl, rfl⟩

theorem exec_barRequest (bar : Bar) (off words : Nat) (data : Option (List Word)) (s : State) :
    exec (.barRequest bar off words data) s = .next (barRequest bar off words data s) := rfl

end

/-! ## The statements about register accesses -/

/-- Settles O5: the conditions are the branches of the screen, in the order of the screen. -/
theorem registerWriteScreen : Obligations.RegisterWriteScreen := by
  intro p off o be v s k c hp hc
  rw [exec_write hc]
  refine ⟨fun h => by rw [writeKind_of_unreached h], fun ho hi hw => ⟨fun ha hk => ?_, fun ha hnone => ?_, fun r hr hk ha => ?_⟩⟩
  · rw [writeKind_of_kind ho hk, writeWord, screen_of_reached hp hi hw, if_pos ha]
  · rw [writeKind_of_kind ho (by simp [hnone]), writeWord, screen_of_reached hp hi hw]
    refine ⟨fun hm => ?_, fun hm hbe => ?_, fun hm hbe => ?_⟩
    · simp [ha, hm]
    · simp [ha, hm, hbe]
    · simp [ha, hm, hbe, hnone]
  · rw [writeKind_of_kind ho (kind_of_findReg hr hk), writeWord]
    refine ⟨fun hm => ?_, fun hm hbe => ?_, fun hm hbe hu => ?_, fun hpass hbe => ?_⟩
    · simp [screen_of_reached hp hi hw, ha, hm]
    · simp [screen_of_reached hp hi hw, ha, hm, hbe]
    · simp [screen_of_reached hp hi hw, ha, hm, hbe, hr, hu]
    · rw [hbe, screen_of_passes hpass, hr]

/-- Settles O7: such a write comes down to one new value of the register file. -/
theorem plainWriteFrame : Obligations.PlainWriteFrame := by
  intro p off o v s r ho hr hk hpass hplain
  have hexec : exec (.registerWrite p off 0xF#4 v) s = .next (plainWrite o r v s) := by
    rw [exec_write List.mem_cons_self, ← hk, writeKind_of_passes ho hr hpass, writeReg_of_one hk, effWrite_of_plain hplain]
  exact ⟨_, hexec, reg_plainWrite_self, fun o' h => reg_plainWrite h, rfl, fun _ => rfl, rfl⟩

/-- Settles O8: what LO latches on a path stays there until HI is read on it. -/
theorem splitReads : Obligations.SplitReads := by
  refine ⟨fun p off o s r ho hr hk h => ?_, fun p off o s r ho hr hk h => ?_⟩
  · have hexec : exec (.loRead p off) s = .next (readKind p off r.kind s) := by rw [hk]; rfl
    rw [hexec, readKind_of_reads ho hr h, readReg_of_lo hk]
    exact ⟨_, rfl, rfl, by simp, fun q hq => State.pathState_setPath s p q _ hq, rfl, rfl⟩
  · have hexec : exec (.hiRead p off) s = .next (readKind p off r.kind s) := by rw [hk]; rfl
    rw [hexec, readKind_of_reads ho hr h]
    refine ⟨fun w hw => ?_, fun hw => ?_⟩
    · rw [readReg_of_latched hk hw]
      exact ⟨_, rfl, rfl, by simp [popLatch], rfl, rfl⟩
    · rw [readReg_of_unlatched hk hw]
      exact ⟨_, rfl, rfl, rfl, rfl, rfl⟩

/-- Settles O9: LO is put aside on its path, and HI takes it from there or from the register. -/
theorem splitWrites : Obligations.SplitWrites := by
  refine ⟨fun p off o v s r ho hr hpass => ⟨fun hk => ?_, fun hk => ?_⟩, fun lo v s a b ha hb h => reg_commitPair_of_plain ha hb h⟩
  · refine ⟨s.setPath p { s.pathState p with staged := tset (s.pathState p).staged o v }, ?_, by simp, rfl, fun q hq => State.pathState_setPath s p q _ hq⟩
    rw [exec_write (List.mem_cons_of_mem _ List.mem_cons_self), ← hk, writeKind_of_passes ho hr hpass, writeReg_of_lo hk]
  · refine ⟨dropStaged p (o - 4) s, ?_, rfl, by simp [dropStaged], fun q hq => State.pathState_setPath s p q _ hq⟩
    rw [exec_write (List.mem_cons_of_mem _ (List.mem_cons_of_mem _ List.mem_cons_self)), ← hk, writeKind_of_passes ho hr hpass, writeReg_of_hi hk]

/-- Settles O10: a read returns the live value and clears what is RC, and a request of BAR0 is refused whole or is one access of a word. -/
theorem readsAndRequests : Obligations.ReadsAndRequests := by
  refine ⟨fun p off o s r ho hr hk h => ⟨rcRead_effect ho hr hk h, secRngRead_effect⟩, fun off words data w s => ⟨fun hwide => ?_, fun h => ?_, fun h => ?_⟩⟩
  · rw [exec_barRequest, barRequest_of_tooWide (tooWide_iff.mpr hwide), noteAer_changes_pcie]
    exact ⟨_, rfl, rfl, rfl, rfl, mem_aer_noteAer 0 s⟩
  · rw [exec_barRequest, barRequest_readWord h]
    exact ⟨_, rfl, rfl, rfl, rfl⟩
  · rw [exec_barRequest, barRequest_writeWord h]
    exact ⟨_, rfl, rfl, rfl⟩

end Sys2Proof.Machine
end
